-- ==== Sys2Proof/Word.lean ====
section
/-! DEFINITION. The words of the block: bytes, 32-bit words and 64-bit registers. -/

namespace Sys2Proof

/-- One byte of the shared cache, of a block or of a record. -/
abbrev Byte := BitVec 8

/-- A 32-bit word of a bay, a chain, a counter or a frame. -/
abbrev Word := BitVec 32

/-- A 64-bit register of the window (R530). -/
abbrev Reg := BitVec 64

end Sys2Proof
end

