-- ==== Sys2Proof/Syntax.lean ====
section
/-! DEFINITION. The commands of the block: one constructor for each row of spec/opcode_table.json, in its order, with the
row's operands. Each docstring gives the rule and the table's summary of the row. A `beat` operand is the control-domain
beat at which the step happens (log 3). -/

namespace Sys2Proof

/-- What BUNDLE_SPLIT reads: the context whose next bundle is split, and what ECC found of a bundle of the library (log 99). -/
structure BundleRead where
  c : Fin 4
  errors : Fin 4
  deriving DecidableEq, Repr

/-- What DESCRIPTOR_SNAPSHOT reads: the stream, and what ECC found of the descriptor with the handle. -/
structure SnapshotRead where
  execute : Bool
  errors : Fin 3
  handle : BitVec 12
  deriving DecidableEq, Repr

/-- A transfer between cores: the core that sends, and how often the transfer failed its parity. -/
structure LinkSend where
  core : Fin 2048
  errors : Fin 3
  deriving DecidableEq, Repr

/-- What the ME asks of a bank: to take it, or to release it. -/
structure MeAsk where
  requests : Bool
  releases : Bool
  deriving DecidableEq, Repr

/-- The commands: the steps of 95_what_each_step_holds.md. `execute` names the stream: false access, true execute. -/
inductive Instr where
  /-- R10: A host or management write to a register field that has no behaviour row of its own stores, ignores or clears bits according to its
  access code. -/
  | registerWrite (port : Bool) (trusted : Bool) (offset : Nat) (wide : Bool) (value : BitVec 64)
  /-- R532: A misaligned, wrongly sized or unmapped window access reads zero or is ignored, and is counted in BLOCK_INFO.BAD_ACCESS. -/
  | badAccess (port : Bool) (write : Bool) (offset : Nat) (size : Nat)
  /-- R40: A write to CTX_DOORBELL.BUNDLES queues a command list with the latched base and window, or is dropped and sets DROPPED. -/
  | doorbell (c : Fin 4) (bundles : BitVec 24)
  /-- R42: The issue unit fetches 512 B of bundles through the lowest owned span's pier after checking the fetch window. -/
  | commandListFetch (c : Fin 4)
  /-- R139: The issue unit splits one bundle into the access and execute stream queues and checks its legality. -/
  | bundleSplit (read : BundleRead)
  /-- R146: A stream issues its part of the next bundle once not-before, predicate, run-ahead and wait conditions allow, halting it if the
  bundle failed a check. -/
  | bundleIssue (c : Fin 4) (execute : Bool) (errors : Fin 3)
  /-- R127: Local time reaches the stroke start plus NOT_BEFORE and releases the held bundle. -/
  | notBeforeRelease (c : Fin 4) (execute : Bool) (beat : Nat)
  /-- R130: Counter CDST is loaded with IMM. -/
  | cntLoad (c : Fin 4) (d : Fin 8) (imm : BitVec 32)
  /-- R130: The signed IMM is added to counter CDST modulo 2^32. -/
  | cntAdd (c : Fin 4) (d : Fin 8) (imm : BitVec 32)
  /-- R130: Counter CDST is loaded with counter CSRC. -/
  | cntCopy (c : Fin 4) (d src : Fin 8)
  /-- R130: Counter CDST is loaded with the low 32 bits of the current stroke number. -/
  | cntStroke (c : Fin 4) (d : Fin 8)
  /-- R131: Predicate PDST is set to whether counter CA meets COND against CB or IMM. -/
  | cmp (c : Fin 4) (p : Fin 4) (a : Fin 8) (useB : Bool) (b : Fin 8) (cond : Fin 6) (imm : BitVec 32)
  /-- R165: A CALL checks depth, presence and signature, saves the frame-local state and fetches the routine's bundles from the library. -/
  | call (c : Fin 4) (errors : Fin 4)
  /-- R524: After the routine's last bundle is split, fetch continues after the CALL and the caller's frame-local counters and predicates are
  restored. -/
  | routineReturn (c : Fin 4)
  /-- R153: A SET waits for every earlier macro of its streams to complete. -/
  | syncSet (c : Fin 4) (access execute : Bool) (flag : Fin 64) (epoch : BitVec 16)
  /-- R154: Once its conditions are met, a SET writes EPOCH to the flag if EPOCH has reached the flag's value, and otherwise counts BACKSET. -/
  | setFlagWrite (c : Fin 4)
  /-- R153: A WAIT holds its bundle's other parts until the flag has reached EPOCH. -/
  | syncWait (c : Fin 4) (execute : Bool)
  /-- R155: A WAIT observes a flag that has reached its epoch, and its bundle's parts issue. -/
  | waitSatisfied (c : Fin 4) (execute : Bool)
  /-- R156: A FENCE holds its bundle until every earlier macro of the named streams has completed. -/
  | syncFence (c : Fin 4) (execute : Bool)
  /-- R156: The earlier macros complete and the fenced bundle proceeds. -/
  | fenceRelease (c : Fin 4) (execute : Bool)
  /-- R157: A PHASE delivers its phase code to the cox, and the span governors take up that phase's part of their envelope. -/
  | phase (c : Fin 4) (p : Fin 5)
  /-- R159: A blocked stream's timeout expires and the context halts with 0x0501 WAIT_TIMEOUT. -/
  | waitTimeout (c : Fin 4) (execute : Bool) (beat : Nat)
  /-- R160: Both streams stay blocked on each other for 65,536 beats and the context halts with 0x0502 CROSS_WAIT. -/
  | crossWait (c : Fin 4) (beat : Nat)
  /-- R164: An LD moves a tensor's tiles into a data queue. -/
  | ldQueue (c : Fin 4)
  /-- R177: An LD converts a tensor into the words of a LINEAR bay in every crew or per slice, and marks the lines pending. -/
  | ldBay (c : Fin 4)
  /-- R136: An LD replaces COUNT descriptors from AUX whole at its commit. -/
  | ldDescriptor (c : Fin 4)
  /-- R222: An LDA deals each tile only once its arrival-table entry has reached SEQ. -/
  | lda (c : Fin 4)
  /-- R164: An ST stores tiles from a data queue to the shared cache. -/
  | stQueue (c : Fin 4)
  /-- R178: An ST converts LINEAR bay words into per-crew slices of the destination. -/
  | stBay (c : Fin 4)
  /-- R225: An element-wise chain of up to eight stages runs over DST with a single output rounding. -/
  | vew (c : Fin 4)
  /-- R548: SRC0 is converted once into DST's format. -/
  | vcvt (c : Fin 4)
  /-- R282: The row statistic record of TCLASS is written for every row. -/
  | vstat (c : Fin 4)
  /-- R277: The truss-order sum over the reduced axes is computed. -/
  | vredSum (c : Fin 4)
  /-- R277: The truss-order sum of squares is computed. -/
  | vredSumsq (c : Fin 4)
  /-- R277: The truss-order dot product of SRC0 and SRC1 is computed. -/
  | vredDot (c : Fin 4)
  /-- R277: The truss-order product is computed. -/
  | vredProd (c : Fin 4)
  /-- R273: The maximum with its lowest index is computed. -/
  | vredMax (c : Fin 4)
  /-- R273: The minimum with its lowest index is computed. -/
  | vredMin (c : Fin 4)
  /-- R271: The non-zero elements are counted. -/
  | vredCount (c : Fin 4)
  /-- R289: A prefix sum is taken along D1. -/
  | vscanSum (c : Fin 4)
  /-- R289: A prefix maximum is taken along D1. -/
  | vscanMax (c : Fin 4)
  /-- R289: A prefix minimum is taken along D1. -/
  | vscanMin (c : Fin 4)
  /-- R289: A prefix product is taken along D1. -/
  | vscanProd (c : Fin 4)
  /-- R291: The linear recurrence h_i = a_i h_(i-1) + b_i is computed along D1. -/
  | vscanLinrec (c : Fin 4)
  /-- R297: Each row of up to 4,096 keys is sorted in the total order. -/
  | vsort (c : Fin 4)
  /-- R311: A forward softmax writes probabilities or log-probabilities, and optionally the log-sum-exp. -/
  | vsmxFwd (c : Fin 4)
  /-- R322: Split-key partial triples are combined in truss order and normalised. -/
  | vsmxCombine (c : Fin 4)
  /-- R324: The softmax backward computes ds = p (dp - d) scale. -/
  | vsmxBwd (c : Fin 4)
  /-- R364: SRC0 is copied to DST with its dimensions permuted. -/
  | vperm (c : Fin 4)
  /-- R368: Table rows named by an index tensor are gathered. -/
  | vgathGather (c : Fin 4)
  /-- R372: Gathered rows are summed in truss order, weighted by SRC2. -/
  | vgathCombine (c : Fin 4)
  /-- R370: Rows are scattered to unique destination rows, with optional rotary and scale. -/
  | vscatStore (c : Fin 4)
  /-- R371: Rows are added into destination rows with one truss sum per element. -/
  | vscatAdd (c : Fin 4)
  /-- R378: The exact top-k indices and keys are returned per row. -/
  | vtopkTopk (c : Fin 4)
  /-- R379: Expert gating selects K experts, computes their weights and assigns capacity slots. -/
  | vtopkGate (c : Fin 4)
  /-- R382: One index is sampled per row from the top-K candidates with the counter generator. -/
  | vsamp (c : Fin 4)
  /-- R186: Short operation d = a on bays. -/
  | vshortCopy (crew : Fin 256)
  /-- R186: Short operation d = a + b. -/
  | vshortAdd (crew : Fin 256)
  /-- R186: Short operation d = a - b. -/
  | vshortSub (crew : Fin 256)
  /-- R186: Short operation d = a × b. -/
  | vshortMul (crew : Fin 256)
  /-- R186: Short operation d = a × b + c with one rounding. -/
  | vshortFma (crew : Fin 256)
  /-- R186: Short operation d = a / b, correctly rounded. -/
  | vshortDiv (crew : Fin 256)
  /-- R183: Short operation d = min(a, b). -/
  | vshortMin (crew : Fin 256)
  /-- R183: Short operation d = max(a, b). -/
  | vshortMax (crew : Fin 256)
  /-- R183: Short operation that clears the sign bit. -/
  | vshortAbs (crew : Fin 256)
  /-- R183: Short operation that inverts the sign bit. -/
  | vshortNeg (crew : Fin 256)
  /-- R183: Short operation d = min(max(a, b), c). -/
  | vshortClamp (crew : Fin 256)
  /-- R182: Short comparison that writes an all-ones or all-zeros mask word. -/
  | vshortCmpm (crew : Fin 256)
  /-- R182: Short select of a or b by word c. -/
  | vshortSel (crew : Fin 256)
  /-- R256: Short special-function evaluation d = FN(a). -/
  | vshortSfn (crew : Fin 256)
  /-- R182: Short INT32 add modulo 2^32. -/
  | vshortIadd (crew : Fin 256)
  /-- R182: Short INT32 subtract modulo 2^32. -/
  | vshortIsub (crew : Fin 256)
  /-- R182: Short bitwise AND. -/
  | vshortAnd (crew : Fin 256)
  /-- R182: Short bitwise OR. -/
  | vshortOr (crew : Fin 256)
  /-- R182: Short bitwise XOR. -/
  | vshortXor (crew : Fin 256)
  /-- R182: Short shift left by b[4:0]. -/
  | vshortShl (crew : Fin 256)
  /-- R182: Short logical shift right. -/
  | vshortShrl (crew : Fin 256)
  /-- R182: Short arithmetic shift right. -/
  | vshortShra (crew : Fin 256)
  /-- R182: Short conversion of INT32 to binary32. -/
  | vshortI2f (crew : Fin 256)
  /-- R182: Short conversion of binary32 to INT32 with saturation. -/
  | vshortF2i (crew : Fin 256)
  /-- R183: Short truss-order sum into word 0 of the destination. -/
  | vshortRsum (crew : Fin 256)
  /-- R183: Short maximum into word 0 of the destination. -/
  | vshortRmax (crew : Fin 256)
  /-- R185: A crew starts a VSHORT at the first beat its spacing and occupancy allow, and reads its source lines. -/
  | vshortStart (crew : Fin 256) (beat : Nat)
  /-- R186: A VSHORT destination line lands and takes its new ready stamp. -/
  | vshortLineLand (crew : Fin 256) (beat : Nat)
  /-- R339: Rig 0 computes A × B and converts it with the output scale and bias. -/
  | mmulPlain (c : Fin 4)
  /-- R339: Rig 1 computes A × B, adds the residual and converts once. -/
  | mmulResid (c : Fin 4)
  /-- R348: Rig 2 runs a chain epilogue on the accumulator. -/
  | mmulChain (c : Fin 4)
  /-- R349: Rig 3 runs a chain with a residual, a hold-point norm and a tap. -/
  | mmulNormNext (c : Fin 4)
  /-- R348: Rig 4 runs a chain on two accumulators, A × B and A × AUX0. -/
  | mmulGated (c : Fin 4)
  /-- R350: Rig 5 chains the gated product through a bay into the down product and adds the residual in place. -/
  | mmulGatedDown (c : Fin 4)
  /-- R352: Rig 6 runs attention with online softmax on live accumulators. -/
  | mmulAttn (c : Fin 4)
  /-- R354: Rig 7 runs attention with K and V gathered through page tables. -/
  | mmulAttnPaged (c : Fin 4)
  /-- R355: Rig 8 expands quantised weights into the operand feed for the product. -/
  | mmulDeq (c : Fin 4)
  /-- R356: Rig 9 starts each M-tile group when its arrival flag has reached SEQ. -/
  | mmulArrive (c : Fin 4)
  /-- R357: Rig 10 writes accumulator rows, with rotary and quantisation, into a paged cache. -/
  | mmulKvAppend (c : Fin 4)
  /-- R359: Rig 11 reduces vocabulary scores to a log-sum-exp, top-k candidates and a sample. -/
  | mmulLogits (c : Fin 4)
  /-- R360: Rig 12 computes the normalisation backward pass on dy. -/
  | mmulNormBwd (c : Fin 4)
  /-- R362: Rig 13 applies the softmax backward to dO × Vᵀ. -/
  | mmulSoftmaxBwd (c : Fin 4)
  /-- R96: The walker snapshots and checks every named descriptor and its companions. -/
  | descriptorSnapshot (c : Fin 4) (read : SnapshotRead)
  /-- R194: The walker chooses a tile shape that fits, or halts with 0x0301 CACHE_OVERFLOW. -/
  | walkerPlan (c : Fin 4) (execute : Bool)
  /-- R203: The walker deals up to two tiles per span beat to eligible cores. -/
  | tileDeal (span : Fin 16)
  /-- R205: A core begins the pier reads of a dealt tile. -/
  | tileInputRead (core : Fin 2048)
  /-- R45: Read data returns tagged from the shared cache, and a poisoned response fails the tile. -/
  | pierReadResponse (span : Fin 16) (tag : Fin 64) (poison : Bool)
  /-- R47: A read not answered within 65,536 beats fails its tile, or retries a fetch, and halts on a second failure. -/
  | pierReadTimeout (span : Fin 16) (tag : Fin 64) (beat : Nat)
  /-- R48: A write not accepted or credited within 65,536 beats is retried once, and a second timeout halts or drops it. -/
  | pierWriteTimeout (span : Fin 16) (index : Nat) (beat : Nat)
  /-- R205: A core starts a tile once its inputs, halos and carries are staged and its lanes are free. -/
  | tileExecute (core : Fin 2048) (check : BitVec 4) (lane : BitVec 6)
  /-- R287: A row statistic closes, and its parked tiles resume in ascending tile order. -/
  | rowStatClose (c : Fin 4) (row : Nat)
  /-- R210: A tile commits when its receiver accepts its last staged output, releasing its held inputs and credits. -/
  | tileCommit (core : Fin 2048)
  /-- R208: A steal is granted one beat later within a crew, or two beats later from another crew. -/
  | stealGrant (core : Fin 2048)
  /-- R219: A core sends the last h input positions of its tile to the holder of the next tile. -/
  | haloSend (sends : LinkSend)
  /-- R219: A halo not arrived within 65,536 beats is reloaded through the pier and counted. -/
  | haloTimeout (core : Fin 2048) (beat : Nat)
  /-- R220: A completed carry or scan stack passes to the next tile's core by trestle or carry relay. -/
  | carrySend (sends : LinkSend)
  /-- R147: A macro completes in stream order and writes its completion record and trace entry. -/
  | macroComplete (c : Fin 4) (execute : Bool)
  /-- R55: The link engine writes a flag word that updates the arrival table or is discarded and counted. -/
  | arrivalFlag (c : Fin 4) (index : BitVec 12) (seq : BitVec 16) (parityOk : Bool)
  /-- R51: The ME pushes a finished-tile entry, which is checked for parity and sequence or refused. -/
  | ftqEntry (crew : Fin 256) (bank : Fin 16) (seq : BitVec 8) (parityOk invalid : Bool)
  /-- R332: In Direct mode the ME signals a finished tile, and the crew's claim is granted a beat later. -/
  | meFinishSignal (crew : Fin 256) (bank : Fin 16) (invalid : Bool)
  /-- R50: A bank claim is granted to the ME or the crew by the accumulating rule. -/
  | bankClaimGrant (crew : Fin 256) (bank : Fin 16) (me : MeAsk) (crewClaims : Bool)
  /-- R52: An ME channel times out and the owning context halts with 0x0A02 PORT_TIMEOUT. -/
  | mePortTimeout (crew : Fin 256) (channel : Fin 4) (beat : Nat)
  /-- R393: A block sends its slice partial for a row up the tree when its local root completes. -/
  | viaductUpSend (c : Fin 4) (ch : Fin 8) (row : Nat)
  /-- R395: A node receives a child's up frame, checks it and combines it into the row. -/
  | viaductUpFrame (c : Fin 4) (ch : Fin 8) (port : Fin 4) (frame : BitVec 256) (beat : Nat)
  /-- R398: A node receives the combined value, delivers it locally and forwards it to its children. -/
  | viaductDownFrame (c : Fin 4) (ch : Fin 8) (port : Fin 4) (frame : BitVec 256) (beat : Nat)
  /-- R402: A node receiving RESEND resends the row's frames, or answers HOLD. -/
  | resend (c : Fin 4) (ch : Fin 8) (port : Fin 4) (frame : BitVec 256) (beat : Nat)
  /-- R402: A requester receiving HOLD restarts its ladder for that edge and row. -/
  | hold (c : Fin 4) (ch : Fin 8) (port : Fin 4) (frame : BitVec 256) (beat : Nat)
  /-- R404: A node receiving ABORT halts its context with 0x0802 and forwards the ABORT on its other edges. -/
  | abort (c : Fin 4) (ch : Fin 8) (port : Fin 4) (frame : BitVec 256) (beat : Nat)
  /-- R400: The up timer reaches D and a missing child is counted LATE. -/
  | viaductUpLate (c : Fin 4) (ch : Fin 8) (round row : Nat) (child : Fin 8) (beat : Nat)
  /-- R400: The up timer reaches 2 × D and a RESEND is sent to the child on the paired port. -/
  | viaductUpResendTimer (c : Fin 4) (ch : Fin 8) (round row : Nat) (child : Fin 8) (beat : Nat)
  /-- R400: The up timer reaches 4 × D and the context halts with 0x0801 VIADUCT_TIMEOUT. -/
  | viaductUpTimeout (c : Fin 4) (ch : Fin 8) (round row : Nat) (child : Fin 8) (beat : Nat)
  /-- R401: The down timer reaches V and the frame is counted LATE. -/
  | viaductDownLate (c : Fin 4) (ch : Fin 8) (round row : Nat) (beat : Nat)
  /-- R401: The down timer reaches 2 × V and a RESEND is sent to the parent. -/
  | viaductDownResendTimer (c : Fin 4) (ch : Fin 8) (round row : Nat) (beat : Nat)
  /-- R401: The down timer reaches 4 × V and the context halts with 0x0801 VIADUCT_TIMEOUT. -/
  | viaductDownTimeout (c : Fin 4) (ch : Fin 8) (round row : Nat) (beat : Nat)
  /-- R449: A system-time sample is parity-checked and then accepted, slewed or rejected, entering or leaving holdover. -/
  | timeSample (sample : BitVec 64) (parityOk : Bool) (beat : Nat)
  /-- R450: Holdover lasts 10 ms, and LOST is set and MGMT_ALERT raised. -/
  | timebaseLost (beat : Nat)
  /-- R453: A write to CTX_STROKE.NUMBER announces a stroke or is refused. -/
  | strokeAnnounce (c : Fin 4) (number : BitVec 48)
  /-- R435: A leaving span is released and zeroised once its in-flight macros complete. -/
  | spanRelease (span : Fin 16)
  /-- R423: The telemetry record of the ended stroke is written through the service pier and STROKE_DONE is raised. -/
  | telemetryRecordWrite
  /-- R462: A span governor receives its new envelope from the cox. -/
  | envelopeDeliver (span : Fin 16)
  /-- R463: A floor-entry offset after the phase marker passes and the governor moves to its point. -/
  | floorEntry (span : Fin 16) (beat : Nat)
  /-- R460: A span completes a move between operating points, with voltage slew and frequency change. -/
  | pacePointMove (span : Fin 16)
  /-- R469: An idle span about to deal asks the surge governor for a step grant. -/
  | surgeRequest (span : Fin 16)
  /-- R469: The surge governor grants a pending step request, at once or in stagger. -/
  | surgeGrant (beat : Nat)
  /-- R470: A 10 µs junction sample is validated and throttles, releases or trips the span. -/
  | thermalSample (span : Fin 16) (sensor : Fin 4) (reading : Int) (beat : Nat)
  /-- R471: A span over its power cap steps its point down or stretches, and steps back when it falls below 90 % of the cap. -/
  | powerCapStep (span : Fin 16) (milliwatts : Nat) (beat : Nat)
  /-- R471: Block mean power above PEAK_W raises every span's stretch each microsecond. -/
  | blockPeakStep (milliwatts : Nat) (beat : Nat)
  /-- R467: A regulator output low for 50 ns stretches the span to s = 8, and a rail fault follows if it persists for 10 µs. -/
  | outputUndervoltage (span : Fin 16) (millivolts : Nat) (nanoseconds : Nat)
  /-- R467: A regulator output high for 200 ns switches the regulator off with a rail fault. -/
  | outputOvervoltage (span : Fin 16) (millivolts : Nat) (nanoseconds : Nat)
  /-- R467: A 1 µs mean output current above 68 A raises the stretch each microsecond. -/
  | outputOvercurrent (span : Fin 16) (deciamps : Nat)
  /-- R61: A rail input out of limits for over 1 µs ramps the span down and halts its contexts with 0x0A03. -/
  | railFault (span : Fin 16) (millivolts : Nat) (nanoseconds : Nat)
  /-- R62: The reference clock stops for 1 µs, and all contexts halt with 0x0A04. -/
  | refclkLost (nanoseconds : Nat)
  /-- R457: Background scrubbing reads an OC line through SECDED and writes it back if corrected. -/
  | scrubLine (crew : Fin 256) (line : Fin 2048) (errors : Fin 3) (syndrome : BitVec 32)
  /-- R29: The cox pair reloads its checkpoint and repeats the step, failing the block on a third mismatch. -/
  | coxLockstepMismatch
  /-- R495: A walker pair mismatch discards the beat's decisions and repeats the beat. -/
  | walkerRetry (span : Fin 16)
  /-- R474: A halt cause stops issue and dealing for the context and settles its in-flight work. -/
  | contextHalt (c : Fin 4)
  /-- R477: Once the last commits finish, the context enters HALTED, writes its halt record and raises CTX_HALT. -/
  | contextHalted (c : Fin 4)
  /-- R438: A drained context halts with 0x0902 MGMT_DRAIN once its in-flight macros complete. -/
  | drainHalt (c : Fin 4)
  /-- R432: CTX_CTRL.CMD 1 creates a context from FREE, or is refused. -/
  | create (c : Fin 4)
  /-- R433: Every requested span is zeroised and owned, and the context becomes LIVE. -/
  | createComplete (c : Fin 4)
  /-- R444: CTX_CTRL.CMD 2 begins zeroisation and release of the context's holdings. -/
  | teardown (c : Fin 4)
  /-- R444: Zeroisation completes and the context becomes FREE. -/
  | teardownComplete (c : Fin 4)
  /-- R58: A context reset from the host or management discards in-flight tiles and zeroises the context's state. -/
  | contextReset (c : Fin 4)
  /-- R58: The context reset completes and the context returns to LIVE. -/
  | resetComplete (c : Fin 4)
  /-- R434: A write to CTX_SPANS.MASK is refused on conflict, or is pending or applied. -/
  | spanMaskWrite (c : Fin 4) (mask : BitVec 16)
  /-- R170: A write to a CTX_BAYn entry becomes pending and holds both streams. -/
  | bayWrite (c : Fin 4) (bay : Fin 256) (value : BitVec 30)
  /-- R171: A pending bay write is judged with no macro in flight and applied, refused or kept waiting on the quota. -/
  | bayWriteApply (c : Fin 4)
  /-- R330: A write to CTX_CPL is pending until no macro is in flight, then sets the coupling mode. -/
  | cplWrite (c : Fin 4) (mode : Bool)
  /-- R389: A write to a viaduct channel register is refused, or becomes pending until the channel is idle and its quota allows. -/
  | viaConfigWrite (c : Fin 4) (ch : Fin 8) (register : Fin 16) (value : BitVec 64)
  /-- R440: A HIST_CLAIM claim assigns a slot to a context, or waits on its quota or is refused. -/
  | histClaim (slot : Fin 256) (c : Fin 4)
  /-- R440: A HIST_CLAIM release frees a slot and clears it. -/
  | histRelease (slot : Fin 256)
  /-- R418: Writing HIST_CFG.CLEAR clears the bins, MAX_EXP and SEEN. -/
  | histClear (slot : Fin 256)
  /-- R422: A host write to HIST_ADVICE sets A, storing 0x81 for 0x80, and re-arms the latch when VALID is 0. -/
  | histAdviceWrite (slot : Fin 256) (exponent : BitVec 8) (valid : Bool)
  /-- R442: A write to WIN_BASE or WIN_LIMIT is refused if inconsistent, and otherwise applies to every later tile check. -/
  | windowWrite (c : Fin 4) (w : Fin 8) (limit : Bool) (value : BitVec 64)
  /-- R539: A host write into the descriptor store window stages the descriptor, and commits it at bytes 120 to 127. -/
  | descWindowWrite (offset : BitVec 18) (wide : Bool) (value : BitVec 64)
  /-- R539: A write to DESC_WIN_SEL changes the view and discards any uncommitted staging. -/
  | descWinSelWrite (ctx : Fin 4) (half : Bool)
  /-- R154: A host write to CTX_FLAGn stores the flag without the reach test, ahead of same-beat SETs. -/
  | flagHostWrite (c : Fin 4) (flag : Fin 64) (epoch : BitVec 16)
  /-- R428: A write to CTX_DONE_BASE, CTX_DONE_CTL or CTX_TRACE_BASE is refused unless its ring lies in an enabled, writable window. -/
  | ringBaseWrite (c : Fin 4) (which : Fin 3) (value : BitVec 64)
  /-- R384: A host write to the RNG key takes effect for macros planned afterwards. -/
  | rngKeyWrite (c : Fin 4) (hi : Bool) (value : BitVec 64)
  /-- R466: A write to CTX_PACE.REQ is honoured at the context's next boundary under OPEN, or ignored and counted under LOCKED. -/
  | paceReqWrite (c : Fin 4) (req : BitVec 3) (deadline : BitVec 24)
  /-- R425: A write to PERF_SELn selects the counter's event and clears the counter. -/
  | perfSelWrite (span : Fin 16) (n : Fin 64) (event : BitVec 6)
  /-- R425: Writing PERF_CTL.CLEAR_ALL clears all 64 counts of the span. -/
  | perfClearAll (span : Fin 16)
  /-- R483: A host write of FAULT_RING.RD marks records as read. -/
  | faultRingRdWrite (rd : BitVec 8)
  /-- R543: A write to the journal raw view writes MRAM in MANUFACTURE and is ignored otherwise. -/
  | journalRawWrite (offset : BitVec 15) (wide : Bool) (value : BitVec 64)
  /-- R541: Management writes MBOX_IN_CTL.POST to post inbound slot WR, or the POST is dropped when the mailbox is full. -/
  | mboxPost
  /-- R541: Management writes MBOX_OUT_CTL.ACK to free outbound slot RD. -/
  | mboxAck
  /-- R430: The cox applies a management cap to a context's CTX_CAP and replies. -/
  | setCap
  /-- R438: The cox sets CTX_CAP.DRAIN, and the context stops issuing bundles. -/
  | drain
  /-- R466: The cox sets the power limits at once, and the pace policy at the next block boundary. -/
  | setPolicy
  /-- R451: Resync is armed so that the next good sample is accepted whatever its offset. -/
  | timeResync
  /-- R447: The anti-rollback counter is raised to a value up to the loaded SVN and journaled. -/
  | commitSvn
  /-- R447: A signed token restores the rollback counter after a journal format. -/
  | svnRestore
  /-- R445: A signed token moves the lifecycle to RETURN, tearing down contexts and zeroising keys. -/
  | enterReturn
  /-- R493: A fence is cleared for a core or span at the next block stroke boundary. -/
  | unfence
  /-- R506: A step's consecutive failure count is set to 0 for the next attempt. -/
  | ledgerClear
  /-- R542: The cox replies, then a warm reset tears down all contexts and starts from ST3. -/
  | warmReset
  /-- R527: Management lists up to four patch images in answer to PATCH_REQUEST. -/
  | patchList
  /-- R65: The test network requests attention and TEST_REQ is set. -/
  | testReq
  /-- R498: A pin or power-up reset clears all state except the journal and starts an attempt from ST0. -/
  | coldReset
  /-- R499: A start attempt performs the ledger scan and runs the start steps in their normal or alternative forms. -/
  | startAttempt (upTo : Nat) (failing : BitVec 14) (badSpans : BitVec 16) (faulty : List Nat) (beat : Nat)
  /-- R502: A start step still running at its limit fails, and the attempt stops with START_FAILED. -/
  | startStepTimeout (beat : Nat)
  /-- R504: One millisecond after a failed step, an automatic retry attempt begins. -/
  | startRetry (beat : Nat)
  /-- R509: The cox appends a journal record, or queues it when the bank is full. -/
  | journalAppend
  /-- R510: The live records are copied into the other bank and an anchor switches banks. -/
  | journalCompaction
  /-- R443: The die-seam trestle link exchanges JOIN_IDs with the twin block at every span change, opening or closing the seam link for halos
  and carries. -/
  | joinIdExchange (high : Bool) (twin : BitVec 16)
  /-- R467: The regulator output returns to within 20 mV of its setting, and the forced stretch of s = 8 ends. -/
  | outputUndervoltageClear (span : Fin 16) (millivolts : Nat)
  deriving DecidableEq, Repr

end Sys2Proof
end

