-- ==== Sys2Proof/Decode.lean ====
section
/-! DEFINITION. Words and commands. No row of spec/opcode_table.json gives bits, so no word spells a command (log 1). -/

namespace Sys2Proof

/-- The command that a word of `nbits` bits spells by the table: none, since the table gives no row any bits. -/
def decodeTableWord (_nbits _w : Nat) : Option Instr := none

end Sys2Proof
end

