-- ==== Sys2Proof/Config.lean ====
section
/-! DEFINITION. What an implementation fixes and the spec leaves open: opaque constants with no body, so that no proof can
see a value of them. -/

namespace Sys2Proof.Config

/-- Free values (AN UNDEFINED VALUE): the machine's free-value counter picks one. -/
opaque freeWord : Nat → BitVec 32

/-- The ROM directory entry of a routine (R517): 64 B. The ROM's contents are Gelxel's own (log 7). -/
opaque romDir : Nat → BitVec 512

/-- The 64 B bundle at a ROM library offset (R516). -/
opaque romBundle : Nat → BitVec 512

/-- Is the ECDSA P-384 signature of these bytes good under a key of Gelxel's (R446): 1 the production key, 0 the manufacturing key?
The keys are not in the spec (log 10). -/
opaque signatureOk : Nat → List Byte → Bool

/-- Has the fuse that ends MANUFACTURE been blown at Gelxel's test by the cold reset of that number (R445)? -/
opaque fuseBlown : Nat → Bool

/-- The security version that a management token carries (R447); the token's layout is not in the spec (log 10). -/
opaque tokenSvn : List Byte → BitVec 32

/-- The bits that a matrix engine leaves in an accumulator element (R326): a fixed function of the operand formats and of
the operand element codes along the contracted axis, in order, and of the accumulator's value before (log 8). -/
opaque product : Nat → Nat → List (Nat × Nat) → BitVec 32 → BitVec 32

/-- The coefficients of the energy estimate of R464, from a span's calibration at ST10 (log 15): c_dyn of a span; p_leak of a span at a voltage
in mV and a temperature in half degrees. -/
opaque cDyn : Nat → Nat
opaque pLeak : Nat → Nat → Int → Nat

/-- The busy fraction measured in a window of a stroke's phase (R464): span, phase, window, stroke. -/
opaque measured : Nat → Nat → Nat → Nat → Nat

/-- What the work of a tile or of a VSHORT adds to LANE_OPS, SFU_EVALS and CU_ELEMS (15): event code, macro, tile or crew, attempt. No rule says
how many lane operations or conversions an operation takes (log 16). -/
opaque work : Nat → Nat → Nat → Nat → Nat

/-- TEMP_MAX of a stroke without a valid reading: span, stroke (log 16). -/
opaque noReading : Nat → Nat → BitVec 16

/-- Which spare coefficients a calibration measures (ST10): span and attempt (log 15). -/
opaque calibration : Nat → Nat → BitVec 512

/-- The words of the carry that the twin block sends to the higher block of a scan across the die seam (R221, R294): the use,
the channel, the word. -/
opaque seamCarry : Nat → Nat → Nat → BitVec 32

/-- Does an aligned 64 B piece of a write that timed out twice hold its new value (R48)? The use and the piece's number. -/
opaque pieceWritten : Nat → Nat → Bool

end Sys2Proof.Config
end

