-- ==== Sys2Proof/Machine/Table.lean ====
section
/-! DEFINITION. Sparse tables and byte memories: lists of keyed entries in rising order of their keys. -/

namespace Sys2Proof.Machine

/-- A sparse table: entries in rising order of their keys; what an unlisted key holds is said where the table is read. -/
abbrev Table (α : Type) := List (Nat × α)

namespace Table

/-- The entry of a key. -/
def find {α : Type} (k : Nat) : Table α → Option α
  | [] => none
  | (j, v) :: t => if j = k then some v else if k < j then none else find k t

/-- The entry of a key, or the value of an unlisted one. -/
def get {α : Type} (t : Table α) (k : Nat) (d : α) : α := (find k t).getD d

/-- Store an entry, keeping the order. -/
def set {α : Type} (k : Nat) (v : α) : Table α → Table α
  | [] => [(k, v)]
  | (j, u) :: t => if k < j then (k, v) :: (j, u) :: t else if k = j then (k, v) :: t else (j, u) :: set k v t

/-- Drop an entry. -/
def erase {α : Type} (k : Nat) : Table α → Table α
  | [] => []
  | (j, u) :: t => if k < j then (j, u) :: t else if k = j then t else (j, u) :: erase k t

/-- The keys rise. -/
def sorted {α : Type} : Table α → Bool
  | [] => true
  | [_] => true
  | (j, _) :: (k, v) :: t => decide (j < k) && sorted ((k, v) :: t)

end Table

/-- A memory of bytes in canonical form: rising addresses, no entry equal to 0, which an unlisted address reads as (log 4). -/
abbrev Memory := List Host.Cell

namespace Memory

/-- Read one byte. -/
def read (m : Memory) (a : Nat) : Byte := Table.get m a 0#8

/-- Write one byte; writing the value of an unlisted address removes the entry. -/
def write (a : Nat) (b : Byte) (m : Memory) : Memory :=
  if b = 0#8 then Table.erase a m else Table.set a b m

/-- The canonical form. -/
def wf (m : Memory) : Bool := Table.sorted m && m.all (fun e => e.2 ≠ 0#8)

/-- Read `n` bytes. -/
def readBytes (m : Memory) (a n : Nat) : List Byte := (List.range n).map (fun i => m.read (a + i))

/-- Write bytes at consecutive addresses. -/
def writeBytes (a : Nat) : List Byte → Memory → Memory
  | [], m => m
  | b :: t, m => writeBytes (a + 1) t (write a b m)

/-- `m` with the bytes from `lo` to `hi` as `n` has them: what a read of that range found (02 R46). -/
def overlay (lo hi : Int) (n m : Memory) : Memory :=
  m.filter (fun e => (e.1 : Int) < lo) ++ n.filter (fun e => lo ≤ (e.1 : Int) && (e.1 : Int) ≤ hi) ++
    m.filter (fun e => hi < (e.1 : Int))

/-- Read `n` bits from bit address `8 * byte + bit` (R9: packing from the low-order bits). -/
def readBits (m : Memory) (at_ n : Nat) : Nat :=
  let first := at_ / 8
  let count := (at_ % 8 + n + 7) / 8
  let whole := (List.range count).foldr (fun i acc => (m.read (first + i)).toNat + 256 * acc) 0
  whole / 2 ^ (at_ % 8) % 2 ^ n

/-- Store the low `n` bits of `v` at a bit address, leaving every other bit of the bytes as it was (R112). -/
def writeBits (at_ n v : Nat) (m : Memory) : Memory :=
  let first := at_ / 8
  let sh := at_ % 8
  let count := (sh + n + 7) / 8
  let old := (List.range count).foldr (fun i acc => (m.read (first + i)).toNat + 256 * acc) 0
  let new := old - (old / 2 ^ sh % 2 ^ n) * 2 ^ sh + (v % 2 ^ n) * 2 ^ sh
  writeBytes first ((List.range count).map (fun i => BitVec.ofNat 8 (new / 256 ^ i % 256))) m

end Memory

/-- Little-endian bytes of a number (R7). -/
def leBytes (n v : Nat) : List Byte := (List.range n).map (fun i => BitVec.ofNat 8 (v / 256 ^ i % 256))

/-- The number that little-endian bytes spell (R7). -/
def ofLe : List Byte → Nat
  | [] => 0
  | b :: t => b.toNat + 256 * ofLe t

/-- Add with saturation at the width's largest value. -/
def satAdd {w : Nat} (x : BitVec w) (n : Nat) : BitVec w := BitVec.ofNat w (min (x.toNat + n) (2 ^ w - 1))

end Sys2Proof.Machine
end

