-- ==== Sys2Proof/Machine/State.lean ====
section
/-! DEFINITION. The state of the block as plain data, one structure for each unit, the reset values, and the two closed
lists of reasons for which a step could stop. -/

namespace Sys2Proof.Machine

/-- Four like things, one for each context. -/
structure Four (α : Type) where
  c0 : α
  c1 : α
  c2 : α
  c3 : α
  deriving DecidableEq, Repr

namespace Four

def get {α : Type} (f : Four α) (c : Fin 4) : α :=
  match c with
  | 0 => f.c0
  | 1 => f.c1
  | 2 => f.c2
  | 3 => f.c3

def set {α : Type} (f : Four α) (c : Fin 4) (v : α) : Four α :=
  match c with
  | 0 => { f with c0 := v }
  | 1 => { f with c1 := v }
  | 2 => { f with c2 := v }
  | 3 => { f with c3 := v }

end Four

/-! ## Time and strokes (17) -/

/-- The control-domain clock and the timebase (R448 to R452). -/
structure TimeBase where
  /-- control-domain beats since reset (R28) -/
  beat : Nat := 0
  /-- TIME_NOW: local time in ns -/
  now : BitVec 64 := 0
  /-- eighteenths of a nanosecond beyond `now`: one beat is 10/18 ns (R4) -/
  frac : Nat := 0
  /-- eighteenths of a ns by which local time is ahead, absorbed at half rate (R449) -/
  lag : Nat := 0
  /-- eighteenths of a ns for which local time stands still until system time reaches it (R451, R452) -/
  stopped : Nat := 0
  seeded : Bool := false
  holdover : Bool := false
  lost : Bool := false
  resyncArmed : Bool := false
  rejects : BitVec 16 := 0
  parity : BitVec 16 := 0
  /-- consecutive discarded samples (R450) -/
  discards : Nat := 0
  /-- consecutive samples in holdover that would be accepted (R450) -/
  goodRun : Nat := 0
  /-- beat at which holdover began -/
  holdSince : Nat := 0
  /-- TIMEBASE_LOST has been raised in the present holdover (R450) -/
  told : Bool := false
  /-- samples accepted in a row since the start step ST12 began -/
  accepted : Nat := 0
  deriving DecidableEq, Repr

/-! ## Streams and macros (05, 07) -/

/-- A pending command list (R40, R41). -/
structure CmdList where
  base : Nat
  window : BitVec 3
  left : Nat
  deriving DecidableEq, Repr

/-- An outstanding bundle fetch read (R42, R47). -/
structure FetchRead where
  addr : Nat
  bundles : Nat
  window : BitVec 3
  span : Nat
  tag : Nat
  beat : Nat
  retried : Bool
  deriving DecidableEq, Repr

/-- A bundle with its address (for a routine, bit 63 and the library offset, R480), tag (R122) and routine frame. -/
structure Fetched where
  bits : BitVec 512
  addr : BitVec 64
  deriving DecidableEq, Repr

/-- A failed check, as its fault record needs it (R140, R481). -/
structure Bad where
  code : Nat
  slot : Nat
  /-- the 16 DETAIL bytes -/
  detail : BitVec 128
  deriving DecidableEq, Repr

/-- An active routine (R165, R518 to R524). -/
structure Frame where
  routine : Nat
  /-- library offset of bundle 0 and the bundles of the routine -/
  offset : Nat
  length : Nat
  nh : Nat
  ns : Nat
  /-- repeat regions in use -/
  nrep : Nat
  /-- the four repeat regions as the directory gives them (R521) -/
  regions : BitVec 256
  handles : List Nat
  scalars : List Word
  /-- position, and the region passes under way: region, pass, count -/
  pos : Nat
  passes : List (Nat × Nat × Nat)
  /-- the tag of the outermost CALL (R122) -/
  tag : Word
  deriving DecidableEq, Repr

/-- What the execute stream does with the frame-local counters at an entry (R520). -/
inductive FrameAct where
  | save (scalars : List Word)
  | restore
  deriving DecidableEq, Repr

/-- One stream-queue entry (R143): a split bundle with its index. -/
structure Entry where
  bits : BitVec 512
  addr : BitVec 64
  tag : Word
  index : Nat
  bad : Option Bad
  /-- routines active (DEPTH of R481) -/
  depth : Nat
  /-- argument slots in place of vector and matrix macros (R166) -/
  isCall : Bool
  /-- what the execute stream does to the frame-local counters, in order -/
  acts : List FrameAct
  /-- the predicate the bundle sees, once the execute stream has issued it (R124, R125) -/
  pred : Option Bool
  deriving DecidableEq, Repr

/-- A scalar or sync operation that a stream has issued and whose row has not run yet (log 13). -/
inductive Due where
  | cntLoad (d : Nat) (imm : Word)
  | cntAdd (d : Nat) (imm : Word)
  | cntCopy (d src : Nat)
  | cntStroke (d : Nat)
  | cmp (p a : Nat) (useB : Bool) (b cond : Nat) (imm : Word)
  | frame (a : FrameAct)
  | set (access execute : Bool) (flag : Nat) (epoch : BitVec 16) (upTo : Nat)
  | phase (p : Nat)
  deriving DecidableEq, Repr

/-- A SET that waits for the macros before it (R153, R155). -/
structure WaitingSet where
  flag : Nat
  epoch : BitVec 16
  access : Bool
  execute : Bool
  /-- bundles of the named streams that must have issued and completed -/
  upTo : Nat
  deriving DecidableEq, Repr

/-- A stored output of a tile, staged until its commit (R16, R210). -/
inductive Store where
  /-- bits of the shared cache at a bit address -/
  | mem (at_ width value : Nat)
  /-- a word of a crew's operand cache -/
  | oc (crew line word : Nat) (value : Word)
  /-- a descriptor of the context -/
  | desc (handle : Nat) (value : BitVec 1024)
  deriving DecidableEq, Repr

/-- A numeric event: kind 0 INVALID, 1 DIVZERO, 2 OVERFLOW, 3 MINV; the element index of R408; the where code of R407. -/
structure Event where
  kind : Nat
  index : Nat
  at_ : Nat
  deriving DecidableEq, Repr

/-- One histogram count (R416): the slot, the bin, the exponent of a finite non-zero value, and the static scale (R420). -/
structure HistAdd where
  slot : Nat
  bin : Nat
  exp : Option Int
  static : BitVec 8
  deriving DecidableEq, Repr

/-- A tile carried by a data queue (R163, R223): the producer's handle, the tile's place in its tensor, and its elements as
format codes in the tile's own order. -/
structure RingTile where
  handle : Nat
  coord : List Nat
  shape : Nat
  /-- its inner and its outer tile axis (R191) -/
  inner : Nat := 0
  outer : Nat := 1
  crew : Nat
  data : List Nat
  deriving DecidableEq, Repr

/-- What one attempt of a tile staged (R16, R211, R409). -/
structure TileOut where
  stores : List Store := []
  rings : List (Nat × RingTile) := []
  hist : List HistAdd := []
  events : List Event := []
  clips : Nat := 0
  empties : List Nat := []
  fmasks : List Nat := []
  drops : Nat := 0
  /-- output-bank rescales of a query tile (R316) -/
  rescales : Nat := 0
  /-- the first value-dependent check that fails in the tile (R117): its code and DETAIL -/
  fail : Option (Nat × Nat) := none
  deriving DecidableEq, Repr, Inhabited

/-- Where a tile is (R202, R205, R210, R211, R284). An executing tile whose outputs are staged has sent them. -/
inductive TileStatus where
  | undealt
  | loading
  | waiting
  | executing
  | parked
  | committed
  | dropped
  deriving DecidableEq, Repr

/-- One tile of a macro in flight. -/
structure TileRun where
  status : TileStatus := .undealt
  core : Nat := 0
  /-- the crew it is bound to, once its first deal has chosen it (R204) -/
  crew : Option Nat := none
  /-- of a rig tile: its accumulator elements lie in a staged copy (R489) -/
  copied : Bool := false
  /-- failed attempts, and the core of the first (R211, R481) -/
  fails : Nat := 0
  firstCore : Nat := 0xFFFF
  /-- span beats at which its inputs were staged, and at which it started -/
  staged : Nat := 0
  started : Nat := 0
  /-- of a VSORT row that failed: a checkpoint of an earlier segment stands in its crew's tile area (R299) -/
  checkpoint : Bool := false
  /-- the attempt under way (R211); its pier reads outstanding (R205), whether any has begun, and the byte ranges of those that
  wait for a tag (R45) -/
  attempt : Nat := 0
  reads : Nat := 0
  begun : Bool := false
  todo : List (Int × Int) := []
  /-- the shared cache as its reads found it (R46, log 12) -/
  seen : Option Memory := none
  /-- the crew in whose rings it holds its slots (R162), and whether it has parked (R288) -/
  slotCrew : Option Nat := none
  hasParked : Bool := false
  /-- the tap of a parked tile has gone to the pier (R244) -/
  tapSent : Bool := false
  /-- of a tile that stores a LINEAR bay: the words that it read at its issue (R180) -/
  words : List Word := []
  /-- its halo, its carry have arrived or are not needed (R219, R220) -/
  halo : Bool := true
  carry : Option (List Word) := none
  /-- the ring tiles it consumes, by operand position (R212) -/
  rings : List (Nat × RingTile) := []
  /-- its check found a fault in this attempt -/
  out : Option TileOut := none
  deriving DecidableEq, Repr

/-- The walker's plan of one macro (R191 to R200). -/
structure Plan where
  shape : Nat
  /-- extents on the inner and the outer tile axis -/
  b : Nat
  a : Nat
  inner : Nat
  outer : Nat
  /-- sizes of the iteration space, one for each axis; the inner axis may be a linearised group (R193) -/
  sizes : List Nat
  /-- axes of the iteration space in dealing order, with their tile counts (R195) -/
  order : List (Nat × Nat)
  tiles : Nat
  footprint : Nat
  area : Nat
  /-- the axis the issue unit splits along, by its place in `order` (R196) -/
  split : Nat
  /-- the whole macro goes to the lowest owned span (R196) -/
  lowest : Bool
  /-- spans owned when planned (R435) -/
  spans : BitVec 16
  /-- hold point, halo length, seam, crew-bound by its rig (R204, R217) -/
  hold : Bool
  halo : Nat
  seam : Bool
  meBound : Bool
  empty : Bool
  deriving DecidableEq, Repr

/-- The state of a query row (R315): running maximum, whether an active key was seen, denominator; its output accumulators; the
events of the row and of each output element; and for each key tile whether the maximum rose. -/
structure AttnRow where
  m : Word
  seen : Bool := false
  l : Word := 0
  o : List Word
  kinds : List Nat := []
  okinds : List (List Nat) := []
  rises : List Bool := []
  /-- P codes of the product under way, one for each key -/
  p : List (Nat × Nat) := []
  deriving DecidableEq, Repr

/-- A query tile's attention chain under way on its crew (R315 to R320): key tiles corrected so far, the rows' states, whether a
P_jV_j product runs; the correction of the next key tile that a core holds staged, and its failed checks. -/
structure AttnRun where
  next : Nat := 0
  rows : List AttnRow := []
  product : Bool := false
  staged : Option Nat := none
  fails : Nat := 0
  failedCore : Nat := 0xFFFF
  deriving DecidableEq, Repr

/-- The pier reads of a macro's parameter block (R96, R228): the span's pier, the byte ranges still to be sent and the reads outstanding, and what
they found. -/
structure BlockRead where
  pier : Nat
  todo : List (Int × Int)
  out : Nat := 0
  seen : Memory := []
  deriving DecidableEq, Repr

/-- A macro in flight (R147). -/
structure MacroRun where
  /-- slot code of R140: 2 vector, 3 matrix, 4 load, 5 store -/
  slot : Nat
  bits : BitVec 128
  tag : Word
  addr : BitVec 64
  index : Nat
  depth : Nat
  overlapFlag : Bool
  /-- beats since the previous VSHORT issue (R185) -/
  gap : Nat
  /-- the snapshot: handles with their descriptors (R96), and parameter blocks with their bytes -/
  snapped : Bool := false
  blockRead : Option BlockRead := none
  descs : Table (BitVec 1024) := []
  blocks : Table (List Byte) := []
  plan : Option Plan := none
  plannedAt : Nat := 0
  overlapped : Bool := false
  denied : Bool := false
  /-- latched at plan: RNG key words (R384), trap mask (R412), histogram advice (R422), channel round (R393) -/
  key : List Word := []
  trap : BitVec 4 := 0
  advice : BitVec 8 := 0
  round : Nat := 0
  /-- tiles, and those handed to replay at the head of the dealing order (R211) -/
  tiles : Table TileRun := []
  replay : List Nat := []
  /-- closed row statistics (R244, R287), and the tiles' carries -/
  closed : Table (List Word) := []
  carries : Table (List Word) := []
  /-- last tiles along D1 whose whole scan has gone to the twin (R294) -/
  seamSent : List Nat := []
  /-- of a scatter that adds: the tiles whose index rows the first of its two deals has sorted (R371) -/
  sorted : List Nat := []
  /-- product tiles whose finish signal has come (R332), with the invalid sticky bit, and the banks held -/
  finished : Table Bool := []
  /-- attention chains under way, by the lowest tile of their query tile (R315) -/
  attn : Table AttnRun := []
  /-- first deal, beat and ns -/
  dealtAny : Bool := false
  start : BitVec 64 := 0
  replayed : Bool := false
  trapped : Bool := false
  /-- what the committed tiles have counted (R409) -/
  counts : TileOut := {}
  /-- local time at which its completion record was written (R407) -/
  ended : Option Nat := none
  /-- last arrival that made a tile eligible (R224) -/
  lastArrival : Nat := 0
  deriving DecidableEq, Repr

/-- What blocks a stream: the kind of R159, the control beat at which the block began, and, of a macro whose tiles cannot be dealt (3, a data
queue has no credit or no data; 6, an arrival has not come), the macro. -/
structure StreamBlock where
  kind : Nat
  since : Nat
  id : Option Nat := none
  deriving DecidableEq, Repr

/-- One of the two streams of a context. -/
structure Stream where
  queue : List Entry := []
  /-- what blocks the head of the queue, each kind with the beat at which it began (R159), and what blocks the dealing of macros -/
  blocked : Table Nat := []
  deal : List StreamBlock := []
  /-- the head's WAIT, FENCE and NOT_BEFORE are released -/
  waitOk : Bool := false
  fenceOk : Bool := false
  timeOk : Bool := false
  /-- local time before which the head may not issue, latched when the stream reached it (R127) -/
  holdUntil : Option Nat := none
  due : List Due := []
  /-- macros in flight, oldest first -/
  inflight : List MacroRun := []
  /-- index of the next bundle to issue -/
  next : Nat := 0
  deriving DecidableEq, Repr

/-! ## Bays, queues, viaduct (06, 14) -/

/-- CTX_BAYn (R170 to R172): 30 configuration bits, REFUSED, PENDING. -/
structure Bay where
  cfg : BitVec 30 := 0
  refused : Bool := false
  pending : Bool := false
  deriving DecidableEq, Repr

namespace Bay
def base (b : Bay) : Nat := (b.cfg.extractLsb' 0 11).toNat
def lines (b : Bay) : Nat := (b.cfg.extractLsb' 11 12).toNat
def mode (b : Bay) : Nat := (b.cfg.extractLsb' 23 3).toNat
def dq (b : Bay) : Nat := (b.cfg.extractLsb' 26 4).toNat
end Bay

/-- The registers of one viaduct channel (14). -/
structure ViaRegs where
  en : Bool := false
  kind : BitVec 3 := 0
  order : Bool := false
  primary : Bool := false
  nslices : BitVec 9 := 0
  sliceIdx : BitVec 8 := 0
  treeTag : BitVec 16 := 0
  slice : BitVec 64 := 0
  cover : BitVec 37 := 0
  parent : BitVec 20 := 0
  budget : BitVec 64 := 0
  children : Table (BitVec 64) := []
  deriving DecidableEq, Repr

/-- One viaduct row at this node (R393 to R403). -/
structure ViaRow where
  round : Nat
  row : Nat
  /-- own partial: a frame's data words, one per candidate rank or one -/
  own : List (List Word) := []
  ownReady : Bool := false
  /-- frames received from children: slot, kind and PART, words; and, by edge, the PART of the LAST candidate frame that has come -/
  got : List (Nat × Nat × List Word) := []
  ends : Table Nat := []
  /-- beat of the up timer and of each child's ladder restart; rungs passed (0 none, 1 LATE, 2 RESEND) -/
  upStart : Nat := 0
  ladder : Table (Nat × Nat) := []
  upSent : Bool := false
  downStart : Nat := 0
  downRung : Nat := 0
  sent : List (BitVec 256) := []
  downSent : List (BitVec 256) := []
  downGot : List (Nat × List Word) := []
  result : Option (List (List Word)) := none
  /-- the beat at which the down frame came that the result is of: an ABORT of that beat takes effect first (R404) -/
  downAt : Option Nat := none
  deriving DecidableEq, Repr

/-- A viaduct channel: registers, counts, rounds. -/
structure Channel where
  regs : ViaRegs := {}
  refused : Bool := false
  late : BitVec 16 := 0
  resends : BitVec 16 := 0
  crc : BitVec 16 := 0
  stale : BitVec 16 := 0
  dups : BitVec 16 := 0
  busy : BitVec 16 := 0
  /-- ROUND of the next macro, and the live rounds -/
  round : Nat := 0
  live : List Nat := []
  rows : List ViaRow := []
  /-- early frames with the beat of their arrival (R394); the next LSEQ to send, by direction; per edge (0 to 7 children, 8 parent) the
  LSEQs received in rounds that have not ended, each + 65,536 × its round -/
  early : List (Nat × BitVec 256) := []
  /-- (round, edge): the edges that use the paired port for the rest of the round (R402) -/
  paired : List (Nat × Nat) := []
  lseqSent : Table Nat := []
  lseqGot : Table (List Nat) := []
  deriving DecidableEq, Repr

/-- A halt on its way (R474 to R477). -/
structure Halting where
  record : BitVec 512
  code : Nat
  beat : Nat
  settled : Bool
  deriving DecidableEq, Repr

/-- Context states (16). -/
inductive CtxState where
  | free | creating | live | halted | resetting | tearingDown
  deriving DecidableEq, Repr

/-- The eight windows of a context: base and limit pages, EN, WR (R441). -/
structure Windows where
  base : Table (BitVec 52) := []
  limit : Table (BitVec 52) := []
  en : BitVec 8 := 0
  wr : BitVec 8 := 0
  deriving DecidableEq, Repr

/-- The administration registers of a context, on the privileged page (16). They outlive CREATE. -/
structure Admin where
  state : CtxState := .free
  refused : Bool := false
  mask : BitVec 16 := 0
  owned : BitVec 16 := 0
  /-- spans that leave: still owned, no new tiles (R435) -/
  leaving : BitVec 16 := 0
  quotaBay : BitVec 12 := 0
  quotaQueues : BitVec 5 := 0
  quotaHist : BitVec 9 := 0
  quotaVia : BitVec 4 := 0
  watts : BitVec 9 := 0
  joinId : BitVec 16 := 0
  capBay : BitVec 12 := 0x800
  capQueues : BitVec 5 := 0x10
  capHist : BitVec 9 := 0x100
  capVia : BitVec 4 := 0x8
  capWatts : BitVec 9 := 0x12C
  drain : Bool := false
  /-- eight windows: base and limit pages, EN, WR -/
  winBase : Table (BitVec 52) := []
  winLimit : Table (BitVec 52) := []
  winEn : BitVec 8 := 0
  winWr : BitVec 8 := 0
  /-- the windows before the writes of one beat, with that beat: a write takes effect in the next (R442) -/
  winWas : Option (Nat × Windows) := none
  deriving DecidableEq, Repr

/-- Registers and program state of a context, as CREATE leaves them (R433). -/
structure Ctx where
  -- command lists (02)
  clWindow : BitVec 3 := 0
  clBase : BitVec 58 := 0
  lists : List CmdList := []
  dropped : Bool := false
  fetch : Option FetchRead := none
  buffer : List Fetched := []
  frames : List Frame := []
  /-- a split CALL whose frame the CALL row pushes -/
  callDue : Option Entry := none
  split : Nat := 0
  -- streams (05)
  access : Stream := {}
  exec : Stream := {}
  issued : BitVec 32 := 0
  waitTimeout : BitVec 32 := 0x01000000#32
  counters : Table Word := []
  preds : BitVec 4 := 0
  saved : List (List Word × BitVec 2) := []
  flags : Table (BitVec 16) := []
  flagHost : BitVec 64 := 0
  sets : List WaitingSet := []
  overlapDenied : BitVec 16 := 0
  backset : BitVec 16 := 0
  /-- the last beat in which a condition of R160 began to hold: nothing in flight, no wait on a host-driven flag -/
  crossSince : Option Nat := none
  phase : Option Nat := none
  lastShort : Option Nat := none
  -- walker (07)
  haloReload : BitVec 16 := 0
  carryRelay : BitVec 16 := 0
  replays : BitVec 16 := 0
  stealsSpan : BitVec 16 := 0
  planShape : BitVec 3 := 0
  planStream : Bool := false
  planFootprint : BitVec 12 := 0
  planArea : BitVec 12 := 0
  planTiles : BitVec 32 := 0
  arrivals : Table (BitVec 16) := []
  descs : Table (BitVec 1024) := []
  /-- the descriptors as they stood before the writes of one control beat, and that beat (R96) -/
  descOld : Table (BitVec 1024) := []
  descBeat : Option Nat := none
  /-- the descriptors that an LD has replaced in that beat: a host commit in it comes before (R540) -/
  descLoaded : List Nat := []
  -- coupling and routing (12, 13)
  cplMode : Bool := false
  cplPending : Option Bool := none
  ftqRetry : BitVec 16 := 0
  meWaits : BitVec 16 := 0
  rescales : BitVec 16 := 0
  arriveStarts : BitVec 16 := 0
  rngLo : BitVec 64 := 0
  rngHi : BitVec 64 := 0
  routeDropped : BitVec 32 := 0
  -- events and rings (15)
  trap : BitVec 4 := 0
  doneEn : Bool := false
  doneWindow : BitVec 3 := 0
  doneBase : BitVec 57 := 0
  doneLog : BitVec 4 := 8
  doneRefused : Bool := false
  doneWr : BitVec 12 := 0
  doneTotal : BitVec 32 := 0
  traceEn : Bool := false
  traceWindow : BitVec 3 := 0
  traceBase : BitVec 48 := 0
  traceRefused : Bool := false
  traceWr : BitVec 12 := 0
  traceTotal : BitVec 32 := 0
  /-- gathered trace entries not yet written (R426) -/
  gathered : List (BitVec 128) := []
  -- strokes, pace, halt (17, 18)
  strokeStart : BitVec 64 := 0
  stroke : BitVec 48 := 0
  strokeRefused : Bool := false
  /-- S of R127: the start timestamp of the latest accepted announcement -/
  strokeS : BitVec 64 := 0
  announced : Bool := false
  /-- ns by which resyncs have stepped local time forward since the announcement (R451) -/
  shift : Nat := 0
  paceReq : BitVec 3 := 1
  paceInForce : BitVec 3 := 1
  deadline : BitVec 24 := 0
  paceIgnored : BitVec 16 := 0
  overPower : Bool := false
  spanPending : Option (BitVec 16) := none
  haltCode : BitVec 16 := 0
  secondary : BitVec 8 := 0
  haltRec : BitVec 512 := 0
  halt : Option Halting := none
  -- bays, queues, constants, channels (06, 14)
  shortK : Table Word := []
  bays : Table Bay := []
  /-- pending bay writes in order (R170) -/
  bayWrites : List (Nat × BitVec 30) := []
  queues : Table (List RingTile) := []
  /-- slots held of each ring, by crew: key 256 * queue + crew -/
  slots : Table Nat := []
  channels : Table Channel := []
  /-- pending writes of channel registers in the order they were written: channel, register, value (R387) -/
  viaWrites : List (Nat × Nat × BitVec 64) := []
  deriving DecidableEq, Repr

/-! ## Spans, crews, cores (01, 06, 12, 15, 17) -/

/-- One part of an envelope (R462). -/
structure EnvPart where
  lo : Nat
  hi : Nat
  floors : List (Nat × Nat)
  deriving DecidableEq, Repr

/-- A learned profile (R464). -/
structure Profile where
  busy : List Nat := []
  mean : Nat := 0
  strokes : Nat := 0
  deriving DecidableEq, Repr

/-- An outstanding pier read of up to 512 B (R45, R47): which macro's tile asked, or a bundle fetch, or, for context 7, the
cox, with the number of its read; the span beat of its request,
the attempt of the tile, the byte range it lies in, and its place in the pier's order of accesses (R46). -/
structure PierRead where
  ctx : Nat
  /-- none: a bundle fetch -/
  tile : Option (Bool × Nat × Nat)
  beat : Nat
  attempt : Nat
  lo : Int
  hi : Int
  seq : Nat
  deriving DecidableEq, Repr

/-- A pier write of up to 512 B that has not been accepted (R45, R48): a tile's, or a telemetry record's; its 512 B block, whether it
holds a credit and has been sent, the span beat since which it waits, and its place in the pier's order. -/
structure PierWrite where
  /-- none: the telemetry record (R49) -/
  ctx : Option Nat
  execute : Bool
  index : Nat
  tile : Nat
  block : Nat
  sent : Bool
  beat : Nat
  retried : Bool
  seq : Nat
  /-- of a write that is no tile's (the macro's completion record, the context's trace): its address and bytes -/
  at_ : Nat := 0
  bytes : List Byte := []
  deriving DecidableEq, Repr

/-- A junction sensor (R63), in half degrees: its last valid reading, its previous reading, the discards in a row, and whether it is taken
as failed. -/
structure Sensor where
  valid : Option Int := none
  previous : Option Int := none
  discards : Nat := 0
  failed : Bool := false
  deriving DecidableEq, Repr

/-- A span: governor, regulator, sensors, walker history, pier, counters. -/
structure Span where
  -- clock (17)
  /-- span beats, and their fraction, at the control beat `since` of the last change of rate (R4, R458, R461) -/
  beats : Nat := 0
  frac : Nat := 0
  since : Nat := 0
  point : BitVec 4 := 0xC
  pace : BitVec 3 := 1
  stretch : BitVec 4 := 0
  lo : BitVec 4 := 0xC
  hi : BitVec 4 := 0xC
  phase : BitVec 3 := 4
  /-- the phase codes it has had before this one in the block stroke (R464) -/
  phases : BitVec 8 := 0
  throttle : Bool := false
  capped : Bool := false
  surgeWait : Bool := false
  cap : BitVec 9 := 0x12C
  /-- the cap before the write of one beat, with that beat: a cap applies in the beat after its write (R471) -/
  capWas : Option (Nat × BitVec 9) := none
  /-- the five parts in force and those on their way (R462) -/
  envelope : List EnvPart := []
  nextEnvelope : Option (List EnvPart) := none
  /-- beat of the phase marker (R463), and the floor entry in force -/
  marker : Nat := 0
  floor : Option Nat := none
  /-- thermal steps taken: points, stretches; power steps; regulator stretches (R467, R470, R471) -/
  thermPoints : Nat := 0
  thermStretch : Nat := 0
  capPoints : Nat := 0
  capStretch : Nat := 0
  peakStretch : Nat := 0
  currentStretch : Nat := 0
  undervolt : Bool := false
  lastTherm : Nat := 0
  lastCap : Nat := 0
  /-- beat since which the reading is low enough, or the power below 90 % of the cap, for the next step back (R470, R471) -/
  coolSince : Option Nat := none
  underSince : Option Nat := none
  /-- the highest valid junction reading of the stroke, in half degrees; none before the first (15) -/
  tempMax : Option Int := none
  -- regulator (02, 17)
  vout : BitVec 10 := 0
  iout : BitVec 10 := 0
  vin : BitVec 11 := 0
  trim : BitVec 8 := 0
  uv : Bool := false
  ov : Bool := false
  regulatorOn : Bool := false
  /-- four junction sensors (R63) -/
  sensors : Table Sensor := []
  -- RAS (18)
  corrected : BitVec 16 := 0
  residue : BitVec 16 := 0
  parity : BitVec 16 := 0
  uncorr : BitVec 16 := 0
  correctedNoted : Bool := false
  fence : BitVec 128 := 0
  -- walker and ownership (01, 07)
  zeroised : Bool := true
  committed : Nat := 0
  durations : List Nat := []
  lastVictim : Table Nat := []
  walkerRetries : Nat := 0
  walkerBeat : Nat := 0
  /-- span beat after which the span counts as idle (R469) -/
  busyUntil : Nat := 0
  granted : Bool := false
  profiles : Table Profile := []
  -- pier (02)
  reads : Table PierRead := []
  writes : List PierWrite := []
  /-- accesses sent so far: the pier's order (R46) -/
  accesses : Nat := 0
  -- performance counters and stroke tallies (15)
  perfSel : Table (BitVec 6) := []
  perfCnt : Table (BitVec 48) := []
  freeze : Bool := false
  /-- what a counter of span beats or of the tally has been brought up to, by event code -/
  perfSince : Table Nat := []
  steals : Nat := 0
  replays : Nat := 0
  /-- span beats and tally at the last block boundary, by event code (15) -/
  strokeBase : Table Nat := []
  /-- input energy of the stroke in nJ, and its largest input current in units of 10 mA (15, R468) -/
  energy : Nat := 0
  peakIin : Nat := 0
  deriving DecidableEq, Repr

/-- A VSHORT on a crew (R185, R186): waiting with its spacing, or started. -/
structure ShortRun where
  ctx : Nat
  index : Nat
  bits : BitVec 128
  gap : Nat
  start : Nat := 0
  /-- its context crew index (R408), and the pool line of its first destination line -/
  place : Nat := 0
  dest : Nat := 0
  /-- the source lines read so far, in order, each as the words of A, B and C (R186) -/
  got : List (List (List Word)) := []
  /-- its row has come; its events have been counted; a violation has ended it: it reads and writes nothing after that span beat (R190) -/
  evaluated : Bool := false
  counted : Bool := false
  endAt : Option Nat := none
  /-- destination lines still on their way: pool line, landing beat -/
  landing : List (Nat × Nat) := []
  deriving DecidableEq, Repr

/-- A matrix bank (12): owner is the crew while held; finished product; elements. -/
structure Bank where
  crewOwns : Bool := false
  /-- the crew's claim is outstanding, since a span beat; the ME waits for the bank, since a span beat (R321, R332) -/
  claimed : Bool := false
  claimedAt : Nat := 0
  meSince : Option Nat := none
  /-- the command of its product has been sent, and the product has not finished (R328) -/
  asked : Bool := false
  accumulating : Bool := false
  finished : Bool := false
  invalid : Bool := false
  ctx : Nat := 0
  index : Nat := 0
  product : Nat := 0
  elems : Table Word := []
  deriving DecidableEq, Repr

/-- A matrix command: its macro, the product it asks for, as the key of its bank, and for attention the key tile. -/
structure MeCmd where
  index : Nat
  key : Nat
  step : Nat
  deriving DecidableEq, Repr

/-- The operand rows of 1 KiB that a product takes from the crew (02, operand feed): pushed so far, of how many, and the span beat
since which the next one waits for a credit. -/
structure FeedRun where
  cmd : MeCmd
  pushed : Nat
  rows : Nat
  since : Option Nat
  deriving DecidableEq, Repr

/-- A crew: operand cache, ready stamps, short port, matrix port (01, 06, 12). -/
structure Crew where
  /-- pool words, key 64 * line + word (R167) -/
  oc : Table Word := []
  stamps : Table (BitVec 32) := []
  /-- the stamp of every line that has none of its own: the span beat of the crew's zeroisation (R173) -/
  stampBase : BitVec 32 := 0
  /-- the span beat of the last LD commit on a line (R189) -/
  loads : Table Nat := []
  /-- lines marked pending by an LD (R180) -/
  marked : Table Bool := []
  waiting : List ShortRun := []
  started : List ShortRun := []
  lastStart : Option (Nat × Nat) := none
  parked : Nat := 0
  banks : Table Bank := []
  ftqSeq : BitVec 8 := 0xFF
  ftqRefused : Bool := false
  /-- span beat since which an entry of the finished-tile queue is expected (R52) -/
  ftqSince : Option Nat := none
  /-- matrix commands that wait for a credit, and those sent and not yet accepted, with the span beat of each (R38, R52) -/
  cmds : List MeCmd := []
  sent : List (MeCmd × Nat) := []
  /-- operand rows to be pushed for products under way, in order (R329) -/
  feed : List FeedRun := []
  /-- control beat of each line's last scrub, and span beat of the crew's (R457) -/
  scrubbed : Table Nat := []
  scrubAt : Option Nat := none
  deriving DecidableEq, Repr

/-- A core: tiles held and the repair state (R15, R16, R491, R492). -/
structure Core where
  /-- (context, execute stream, bundle index and slot, tile), oldest first -/
  held : List (Nat × Bool × Nat × Nat) := []
  /-- failed physical lanes replaced by spares 32 and 33, and a swap scheduled -/
  swapped : List Nat := []
  scheduled : List Nat := []
  /-- swaps whose stroke boundary has come and that wait for the executing tile to leave (R18) -/
  dueSwaps : List Nat := []
  /-- local times of check failures attributed to it -/
  failures : List Nat := []
  /-- it asked for a tile and waits (R206), and the span beat of its last deal (R209) -/
  asking : Bool := false
  dealtAt : Option Nat := none
  /-- the span beat of its last stolen tile, and that tile while one dealt in the same beat waits behind it (R209) -/
  stolenAt : Option Nat := none
  first : Option (Nat × Bool × Nat × Nat) := none
  deriving DecidableEq, Repr

/-- A histogram slot (15). -/
structure Hist where
  bins : Table (BitVec 32) := []
  base : BitVec 8 := 0xE4
  target : BitVec 8 := 0x08
  headroom : BitVec 4 := 1
  autoclr : Bool := true
  owner : BitVec 3 := 7
  exp : BitVec 8 := 0
  valid : Bool := false
  stroke : BitVec 32 := 0
  maxExp : BitVec 9 := 0
  seen : Bool := false
  latched : Bool := false
  /-- what the slot has counted in one beat, that beat, and the bins, MAX_EXP and SEEN before it: a clear or an update of a beat comes before
  its increments (R418, R456) -/
  fresh : List HistAdd := []
  freshBeat : Option Nat := none
  prior : Table (BitVec 32) × BitVec 9 × Bool := ([], 0, false)
  deriving DecidableEq, Repr

/-! ## Block units (16 to 21) -/

/-- The telemetry snapshot of an ended stroke, waiting to be written (R423). -/
structure TelemSnap where
  stroke : BitVec 48
  tStart : BitVec 64
  tEnd : BitVec 64
  bytes : List Byte
  /-- its number among those waiting, its slot of the ring and the address of that, and the control beat of its boundary -/
  id : Nat := 0
  slot : Nat := 0
  at_ : Nat := 0
  beat : Nat := 0
  deriving DecidableEq, Repr

/-- What test access shows of a unit (16). -/
inductive View where
  | closed
  | readOnly
  | full
  deriving DecidableEq, Repr

/-- What the test network opens (R65): the IEEE 1500 wrappers in full, or in bypass only; every IEEE 1687 instrument, or only temperature,
rail and clock status, read only; the cox debug and journal raw view; trace and operand caches of any context. -/
structure TestAccess where
  wrappers : Bool := false
  instruments : Bool := false
  debug : View := .closed
  contexts : Bool := false
  deriving DecidableEq, Repr

/-- A read of the cox through the service pier (R49): its address and bytes, its number, the pier, the pieces still to be sent and those
outstanding, what they found so far, and whether one has failed (R39). -/
structure CoxRead where
  addr : Nat
  len : Nat
  gen : Nat
  pier : Nat
  todo : List (Int × Int)
  out : Nat := 0
  seen : Memory := []
  failed : Bool := false
  deriving DecidableEq, Repr

/-- Global registers (16, 17, 20, 21). -/
structure Global where
  telemEn : Bool := false
  telemBase : BitVec 52 := 0
  telemLog : BitVec 4 := 4
  telemWr : BitVec 8 := 0
  telemTotal : BitVec 32 := 0
  /-- telemetry records waiting to be written, oldest first -/
  telem : List TelemSnap := []
  lifecycle : BitVec 2 := 1
  privRefused : BitVec 16 := 0
  rollback : BitVec 32 := 0
  /-- the counter stands as a journal format left it (R447, R514) -/
  restorable : Bool := false
  histRefused : Bool := false
  /-- claims waiting under the quota, in order: slot, context (R437) -/
  histClaims : List (Nat × Nat) := []
  blockStroke : BitVec 48 := 0
  blockStart : BitVec 64 := 0
  anyStroke : Bool := false
  /-- block strokes since the last start (R465), and the control beat of the last block boundary (R454) -/
  strokesSince : Nat := 0
  boundaryBeat : Option Nat := none
  strokeHoldover : Bool := false
  policy : Bool := false
  policyNext : Option Bool := none
  sustainedW : BitVec 9 := 0x0DC
  peakW : BitVec 9 := 0x12C
  /-- beat of the last step of the block peak (R471); 0: none -/
  lastPeak : Nat := 0
  badAccess : BitVec 16 := 0
  revision : BitVec 4 := 0
  block : Bool := false
  /-- the package's number in the link engine's address space (14) -/
  package : BitVec 15 := 0
  strokeDone : Bool := false
  faultIrq : Bool := false
  testReq : Bool := false
  /-- the control beat in which hardware last set a bit of IRQ_CAUSE, or, from 64 on, of ALERT_CAUSE: a write of that beat does not clear it
  (R534) -/
  setAt : Table Nat := []
  /-- what the test network opens in the present lifecycle state (R65) -/
  access : TestAccess := {}
  halted : BitVec 4 := 0
  irqEnable : BitVec 6 := 0x3F
  alerts : BitVec 9 := 0
  alertStep : BitVec 4 := 0
  alertSpan : BitVec 4 := 0
  discardCount : BitVec 32 := 0
  discardCtx : BitVec 2 := 0
  discardCause : BitVec 2 := 0
  selCtx : BitVec 2 := 0
  selHalf : Bool := false
  selDiscarded : Bool := false
  /-- the staged descriptor: context, number, 1,024 bits, bytes 120 to 127 written so far (R95, R539) -/
  staged : Option (Nat × Nat × BitVec 1024 × BitVec 8) := none
  jvBank : Bool := false
  jvPage : BitVec 4 := 0
  -- cox (01, 18)
  coxMismatch : Nat := 0
  coxFailed : Bool := false
  coxUntil : Nat := 0
  /-- the read that the cox has under way, and the number of the next one -/
  coxRead : Option CoxRead := none
  coxReads : Nat := 0
  -- surge governor (17): recent grants, queue of requests with their beats, stagger
  grants : List Nat := []
  surgeQueue : List (Nat × Nat) := []
  stagger : Bool := false
  -- die seam and ports (16, 14)
  /-- the JOIN_ID last heard over the seam link at crew 255 and at crew 0 (R443); 0: none -/
  twinHigh : BitVec 16 := 0
  twinLow : BitVec 16 := 0
  portFailed : BitVec 4 := 0
  portCrc : Table Nat := []
  portResends : Table Nat := []
  /-- frames handed to the four viaduct ports, in order: the port, the beat at which its credit lets the frame leave, the frame (the
  model's own: what leaves the block) -/
  viaOut : List (Nat × Nat × BitVec 256) := []
  /-- stacks handed to the seam link at crew 255, in order, with their context (R294; the model's own: what leaves the block) -/
  seamOut : List (Nat × List Word) := []
  /-- spans whose unfencing waits for the block boundary (R493): span, core or 0xFFFF -/
  unfences : List (Nat × Nat) := []
  deriving DecidableEq, Repr

/-- The fault ring (R483). -/
structure FaultRing where
  records : Table (BitVec 512) := []
  wr : BitVec 8 := 0
  rd : BitVec 8 := 0
  unread : BitVec 9 := 0
  lost : BitVec 16 := 0
  seq : BitVec 32 := 0
  deriving DecidableEq, Repr

/-- The management mailbox (R541, R542). -/
structure Mailbox where
  inbound : Table (BitVec 512) := []
  inWr : BitVec 3 := 0
  inCount : BitVec 4 := 0
  fullDrop : Bool := false
  outbound : Table (BitVec 512) := []
  outRd : BitVec 3 := 0
  outCount : BitVec 4 := 0
  /-- messages of the cox that wait for a free outbound slot -/
  waiting : List (BitVec 512) := []
  deriving DecidableEq, Repr

/-- A journal record to be appended (R508): type and payload. -/
structure JRec where
  type : Nat
  payload : List Byte
  deriving DecidableEq, Repr

/-- Start and the ledger (19). `step`, `st`: START_STATUS. -/
structure Start where
  step : BitVec 4 := 0
  /-- STATE: 0 SCAN, 1 RUNNING, 2 READY, 3 RETRY_WAIT, 4 BLOCKED -/
  st : BitVec 3 := 0
  fencedSpans : BitVec 16 := 0
  attempt : BitVec 32 := 0
  alt : BitVec 14 := 0
  skipped : BitVec 14 := 0
  first : Nat := 0
  /-- beat at which the attempt, the step, the retry wait began -/
  began : Nat := 0
  stepBegan : Nat := 0
  waitBegan : Nat := 0
  /-- a BEGIN entry stands with no END entry -/
  running : Bool := false
  /-- ATTEMPT and LEDGER records held until ST3 (R499) -/
  heldBack : List JRec := []
  counts : Table Nat := []
  lastEnd : Table (BitVec 128) := []
  /-- ST8 has asked management for patches (R527) -/
  patchAsked : Bool := false
  patches : Option (List (Nat × Nat)) := none
  /-- images of the answer that have been read -/
  patchAt : Nat := 0
  /-- spans in STEADY until a calibration passes (R501) -/
  forceSteady : BitVec 16 := 0
  servicePier : Nat := 0
  linksUp : Bool := false
  /-- links that ST11 closed: link c lies between crews c and c + 1 (R22, R502), 255 is the seam link at crew 255, and 256 that at crew 0 -/
  closedLinks : List Nat := []
  deriving DecidableEq, Repr

/-- The journal: two MRAM banks (R509 to R512). -/
structure Journal where
  bankA : Memory := []
  bankB : Memory := []
  active : Bool := false
  mounted : Bool := false
  compacting : Bool := false
  lost : Bool := false
  dropped : BitVec 16 := 0
  epoch : BitVec 64 := 0
  /-- bytes used in the active bank, and the next sequence number -/
  fill : Nat := 0
  next : BitVec 32 := 1
  queue : List JRec := []
  deriving DecidableEq, Repr

/-- The resident library (20): patch RAM, patch directory entries, ROM routines marked absent. -/
structure Library where
  patch : Memory := []
  patchUsed : Nat := 0
  dir : Table (BitVec 512) := []
  romLoaded : Bool := false
  absent : List Nat := []
  romVer : BitVec 16 := 0
  images : BitVec 3 := 0
  rejected : Bool := false
  romPartial : Bool := false
  patchSvn : BitVec 32 := 0
  deriving DecidableEq, Repr

/-- The whole state of the block. -/
structure State where
  time : TimeBase
  glob : Global
  admin : Four Admin
  ctx : Four Ctx
  spans : Table Span
  crews : Table Crew
  cores : Table Core
  hists : Table Hist
  ring : FaultRing
  mbox : Mailbox
  start : Start
  journal : Journal
  lib : Library
  /-- beats counted for each span by what its cores did, key 64 × span + event code of the performance counters (15) -/
  tally : Table Nat
  /-- bytes of the shared cache (log 4) -/
  mem : Memory
  /-- the counter that free values are applied to (the model's own) -/
  free : Nat
  /-- the commands waiting, first in, first out (the model's own) -/
  pending : List Instr
  deriving DecidableEq, Repr

/-- The block right after a cold reset (02, Resets: every state is cleared except the journal; the registers of 21 at the
reset values of their tables). DESIGN CHOICE values: log 4 to 6. -/
def State.reset : State :=
  { time := {}
    glob := {}
    admin := ⟨{}, {}, {}, {}⟩
    ctx := ⟨{}, {}, {}, {}⟩
    spans := []
    crews := []
    cores := []
    hists := []
    ring := {}
    mbox := {}
    start := {}
    journal := {}
    lib := {}
    tally := []
    mem := []
    free := 0
    pending := [] }

/-- The reasons for which a step could fault. No meaning raises one today: the spec describes the effect of every row, and
a fault of the hardware is a halt record in the state. -/
inductive Fault where
  /-- raised by no row; kept so that the list is closed. Safe: the machine would stop where the hardware goes on. -/
  | unreachable
  deriving DecidableEq, Repr

/-- The reasons for which a step could be refused. -/
inductive Refusal where
  /-- an arm of the dispatcher whose meaning is not written. Safe: the machine stops where the hardware goes on. -/
  | notModelled (mnemonic : String)
  deriving DecidableEq, Repr

end Sys2Proof.Machine
end

