-- ==== Sys2Proof/Machine/Bank.lean ====
section
/-! DEFINITION. CRC-32C, the records of a journal bank, and the appends of the cox (19_start_and_journal.md R508, R509). -/

namespace Sys2Proof.Machine

/-! ## CRC-32C (R391) -/

/-- One bit of the reflected CRC: the polynomial 0x1EDC_6F41 reflected is 0x82F6_3B78. -/
def crcBit (r : Nat) : Nat := if r % 2 = 1 then (r / 2) ^^^ 0x82F63B78 else r / 2

def crcByte (r : Nat) (b : Byte) : Nat := (List.range 8).foldl (fun v _ => crcBit v) (r ^^^ b.toNat)

/-- CRC-32C: reflected, initial value and final XOR 0xFFFF_FFFF. -/
def crc32c (l : List Byte) : Nat := (l.foldl crcByte 0xFFFFFFFF) ^^^ 0xFFFFFFFF

/-! ## Records and appends -/

/-- Bytes of a bank. -/
def bankBytes : Nat := 0x80000

/-- A record as it lies in a bank (R508): header with CRC, payload padded to 16 B. -/
def recordBytes (type seq : Nat) (payload : List Byte) : List Byte :=
  let padded := payload ++ List.replicate ((16 - payload.length % 16) % 16) 0#8
  let head := leBytes 2 type ++ leBytes 2 payload.length ++ leBytes 4 seq
  head ++ leBytes 4 (crc32c (head ++ padded)) ++ leBytes 4 0 ++ padded

/-- The active bank. -/
def Journal.bank (j : Journal) : Memory := if j.active then j.bankB else j.bankA
def Journal.setBank (j : Journal) (m : Memory) : Journal := if j.active then { j with bankB := m } else { j with bankA := m }

/-- Write one record at the end of the active bank, where it has room (R509). -/
def Journal.append (j : Journal) (type : Nat) (payload : List Byte) : Option Journal :=
  let b := recordBytes type j.next.toNat payload
  if j.mounted && j.fill + b.length ≤ bankBytes then
    some { j.setBank (Memory.writeBytes j.fill b j.bank) with fill := j.fill + b.length, next := j.next + 1 }
  else none

/-- Append records in order, as far as the bank has room: the journal and those that are left. -/
def Journal.appendAll (j : Journal) : List JRec → Journal × List JRec
  | [] => (j, [])
  | r :: t =>
    match j.append r.type r.payload with
    | some j' => j'.appendAll t
    | none => (j, r :: t)

/-- Append what waits, as far as the bank has room. -/
def Journal.drain (j : Journal) : Journal :=
  let (j', left) := j.appendAll j.queue
  { j' with queue := left }

/-- A record that the cox is asked for (R509): appended at once where the bank has room, behind what waits; else it waits. A FAULT record that finds
64 waiting is dropped and counted; past them another record stands for the control step that waits. DESIGN CHOICE (log 107): the appends' control
steps take no time, and a cox that has failed takes none (R494). -/
def Journal.ask (j : Journal) (works : Bool) (type : Nat) (payload : List Byte) : Journal :=
  let j := if works then j.drain else j
  if type = 0x0013 && j.queue.length ≥ 64 then { j with dropped := satAdd j.dropped 1 }
  else
    let j := { j with queue := j.queue ++ [⟨type, payload⟩] }
    if works then j.drain else j

/-- Does the journal take one more record without its control step waiting (R509)? -/
def Journal.canTake (j : Journal) : Bool := j.drain.queue.length < 64

/-- The cox is asked for a record. -/
def State.journalAsk (s : State) (type : Nat) (payload : List Byte) : State :=
  { s with journal := s.journal.ask (!s.glob.coxFailed) type payload }

end Sys2Proof.Machine
end

