-- ==== Sys2Proof/Machine/Ops.lean ====
section
/-! DEFINITION. Operations that the meanings share: the parts of the state, time, ownership, domain windows, fault records,
the ring, and the raising of a halt. -/

namespace Sys2Proof.Machine

/-- A quotient rounded up. -/
def ceilDiv (a b : Nat) : Nat := (a + b - 1) / b

/-! ## Parts of the state -/

namespace State

def ctxOf (s : State) (c : Fin 4) : Ctx := s.ctx.get c
def setCtx (s : State) (c : Fin 4) (x : Ctx) : State := { s with ctx := s.ctx.set c x }
def adminOf (s : State) (c : Fin 4) : Admin := s.admin.get c
def setAdmin (s : State) (c : Fin 4) (x : Admin) : State := { s with admin := s.admin.set c x }
def spanOf (s : State) (n : Nat) : Span := s.spans.get n {}
def setSpan (s : State) (n : Nat) (x : Span) : State := { s with spans := s.spans.set n x }
def crewOf (s : State) (n : Nat) : Crew := s.crews.get n {}
def setCrew (s : State) (n : Nat) (x : Crew) : State := { s with crews := s.crews.set n x }
def coreOf (s : State) (n : Nat) : Core := s.cores.get n {}
def setCore (s : State) (n : Nat) (x : Core) : State := { s with cores := s.cores.set n x }
def histOf (s : State) (n : Nat) : Hist := s.hists.get n {}
def setHist (s : State) (n : Nat) (x : Hist) : State := { s with hists := s.hists.set n x }
def setMem (s : State) (m : Memory) : State := { s with mem := m }
def setGlob (s : State) (g : Global) : State := { s with glob := g }

/-- Local time in ns (R448). -/
def now (s : State) : Nat := s.time.now.toNat

end State

def Ctx.stream (x : Ctx) (execute : Bool) : Stream := if execute then x.exec else x.access
def Ctx.setStream (x : Ctx) (execute : Bool) (t : Stream) : Ctx := if execute then { x with exec := t } else { x with access := t }
def Ctx.channel (x : Ctx) (ch : Nat) : Channel := x.channels.get ch {}
def Ctx.setChannel (x : Ctx) (ch : Nat) (v : Channel) : Ctx := { x with channels := x.channels.set ch v }
def Ctx.bay (x : Ctx) (n : Nat) : Bay := x.bays.get n {}
def Ctx.counter (x : Ctx) (n : Nat) : Word := x.counters.get n 0#32
def Ctx.flag (x : Ctx) (n : Nat) : BitVec 16 := x.flags.get n 0#16

/-- The descriptor table changes: what it held before the first change of a control beat is kept (R96). -/
def Ctx.changeDescs (x : Ctx) (beat : Nat) (t : Table (BitVec 1024)) : Ctx :=
  if x.descBeat = some beat then { x with descs := t }
  else { x with descs := t, descOld := x.descs, descBeat := some beat, descLoaded := [] }

/-- The descriptors that a snapshot of a control beat finds: without the writes that take effect in that beat (R96). -/
def Ctx.descsAt (x : Ctx) (beat : Nat) : Table (BitVec 1024) := if x.descBeat = some beat then x.descOld else x.descs

/-- The context numbers. -/
def allCtx : List (Fin 4) := [0, 1, 2, 3]

/-- A context number from a field. -/
def ctxNo (n : Nat) : Fin 4 := ⟨n % 4, Nat.mod_lt n (by decide)⟩

/-- Is bit n set? -/
def bit {w : Nat} (v : BitVec w) (n : Nat) : Bool := v.getLsbD n

/-- Set or clear bit n. -/
def putBit {w : Nat} (v : BitVec w) (n : Nat) (b : Bool) : BitVec w :=
  if b then v ||| BitVec.ofNat w (2 ^ n) else v &&& ~~~(BitVec.ofNat w (2 ^ n))

/-- Bits [hi:lo] of a word as a number (R6). -/
def field {w : Nat} (v : BitVec w) (lo n : Nat) : Nat := v.toNat / 2 ^ lo % 2 ^ n

/-- A field read as a signed number. -/
def sfield {w : Nat} (v : BitVec w) (lo n : Nat) : Int :=
  let u := field v lo n
  if u < 2 ^ (n - 1) then (u : Int) else (u : Int) - 2 ^ n

/-- A record built from fields: byte offset, bytes, value (R7). -/
def pack (fields : List (Nat × Nat × Nat)) : Nat :=
  fields.foldl (fun acc f => acc + (f.2.2 % 256 ^ f.2.1) * 256 ^ f.1) 0

/-- A register built from fields: bit position, width, value. -/
def packBits (fields : List (Nat × Nat × Nat)) : BitVec 64 :=
  BitVec.ofNat 64 (fields.foldl (fun acc f => acc + (f.2.2 % 2 ^ f.2.1) * 2 ^ f.1) 0)

/-- 1 for true. -/
def b2n (b : Bool) : Nat := if b then 1 else 0

/-- The bytes of a record. -/
def recBytes {w : Nat} (v : BitVec w) : List Byte := leBytes (w / 8) v.toNat

/-! ## Time -/

/-- Local time after `n` control beats (R448): a stop and a half-rate absorption first (R449, R451). Units of 1/18 ns. -/
def TimeBase.advance (t : TimeBase) (n : Nat) : TimeBase :=
  let total := 10 * n
  let held := min t.stopped total
  let free := total - held
  let slew := if free ≥ 2 * t.lag then t.lag else free / 2
  let units := t.frac + (free - slew)
  { t with beat := t.beat + n, stopped := t.stopped - held, lag := t.lag - slew
           now := t.now + BitVec.ofNat 64 (units / 18), frac := units % 18 }

/-- Denominator of a span's beat count: 18 × lcm(8 … 16). -/
def beatUnit : Nat := 18 * 720720

/-- Span-beat units that a span gains in one control beat: (6 + point) × 8 / (18 × (8 + stretch)) beats (R458, R461); none
in REST, where the clock is gated (R459). -/
def Span.rate (x : Span) : Nat :=
  if x.pace = 5 then 0 else (6 + x.point.toNat) * 8 * (720720 / (8 + x.stretch.toNat))

/-- The span's beat counter now (R4). -/
def Span.beatAt (x : Span) (beat : Nat) : Nat := x.beats + (x.frac + (beat - x.since) * x.rate) / beatUnit

/-- Fix the beat count before a change of rate. -/
def Span.rebase (x : Span) (beat : Nat) : Span :=
  let u := x.frac + (beat - x.since) * x.rate
  { x with beats := x.beats + u / beatUnit, frac := u % beatUnit, since := beat }

def State.spanBeat (s : State) (n : Nat) : Nat := (s.spanOf n).beatAt s.time.beat

/-- The control beat, up to `now`, at which a span reached a span beat; no earlier than the last change of its rate. -/
def Span.controlAt (x : Span) (spanBeat now : Nat) : Nat :=
  if x.beatAt now ≤ spanBeat then now
  else if spanBeat ≤ x.beats then min now x.since
  else min now (x.since + ceilDiv ((spanBeat - x.beats) * beatUnit - x.frac) x.rate)

/-! ## Ownership (R14, R23) -/

def crewSpan (crew : Nat) : Nat := crew / 16
def coreCrew (core : Nat) : Nat := core / 8
def coreSpan (core : Nat) : Nat := core / 128

/-- The context that owns a span. -/
def State.owner (s : State) (span : Nat) : Option (Fin 4) := allCtx.find? (fun c => bit (s.adminOf c).owned span)

/-- Spans of a mask, ascending. -/
def spansOf (mask : BitVec 16) : List Nat := (List.range 16).filter (bit mask)

/-- The spans a context may plan on: owned and not leaving (R435). -/
def State.spansFor (s : State) (c : Fin 4) : BitVec 16 := (s.adminOf c).owned &&& ~~~(s.adminOf c).leaving

/-- The context's crews in ascending order (R168): context crew index k is the k-th. -/
def crewsOf (mask : BitVec 16) : List Nat := (spansOf mask).flatMap (fun p => (List.range 16).map (fun k => 16 * p + k))

def State.isFenced (s : State) (core : Nat) : Bool := bit (s.spanOf (coreSpan core)).fence (core % 128)

/-- A live context that is not halting: it issues, deals and starts (R474). -/
def State.runs (s : State) (c : Fin 4) : Bool := decide ((s.adminOf c).state = .live) && (s.ctxOf c).halt.isNone

/-- A live context for which causes are still found: one that runs, or one that halts and whose work in flight has not been settled yet
(R474, R475, R478). -/
def State.judges (s : State) (c : Fin 4) : Bool :=
  decide ((s.adminOf c).state = .live) && (s.ctxOf c).halt.all (fun h => !h.settled)

/-- Does a context halt in the present beat (R478)? -/
def State.haltsNow (s : State) (c : Fin 4) : Bool := s.judges c && (s.ctxOf c).halt.any (fun h => h.beat = s.time.beat)

/-- Do the stages of a context act that a halt does not stop in its own beat, which are all but issue, the deal and the start of a VSHORT
(R474, R478)? -/
def State.inBeat (s : State) (c : Fin 4) : Bool := s.runs c || s.haltsNow c

/-- Is the page of a context open: host writes to it are ignored in FREE, CREATING and TEARING_DOWN (R536)? -/
def State.pageOpen (s : State) (c : Fin 4) : Bool :=
  match (s.adminOf c).state with | .free | .creating | .tearingDown => false | _ => true

/-! ## What cores do over time (15: CORE_BUSY, the stalls, and the counters of beats) -/

/-- The span beat up to which a crew's short port is occupied (R185). -/
def Crew.portUntil (k : Crew) : Nat := match k.lastStart with | some (t, n) => t + n | none => 0

/-- What a held tile does: none where it executes, else the event code of the first cause that holds it: the pier (0x0D), a bank or an
operand-feed credit (0x0E), a hold point, a carry or the viaduct (0x10). No tile that a core holds waits for a data queue: one that would is not
dealt (R162, R203). DESIGN CHOICE (log 16): a tile that waits for a halo or a carry counts as held at a hold point. -/
def State.tileCause (s : State) (core : Nat) (h : Nat × Bool × Nat × Nat) : Option Nat :=
  let x := s.ctxOf (ctxNo h.1)
  match (x.stream h.2.1).inflight.find? (fun m => 8 * m.index + m.slot = h.2.2.1) with
  | none => some 0x10
  | some m =>
    let r := m.tiles.get h.2.2.2 {}
    let unsent : Bool := (s.spanOf (coreSpan core)).writes.any (fun w =>
      w.ctx = some h.1 && w.execute = h.2.1 && w.index = h.2.2.1 && w.tile = h.2.2.2 && !w.sent)
    match r.status with
    | .executing => if r.out.isSome && unsent then some 0x0D else none
    | .loading => some 0x0D
    | _ =>
      if m.slot = 3 && (s.crewOf (coreCrew core)).banks.any (fun e => e.2.ctx = h.1 && e.2.index = h.2.2.1 && !e.2.finished) then some 0x0E
      else some 0x10

/-- Does a core hold the correction of an attention chain (R320)? -/
def State.corrects (s : State) (core : Nat) : Bool :=
  match s.owner (coreSpan core) with
  | none => false
  | some c => (s.ctxOf c).exec.inflight.any (fun m => m.attn.any (fun e => e.2.staged = some core))

/-- What a core that holds tiles does: none where it executes, else the first cause in the order of the span entry. -/
def State.coreCause (s : State) (core : Nat) : Option Nat :=
  let l := (s.coreOf core).held.map (s.tileCause core)
  if l.contains none || s.corrects core then none else some ((l.filterMap id).foldl min 0x12)

/-- What a core without a tile counts as: SYNC where a stream of the owner is blocked under R159, else IDLE. -/
def State.emptyCause (s : State) (span : Nat) : Nat :=
  let blocked (t : Stream) : Bool := t.blocked ≠ [] || t.deal ≠ []
  match s.owner span with
  | some c => if blocked (s.ctxOf c).access || blocked (s.ctxOf c).exec then 0x11 else 0x12
  | none => 0x12

/-- Add `d` beats of a span from span beat `b` on to the tally: its cores by what they do, its matrix engines that wait for a bank, its
occupied park lines, its short ports, and its stretched beats. -/
def State.accountSpan (s : State) (n b d : Nat) (t : Table Nat) : Table Nat :=
  let add (t : Table Nat) (e v : Nat) : Table Nat := if v = 0 then t else t.set (64 * n + e) (t.get (64 * n + e) 0 + v)
  let crews := s.crews.filter (fun e => crewSpan e.1 = n)
  let port (k : Nat) : Nat := min d ((s.crewOf k).portUntil - b)
  let busy := (s.cores.filter (fun e => coreSpan e.1 = n && (!e.2.held.isEmpty || s.corrects e.1))).map (fun e => (e.1, s.coreCause e.1))
  let bare (k : Nat) : Nat := 8 - busy.countP (fun q => coreCrew q.1 = k)
  let t := busy.foldl (fun t q => match q.2 with
    | none => add t 0x02 d
    | some e => add (add t 0x02 (port (coreCrew q.1))) e (d - port (coreCrew q.1))) t
  let short := (crews.map (fun e => port e.1 * bare e.1)).sum
  let t := add (add t 0x02 short) (s.emptyCause n) ((128 - busy.length) * d - short)
  let t := add t 0x13 ((crews.countP (fun e => e.2.banks.any (fun q => q.2.meSince.isSome))) * d)
  let t := add t 0x15 ((crews.map (fun e => e.2.parked)).sum * d)
  let t := add t 0x16 ((crews.map (fun e => port e.1)).foldl max 0)
  add t 0x17 (if (s.spanOf n).stretch ≠ 0 then d else 0)

/-- The tally once time has run to a control beat: the beats of every owned span since. -/
def State.account (s : State) (beat : Nat) : Table Nat :=
  ((List.range 16).filter (fun n => (s.owner n).isSome)).foldl (fun t n =>
    let x := s.spanOf n
    let b := x.beatAt s.time.beat
    s.accountSpan n b (x.beatAt beat - b) t) s.tally

/-- Let time run to a control beat; time never goes back (log 3). -/
def State.advanceTo (s : State) (beat : Nat) : State :=
  if beat ≤ s.time.beat then s else { s with time := s.time.advance (beat - s.time.beat), tally := s.account beat }

/-- One idle control beat: what a step does on an empty queue (log 2). -/
def tick (s : State) : State := { s with time := s.time.advance 1, tally := s.account (s.time.beat + 1) }

/-- A span has held tiles or run short operations up to now (R469). -/
def State.busyNow (s : State) (span : Nat) : State :=
  let x := s.spanOf span
  s.setSpan span { x with busyUntil := max x.busyUntil (s.spanBeat span) }

/-- The spans of a context on which a core holds a tile have been busy up to now. -/
def State.wasBusy (s : State) (c : Fin 4) : State :=
  ((spansOf (s.adminOf c).owned).filter (fun n => s.cores.any (fun e => coreSpan e.1 = n && !e.2.held.isEmpty))).foldl State.busyNow s

/-! ## Domain windows (R43, R106, R441) -/

/-- The windows as the registers hold them. -/
def Admin.windows (a : Admin) : Windows := ⟨a.winBase, a.winLimit, a.winEn, a.winWr⟩

/-- The windows in force: a write takes effect in the beat after it (R442). -/
def State.windowsOf (s : State) (c : Fin 4) : Windows :=
  match (s.adminOf c).winWas with
  | some (b, w) => if b = s.time.beat then w else (s.adminOf c).windows
  | none => (s.adminOf c).windows

/-- First and last address of a window; is it open to reads, or to writes? -/
def Windows.first (a : Windows) (w : Nat) : Int := (a.base.get w 0#52).toNat * 4096
def Windows.last (a : Windows) (w : Nat) : Int := (a.limit.get w 0#52).toNat * 4096 + 4095
def Windows.opens (a : Windows) (w : Nat) (write : Bool) : Bool := bit a.en w && (!write || bit a.wr w)

/-- Does [lo, hi] lie wholly within window w of the context, enabled, and writable where `write` asks for it? -/
def State.inWindow (s : State) (c : Fin 4) (w : Nat) (lo hi : Int) (write : Bool) : Bool :=
  let a := s.windowsOf c
  a.opens w write && decide (a.first w ≤ lo) && decide (hi ≤ a.last w)

/-! ## Fault records (R480 to R485) -/

/-- A cause as its record tells it. -/
structure Cause where
  code : Nat
  slot : Nat := 7
  tag : Word := 0
  addr : BitVec 64 := 0
  coord : Nat := 0xFFFFFFFFFFFFFFFF
  core : Nat := 0xFFFF
  lane : Nat := 0xFF
  detail : Nat := 0
  deriving DecidableEq, Repr

/-- Local time in ns at an earlier control beat. -/
def State.nowAt (s : State) (beat : Nat) : Nat :=
  if s.time.beat ≤ beat then s.now else (18 * s.now + s.time.frac - 10 * (s.time.beat - beat)) / 18

/-- The fault record of a cause that arose at a local time (R480), SEQ left at 0 until it is written. `ctx` is 7 for a block record. -/
def State.recordAt (s : State) (ctx : Nat) (halt : Bool) (q : Cause) (now : Nat) : BitVec 512 :=
  let stroke := if ctx < 4 then (s.ctxOf (ctxNo ctx)).stroke.toNat else s.glob.blockStroke.toNat
  BitVec.ofNat 512 (pack
    [(0, 2, q.code), (2, 1, q.slot + 8 * ctx + 64 * b2n s.glob.block + 128 * b2n halt), (4, 4, q.tag.toNat),
     (8, 8, q.addr.toNat), (16, 8, stroke), (24, 8, now), (32, 8, q.coord), (40, 2, q.core), (42, 1, q.lane),
     (48, 16, q.detail)])

/-- The fault record of a cause that arises now. -/
def State.record (s : State) (ctx : Nat) (halt : Bool) (q : Cause) : BitVec 512 := s.recordAt ctx halt q s.now

/-- Put SEQ into a record. -/
def withSeq (r : BitVec 512) (seq : BitVec 32) : BitVec 512 :=
  (r &&& ~~~(BitVec.ofNat 512 (0xFFFFFFFF * 256 ^ 44))) ||| BitVec.ofNat 512 (seq.toNat * 256 ^ 44)

/-- One record into the ring: over the oldest unread one where 256 are unread (R483). -/
def FaultRing.push (f : FaultRing) (r : BitVec 512) : FaultRing :=
  let f' := { f with records := f.records.set f.wr.toNat (withSeq r f.seq), wr := f.wr + 1, seq := f.seq + 1 }
  if f.unread = 256 then { f' with rd := f.rd + 1, lost := satAdd f.lost 1 } else { f' with unread := f.unread + 1 }

/-- Hardware sets a W1C bit of IRQ_CAUSE, or, from 64 on, of ALERT_CAUSE, in this beat (R534). -/
def State.setsBit (s : State) (n : Nat) : State := s.setGlob { s.glob with setAt := s.glob.setAt.set n s.time.beat }

/-- The bits from `base` on that hardware has set in this beat: a write does not clear them (R534). -/
def State.freshBits (s : State) (base : Nat) : BitVec 64 :=
  (s.glob.setAt.filter (fun e => e.1 / 64 = base / 64 && e.2 = s.time.beat)).foldl (fun v e => putBit v (e.1 % 64) true) 0

/-- Write a record: the ring, its interrupt (R483), and the journal's copy of class 0x0A but for CORRECTED (R508). -/
def State.ringWrite (s : State) (r : BitVec 512) : State :=
  let code := field r 0 16
  let r' := withSeq r s.ring.seq
  let s := ({ s with ring := s.ring.push r, glob := { s.glob with faultIrq := true } } : State).setsBit 2
  if code / 256 = 0x0A && code ≠ 0x0A81 then s.journalAsk 0x0013 (recBytes r') else s

/-- An absorbed event: a record that halts nothing (R472). -/
def State.absorb (s : State) (ctx : Nat) (q : Cause) : State := s.ringWrite (s.record ctx false q)

/-- An alert cause bit (R537, ALERT_CAUSE) and the ALERT message to management (R542). -/
def alertMessage (alerts step span : Nat) : BitVec 512 :=
  BitVec.ofNat 512 (pack [(0, 2, 0x8002), (8, 8, alerts + 65536 * step + 1048576 * span)])

/-- Post an outbound message into a free slot, or let it wait for one (R541). -/
def Mailbox.send (m : Mailbox) (v : BitVec 512) : Mailbox :=
  if m.waiting.isEmpty && m.outCount.toNat < 8 then
    { m with outbound := m.outbound.set ((m.outRd.toNat + m.outCount.toNat) % 8) v, outCount := m.outCount + 1 }
  else { m with waiting := m.waiting ++ [v] }

/-- Raise alert cause bit n, with the step or the span it names. -/
def State.alert (s : State) (n : Nat) (step span : Option Nat) : State :=
  let g := s.glob
  let g := { g with alerts := putBit g.alerts n true
                    alertStep := (step.map (BitVec.ofNat 4)).getD g.alertStep
                    alertSpan := (span.map (BitVec.ofNat 4)).getD g.alertSpan }
  ({ s with glob := g, mbox := s.mbox.send (alertMessage g.alerts.toNat g.alertStep.toNat g.alertSpan.toNat) } : State).setsBit (64 + n)

/-- One bad access (R532). -/
def State.countBad (s : State) : State := s.setGlob { s.glob with badAccess := satAdd s.glob.badAccess 1 }

/-! ## Halts (R474 to R478, R482) -/

/-- The oldest bundle of a stream with a part not yet completed. -/
def Stream.oldest (t : Stream) : Option (Word × BitVec 64) :=
  match t.inflight, t.queue with
  | m :: _, _ => some (m.tag, m.addr)
  | [], e :: _ => some (e.tag, e.addr)
  | [], [] => none

/-- TAG and BUNDLE of a halt that no bundle caused (R482). -/
def Ctx.oldestBundle (x : Ctx) : Word × BitVec 64 :=
  match x.exec.oldest, x.access.oldest with
  | some p, _ => p
  | none, some p => p
  | none, none => (0, 0)

/-- Does the halt of a context yield its record to another cause: of an earlier beat, of the lower code in one beat (R478), or, of line checks in
one beat, of the lower crew (R190)? -/
def Halting.yields (h : Halting) (q : Cause) (beat : Nat) : Bool :=
  decide (beat < h.beat) || (h.beat = beat && (decide (q.code < h.code) ||
    (q.code = h.code && q.code / 256 = 4 && decide (q.detail % 65536 < field h.record 384 16))))

/-- A halt cause of context c arose at a control beat, up to now (R474, R478): the first beat's lowest code is recorded, every other cause counts
as SECONDARY; in RESETTING and TEARING_DOWN it is discarded. -/
def State.raiseAt (s : State) (c : Fin 4) (q : Cause) (beat : Nat) : State :=
  let x := s.ctxOf c
  let new : Halting := ⟨s.recordAt c.val true q (s.nowAt beat), q.code, beat, false⟩
  match (s.adminOf c).state with
  | .live =>
    match x.halt with
    | none => s.setCtx c { x with halt := some new }
    | some h => s.setCtx c { x with halt := some (if h.yields q beat then { new with settled := h.settled } else h)
                                    secondary := satAdd x.secondary 1 }
  | .halted => s.setCtx c { x with secondary := satAdd x.secondary 1 }
  | _ => s

/-- A halt cause of context c arises now. -/
def State.raise (s : State) (c : Fin 4) (q : Cause) : State := s.raiseAt c q s.time.beat

/-- A halt that no bundle caused: TAG and BUNDLE under R482. -/
def State.raiseBare (s : State) (c : Fin 4) (q : Cause) : State :=
  let (t, a) := (s.ctxOf c).oldestBundle
  s.raise c { q with tag := t, addr := a }

/-- Halt every context for which `p` holds, after the block record (R476). -/
def State.raiseAll (s : State) (p : Fin 4 → Bool) (q : Cause) : State :=
  let s := s.ringWrite (s.record 7 (allCtx.any (fun c => p c && decide ((s.adminOf c).state = .live))) q)
  allCtx.foldl (fun s c => if p c then s.raiseBare c q else s) s

/-- What each lifecycle state opens (16): 0 MANUFACTURE, 1 PRODUCTION, 2 RETURN (R65). -/
def testAccess (lifecycle : BitVec 2) : TestAccess :=
  match lifecycle with
  | 0 => { wrappers := true, instruments := true, debug := .full, contexts := true }
  | 1 => {}
  | _ => { wrappers := true, instruments := true, debug := .readOnly, contexts := true }

/-- A control step of the cox has completed: the mismatches counted against it are done with (R29). -/
def State.coxStep (s : State) : State := s.setGlob { s.glob with coxMismatch := 0, coxUntil := 0 }

/-! ## Pier reads (R45) -/

/-- The lowest free tag of a pier: 64 read credits. -/
def Span.freeTag (x : Span) : Option Nat := (List.range 64).find? (fun t => (x.reads.find t).isNone)

/-- A read goes out under a tag, in the pier's order (R45, R46). -/
def Span.sendRead (x : Span) (tag : Nat) (r : PierRead) : Span :=
  { x with reads := x.reads.set tag { r with seq := x.accesses }, accesses := x.accesses + 1 }

/-- The free tags of a pier. -/
def Span.freeTags (x : Span) : List Nat := (List.range 64).filter (fun t => (x.reads.find t).isNone)

/-- Send a tile's pier reads while tags are free (R38, R45). -/
def Span.sendReads (x : Span) (ctx : Nat) (tile : Bool × Nat × Nat) (beat attempt : Nat) (l : List (Int × Int)) : Span :=
  (x.freeTags.zip l).foldl (fun x q => x.sendRead q.1 ⟨ctx, some tile, beat, attempt, q.2.1, q.2.2, 0⟩) x

/-! ## Pier writes (R45, R46) -/

/-- Give the writes that wait the free ones of the 32 credits, oldest first (R45). -/
def Span.useCredits (x : Span) (beat : Nat) : Span :=
  let (l, _, n) := x.writes.foldl (fun (acc : List PierWrite × Nat × Nat) w =>
    if !w.sent && acc.2.1 < 32 then (acc.1 ++ [{ w with sent := true, beat := beat, seq := acc.2.2 }], acc.2.1 + 1, acc.2.2 + 1)
    else (acc.1 ++ [w], acc.2.1, acc.2.2)) ([], x.writes.countP (fun w => w.sent), x.accesses)
  { x with writes := l, accesses := n }

/-- Writes join the pier's list and are sent as far as credits allow (R38, R45). -/
def Span.addWrites (x : Span) (l : List PierWrite) (beat : Nat) : Span :=
  ({ x with writes := x.writes ++ l }).useCredits beat

/-- Does an access of lines [lo, hi] of 256 B wait for an older access of the same pier to one of them (R46)? `but`: the accesses that
do not count. -/
def Span.ordered (x : Span) (seq : Nat) (lo hi : Int) (reads writes : Bool) (but : PierWrite → Bool) : Bool :=
  (reads && x.reads.any (fun e => e.2.seq < seq && e.2.lo / 256 ≤ hi / 256 && lo / 256 ≤ e.2.hi / 256)) ||
    (writes && x.writes.any (fun w => w.sent && w.seq < seq && !but w && (w.block : Int) * 2 ≤ hi / 256 &&
      lo / 256 ≤ (w.block : Int) * 2 + 1))

/-- Does an older access of the pier to one of their lines come before the writes of a tile that have been sent (R46)? -/
def Span.held (x : Span) (mine : PierWrite → Bool) : Bool :=
  x.writes.any (fun w => mine w && w.sent && x.ordered w.seq (512 * w.block) (512 * w.block + 511) true true mine)

/-- The shared cache accepts writes that have been sent: their credits return, and writes that wait go out (R45). -/
def State.acceptWrites (s : State) (span : Nat) (mine : PierWrite → Bool) : State :=
  let sp := s.spanOf span
  s.setSpan span (({ sp with writes := sp.writes.filter (fun w => !(mine w && w.sent)) }).useCredits (s.spanBeat span))

/-- Writes that no longer belong to a tile that commits are withdrawn, and their credits return. -/
def State.dropWrites (s : State) (gone : PierWrite → Bool) : State :=
  (List.range 16).foldl (fun s n =>
    let sp := s.spanOf n
    if sp.writes.any gone then s.setSpan n (({ sp with writes := sp.writes.filter (fun w => !gone w) }).useCredits (s.spanBeat n)) else s) s

/-- A tile's place in a pier access that is no tile's: its macro's completion record, its parameter block; for the trace of the context. -/
def recordTile : Nat := 2 ^ 32
def blockTile : Nat := 2 ^ 32 + 1
def traceTile : Nat := 2 ^ 32 + 2

/-- The lowest span a context may use. -/
def State.lowestSpan (s : State) (c : Fin 4) : Option Nat := (spansOf (s.spansFor c)).head?

/-- Bytes at an address, cut into the aligned blocks of 512 B that they touch. -/
def blocksOf (addr : Nat) (bytes : List Byte) : List (Nat × List Byte) :=
  (List.range ((addr + bytes.length + 511) / 512 - addr / 512)).map (fun i =>
    let lo := max addr (512 * (addr / 512 + i))
    let hi := min (addr + bytes.length) (512 * (addr / 512 + i) + 512)
    (lo, (bytes.drop (lo - addr)).take (hi - lo)))

/-- A context writes bytes that are no tile's through the pier of its lowest span. -/
def State.sendBytes (s : State) (c : Fin 4) (execute : Bool) (index tile addr : Nat) (bytes : List Byte) : State :=
  match s.lowestSpan c with
  | none => s
  | some n =>
    let beat := s.spanBeat n
    s.setSpan n ((s.spanOf n).addWrites ((blocksOf addr bytes).map (fun q =>
      ({ ctx := some c.val, execute := execute, index := index, tile := tile, block := q.1 / 512, sent := false, beat := beat, retried := false,
         seq := 0, at_ := q.1, bytes := q.2 } : PierWrite))) beat)

/-- The writes of a context that are no tile's, with the span of their pier, in the order of the piers. -/
def State.ownWrites (s : State) (c : Fin 4) (tile : Nat) : List (Nat × PierWrite) :=
  (List.range 16).flatMap (fun n => ((s.spanOf n).writes.filter (fun w => w.ctx = some c.val && w.tile = tile)).map (fun w => (n, w)))

/-- The shared cache accepts such a write where it has been sent and no older access of the pier to its line comes first (R46): its bytes are
there. -/
def State.acceptOwn (s : State) (n : Nat) (w : PierWrite) : Option State :=
  if w.sent && !(s.spanOf n).held (· == w) then some ((s.setMem (Memory.writeBytes w.at_ w.bytes s.mem)).acceptWrites n (· == w)) else none

/-- Sync-flag comparison (R152): f has reached t. -/
def reached (f t : BitVec 16) : Bool := decide ((f - t).toNat < 32768)

/-- A fresh free value and the state that has spent it. -/
def State.takeFree (s : State) : Word × State := (Config.freeWord s.free, { s with free := s.free + 1 })

/-- Update the macro in flight at place i of a stream. -/
def Ctx.setRun (x : Ctx) (execute : Bool) (i : Nat) (m : MacroRun) : Ctx :=
  let t := x.stream execute
  x.setStream execute { t with inflight := t.inflight.set i m }

def State.setRun (s : State) (c : Fin 4) (execute : Bool) (i : Nat) (m : MacroRun) : State :=
  s.setCtx c ((s.ctxOf c).setRun execute i m)

/-- SLOT, TAG and BUNDLE of a macro's cause. -/
def MacroRun.cause (m : MacroRun) (code : Nat) : Cause := { code := code, slot := m.slot, tag := m.tag, addr := m.addr }

end Sys2Proof.Machine
end

