-- ==== Sys2Proof/Machine/Bundle.lean ====
section
/-! DEFINITION. Bundles: their fields and the legality checks of the split (05_bundles_and_streams.md R119 to R141, R547;
the VSHORT slot of 06_operand_cache_and_short_operations.md R181, R182; argument replacement of R519). -/

namespace Sys2Proof.Machine

/-- A bundle of 512 bits (R119). -/
abbrev Bundle := BitVec 512

namespace Bundle

def header (b : Bundle) : BitVec 32 := b.extractLsb' 0 32
def tag (b : Bundle) : Word := b.extractLsb' 32 32
def scalar (b : Bundle) : BitVec 64 := b.extractLsb' 64 64
def vector (b : Bundle) : BitVec 128 := b.extractLsb' 128 128
def matrix (b : Bundle) : BitVec 96 := b.extractLsb' 256 96
def load (b : Bundle) : BitVec 64 := b.extractLsb' 352 64
def store (b : Bundle) : BitVec 64 := b.extractLsb' 416 64
def sync (b : Bundle) : BitVec 32 := b.extractLsb' 480 32

-- Header fields (R120).
def notBefore (b : Bundle) : Nat := field b 0 24
def overlap (b : Bundle) : Bool := bit b 24
def predIdx (b : Bundle) : Nat := field b 25 2
def predNeg (b : Bundle) : Bool := bit b 27
def predEn (b : Bundle) : Bool := bit b 28
def predSync (b : Bundle) : Bool := bit b 29
def version (b : Bundle) : Nat := field b 30 2

-- Scalar slot (R129).
def scalarOp (b : Bundle) : Nat := field b 64 4
def isCall (b : Bundle) : Bool := decide (b.scalarOp = 3)
def routine (b : Bundle) : Nat := field b 68 10
def nh (b : Bundle) : Nat := field b 78 4
def ns (b : Bundle) : Nat := field b 82 3
def imm (b : Bundle) : Word := b.extractLsb' 96 32
/-- H0 to H7 of a CALL (R166). -/
def handle (b : Bundle) (k : Nat) : Nat := field b (128 + 12 * k) 12
/-- ARG_S0 to ARG_S3 of a CALL (R166). -/
def scalarArgs (b : Bundle) : List Word := [b.extractLsb' 96 32, b.extractLsb' 224 32, b.extractLsb' 256 32, b.extractLsb' 288 32]

-- Sync slot (R138).
def syncOp (b : Bundle) : Nat := field b 480 4
def syncStream (b : Bundle) : Nat := field b 484 2
def syncFlag (b : Bundle) : Nat := field b 486 6
def syncEpoch (b : Bundle) : BitVec 16 := b.extractLsb' 492 16
def syncTmo (b : Bundle) : Nat := field b 508 4
/-- Does the sync slot name the stream? -/
def syncNames (b : Bundle) (execute : Bool) : Bool := bit b (if execute then 485 else 484)

end Bundle

/-! ## Checks: a check answers the reason code and the bit position in its slot -/

/-- The lowest set bit of the `n` bits from `lo`, as a position in the slot. -/
def lowestSet (v lo : Nat) : Nat → Option Nat
  | 0 => none
  | n + 1 => if v / 2 ^ lo % 2 = 1 then some lo else lowestSet v (lo + 1) n

/-- Reserved bits [lo, lo + n) (R139). -/
def chkReserved {w : Nat} (v : BitVec w) (lo n : Nat) : Option (Nat × Nat) :=
  (lowestSet v.toNat lo n).map (fun p => (0x0102, p))

/-- An illegal field value (R139). -/
def chkField (cond : Bool) (offset : Nat) : Option (Nat × Nat) := if cond then some (0x0103, offset) else none

/-- An opcode not listed for its slot (R128). -/
def chkOp (cond : Bool) (offset : Nat) : Option (Nat × Nat) := if cond then some (0x0101, offset) else none

/-- The first failure of a list of checks. -/
def firstSlotFail (l : List (Option (Nat × Nat))) : Option (Nat × Nat) := l.findSome? id

def checkHeader (b : Bundle) : Option (Nat × Nat) :=
  if b.version ≠ 1 then some (0x0104, 30)
  else if !b.predEn then
    firstSlotFail [chkField (decide (b.predIdx ≠ 0)) 25, chkField b.predNeg 27, chkField b.predSync 29]
  else none

def checkScalar (b : Bundle) : Option (Nat × Nat) :=
  let v := b.scalar
  match b.scalarOp with
  | 0 => chkReserved v 4 60
  | 1 => firstSlotFail [chkReserved v 12 20, chkField (field v 4 2 ≠ 2 && field v 9 3 ≠ 0) 9,
                    chkField (field v 4 2 ≥ 2 && field v 32 32 ≠ 0) 32]
  | 2 => firstSlotFail [chkReserved v 16 16, chkField (!bit v 12 && field v 9 3 ≠ 0) 9, chkField (field v 13 3 ≥ 6) 13,
                    chkField (bit v 12 && field v 32 32 ≠ 0) 32]
  | 3 => firstSlotFail [chkReserved v 21 11, chkField (b.nh > 8) 14, chkField (b.ns > 4) 18]
  | _ => some (0x0101, 0)

/-- The MODE bits that each vector opcode leaves reserved: first bit and count, in MODE (R225, R271, R282, R290, R297, R309,
R363, R368, R369, R376, R548; VSAMP as 13 states). -/
def modeReserved (op : Nat) : Nat × Nat :=
  match op with
  | 0x01 => (5, 18) | 0x03 => (23, 0) | 0x04 => (4, 19) | 0x05 => (8, 15) | 0x06 => (8, 15) | 0x07 => (0, 23)
  | 0x08 => (18, 5) | 0x09 => (2, 21) | 0x0A => (1, 22) | 0x0B => (13, 10) | 0x0C => (14, 9) | 0x0D => (4, 19)
  | _ => (0, 0)

/-- What a short sub-operation uses: B, C, and the FN codes it admits (R182); `none` for a reserved SOP. -/
def shortUses (sop : Nat) : Option (Bool × Bool × Nat) :=
  match sop with
  | 0x01 | 0x09 | 0x0A | 0x18 | 0x19 | 0x20 | 0x21 => some (false, false, 1)
  | 0x0E => some (false, false, 14)
  | 0x02 | 0x03 | 0x04 | 0x06 | 0x07 | 0x08 => some (true, false, 1)
  | 0x0C => some (true, false, 6)
  | 0x05 | 0x0B | 0x0D => some (true, true, 1)
  | 0x10 | 0x11 | 0x12 | 0x13 | 0x14 | 0x15 | 0x16 | 0x17 => some (true, false, 1)
  | _ => none

-- Fields of a VSHORT slot (R181).
namespace Short
def sop (v : BitVec 128) : Nat := field v 5 6
def dBay (v : BitVec 128) : Nat := field v 11 8
def dOff (v : BitVec 128) : Nat := field v 19 11
def aBay (v : BitVec 128) : Nat := field v 30 8
def aOff (v : BitVec 128) : Nat := field v 38 11
def bBay (v : BitVec 128) : Nat := field v 49 8
def bOff (v : BitVec 128) : Nat := field v 57 11
def cBay (v : BitVec 128) : Nat := field v 68 8
def cOff (v : BitVec 128) : Nat := field v 76 11
def count (v : BitVec 128) : Nat := field v 87 13
def bk (v : BitVec 128) : Bool := bit v 100
def ck (v : BitVec 128) : Bool := bit v 101
def fn (v : BitVec 128) : Nat := field v 102 4
/-- Lines that a source operand covers (R182). -/
def lines (v : BitVec 128) : Nat := (count v + 63) / 64
/-- RSUM and RMAX write one line. -/
def folds (v : BitVec 128) : Bool := decide (sop v = 0x20) || decide (sop v = 0x21)
def dstLines (v : BitVec 128) : Nat := if folds v then 1 else lines v
def usesB (v : BitVec 128) : Bool := match shortUses (sop v) with | some (b, _, _) => b | none => false
def usesC (v : BitVec 128) : Bool := match shortUses (sop v) with | some (_, c, _) => c | none => false
end Short

/-- The static checks of a VSHORT (R181, R182), in the order of its bits. -/
def checkShort (v : BitVec 128) : Option (Nat × Nat) :=
  match shortUses (Short.sop v) with
  | none => some (0x0103, 5)
  | some (ub, uc, fns) =>
    firstSlotFail
      [chkField (if ub then Short.bk v && Short.bBay v > 7 else Short.bBay v ≠ 0) 49,
       chkField ((!ub || Short.bk v) && Short.bOff v ≠ 0) 57,
       chkField (if uc then Short.ck v && Short.cBay v > 7 else Short.cBay v ≠ 0) 68,
       chkField ((!uc || Short.ck v) && Short.cOff v ≠ 0) 76,
       chkField (Short.count v = 0 || Short.count v > 4096) 87,
       chkField (Short.bk v && !ub) 100, chkField (Short.ck v && !uc) 101, chkField (Short.fn v ≥ fns) 102]

/-- One bay operand of a VSHORT: LINEAR, then within its bay (R182). -/
def checkShortBay (x : Ctx) (bayNo off lines bayAt offAt : Nat) : Option (Nat × Nat) :=
  let y := x.bay bayNo
  if y.mode ≠ 1 then some (0x0108, bayAt) else if off + lines > y.lines then some (0x0107, offAt) else none

/-- The operands D, A, B, C of a VSHORT in that order (R182). -/
def checkShortBays (x : Ctx) (v : BitVec 128) : Option (Nat × Nat) :=
  firstSlotFail
    [checkShortBay x (Short.dBay v) (Short.dOff v) (Short.dstLines v) 11 19,
     checkShortBay x (Short.aBay v) (Short.aOff v) (Short.lines v) 30 38,
     if Short.usesB v && !Short.bk v then checkShortBay x (Short.bBay v) (Short.bOff v) (Short.lines v) 49 57 else none,
     if Short.usesC v && !Short.ck v then checkShortBay x (Short.cBay v) (Short.cOff v) (Short.lines v) 68 76 else none]

/-- The five queue selects of the vector frame (R132). -/
def queueSelects (v : BitVec 128) : List (Nat × Nat) := [80, 85, 90, 95, 100].map (fun lo => (field v lo 5, lo))

/-- The handle fields of the vector frame whose queue select an operation uses; SRC3Q of VRED and of VSTAT must be 0 (R276). DESIGN CHOICE
(log 123): the select of an optional operand that is absent counts as used, and does nothing. One with a queue select that it does not use
holds an unused field (R139). -/
def usedFields (v : BitVec 128) : List Nat :=
  let mode (lo n : Nat) : Nat := field v (105 + lo) n
  match field v 0 5 with
  | 0x01 => [8, 20, 32, 44, 56]
  | 0x03 => [8, 20] ++ (if mode 0 4 = 2 then [32] else [])
  | 0x04 => [8, 20]
  | 0x05 => [8, 20] ++ (if mode 0 4 = 4 then [32, 44] else [])
  | 0x06 => [8, 20, 32] ++ (if mode 0 3 = 2 then [44] else [])
  | 0x09 => [8, 20, 32] ++ (if mode 0 1 = 1 then [44] else [])
  | 0x0A => [8, 20, 32]
  | 0x0B => [8, 20, 44] ++ (if mode 10 1 = 1 then [32, 56] else [])
  | _ => [8, 20]

def checkVector (x : Ctx) (b : Bundle) : Option (Nat × Nat) :=
  let v := b.vector
  let op := field v 0 5
  if op = 0 then chkReserved v 5 123
  else if op ≥ 0x0E then some (0x0101, 0)
  else if op = 2 then firstSlotFail [chkReserved v 106 22, checkShort v, checkShortBays x v]
  else
    let (lo, n) := modeReserved op
    firstSlotFail ([chkReserved v 6 2, chkReserved v (105 + lo) n] ++
      ((queueSelects v).zip [8, 20, 32, 44, 56]).map (fun q =>
        chkField (q.1.1 > 16 || (q.1.1 ≠ 0 && !(usedFields v).contains q.2)) q.1.2))

/-- The RIG_MODE bits that a rig leaves reserved, as ranges of the slot (R337). -/
def rigReserved (rig : Nat) : List (Nat × Nat) :=
  match rig with
  | 5 => [(93, 3)]
  | 6 | 7 => [(87, 9)]
  | 8 => [(87, 9)]
  | 9 => []
  | 11 | 12 => [(89, 7)]
  | _ => [(83, 13)]

def checkMatrix (b : Bundle) : Option (Nat × Nat) :=
  let v := b.matrix
  match field v 0 4 with
  | 0 => chkReserved v 4 92
  | 1 => if field v 4 4 ≥ 14 then some (0x0101, 4)
         else firstSlotFail ((rigReserved (field v 4 4)).map (fun r => chkReserved v r.1 r.2))
  | _ => some (0x0101, 0)

/-- The load slot (R135). DESIGN CHOICE (log 85): a bay number above 255 in AUX of an LD is an illegal field value, as one in COUNT of an LDA. -/
def checkLoad (b : Bundle) : Option (Nat × Nat) :=
  let v := b.load
  let op := field v 0 4
  let target := field v 4 2
  let aux := field v 22 12
  let count := field v 34 12
  if op = 0 then chkReserved v 4 60
  else if op > 2 then some (0x0101, 0)
  else firstSlotFail
    [chkReserved v 62 2, chkField (target = 3 || (op = 2 && target = 2)) 4, chkField (target ≠ 0 && field v 6 4 ≠ 0) 6,
     chkField (op = 1 && ((target = 0 && aux ≠ 0) || (target = 1 && aux > 255) || (target = 2 && aux = 0))) 22,
     chkField (if target = 2 then aux + count > 4096 else if op = 2 && target = 1 then count > 255 else count ≠ 0) 34,
     chkField (op = 1 && field v 46 16 ≠ 0) 46]

/-- The store slot (R137). DESIGN CHOICE (log 85): a bay number above 255 is an illegal field value, as one of a load. -/
def checkStore (b : Bundle) : Option (Nat × Nat) :=
  let v := b.store
  let source := field v 4 2
  match field v 0 4 with
  | 0 => chkReserved v 4 60
  | 1 => firstSlotFail
      [chkReserved v 34 30, chkField (decide (source ≥ 2)) 4, chkField (source ≠ 0 && field v 6 4 ≠ 0) 6,
       chkField (if source = 1 then field v 22 12 > 255 else field v 22 12 ≠ 0) 22]
  | _ => some (0x0101, 0)

def checkSync (b : Bundle) : Option (Nat × Nat) :=
  let v := b.sync
  let op := field v 0 4
  let stream := field v 4 2
  if op = 0 then chkReserved v 4 28
  else if op > 4 then some (0x0101, 0)
  else firstSlotFail
    [if op = 4 then chkReserved v 9 3 else none,
     chkField (stream = 0 || (op = 4 && stream ≠ 2)) 4,
     chkField ((op = 4 && field v 6 3 > 4) || (op = 3 && field v 6 6 ≠ 0)) 6,
     chkField (op ≥ 3 && field v 12 16 ≠ 0) 12, chkField (op ≠ 2 && field v 28 4 ≠ 0) 28]

/-- Two equal queue selects of one vector macro (R141): the later of the first equal pair. -/
def checkQueues (b : Bundle) : Option (Nat × Nat) :=
  let v := b.vector
  let op := field v 0 5
  if op = 0 || op = 2 then none
  else
    let l := (queueSelects v).filter (fun q => q.1 ≠ 0)
    (l.find? (fun q => l.any (fun p => p.1 = q.1 && p.2 < q.2))).map (fun q => (0x0103, q.2))

/-- A CALL's argument layout (R166): slot code, reason, lowest offending bit. DESIGN CHOICE (log 124): the argument words of the scalar slot are
judged here too, and recorded with slot SCALAR, although R141 names the vector and matrix slots. -/
def checkCallArgs (b : Bundle) : Option (Nat × Nat × Nat) :=
  let bad (slot v lo n : Nat) : Option (Nat × Nat × Nat) := (lowestSet v lo n).map (fun p => (slot, 0x0103, p))
  let v := b.vector.toNat
  let m := b.matrix.toNat
  [if b.predEn then some (0, 0x0103, 28) else none,
   if b.ns < 1 then bad 1 b.scalar.toNat 32 32 else none,
   bad 2 v (12 * b.nh) (96 - 12 * b.nh),
   if b.ns < 2 then bad 2 v 96 32 else none,
   if b.ns < 3 then bad 3 m 0 32 else none,
   if b.ns < 4 then bad 3 m 32 32 else none,
   bad 3 m 64 32].findSome? id

/-- DETAIL of a class 0x01 record with no handle (R481): OFFSET, STAGE 0xFF, DEPTH. -/
def bundleDetail (offset depth : Nat) : BitVec 128 :=
  BitVec.ofNat 128 (pack [(2, 2, offset), (4, 1, 0xFF), (5, 1, depth)])

/-- The first failure of a bundle (R139): slots in order, then the constraints between slots (R141). -/
def checkBundle (x : Ctx) (b : Bundle) (depth : Nat) : Option Bad :=
  let at_ (slot : Nat) (r : Option (Nat × Nat)) : Option Bad := r.map (fun p => ⟨p.1, slot, bundleDetail p.2 depth⟩)
  let args := b.isCall
  [at_ 0 (checkHeader b), at_ 1 (checkScalar b),
   if args then none else at_ 2 (checkVector x b), if args then none else at_ 3 (checkMatrix b),
   at_ 4 (checkLoad b), at_ 5 (checkStore b), at_ 6 (checkSync b),
   if args then (checkCallArgs b).map (fun p => ⟨p.2.1, p.1, bundleDetail p.2.2 depth⟩) else at_ 2 (checkQueues b)].findSome? id

/-! ## Argument handles inside a routine (R519, R522) -/

/-- The bit positions of the handle fields of a bundle, by its slots' opcodes. In a CALL, the handle arguments it passes. AUX1 of rig 9 is a flag
index (12, rig table). -/
def handleFields (b : Bundle) : List Nat :=
  let call := if b.isCall then (List.range 8).map (fun k => 128 + 12 * k) else []
  let vec :=
    if b.isCall || field b 128 5 = 0 || field b 128 5 = 2 then []
    else [136, 148, 160, 172, 184, 196] ++
      (match field b 128 5 with | 0x03 => [244] | 0x0C => [235] | _ => [])
  let mat := if b.isCall || field b 256 4 ≠ 1 then [] else [264, 276, 288, 300] ++ (if field b 260 4 = 9 then [] else [312]) ++ [324]
  let ld := if field b 352 4 = 0 then [] else [362]
  let st := if field b 416 4 = 0 then [] else [426]
  call ++ vec ++ mat ++ ld ++ st

/-- Replace a field of 12 bits. -/
def putHandle (b : Bundle) (lo h : Nat) : Bundle :=
  (b &&& ~~~(BitVec.ofNat 512 (0xFFF * 2 ^ lo))) ||| BitVec.ofNat 512 (h % 4096 * 2 ^ lo)

end Sys2Proof.Machine
end

