-- ==== Sys2Proof/Machine/Frames.lean ====
section
/-! DEFINITION. Viaduct frames and their edges (R391, R392), and the ABORT that a halt sends (R404). -/

namespace Sys2Proof.Machine

/-! ## Frames -/

/-- A frame's fields (R391). -/
structure FrameInfo where
  kind : Nat
  down : Bool
  channel : Nat
  last : Bool
  part : Nat
  round : Nat
  slot : Nat
  row : Nat
  lseq : Nat
  treeTag : Nat
  words : List Word
  deriving DecidableEq, Repr

/-- The 32 bytes of a frame, with its CRC over envelope bytes 0 to 11 and the message. -/
def FrameInfo.encode (f : FrameInfo) : BitVec 256 :=
  let head := pack [(0, 1, f.kind + 8 * b2n f.down + 16 * f.channel + 128 * b2n f.last), (1, 1, f.part), (2, 1, f.round),
    (3, 1, f.slot), (4, 4, f.row), (8, 2, f.lseq), (10, 2, f.treeTag)]
  let msg := pack ((List.range 4).map (fun i => (4 * i, 4, (f.words.getD i 0#32).toNat)))
  let crc := crc32c (leBytes 12 head ++ leBytes 16 msg)
  BitVec.ofNat 256 (head + crc * 256 ^ 12 + msg * 256 ^ 16)

/-- The fields of 32 received bytes. -/
def frameInfo (v : BitVec 256) : FrameInfo :=
  { kind := field v 0 3, down := bit v 3, channel := field v 4 3, last := bit v 7, part := field v 8 8
    round := field v 16 8, slot := field v 24 8, row := field v 32 32, lseq := field v 64 16, treeTag := field v 80 16
    words := (List.range 4).map (fun i => BitVec.ofNat 32 (field v (128 + 32 * i) 32)) }

/-- Does the CRC of the received bytes hold? -/
def frameCrcOk (v : BitVec 256) : Bool :=
  let bytes := recBytes v
  decide (crc32c (bytes.take 12 ++ bytes.drop 16) = field v 96 32)

/-! ## Edges and ports -/

def ViaRegs.parentAddr (r : ViaRegs) : Nat := field r.parent 0 16
def ViaRegs.parentSlot (r : ViaRegs) : Nat := field r.parent 16 3
def ViaRegs.isRoot (r : ViaRegs) : Bool := !bit r.parent 19
def ViaRegs.child (r : ViaRegs) (j : Nat) : BitVec 64 := r.children.get j 0#64
def ViaRegs.childValid (r : ViaRegs) (j : Nat) : Bool := bit (r.child j) 16
def ViaRegs.childAddr (r : ViaRegs) (j : Nat) : Nat := field (r.child j) 0 16
def ViaRegs.validChildren (r : ViaRegs) : List Nat := (List.range 8).filter r.childValid
/-- D and V of R400 and R401. -/
def ViaRegs.up (r : ViaRegs) : Nat := field r.budget 0 24
def ViaRegs.roundBudget (r : ViaRegs) : Nat := field r.budget 32 24

/-- The far node of an edge: child slot 0 to 7, or 8 for the parent. -/
def ViaRegs.edgeAddr (r : ViaRegs) (edge : Nat) : Nat := if edge = 8 then r.parentAddr else r.childAddr edge

/-- The port pair of an edge: the die pair (ports 0 and 1) within the package, else the link pair (2 and 3). -/
def State.edgePair (s : State) (r : ViaRegs) (edge : Nat) : Nat :=
  if r.edgeAddr edge / 2 = s.glob.package.toNat then 0 else 2

/-- The port an edge sends on: PRIMARY first, the paired one after a RESEND (R402), never a failed one (R405). -/
def State.edgePort (s : State) (r : ViaRegs) (edge : Nat) (paired : Bool) : Nat :=
  let pair := s.edgePair r edge
  let first := pair + (if r.primary != paired then 1 else 0)
  let other := 2 * pair + 1 - first
  if bit s.glob.portFailed first then other else first

/-- The beats at which the frames handed to a port leave, the newest first. -/
def Global.leaving (g : Global) (port : Nat) : List Nat :=
  ((g.viaOut.filter (fun o => o.1 = port)).map (fun o => o.2.1)).reverse

/-- The beat at which the next frame of a port leaves: after the one before it, by the port's interval (R391), and with one of its 16
credits (R53). DESIGN CHOICE (log 75): a credit is back one stage after its frame has left, 27 beats on a die port and 198 on a link
port. -/
def State.leaveBeat (s : State) (port : Nat) : Nat :=
  let sent := s.glob.leaving port
  let (gap, stage) := if port < 2 then (2, 27) else (1, 198)
  let after (k wait : Nat) : Nat := match sent[k]? with | some b => b + wait | none => 0
  max s.time.beat (max (after 0 gap) (after 15 stage))

/-- Hand a frame to a port (R53). -/
def State.sendFrame (s : State) (port : Nat) (f : BitVec 256) : State :=
  s.setGlob { s.glob with viaOut := s.glob.viaOut ++ [(port, s.leaveBeat port, f)] }

/-- The next LSEQ of a direction, and the channel that has used it. DEDUCED (log 76): the frames down share one sequence, because one
frame goes to several children; the frames up have their own. -/
def Channel.nextLseq (k : Channel) (down : Bool) : Nat × Channel :=
  let key := if down then 0 else 8
  let n := k.lseqSent.get key 0
  (n, { k with lseqSent := k.lseqSent.set key ((n + 1) % 65536) })

/-- SLOT of a frame to a set of edges: up, this node's slot at the parent; down, the mask of the children (R391). -/
def ViaRegs.slotField (r : ViaRegs) (edges : List Nat) : Nat :=
  if edges.contains 8 then r.parentSlot else (edges.map (2 ^ ·)).sum

/-- Build the frames of one message group for the parent, edge 8, or for children, in order, giving each its LSEQ. -/
def Channel.frames (k : Channel) (ch kind round row : Nat) (edges : List Nat) (parts : List (Nat × List Word)) :
    Channel × List (BitVec 256) :=
  let n := parts.length
  let down := !edges.contains 8
  parts.foldl (fun (acc : Channel × List (BitVec 256)) p =>
    let (q, k') := acc.1.nextLseq down
    let f : FrameInfo :=
      { kind := kind, down := down, channel := ch, last := decide (acc.2.length + 1 = n), part := p.1
        round := round, slot := k'.regs.slotField edges, row := row, lseq := q, treeTag := k'.regs.treeTag.toNat, words := p.2 }
    (k', acc.2 ++ [f.encode])) (k, [])

/-- Edges of a node: its valid children and, unless it is the root, its parent. -/
def ViaRegs.edges (r : ViaRegs) : List Nat := r.validChildren ++ (if r.isRoot then [] else [8])

/-- Send one control frame (RESEND, HOLD or ABORT) on an edge. -/
def State.sendControl (s : State) (c : Fin 4) (ch kind round row edge : Nat) (word0 : Word) (port : Nat) : State :=
  let x := s.ctxOf c
  let (k, fs) := (x.channel ch).frames ch kind round row [edge] [(0, [word0, 0, 0, 0])]
  let s := s.setCtx c (x.setChannel ch k)
  fs.foldl (fun s f => s.sendFrame port f) s

/-- Does an edge use the paired port: has a RESEND of the round named it (R402)? -/
def Channel.usesPaired (k : Channel) (round edge : Nat) : Bool := k.paired.contains (round, edge)

/-- The edge uses the paired port from now on. -/
def Channel.pairEdge (k : Channel) (round edge : Nat) : Channel := { k with paired := ((round, edge) :: k.paired).eraseDups }

/-- ABORT on every edge of a channel but `not_`, for one round (R404). -/
def State.sendAbort (s : State) (c : Fin 4) (ch round code : Nat) (not_ : Option Nat) : State :=
  let k := (s.ctxOf c).channel ch
  (k.regs.edges.filter (fun e => some e ≠ not_)).foldl
    (fun s e => s.sendControl c ch 7 round 0 e (BitVec.ofNat 32 code) (s.edgePort k.regs e (k.usesPaired round e))) s

/-- ABORT for every live round of every channel of a context that halts (R404, R475). -/
def State.abortRounds (s : State) (c : Fin 4) (code : Nat) (not_ : Option (Nat × Nat)) : State :=
  (List.range 8).foldl (fun s ch =>
    let k := (s.ctxOf c).channel ch
    k.live.foldl (fun s round =>
      s.sendAbort c ch round code (match not_ with | some (h, e) => if h = ch then some e else none | none => none)) s) s

end Sys2Proof.Machine
end

