-- ==== Sys2Proof/Machine/Records.lean ====
section
/-! DEFINITION. Completion records and the tag trace (15_numeric_events_and_trace.md R406 to R409, R426 to R428). -/

namespace Sys2Proof.Machine

/-- The count and the lowest index of one event kind, with its where code. -/
def TileOut.first (o : TileOut) (kind : Nat) : Nat × Nat × Nat :=
  o.events.foldl (fun (acc : Nat × Nat × Nat) e =>
    if e.kind ≠ kind then acc
    else if acc.1 = 0 || e.index < acc.2.1 then (acc.1 + 1, e.index, e.at_) else (acc.1 + 1, acc.2))
    (0, 0xFFFFFFFFFFFFFFFF, 15)

/-- The lowest row of a list of row indices; all ones for none. -/
def lowestRow : List Nat → Nat
  | [] => 0xFFFFFFFFFFFFFFFF
  | r :: t => t.foldl min r

/-- Opcode field of a macro's slot. -/
def MacroRun.op (m : MacroRun) : Nat := if m.slot = 2 then field m.bits 0 5 else field m.bits 0 4

def MacroRun.rig (m : MacroRun) : Nat := if m.slot = 3 then field m.bits 4 4 else 0

/-- PARAM of a vector or matrix macro (R132, R134). -/
def MacroRun.param (m : MacroRun) : Nat := field m.bits 68 12

/-- The bytes of a UINT8 tensor of rank 1, by its descriptor: byte i lies at BASE + i × STRIDE0 (R228). -/
def descBytes (d : BitVec 1024) (mem : Memory) (n : Nat) : List Byte :=
  (List.range n).map (fun i => mem.read (((field d 0 64 : Int) + sfield d 352 64 * (i : Int)) % 2 ^ 64).toNat)

/-- The VIA field of a macro: 0 for none; a chain's stands in its program (R230), which is not known before the snapshot. -/
def MacroRun.via (m : MacroRun) : Option Nat :=
  let chain := (m.blocks.find m.param).map (fun b => (b.getD 1 0#8).toNat % 16)
  if m.slot = 2 then
    match m.op with
    | 0x01 => chain
    | 0x04 | 0x0D => some (field m.bits 105 4)
    | 0x06 => some (field m.bits 108 4)
    | _ => some 0
  else if m.slot = 3 then
    match m.rig with
    | 2 | 3 | 4 | 5 => chain
    | 11 | 12 => some (field m.bits 83 4)
    | _ => some 0
  else some 0

/-- The VIA field of the chain program that a handle names, as it stands now (R230). -/
def Ctx.programVia (x : Ctx) (mem : Memory) (h : Nat) : Nat :=
  if h = 0 then 0 else ((descBytes (x.descs.get h 0) mem 2).getD 1 0#8).toNat % 16

/-- Does a macro in flight use channel ch (R387)? The program of a chain that has no snapshot is read as it stands. -/
def Ctx.usesChannel (x : Ctx) (mem : Memory) (m : MacroRun) (ch : Nat) : Bool :=
  m.via.getD (x.programVia mem m.param) = ch + 1

/-- Saturate a count at 32 bits. -/
def sat32 (n : Nat) : Nat := min n 0xFFFFFFFF

/-- The 128 bytes of a completion record (R407). -/
def completionRecord (m : MacroRun) (stroke ending : Nat) (trapped : Bool) : List Byte :=
  let o := m.counts
  let i := o.first 0
  let d := o.first 1
  let v := o.first 2
  let x := o.first 3
  let where_ (p : Nat × Nat × Nat) : Nat := if p.1 = 0 then 15 else p.2.2
  leBytes 128 (pack
    [(0, 4, m.tag.toNat), (4, 1, m.op + 32 * m.slot),
     (5, 1, m.rig + 16 * b2n trapped + 32 * b2n m.replayed + 64 * b2n m.overlapped), (8, 8, stroke),
     (16, 8, m.start.toNat), (24, 8, ending), (32, 4, sat32 i.1), (36, 4, sat32 d.1), (40, 4, sat32 v.1),
     (44, 4, sat32 x.1), (48, 4, sat32 o.empties.length), (52, 4, sat32 o.fmasks.length), (56, 4, sat32 o.clips),
     (64, 8, i.2.1), (72, 8, d.2.1), (80, 8, v.2.1), (88, 8, x.2.1), (96, 8, lowestRow o.empties),
     (104, 8, lowestRow o.fmasks),
     (112, 2, where_ i + 16 * where_ d + 256 * where_ v + 4096 * where_ x)])

/-- A trace entry of 16 B. -/
def traceEntry (m : MacroRun) (stroke ending : Nat) (halted : Bool) : BitVec 128 :=
  let o := m.counts
  let events := !o.events.isEmpty || !o.empties.isEmpty || !o.fmasks.isEmpty || o.clips ≠ 0
  BitVec.ofNat 128 (pack
    [(0, 4, m.tag.toNat), (4, 1, m.op + 32 * m.slot),
     (5, 1, m.rig + 16 * b2n events + 32 * b2n m.replayed + 64 * b2n m.overlapped + 128 * b2n halted),
     (6, 2, stroke), (8, 4, m.start.toNat), (12, 4, ending)])

/-- Trace entries of a context on their way. -/
def State.traceWaits (s : State) (c : Fin 4) : Nat := ((s.ownWrites c traceTile).map (fun q => q.2.bytes.length / 16)).sum

/-- The gathered entries of a context go to its ring, over the oldest, in writes of up to 32 (R426). -/
def State.flushTrace (s : State) (c : Fin 4) : State :=
  let x := s.ctxOf c
  let first := x.traceWr.toNat + s.traceWaits c
  let at_ (k : Nat) : Nat := x.traceBase.toNat * 65536 + 16 * ((first + k) % 4096)
  let entries := ((List.range x.gathered.length).zip x.gathered).map (fun q => (at_ q.1, recBytes q.2))
  let blocks := (entries.map (fun e => e.1 / 512)).eraseDups
  blocks.foldl (fun s b =>
    let mine := entries.filter (fun e => e.1 / 512 = b)
    s.sendBytes c true 0 traceTile ((mine.headD (0, [])).1) (mine.flatMap Prod.snd)) (s.setCtx c { x with gathered := [] })

/-- The shared cache accepts the trace writes that it can, in their order (R46, R426). DESIGN CHOICE (log 112): at the next completion, stroke,
span release or CONTEXT_HALTED of the context. -/
def State.acceptTrace (s : State) (c : Fin 4) : State :=
  ((s.ownWrites c traceTile).foldl (fun (acc : State × Bool) q =>
    if acc.2 then acc
    else match acc.1.acceptOwn q.1 q.2 with
      | none => (acc.1, true)
      | some t =>
        let x := t.ctxOf c
        let n := q.2.bytes.length / 16
        (t.setCtx c { x with traceWr := x.traceWr + BitVec.ofNat 12 n, traceTotal := x.traceTotal + BitVec.ofNat 32 n }, false)) (s, false)).1

/-- Gather one trace entry; 32 of them are sent (R426). -/
def State.trace (s : State) (c : Fin 4) (m : MacroRun) (halted : Bool) : State :=
  let x := s.ctxOf c
  if x.traceEn then
    let g := x.gathered ++ [traceEntry m x.stroke.toNat (m.ended.getD s.now) halted]
    let s := s.setCtx c { x with gathered := g }
    if g.length ≥ 32 then s.flushTrace c else s
  else s

/-- A macro's completion record goes to the next slot of the ring through the pier (R406, R428). -/
def State.sendRecord (s : State) (c : Fin 4) (execute : Bool) (m : MacroRun) (id : Nat) (trapped : Bool) : State :=
  let x := s.ctxOf c
  s.sendBytes c execute id recordTile (x.doneBase.toNat * 128 + 128 * x.doneWr.toNat)
    (completionRecord m x.stroke.toNat (m.ended.getD s.now) trapped)

/-- The record has been accepted: the ring goes on. -/
def Ctx.recorded (x : Ctx) : Ctx :=
  { x with doneWr := BitVec.ofNat 12 ((x.doneWr.toNat + 1) % 2 ^ x.doneLog.toNat), doneTotal := x.doneTotal + 1 }

end Sys2Proof.Machine
end

