-- ==== Sys2Proof/Machine/Repair.lean ====
section
/-! DEFINITION. The repair map: lane swaps and fences (18_faults_and_recovery.md R491 to R493, 01 R15, R18). The layout inside
a REPAIR_MAP payload is the model's (log 17): byte 0 the span, bytes 16 to 31 the fence map, bytes 32 to 223 twelve bits for
each core: the physical lane that spare 32 replaces and the one that spare 33 replaces, 63 for none. -/

namespace Sys2Proof.Machine

/-- The 256 B payload of a span's REPAIR_MAP record (R508): the span, the fence map, 12 bits of lane map for each core. -/
def State.repairPayload (s : State) (span : Nat) : List Byte :=
  let lanes := (List.range 128).foldr (fun k v =>
    let q := s.coreOf (128 * span + k)
    v * 4096 + (q.swapped.getD 0 63 + 64 * q.swapped.getD 1 63)) 0
  leBytes 256 (pack [(0, 1, span), (16, 16, (s.spanOf span).fence.toNat), (32, 192, lanes)])

/-- Append the span's map to the journal's repair map (R493). -/
def State.journalRepair (s : State) (span : Nat) : State :=
  s.journalAsk 0x0010 (s.repairPayload span)

/-- The lane map of a core out of a REPAIR_MAP payload. -/
def laneMapOf (v : Nat) : List Nat := ([v % 64, v / 64 % 64]).filter (fun l => l ≠ 63)

/-- Load a span's REPAIR_MAP payload into its cores (ST4, R513). -/
def State.loadRepair (s : State) (span : Nat) (payload : List Byte) : State :=
  let fence := BitVec.ofNat 128 (ofLe ((payload.drop 16).take 16))
  let lanes := ofLe ((payload.drop 32).take 192)
  let cores := (List.range 128).foldl (fun t k =>
    let q := Table.get t (128 * span + k) ({} : Core)
    let l := laneMapOf (lanes / 4096 ^ k % 4096)
    if l = [] && q.swapped = [] then t else t.set (128 * span + k) { q with swapped := l }) s.cores
  { s with cores := cores, spans := s.spans.set span { s.spanOf span with fence := fence } }

/-- DETAIL of a class 0x0A record (R481): UNIT, INDEX, FIRST_CORE, SYNDROME, ADDRESS. -/
def hwDetail (unit index first syndrome address : Nat) : Nat :=
  pack [(0, 1, unit), (1, 1, index), (2, 2, first), (4, 4, syndrome), (8, 8, address)]

/-- A corrected single-bit error: counted, and recorded once for each span in a block stroke (R484, R487). `address`: the line, the descriptor
or the shared-cache address (R481). -/
def State.noteCorrected (s : State) (span ctx unit core syndrome address : Nat) : State :=
  let sp := s.spanOf span
  let s' := s.setSpan span { sp with corrected := satAdd sp.corrected 1, correctedNoted := true }
  if sp.correctedNoted then s'
  else s'.absorb ctx { code := 0x0A81, core := core, detail := hwDetail unit span 0xFFFF syndrome address }

/-- A corrected single-bit error whose syndrome is a free value: no rule gives the code (log 106). -/
def State.corrected (s : State) (span ctx unit core address : Nat) : State :=
  let (syn, s) := s.takeFree
  s.noteCorrected span ctx unit core syn.toNat address

/-- Does a core execute a tile, send its outputs, or hold the correction of an attention chain (R320)? -/
def State.executes (s : State) (core : Nat) : Bool :=
  s.corrects core || (s.coreOf core).held.any (fun h =>
    ((s.ctxOf (ctxNo h.1)).stream h.2.1).inflight.any (fun m =>
      8 * m.index + m.slot = h.2.2.1 && (m.tiles.get h.2.2.2 {}).status = .executing))

/-- Apply the swaps that are due on a core that executes nothing (R18, R491): a lane takes the next free spare, and LANE_SWAP is
recorded. -/
def State.swapDue (s : State) (core : Nat) : State :=
  let q := s.coreOf core
  if q.dueSwaps = [] || s.executes core then s
  else
    let s := s.setCore core { q with swapped := q.swapped ++ q.dueSwaps, dueSwaps := [] }
    let ctx := match s.owner (coreSpan core) with | some c => c.val | none => 7
    let s := q.dueSwaps.foldl (fun s l =>
      s.absorb ctx { code := 0x0A85, core := core, lane := l, detail := hwDetail 0 (coreSpan core) 0xFFFF 0 0 }) s
    s.journalRepair (coreSpan core)

/-- A stroke boundary makes a core's scheduled swaps due: they are applied at once, or when the tile that it executes has committed
or has been handed to replay (R18). -/
def State.swapLanes (s : State) (core : Nat) : State :=
  let q := s.coreOf core
  (s.setCore core { q with dueSwaps := q.dueSwaps ++ q.scheduled, scheduled := [] }).swapDue core

/-- The cores of a span with swaps scheduled. -/
def State.swapSpan (s : State) (span : Nat) : State :=
  ((s.cores.filter (fun e => coreSpan e.1 = span && e.2.scheduled ≠ [])).map Prod.fst).foldl State.swapLanes s

/-- Set a core's fence and record it (R492, R493). -/
def State.markFence (s : State) (core : Nat) : State :=
  let span := coreSpan core
  let sp := s.spanOf span
  let s := s.setSpan span { sp with fence := putBit sp.fence (core % 128) true }
  let ctx := match s.owner span with | some c => c.val | none => 7
  (s.absorb ctx { code := 0x0A86, core := core, detail := hwDetail 0 span 0xFFFF 0 0 }).journalRepair span

/-- Clear a fence: one core of a span, or the whole span for 0xFFFF (R493). -/
def State.clearFence (s : State) (span core : Nat) : State :=
  let sp := s.spanOf span
  let s := if core = 0xFFFF then
      { s.setSpan span { sp with fence := 0 } with start := { s.start with fencedSpans := putBit s.start.fencedSpans span false } }
    else s.setSpan span { sp with fence := putBit sp.fence core false }
  s.journalRepair span

end Sys2Proof.Machine
end

