-- ==== Sys2Proof/Machine/Contexts.lean ====
section
/-! DEFINITION. Contexts, quotas, spans and isolation (16_contexts_and_isolation.md), and the histogram slots' configuration
(15_numeric_events_and_trace.md). -/

namespace Sys2Proof.Machine

/-! ## Quotas (R431, R437) -/

def Admin.effBay (a : Admin) : Nat := min a.quotaBay.toNat a.capBay.toNat
def Admin.effQueues (a : Admin) : Nat := min a.quotaQueues.toNat a.capQueues.toNat
def Admin.effHist (a : Admin) : Nat := min a.quotaHist.toNat a.capHist.toNat
def Admin.effVia (a : Admin) : Nat := min a.quotaVia.toNat a.capVia.toNat

/-- Lines in the enabled bays, and the ring bays among them (CTX_USAGE). -/
def Ctx.bayLines (x : Ctx) : Nat := x.bays.foldl (fun n e => if e.2.mode = 0 then n else n + e.2.lines) 0
def Ctx.ringBays (x : Ctx) : Nat := x.bays.foldl (fun n e => if e.2.mode = 2 || e.2.mode = 3 then n + 1 else n) 0
def Ctx.viaUsed (x : Ctx) : Nat := x.channels.foldl (fun n e => if e.2.regs.en then n + 1 else n) 0
def State.histUsed (s : State) (c : Nat) : Nat :=
  s.hists.foldl (fun n e => if e.2.owner.toNat = c then n + 1 else n) 0

/-! ## Histogram slots (R418 to R420, R437, R440) -/

/-- One counted element (R415 to R420). -/
def Hist.count (h : Hist) (a : HistAdd) : Hist :=
  let h := { h with bins := h.bins.set a.bin (satAdd (h.bins.get a.bin 0#32) 1) }
  let h := if a.bin ≠ 62 && !h.valid && !h.latched then { h with exp := a.static, latched := true } else h
  match a.exp with
  | none => h
  | some e => { h with maxExp := if h.seen && h.maxExp.toInt ≥ e then h.maxExp else BitVec.ofInt 9 e, seen := true }

/-- One element counted in a beat: what the beat has counted stands beside the values before it (R418). -/
def Hist.countAt (h : Hist) (beat : Nat) (a : HistAdd) : Hist :=
  let h := if h.freshBeat = some beat then h else { h with fresh := [], freshBeat := some beat, prior := (h.bins, h.maxExp, h.seen) }
  { h with fresh := a :: h.fresh }.count a

/-- The slot as it stood before the increments of the beat (R421, R456). -/
def Hist.rewind (h : Hist) (beat : Nat) : Hist :=
  if h.freshBeat = some beat then { h with bins := h.prior.1, maxExp := h.prior.2.1, seen := h.prior.2.2 } else h

/-- The increments of the beat again, over what stands now (R418). -/
def Hist.replay (h : Hist) (beat : Nat) : Hist :=
  if h.freshBeat = some beat then h.fresh.foldr (fun a h => h.count a) { h with prior := (h.bins, h.maxExp, h.seen) } else h

/-- Bins, MAX_EXP and SEEN cleared. -/
def Hist.wipe (h : Hist) : Hist := { h with bins := [], maxExp := 0, seen := false }

/-- A clear in a beat comes before the increments of that beat, which are kept (R418). -/
def Hist.clear (h : Hist) (beat : Nat) : Hist := h.wipe.replay beat

/-- A change of holder: cleared, and the advice invalid (R419); the latch re-arms (R420). -/
def Hist.hold (h : Hist) (owner : BitVec 3) : Hist :=
  { h.wipe with owner := owner, valid := false, latched := false, fresh := [], freshBeat := none }

/-- One claim: refused where the slot is held, taken where the quota has room, else left waiting (R437, R440). -/
def State.claimOne (s : State) (slot c : Nat) : State × Bool :=
  if (s.histOf slot).owner ≠ 7 then (s.setGlob { s.glob with histRefused := true }, true)
  else if s.histUsed c + 1 ≤ (s.adminOf (ctxNo c)).effHist then
    (s.setHist slot ((s.histOf slot).hold (BitVec.ofNat 3 c)), true)
  else (s, false)

/-- Serve waiting claims in order; a context whose claim waits holds back its later ones (R437). -/
def serveClaims (s : State) (stuck : List Nat) : List (Nat × Nat) → State × List (Nat × Nat)
  | [] => (s, [])
  | (slot, c) :: t =>
    if stuck.contains c then
      let (s', r) := serveClaims s stuck t
      (s', (slot, c) :: r)
    else
      match s.claimOne slot c with
      | (s', true) => serveClaims s' stuck t
      | (s', false) =>
        let (s'', r) := serveClaims s' (c :: stuck) t
        (s'', (slot, c) :: r)

def State.serveHist (s : State) : State :=
  let (s', left) := serveClaims s [] s.glob.histClaims
  s'.setGlob { s'.glob with histClaims := left }

/-- HIST_CLAIM, OP 0 (R440). -/
def State.histClaim (s : State) (slot c : Nat) : State :=
  (s.setGlob { s.glob with histClaims := s.glob.histClaims ++ [(slot, c)] }).serveHist

/-- HIST_CLAIM, OP 1 (R440). -/
def State.histRelease (s : State) (slot : Nat) : State := (s.setHist slot ((s.histOf slot).hold 7)).serveHist

def State.histClear (s : State) (slot : Nat) : State := s.setHist slot ((s.histOf slot).clear s.time.beat)

/-- A write of 0x80 stores 0x81 (R422); a write of VALID 0 re-arms the latch (R420). -/
def State.histAdvice (s : State) (slot : Nat) (e : BitVec 8) (valid : Bool) : State :=
  let h := s.histOf slot
  s.setHist slot { h with exp := if e = 0x80 then 0x81 else e, valid := valid, latched := if valid then h.latched else false }

/-! ## Zeroisation (R444) -/

/-- The OC, banks and short port of a crew (R444); every ready stamp is passed, at its span's beat (R173). -/
def Crew.zero (k : Crew) (beat : Nat) : Crew := { ftqSeq := k.ftqSeq, stampBase := BitVec.ofNat 32 beat, scrubbed := k.scrubbed, scrubAt := k.scrubAt }

def State.zeroCrews (s : State) (l : List Nat) : State :=
  { s with crews := l.foldl (fun t k => t.set k (Crew.zero (t.get k {}) (s.spanBeat (crewSpan k)))) s.crews }

/-- Staged tiles of a span's cores (R444). -/
def State.zeroCores (s : State) (span : Nat) : State :=
  { s with cores := s.cores.map (fun e => if coreSpan e.1 = span then (e.1, { e.2 with held := [], asking := false }) else e) }

/-- Performance selects and counts (R425). -/
def Span.zeroPerf (x : Span) : Span := { x with perfSel := [], perfCnt := [], freeze := false }

/-- Zeroise one span that leaves or joins (R444). -/
def State.zeroSpan (s : State) (span : Nat) : State :=
  let s := (s.zeroCrews ((List.range 16).map (16 * span + ·))).zeroCores span
  let x := s.spanOf span
  s.setSpan span { x.zeroPerf with reads := x.reads.filter (fun e => e.2.ctx = 7), writes := x.writes.filter (fun w => w.ctx.isNone), zeroised := true }

/-- A span gains an owner: zeroised, and it leaves REST for STEADY, by a move from point 0 (R435, R459, R460, R465): no part of the envelope
that REST had, in force or on its way, governs it (R33). Its phase is that of the owner's last PHASE (R463). -/
def State.joinSpan (s : State) (c : Fin 4) (span : Nat) : State :=
  let s := s.zeroSpan span
  let x := (s.spanOf span).rebase s.time.beat
  s.setSpan span { x with pace := 1, lo := 12, hi := 12, phase := BitVec.ofNat 3 ((s.ctxOf c).phase.getD 4), floor := none
                          envelope := List.replicate 5 ⟨12, 12, []⟩, nextEnvelope := none }

/-- A span loses its owner: zeroised, at REST at point 0 (R435, R459). -/
def State.freeSpan (s : State) (span : Nat) : State :=
  let s := s.zeroSpan span
  let x := (s.spanOf span).rebase s.time.beat
  (s.setSpan span { x with pace := 5, point := 0, lo := 0, hi := 0, stretch := 0, phase := 4, phases := 0, surgeWait := false, granted := false
                           floor := none, envelope := List.replicate 5 ⟨0, 0, []⟩, nextEnvelope := none }).setGlob
    { s.glob with surgeQueue := s.glob.surgeQueue.filter (fun e => e.1 ≠ span) }

/-! ## Power shares (R439, R471) -/

/-- A context's share before scaling: the lower of quota and cap, at least 4 W for each owned span (R431, R439). -/
def State.rawShare (s : State) (c : Fin 4) : Nat :=
  let a := s.adminOf c
  max (min a.watts.toNat a.capWatts.toNat) (4 * (spansOf a.owned).length)

/-- The effective share: scaled by one factor when the live contexts' shares exceed SUSTAINED_W (R439), in W. -/
def State.share (s : State) (c : Fin 4) : Nat :=
  let live := allCtx.filter (fun k => decide ((s.adminOf k).state = .live))
  let total := (live.map s.rawShare).sum
  if total > s.glob.sustainedW.toNat then s.rawShare c * s.glob.sustainedW.toNat / total else s.rawShare c

/-- The cap in force in a beat: without a write of that beat (R471). -/
def Span.capBefore (x : Span) (beat : Nat) : BitVec 9 :=
  match x.capWas with
  | some (b, old) => if b = beat then old else x.cap
  | none => x.cap

/-- Write each owned span its cap, the share divided equally (R471): at every change of a share, and of which contexts are live (R439). -/
def State.writeCaps (s : State) : State :=
  allCtx.foldl (fun s c =>
    let spans := spansOf (s.adminOf c).owned
    spans.foldl (fun s p =>
      let x := s.spanOf p
      let cap := BitVec.ofNat 9 (s.share c / spans.length)
      if x.cap = cap then s else s.setSpan p { x with cap := cap, capWas := some (s.time.beat, x.capBefore s.time.beat) }) s) s

/-! ## States of a context (R432 to R436, R444) -/

def State.refuseCtl (s : State) (c : Fin 4) : State := s.setAdmin c { s.adminOf c with refused := true }

/-- Spans that another context owns or requests (R432, R434). -/
def State.otherSpans (s : State) (c : Fin 4) : BitVec 16 :=
  allCtx.foldl (fun m k => if k = c then m else m ||| (s.adminOf k).mask ||| (s.adminOf k).owned) 0

/-- CREATE (R432, R433, R507). -/
def State.create (s : State) (c : Fin 4) : State :=
  let a := s.adminOf c
  if a.state = .free && a.mask ≠ 0 && a.mask &&& s.otherSpans c = 0 && a.mask &&& s.start.fencedSpans = 0
      && s.start.st = 2 then
    (s.setAdmin c { a with state := .creating }).setCtx c {}
  else s.refuseCtl c

/-- Every requested span zeroised and owned: LIVE (16). -/
def State.createComplete (s : State) (c : Fin 4) : State :=
  let a := s.adminOf c
  if a.state = .creating then
    let s := s.setAdmin c { a with state := .live, owned := a.mask, leaving := 0 }
    ((spansOf a.mask).foldl (fun s p => s.joinSpan c p) s).writeCaps
  else s

/-- The work of a context stopped and discarded: streams, lists, fetch, frames (R58, R444). -/
def Ctx.stop (x : Ctx) : Ctx :=
  { x with lists := [], fetch := none, buffer := [], frames := [], callDue := none, access := {}, exec := {}, sets := []
           crossSince := none, saved := [], halt := none, lastShort := none }

/-- The tiles that cores hold for a context are dropped, and their writes withdrawn; lane swaps that waited for an executing one are applied (R18). -/
def State.dropHeld (s : State) (c : Fin 4) : State :=
  let cores : Table Core := s.cores.map (fun e => (e.1, { e.2 with held := e.2.held.filter (fun h => h.1 ≠ c.val), first := none }))
  let s := s.wasBusy c
  ((cores.filter (fun e => e.2.dueSwaps ≠ [])).map Prod.fst).foldl State.swapDue
    (({ s with cores := cores } : State).dropWrites (fun w => w.ctx = some c.val))

/-- TEARDOWN (16): from CREATING, LIVE, HALTED and RESETTING. -/
def State.teardown (s : State) (c : Fin 4) : State :=
  let a := s.adminOf c
  match a.state with
  | .free | .tearingDown => s.refuseCtl c
  | _ => (((s.setAdmin c { a with state := .tearingDown }).setCtx c (s.ctxOf c).stop).dropHeld c).writeCaps

/-- Zeroisation of a teardown complete: FREE (R444). The window, quota, power and join registers stay (R433), and so does the REFUSED of
CTX_STROKE, which the host reads in every state (R536, R545). -/
def State.teardownComplete (s : State) (c : Fin 4) : State :=
  let a := s.adminOf c
  if a.state = .tearingDown then
    let s := (spansOf a.owned).foldl State.freeSpan s
    let slots := (s.hists.filter (fun e => e.2.owner.toNat = c.val)).map Prod.fst
    let s := slots.foldl State.histRelease s
    let s := s.setCtx c { strokeRefused := (s.ctxOf c).strokeRefused }
    (s.setAdmin c { a with state := .free, mask := 0, owned := 0, leaving := 0, drain := false }).writeCaps
  else s

/-- A channel after a context reset: ROUND 0, no live round, an empty early store (R486). -/
def Channel.restart (k : Channel) : Channel := { k with round := 0, live := [], rows := [], early := [], paired := [], lseqGot := [] }

/-- What a context reset zeroises (R444), and the stroke it clears (R453). Every bay is OFF (R173), and keeps its REFUSED (R545). -/
def Ctx.resetState (x : Ctx) : Ctx :=
  { x.stop with
    descs := [], descOld := [], descBeat := none, descLoaded := [], flags := [], flagHost := 0, counters := [], preds := 0, arrivals := []
    bays := (x.bays.filter (fun e => e.2.refused)).map (fun e => (e.1, { refused := true })), bayWrites := []
    queues := [], slots := [], secondary := 0, stroke := 0, strokeS := 0, strokeStart := 0, announced := false
    channels := x.channels.map (fun e => (e.1, e.2.restart)) }

/-- CONTEXT_RESET (R58): from LIVE and HALTED. -/
def State.contextReset (s : State) (c : Fin 4) : State :=
  let a := s.adminOf c
  match a.state with
  | .live | .halted =>
    let s := if a.state = .live then s.abortRounds c 0 none else s
    (((s.setAdmin c { a with state := .resetting }).setCtx c (s.ctxOf c).stop).dropHeld c).writeCaps
  | _ => s.refuseCtl c

/-- The reset complete: LIVE, with spans, quotas, windows and JOIN_ID unchanged (16, R444); a drain clears (R438). -/
def State.resetComplete (s : State) (c : Fin 4) : State :=
  let a := s.adminOf c
  if a.state = .resetting then
    let s := (s.zeroCrews (crewsOf a.owned)).setCtx c (s.ctxOf c).resetState
    (s.setAdmin c { a with state := .live, drain := false }).writeCaps
  else s

/-- The requested spans take effect: the joining ones zeroised and owned, the leaving ones marked (R435). -/
def State.applySpans (s : State) (c : Fin 4) : State :=
  let a := s.adminOf c
  let joining := a.mask &&& ~~~a.owned
  let s := s.setAdmin c { a with owned := a.owned ||| joining, leaving := a.owned &&& ~~~a.mask }
  let s := s.setCtx c { s.ctxOf c with spanPending := none }
  ((spansOf joining).foldl (fun s p => s.joinSpan c p) s).writeCaps

/-- Does a macro in flight of the context hold the span (R435)? A VSHORT holds the spans of the crews that it was sent to, until its lines have
landed there. -/
def State.spanInUse (s : State) (c : Fin 4) (span : Nat) : Bool :=
  let x := s.ctxOf c
  (s.spanOf span).writes.any (fun w => w.ctx = some c.val) || (x.access.inflight ++ x.exec.inflight).any (fun m =>
    m.blockRead.any (fun b => b.pier = span && !m.snapped) || match m.plan with
    | some p => bit p.spans span
    | none => m.slot = 2 && field m.bits 0 5 = 2 && s.crews.any (fun e => crewSpan e.1 = span &&
        (e.2.waiting ++ e.2.started).any (fun r => r.ctx = c.val && r.index = m.index)))

/-- What a context loses with a span: its crews' ring tiles and credits (R444), and a fetch read that its pier has not answered, which the next
fetch makes again through the new lowest span (R436). -/
def Ctx.leaveSpan (x : Ctx) (span : Nat) : Ctx :=
  { x with queues := x.queues.map (fun e => (e.1, e.2.filter (fun r => crewSpan r.crew ≠ span)))
           slots := x.slots.filter (fun e => crewSpan (e.1 % 256) ≠ span)
           fetch := x.fetch.filter (fun f => f.span ≠ span) }

/-- A leaving span is released once no macro in flight is on it (R435). -/
def State.releaseSpan (s : State) (span : Nat) : State :=
  match s.owner span with
  | none => s
  | some c =>
    let s := s.acceptTrace c
    let a := s.adminOf c
    if bit a.leaving span && !s.spanInUse c span then
      let s := s.setCtx c ((s.ctxOf c).leaveSpan span)
      ((s.setAdmin c { a with owned := putBit a.owned span false, leaving := putBit a.leaving span false }).freeSpan span).writeCaps
    else s

/-- A write of CTX_SPANS.MASK (R434, R435, R503). -/
def State.spanMaskWrite (s : State) (c : Fin 4) (mask : BitVec 16) : State :=
  let a := s.adminOf c
  if mask = 0 || mask &&& s.otherSpans c ≠ 0 || (a.state ≠ .free && mask &&& s.start.fencedSpans ≠ 0) then s.refuseCtl c
  else
    let s := s.setAdmin c { a with mask := mask }
    match a.state with
    | .halted =>
      let s := s.applySpans c
      (spansOf (s.adminOf c).leaving).foldl State.releaseSpan s
    | .live | .resetting =>
      s.setCtx c { s.ctxOf c with spanPending := if mask = s.spansFor c then none else some mask }
    | _ => s

/-- CTX_CTRL.CMD: 1 CREATE, 2 TEARDOWN, 3 RESET; 0 and 4 to 7 do nothing (16). -/
def State.ctlCommand (s : State) (c : Fin 4) (cmd : Nat) : State :=
  match cmd with
  | 1 => s.create c
  | 2 => s.teardown c
  | 3 => s.contextReset c
  | _ => s

/-! ## Windows and joins (R441, R443) -/

/-- One more refused privileged write (R429, R441). -/
def State.refusePriv (s : State) : State := s.setGlob { s.glob with privRefused := satAdd s.glob.privRefused 1 }

/-- A write of WIN_BASE or WIN_LIMIT: ignored and counted where the window would be enabled with LIMIT below BASE (R441). -/
def State.windowWrite (s : State) (c : Fin 4) (w : Nat) (limit : Bool) (v : BitVec 64) : State :=
  let a := s.adminOf c
  let page := v.extractLsb' 12 52
  let a' := if limit then { a with winLimit := a.winLimit.set w page, winEn := putBit a.winEn w (bit v 0), winWr := putBit a.winWr w (bit v 1) }
            else { a with winBase := a.winBase.set w page }
  if bit a'.winEn w && decide ((a'.winLimit.get w 0#52).toNat < (a'.winBase.get w 0#52).toNat) then s.refusePriv
  else s.setAdmin c { a' with winWas := some (s.time.beat, s.windowsOf c) }

/-- Is the seam link at crew 255 (`high`) or crew 0 open: the near owner is joined to the JOIN_ID heard (R22, R443)? -/
def State.seamOpen (s : State) (high : Bool) : Bool :=
  match s.owner (if high then 15 else 0) with
  | none => false
  | some c => decide ((s.adminOf c).joinId ≠ 0) &&
      decide ((s.adminOf c).joinId = if high then s.glob.twinHigh else s.glob.twinLow) && s.start.linksUp &&
      !s.start.closedLinks.contains (if high then 255 else 256)

/-! ## Meanings -/

/-- CREATE. -/
def execCreate (c : Fin 4) (s : State) : Host.Outcome State Fault Refusal := .next (s.create c)
/-- CREATE_COMPLETE. -/
def execCreateComplete (c : Fin 4) (s : State) : Host.Outcome State Fault Refusal := .next (s.createComplete c)
/-- TEARDOWN. -/
def execTeardown (c : Fin 4) (s : State) : Host.Outcome State Fault Refusal := .next (s.teardown c)
/-- TEARDOWN_COMPLETE. -/
def execTeardownComplete (c : Fin 4) (s : State) : Host.Outcome State Fault Refusal := .next (s.teardownComplete c)
/-- CONTEXT_RESET. -/
def execContextReset (c : Fin 4) (s : State) : Host.Outcome State Fault Refusal := .next (s.contextReset c)
/-- RESET_COMPLETE. -/
def execResetComplete (c : Fin 4) (s : State) : Host.Outcome State Fault Refusal := .next (s.resetComplete c)
/-- SPAN_MASK_WRITE. -/
def execSpanMaskWrite (c : Fin 4) (mask : BitVec 16) (s : State) : Host.Outcome State Fault Refusal :=
  .next (s.spanMaskWrite c mask)
/-- SPAN_RELEASE. -/
def execSpanRelease (span : Fin 16) (s : State) : Host.Outcome State Fault Refusal := .next (s.releaseSpan span.val)
/-- HIST_CLAIM. -/
def execHistClaim (slot : Fin 256) (c : Fin 4) (s : State) : Host.Outcome State Fault Refusal :=
  .next (s.histClaim slot.val c.val)
/-- HIST_RELEASE. -/
def execHistRelease (slot : Fin 256) (s : State) : Host.Outcome State Fault Refusal := .next (s.histRelease slot.val)
/-- HIST_CLEAR. -/
def execHistClear (slot : Fin 256) (s : State) : Host.Outcome State Fault Refusal := .next (s.histClear slot.val)
/-- HIST_ADVICE_WRITE. -/
def execHistAdviceWrite (slot : Fin 256) (exponent : BitVec 8) (valid : Bool) (s : State) : Host.Outcome State Fault Refusal :=
  .next (s.histAdvice slot.val exponent valid)
/-- WINDOW_WRITE, from the trusted firmware (R429). -/
def execWindowWrite (c : Fin 4) (w : Fin 8) (limit : Bool) (value : BitVec 64) (s : State) : Host.Outcome State Fault Refusal :=
  .next (s.windowWrite c w.val limit value)
/-- JOIN_ID_EXCHANGE. -/
def execJoinIdExchange (high : Bool) (twin : BitVec 16) (s : State) : Host.Outcome State Fault Refusal :=
  .next (s.setGlob (if high then { s.glob with twinHigh := twin } else { s.glob with twinLow := twin }))

end Sys2Proof.Machine
end

