-- ==== Sys2Proof/Machine/Fetch.lean ====
section
/-! DEFINITION. Doorbells, command-list fetch, the split, and routines (02 R40 to R43, 05 R142 to R145 and R165,
20_resident_library.md R516 to R526). -/

namespace Sys2Proof.Machine

/-! ## Doorbell (R40, R41) -/

/-- A write of CTX_DOORBELL.BUNDLES. -/
def State.doorbell (s : State) (c : Fin 4) (n : BitVec 24) : State :=
  let x := s.ctxOf c
  if n = 0 || !s.pageOpen c then s
  else if s.runs c && x.lists.length < 8 then
    s.setCtx c { x with lists := x.lists ++ [⟨x.clBase.toNat * 64, x.clWindow, n.toNat⟩] }
  else s.setCtx c { x with dropped := true }

/-! ## Performance counters (15) -/

/-- One event of a span's performance counters (15). -/
def Span.perf (x : Span) (event n : Nat) : Span :=
  if x.freeze then x
  else { x with perfCnt := x.perfSel.foldl (fun t e =>
           if e.2.toNat = event then t.set e.1 (satAdd (t.get e.1 0#48) n) else t) x.perfCnt }

/-- The work of a tile or of a VSHORT joins LANE_OPS, SFU_EVALS and CU_ELEMS (15, log 16). -/
def State.works (s : State) (span macro_ which attempt : Nat) : State :=
  s.setSpan span ([3, 4, 5].foldl (fun x e => x.perf e (Config.work e macro_ which attempt)) (s.spanOf span))

/-- The events that count as time runs: span beats, core-beats by cause, waits of matrix engines, park lines, short ports, stretch. -/
def tallied : List Nat := [0x01, 0x02, 0x0D, 0x0E, 0x0F, 0x10, 0x11, 0x12, 0x13, 0x15, 0x16, 0x17]

/-- What such an event has counted on a span since reset. -/
def State.counted (s : State) (span event : Nat) : Nat := if event = 0x01 then s.spanBeat span else s.tally.get (64 * span + event) 0

/-- Bring the counters of those events up to now (15). -/
def Span.settlePerf (x : Span) (now : Nat → Nat) : Span :=
  tallied.foldl (fun x e => { (x.perf e (now e - x.perfSince.get e 0)) with perfSince := x.perfSince.set e (now e) }) x

def State.perf (s : State) (span event n : Nat) : State := s.setSpan span ((s.spanOf span).perf event n)

/-- DETAIL of a class 0x09 record (R481). -/
def domainDetail (window role address : Nat) : Nat := pack [(0, 1, window), (1, 1, role), (8, 8, address)]

/-! ## COMMAND_LIST_FETCH (R42, R43) -/

def State.listFetch (s : State) (c : Fin 4) : State :=
  let x := s.ctxOf c
  match x.lists, s.lowestSpan c with
  | l :: _, some span =>
    if !s.inBeat c || x.fetch.isSome || x.buffer.length > 8 || x.access.queue.length ≥ 512 || x.exec.queue.length ≥ 512 then s
    else
      let k := min l.left (8 - l.base / 64 % 8)
      let hi := l.base + 64 * k - 1
      if !s.inWindow c l.window.toNat l.base hi false then
        s.raiseBare c { code := 0x0901, detail := domainDetail l.window.toNat 3 l.base }
      else
        match (s.spanOf span).freeTag with
        | none => s
        | some t =>
          let beat := s.spanBeat span
          let s := s.setSpan span (((s.spanOf span).perf 0x08 1).sendRead t ⟨c.val, none, beat, 0, l.base, hi, 0⟩)
          s.setCtx c { x with fetch := some ⟨l.base, k, l.window, span, t, beat, false⟩ }
  | _, _ => s

/-- Is the fetch read of a context the one that a pier made under a tag (R45)? -/
def Ctx.fetches (x : Ctx) (span tag : Nat) : Bool := x.fetch.any (fun f => f.span = span && f.tag = tag)

/-- The bytes of a fetched bundle. -/
def bundleAt (m : Memory) (a : Nat) : Bundle := BitVec.ofNat 512 (ofLe (m.readBytes a 64))

/-- The data of a fetch read arrive: its bundles go to the buffer in order, and the list advances. -/
def Ctx.takeFetch (x : Ctx) (m : Memory) : Ctx :=
  match x.fetch with
  | none => x
  | some f =>
    let got := (List.range f.bundles).map (fun i => (⟨bundleAt m (f.addr + 64 * i), BitVec.ofNat 64 (f.addr + 64 * i)⟩ : Fetched))
    let lists :=
      match x.lists with
      | [] => []
      | l :: t => if l.left ≤ f.bundles then t else { l with base := l.base + 64 * f.bundles, left := l.left - f.bundles } :: t
    { x with fetch := none, buffer := x.buffer ++ got, lists := lists }

/-- A fetch read fails by poison or timeout: retried once, then 0x0A02 PORT_TIMEOUT (R47). The repeated read is checked against the
window in force, as every fetch read is (R43). -/
def State.fetchFails (s : State) (c : Fin 4) : State :=
  let x := s.ctxOf c
  match x.fetch with
  | none => s
  | some f =>
    let unit := pack [(0, 1, 7), (1, 1, f.span), (2, 2, 0xFFFF), (8, 8, f.addr)]
    if f.retried then
      let sp := s.spanOf f.span
      let s := s.setSpan f.span { sp with reads := sp.reads.erase f.tag }
      (s.setCtx c { x with fetch := none }).raiseBare c { code := 0x0A02, detail := unit }
    else
      let hi := f.addr + 64 * f.bundles - 1
      let sp := s.spanOf f.span
      let beat := s.spanBeat f.span
      if !s.inWindow c f.window.toNat f.addr hi false then
        let s := s.setSpan f.span { sp with reads := sp.reads.erase f.tag }
        (s.setCtx c { x with fetch := none }).raiseBare c { code := 0x0901, detail := domainDetail f.window.toNat 3 f.addr }
      else
        let s := s.setSpan f.span (sp.sendRead f.tag ⟨c.val, none, beat, 0, f.addr, hi, 0⟩)
        let s := s.setCtx c { x with fetch := some { f with retried := true, beat := beat } }
        s.absorb c.val { code := 0x0A84, detail := unit }

/-! ## Reads of the cox through the service pier (R49) -/

/-- What the cox has of bytes that it reads: not all yet; a piece has failed (R39); the bytes. -/
inductive CoxGot where
  | waiting
  | failed
  | data (l : List Byte)
  deriving DecidableEq, Repr

/-- The parts of a byte range that lie in one aligned block of 512 B each. -/
def pieces512 (addr len : Nat) : List (Int × Int) :=
  (List.range ((addr + len + 511) / 512 - addr / 512)).map (fun i =>
    let b := addr / 512 + i
    ((max addr (512 * b) : Nat), (min (addr + len) (512 * b + 512) : Nat) - (1 : Int)))

/-- Send pieces of the cox's read as far as the pier has tags (R38, R45). -/
def State.coxSend (s : State) (r : CoxRead) : State :=
  let sp := s.spanOf r.pier
  let n := min r.todo.length sp.freeTags.length
  let s := s.setSpan r.pier (sp.sendReads 7 (false, r.gen, 0) (s.spanBeat r.pier) 0 r.todo)
  s.setGlob { s.glob with coxRead := some { r with todo := r.todo.drop n, out := r.out + n } }

/-- The cox reads `len` bytes at an address: the read begins, goes on, or has ended (R49). -/
def State.coxFetch (s : State) (addr len : Nat) : State × CoxGot :=
  let done (s : State) : State := s.setGlob { s.glob with coxRead := none }
  match s.glob.coxRead.filter (fun r => r.addr = addr && r.len = len) with
  | some r =>
    if r.failed then (done s, .failed)
    else if r.todo.isEmpty && r.out = 0 then (done s, .data (r.seen.readBytes addr len))
    else (s.coxSend r, .waiting)
  | none =>
    if len = 0 then (s, .data [])
    else
      let n := s.glob.coxReads
      ((s.setGlob { s.glob with coxReads := n + 1 }).coxSend
        { addr := addr, len := len, gen := n, pier := s.start.servicePier, todo := pieces512 addr len }, .waiting)

/-- A piece of the cox's read has ended under its tag: its bytes, or a failure (R39). A piece of an earlier read has no effect. -/
def State.coxTakes (s : State) (gen : Nat) (rd : PierRead) (good : Bool) : State :=
  match s.glob.coxRead with
  | some r =>
    if r.gen ≠ gen then s
    else if good then s.coxSend { r with out := r.out - 1, seen := Memory.overlay rd.lo rd.hi s.mem r.seen }
    else s.setGlob { s.glob with coxRead := some { r with out := r.out - 1, failed := true } }
  | none => s

/-! ## The library (R516, R517, R521) -/

/-- Directory entry fields (R517). -/
structure DirEntry where
  bits : BitVec 512
  deriving DecidableEq, Repr

namespace DirEntry
def offset (d : DirEntry) : Nat := field d.bits 0 32
def length (d : DirEntry) : Nat := field d.bits 32 16
def nh (d : DirEntry) : Nat := field d.bits 48 8
def ns (d : DirEntry) : Nat := field d.bits 56 8
def nrep (d : DirEntry) : Nat := field d.bits 80 8
def source (d : DirEntry) : Nat := field d.bits 96 8
/-- The four repeat regions, 8 B each. -/
def regions (d : DirEntry) : BitVec 256 := d.bits.extractLsb' 128 256
end DirEntry

/-- An absent entry: zero but for SOURCE 0xFF. -/
def absentEntry : BitVec 512 := BitVec.ofNat 512 (0xFF * 2 ^ 96)

/-- Is a directory entry legal in a space of `size` bytes, but for its bytes 12 to 15 (R517, R521)? -/
def entryOk (e : BitVec 512) (size : Nat) : Bool :=
  let d : DirEntry := ⟨e⟩
  let reg (i : Nat) : BitVec 64 := e.extractLsb' (128 + 64 * i) 64
  let first (i : Nat) : Nat := field (reg i) 0 16
  let last (i : Nat) : Nat := field (reg i) 16 16
  let regionOk (i : Nat) : Bool :=
    if i ≥ d.nrep then reg i = 0
    else first i < d.length && first i ≤ last i && last i < d.length &&
      (field (reg i) 32 8 ≤ 3 || field (reg i) 32 8 = 0xFF) && (field (reg i) 32 8 = 0xFF || field (reg i) 56 8 = 0)
  let nested (i j : Nat) : Bool :=
    last i < first j || last j < first i || (first i ≤ first j && last j ≤ last i) || (first j ≤ first i && last i ≤ last j)
  d.offset % 64 = 0 && d.offset + 64 * d.length ≤ size && d.length ≤ 4096 && d.nh ≤ 8 && d.ns ≤ 4 && d.nrep ≤ 4 &&
    field e 88 8 = 0 && field e 384 128 = 0 && (List.range 4).all regionOk &&
    (List.range d.nrep).all (fun i => (List.range d.nrep).all (fun j => nested i j))

/-- The ROM's entry of a routine: what Gelxel put there where it is legal, with SOURCE 0 and the reserved bytes zero; 0x380 to 0x3FF are empty
in ROM (R517; log 7). -/
def romEntry (r : Nat) : BitVec 512 :=
  let e := Config.romDir r &&& ~~~(BitVec.ofNat 512 (0xFFFFFFFF * 2 ^ 96))
  if r < 0x380 && entryOk e 0x200000 && field e 32 16 ≠ 0 then e else absentEntry

/-- The effective directory (R517, R529): a patch's entry, else the ROM's once ST7 has built it, else absent; routine 0
is never present. -/
def State.dirEntry (s : State) (r : Nat) : DirEntry :=
  if r = 0 then ⟨absentEntry⟩
  else
    match s.lib.dir.find r with
    | some d => ⟨d⟩
    | none => if s.lib.romLoaded && !s.lib.absent.contains r then ⟨romEntry r⟩ else ⟨absentEntry⟩

/-- Is the routine there for a CALL: present, and not DIAG in PRODUCTION (R518)? -/
def State.present (s : State) (r : Nat) : Bool :=
  let d := s.dirEntry r
  r ≠ 0 && d.length ≠ 0 && d.source ≠ 0xFF && !(0x300 ≤ r && r ≤ 0x37F && s.glob.lifecycle = 1)

/-- A bundle of the library address space (R516). -/
def State.libBundle (s : State) (offset : Nat) : Bundle :=
  if offset < 0x200000 then Config.romBundle offset else bundleAt s.lib.patch offset

-- Repeat regions of an active routine (R521).
namespace Frame

def first (f : Frame) (i : Nat) : Nat := field f.regions (64 * i) 16
def last (f : Frame) (i : Nat) : Nat := field f.regions (64 * i + 16) 16
def csrc (f : Frame) (i : Nat) : Nat := field f.regions (64 * i + 32) 8
def hmask (f : Frame) (i : Nat) : Nat := field f.regions (64 * i + 40) 8
def hstep (f : Frame) (i : Nat) : Int := sfield f.regions (64 * i + 48) 8
/-- The passes of a region, read when it is first reached (R522). -/
def count (f : Frame) (i : Nat) : Nat :=
  if f.csrc i = 0xFF then field f.regions (64 * i + 56) 8 else (f.scalars.getD (f.csrc i) 0#32).toNat
/-- Is a region under way? -/
def active (f : Frame) (i : Nat) : Bool := f.passes.any (fun p => p.1 = i)
/-- The outermost region that starts at the present position and is not under way. -/
def starting (f : Frame) (n : Nat) : Option Nat :=
  ((List.range n).filter (fun i => f.first i = f.pos && !f.active i)).foldl
    (fun (best : Option Nat) i =>
      match best with
      | none => some i
      | some j => if f.last j < f.last i then some i else best) none

/-- More moves of the position than four nested regions can take between two bundles: their counts are at most 2^32. -/
def settleFuel : Nat := 2 ^ 140

/-- Settle the position (R522): after bundle `done` where it is given, else on arrival at `pos`. Passes are innermost first. -/
def settle (n : Nat) : Nat → Option Nat → Frame → Frame
  | 0, _, f => f
  | fuel + 1, some p, f =>
    match f.passes with
    | (i, pass, count) :: t =>
      if f.last i = p then
        if pass + 1 < count then settle n fuel none { f with pos := f.first i, passes := (i, pass + 1, count) :: t }
        else settle n fuel (some p) { f with passes := t }
      else settle n fuel none { f with pos := p + 1 }
    | [] => settle n fuel none { f with pos := p + 1 }
  | fuel + 1, none, f =>
    match f.starting n with
    | none => f
    | some i =>
      if f.count i = 0 then settle n fuel (some (f.last i)) f
      else settle n fuel none { f with passes := (i, 0, f.count i) :: f.passes }

/-- The value of argument Hk in the present passes, and whether it steps (R522). -/
def handleValue (f : Frame) (k : Nat) : Int × Bool :=
  f.passes.foldl (fun v p =>
    if f.hmask p.1 / 2 ^ k % 2 = 1 then (v.1 + (p.2.1 : Int) * f.hstep p.1, true) else v)
    ((f.handles.getD k 0 : Int), false)

end Frame

/-- Replace the argument handles of a routine's bundle (R519): the bundle, and the lowest handle field whose stepped value
is outside 1 to 4,095 (R522). -/
def replaceArgs (f : Frame) (b : Bundle) : Bundle × Option Nat :=
  (handleFields b).foldl (fun (acc : Bundle × Option Nat) lo =>
    let h := field b lo 12
    if h < 0xFF8 then acc
    else
      let (v, stepped) := f.handleValue (h - 0xFF8)
      if stepped && (v < 1 || v > 4095) then (putHandle acc.1 lo 0, acc.2.or (some lo))
      else (putHandle acc.1 lo v.toNat, acc.2)) (b, none)

/-- The slot code that holds a bundle bit (R140). -/
def slotOfBit (p : Nat) : Nat :=
  if p < 64 then 0 else if p < 128 then 1 else if p < 256 then 2 else if p < 352 then 3 else if p < 416 then 4
  else if p < 480 then 5 else 6

/-- DETAIL of a class 0x0B record (R481). -/
def libDetail (routine depth offset : Nat) : BitVec 128 := BitVec.ofNat 128 (pack [(0, 2, routine), (2, 1, depth), (4, 4, offset)])

/-! ## BUNDLE_SPLIT (R139, R143, R519) -/

/-- Routines active: those of which a bundle has still to be split (R165, R524). -/
def Ctx.activeFrames (x : Ctx) : Nat := x.frames.countP (fun f => f.pos < f.length)

/-- The next bundle: of the innermost active routine, else of the command lists. DESIGN CHOICE (log 86): of a routine's bundle that fails
both R522 and R139 the record is that of R522; no rule orders the two. -/
def State.nextBundle (s : State) (c : Fin 4) : Option (Entry × Ctx) :=
  let x := s.ctxOf c
  let depth := x.activeFrames
  match x.frames with
  | f :: t =>
    if f.pos ≥ f.length then none
    else
      let off := f.offset + 64 * f.pos
      let (b, bad) := replaceArgs f (s.libBundle off)
      let exceeds := f.passes.any (fun p => p.2.2 > 65535)
      let f' := f.settle f.nrep Frame.settleFuel (some f.pos)
      let checked := checkBundle x b depth
      let args : Option Bad :=
        if exceeds then some ⟨0x0B02, 1, libDetail f.routine depth off⟩
        else bad.map (fun lo => ⟨0x0B02, slotOfBit lo, libDetail f.routine depth off⟩)
      let e : Entry :=
        { bits := b, addr := BitVec.ofNat 64 (2 ^ 63 + off), tag := f.tag, index := x.split, bad := args.or checked
          depth := depth, isCall := b.isCall, acts := if f'.pos ≥ f'.length then [.restore] else [], pred := none }
      some (e, { x with frames := f' :: t, split := x.split + 1 })
  | [] =>
    match x.buffer with
    | [] => none
    | g :: t =>
      let e : Entry :=
        { bits := g.bits, addr := g.addr, tag := Bundle.tag g.bits, index := x.split, bad := checkBundle x g.bits depth
          depth := depth, isCall := Bundle.isCall g.bits, acts := [], pred := none }
      some (e, { x with buffer := t, split := x.split + 1 })

/-- The local time before which a bundle may not issue (R127, R451); before the first announcement every offset has passed. -/
def Ctx.releaseTime (x : Ctx) (e : Entry) : Nat :=
  if x.announced then x.strokeS.toNat + 32 * Bundle.notBefore e.bits + x.shift else 0

/-- A stream reaches the bundle at the head of its queue: S of R127 is taken then. -/
def Ctx.reach (x : Ctx) (execute : Bool) : Ctx :=
  let t := x.stream execute
  match t.holdUntil, t.queue with
  | none, e :: _ => x.setStream execute { t with holdUntil := some (x.releaseTime e) }
  | _, _ => x

/-- Each bundle takes one entry in each stream queue (R143). -/
def Ctx.enqueue (x : Ctx) (e : Entry) : Ctx :=
  let x : Ctx := { x with access := { x.access with queue := x.access.queue ++ [e] }, exec := { x.exec with queue := x.exec.queue ++ [e] } }
  (x.reach false).reach true

/-- What the library read of a routine's bundle at an offset met (R526): 0 nothing, 1 a single-bit error, corrected and recorded, 2 a double-bit
error once, 3 twice, which halts; `true` where it halts. The table of R482 has no UNIT for the library: UNIT and SYNDROME are free values
(log 29). -/
def State.libraryRead (s : State) (c : Fin 4) (f : Frame) (depth offset : Nat) (errors : Fin 4) : State × Bool :=
  match errors with
  | 1 =>
    let (u, s) := s.takeFree
    let (syn, s) := s.takeFree
    (s.absorb c.val { code := 0x0A81, tag := f.tag, addr := BitVec.ofNat 64 (2 ^ 63 + offset)
                      detail := hwDetail u.toNat 0 0xFFFF syn.toNat offset }, false)
  | 3 => (s.raise c { code := 0x0B03, slot := 7, tag := f.tag, addr := BitVec.ofNat 64 (2 ^ 63 + offset)
                      detail := (libDetail f.routine depth offset).toNat }, true)
  | _ => (s, false)

/-- The library read of the next bundle, where a routine gives it. -/
def State.readRoutine (s : State) (c : Fin 4) (errors : Fin 4) : State × Bool :=
  match (s.ctxOf c).frames with
  | f :: _ => s.libraryRead c f (s.ctxOf c).activeFrames (f.offset + 64 * f.pos) errors
  | [] => (s, false)

/-- Split one bundle. A CALL that has passed its checks waits for the CALL step, which queues it. -/
def State.splitBundle (s : State) (c : Fin 4) (errors : Fin 4) : State :=
  let x := s.ctxOf c
  if !s.inBeat c || x.callDue.isSome || x.access.queue.length ≥ 512 || x.exec.queue.length ≥ 512 then s
  else
    match s.nextBundle c with
    | none => s
    | some (e, x') =>
      match s.readRoutine c errors with
      | (s, true) => s
      | (s, false) => if e.isCall && e.bad.isNone then s.setCtx c { x' with callDue := some e } else s.setCtx c (x'.enqueue e)

/-! ## CALL and the return (R165, R518, R520, R524, R526) -/

/-- The checks of R518, in order. -/
def State.callBad (s : State) (x : Ctx) (e : Entry) : Option Bad :=
  let b : Bundle := e.bits
  let d := s.dirEntry b.routine
  let lib := libDetail b.routine e.depth 0
  if x.activeFrames ≥ 4 then some ⟨0x0105, 1, bundleDetail 4 e.depth⟩
  else if !s.present b.routine then some ⟨0x0B01, 1, lib⟩
  else if b.nh ≠ d.nh || b.ns ≠ d.ns then some ⟨0x0B02, 1, lib⟩
  else none

/-- The frame a CALL pushes. -/
def State.callFrame (s : State) (x : Ctx) (e : Entry) : Frame :=
  let b : Bundle := e.bits
  let d := s.dirEntry b.routine
  let tag := match x.frames.getLast? with | some f => f.tag | none => e.tag
  let f : Frame :=
    { routine := b.routine, offset := d.offset, length := d.length, nh := d.nh, ns := d.ns, nrep := d.nrep, regions := d.regions
      handles := (List.range b.nh).map b.handle, scalars := b.scalarArgs.take b.ns, pos := 0, passes := [], tag := tag }
  f.settle d.nrep Frame.settleFuel none

/-- The fetch side of a CALL, with the library read of the first bundle. -/
def State.callFetch (s : State) (c : Fin 4) (x : Ctx) (e : Entry) (errors : Fin 4) : State :=
  match s.callBad x e with
  | some bad => s.setCtx c ({ x with callDue := none }.enqueue { e with bad := some bad })
  | none =>
    let f := s.callFrame x e
    let b : Bundle := e.bits
    let acts := e.acts ++ [.save (b.scalarArgs.take b.ns)] ++ (if f.pos ≥ f.length then [.restore] else [])
    let s' := s.setCtx c ({ x with callDue := none, frames := f :: x.frames }.enqueue { e with acts := acts })
    (s'.libraryRead c f (x.activeFrames + 1) (f.offset + 64 * f.pos) errors).1

/-- The execute stream issues a CALL (R520): save the caller's counters 4 to 7, P2 and P3; load the arguments. -/
def Ctx.saveFrame (x : Ctx) (args : List Word) : Ctx :=
  let old := [4, 5, 6, 7].map x.counter
  let counters := (List.range 4).foldl (fun t k => Table.set (4 + k) (args.getD k 0#32) t) x.counters
  { x with saved := (old, x.preds.extractLsb' 2 2) :: x.saved, counters := counters, preds := x.preds &&& 0b0011#4 }

/-- The execute stream issues a routine's last bundle (R520): restore the caller's values. -/
def Ctx.restoreFrame (x : Ctx) : Ctx :=
  match x.saved with
  | [] => x
  | (old, p) :: t =>
    let counters := (List.range 4).foldl (fun u k => Table.set (4 + k) (old.getD k 0#32) u) x.counters
    { x with saved := t, counters := counters, preds := (x.preds &&& 0b0011#4) ||| BitVec.ofNat 4 (4 * p.toNat) }

/-- CALL: the fetch side of the CALL just split, else the issue side of the one the execute stream has issued. -/
def State.callStep (s : State) (c : Fin 4) (errors : Fin 4) : State :=
  let x := s.ctxOf c
  if !s.inBeat c then s
  else
    match x.callDue with
    | some e => s.callFetch c x e errors
    | none =>
      match x.exec.due with
      | .frame (.save args) :: t => s.setCtx c { x.saveFrame args with exec := { x.exec with due := t } }
      | _ => s

/-- ROUTINE_RETURN: the issue side where the execute stream has issued a last bundle, else the innermost routine whose last
bundle has been split returns (R524). -/
def State.routineReturn (s : State) (c : Fin 4) : State :=
  let x := s.ctxOf c
  if !s.inBeat c then s
  else
    match x.exec.due with
    | .frame .restore :: t => s.setCtx c { x.restoreFrame with exec := { x.exec with due := t } }
    | _ =>
      match x.frames with
      | f :: t => if f.pos ≥ f.length && x.callDue.isNone then s.setCtx c { x with frames := t } else s
      | [] => s

/-! ## Meanings -/

/-- DOORBELL. -/
def execDoorbell (c : Fin 4) (bundles : BitVec 24) (s : State) : Host.Outcome State Fault Refusal := .next (s.doorbell c bundles)
/-- COMMAND_LIST_FETCH. -/
def execCommandListFetch (c : Fin 4) (s : State) : Host.Outcome State Fault Refusal := .next (s.listFetch c)
/-- BUNDLE_SPLIT. -/
def execBundleSplit (read : BundleRead) (s : State) : Host.Outcome State Fault Refusal := .next (s.splitBundle read.c read.errors)
/-- CALL. -/
def execCall (c : Fin 4) (errors : Fin 4) (s : State) : Host.Outcome State Fault Refusal := .next (s.callStep c errors)
/-- ROUTINE_RETURN. -/
def execRoutineReturn (c : Fin 4) (s : State) : Host.Outcome State Fault Refusal := .next (s.routineReturn c)

end Sys2Proof.Machine
end

