-- ==== Sys2Proof/Machine/Power.lean ====
section
/-! DEFINITION. Pacing and power (17_timeline_and_power.md R458 to R471; 02 R60 to R64). -/

namespace Sys2Proof.Machine

/-- Nominal voltage of a point in mV (R458). -/
def pointMv (p : Nat) : Nat :=
  [550, 555, 560, 570, 580, 590, 600, 620, 640, 660, 680, 700, 720, 750, 785, 820].getD p 550

/-- The regulator's setting: the trimmed voltage of the present point (R458, R467). -/
def Span.setting (x : Span) : Int := (pointMv x.point.toNat : Int) + x.trim.toInt

/-- The part of the envelope for the present phase (R462); before any, LO and HI as they stand. -/
def Span.part (x : Span) : EnvPart := x.envelope.getD x.phase.toNat ⟨x.lo.toNat, x.hi.toNat, []⟩

/-- The point the governor makes for: the latest floor entry passed, else LO (R463), lowered by the active thermal and power
steps, never below LO (R470, R471). -/
def Span.target (x : Span) : Nat :=
  let e := x.part
  let base := match x.floor with
    | some i => (e.floors.getD i (0, e.lo)).2
    | none => e.lo
  max e.lo (base - x.thermPoints - x.capPoints)

/-- The stretch s of R461: 8 under an output undervoltage (R467), else the steps taken, at most 8. -/
def Span.wantStretch (x : Span) : Nat :=
  if x.undervolt then 8 else min 8 (x.thermStretch + x.capStretch + x.peakStretch + x.currentStretch)

/-- Apply stretch, THROTTLE and CAPPED; the beat count is fixed first (R4). -/
def Span.govern (x : Span) (beat mode : Nat) : Span :=
  let x := x.rebase beat
  let therm := decide (x.thermPoints + x.thermStretch > 0)
  let cap := decide (x.capPoints + x.capStretch > 0)
  { x with stretch := BitVec.ofNat 4 x.wantStretch, throttle := therm, capped := cap
           pace := if x.pace = 5 then 5 else if therm || cap then 4 else if x.pace = 4 then BitVec.ofNat 3 mode else x.pace }

/-- The mode of an owned span (R465, R466): STEADY in the cold state (the first 8 block strokes after a start), EFFICIENCY_LOCK under
LOCKED, else as requested. -/
def State.mode (s : State) (span : Nat) : Nat :=
  match s.owner span with
  | none => 5
  | some c =>
    if bit s.start.forceSteady span || !s.glob.anyStroke || s.glob.strokesSince ≤ 8 then 1
    else if s.glob.policy then 3
    else (s.ctxOf c).paceInForce.toNat

/-- The highest point of any envelope (R466). -/
def State.highest (s : State) : Nat := if s.glob.policy then 14 else 15

/-- A fixed mode's part: LO = HI = the mode's point, no floor entries (R463). -/
def fixedPart (p : Nat) : EnvPart := ⟨p, p, []⟩

/-- The time in ns that the work of a window of 4 µs takes at a point, for a busy fraction in units of 1/65,536 (R464). -/
def workNs (busy p : Nat) : Nat := busy * 7200 * 1000 / (65536 * (600 + 100 * p))

/-- The estimate of R464 for a window at a point. -/
def windowEnergy (span busy p : Nat) (temp : Int) : Nat :=
  busy * 7200 * Config.cDyn span * pointMv p ^ 2 + Config.pLeak span (pointMv p) temp * workNs busy p

/-- The point for each window: among those at which the phase's work would finish by the limit, the one of the least estimate, the lowest of
several; the highest where none would (R464). DEDUCED (log 15): the finish at a point is the phase's mean length with the time of its work
at Steady replaced by that at the point. -/
def lockPoints (span highest : Nat) (p : Profile) (limitNs : Nat) (temp : Int) : List Nat :=
  let total (i : Nat) : Nat := (p.busy.map (fun b => workNs b i)).sum
  let ok := (List.range (highest + 1)).filter (fun i => 32 * p.mean + total i ≤ limitNs + total 12)
  (List.range 16).map (fun w =>
    let e := windowEnergy span (p.busy.getD w 0) (temp := temp)
    (ok.foldl (fun (best : Option Nat) i => match best with
      | none => some i
      | some j => if e i < e j then some i else some j) none).getD highest)

/-- The floor entries of a sequence of points: a rise leads its window by the time of R460, to the next µs, and takes the place of an entry that it
would overtake; a fall comes at its window (R464). -/
def floorEntries (lo : Nat) (pts : List Nat) : List (Nat × Nat) :=
  (((List.range pts.length).zip pts).foldl (fun (acc : List (Nat × Nat)) q =>
    let prev := match acc with | e :: _ => e.2 | [] => lo
    if q.2 = prev then acc
    else
      let off := if q.2 > prev then 4 * q.1 - ceilDiv (2 * (pointMv q.2 - pointMv prev) + 50) 100 else 4 * q.1
      (off, q.2) :: acc.dropWhile (fun e => e.1 ≥ off)) []).reverse

/-- At most four entries: the fourth covers every later one at the highest of their points (log 15). -/
def fourEntries (l : List (Nat × Nat)) : List (Nat × Nat) :=
  if l.length ≤ 4 then l else l.take 3 ++ [((l.getD 3 (0, 0)).1, ((l.drop 3).map Prod.snd).foldl max 0)]

/-- A part in EFFICIENCY_LOCK (R464); STEADY for a phase with fewer than 8 observed strokes (R465). The deadline is the
context's, or the phase's mean length where that is 0, less the margin of R466. -/
def State.lockPart (s : State) (span phase : Nat) : EnvPart :=
  let x := s.spanOf span
  let p := x.profiles.get phase {}
  if p.strokes < 8 then fixedPart 12
  else
    let want := match s.owner span with | some c => (s.ctxOf c).deadline.toNat | none => 0
    let full := if want = 0 then p.mean else want
    let limit := 32 * (full - full * (if s.glob.policy then 20 else 10) / 100)
    let pts := lockPoints span s.highest p limit (((s.spanOf span).sensors.filterMap (fun e => e.2.valid)).foldl max 0)
    let lo := pts.foldl min 15
    ⟨lo, pts.foldl max lo, fourEntries (floorEntries lo pts)⟩

/-- The envelope of a span: one part for each phase code (R462). -/
def State.envelopeFor (s : State) (span : Nat) : List EnvPart :=
  (List.range 5).map (fun ph =>
    match s.mode span with
    | 0 => fixedPart 6
    | 2 => fixedPart (min 15 s.highest)
    | 3 => s.lockPart span ph
    | 5 => fixedPart 0
    | _ => fixedPart 12)

/-- Control beats in a microsecond. -/
def usBeats : Nat := 1800

/-- The floor entry in force: of those whose offset from the phase marker has passed, the latest (R463). -/
def Span.latestFloor (x : Span) (beat : Nat) : Option Nat :=
  let l := x.part.floors
  ((List.range l.length).filter (fun i => decide (x.marker + usBeats * (l.getD i (0, 0)).1 ≤ beat))).foldl (fun (best : Option Nat) i =>
    match best with
    | none => some i
    | some j => if (l.getD j (0, 0)).1 ≤ (l.getD i (0, 0)).1 then some i else some j) none

/-- The governor takes up the part of the present phase, with the floor entry that has passed (R463). -/
def Span.takeUp (x : Span) (beat : Nat) : Span :=
  let e := x.part
  { x with lo := BitVec.ofNat 4 e.lo, hi := BitVec.ofNat 4 e.hi, floor := x.latestFloor beat }

/-- The stroke has contained the present phase (R464). -/
def Span.note (x : Span) : Span := { x with phases := putBit x.phases x.phase.toNat true }

/-- PHASE: the phase code goes to the spans of the context; floor offsets count from this beat (R157, R463). -/
def State.setPhase (s : State) (c : Fin 4) (p : Nat) : State :=
  let s := s.setCtx c { s.ctxOf c with phase := some p }
  (spansOf (s.adminOf c).owned).foldl (fun s n =>
    s.setSpan n (({ (s.spanOf n).note with phase := BitVec.ofNat 3 p, marker := s.time.beat } : Span).takeUp s.time.beat)) s

/-- ENVELOPE_DELIVER: the envelope on its way is in force (R30, R33, R462). -/
def State.deliver (s : State) (span : Nat) : State :=
  let x := s.spanOf span
  match x.nextEnvelope with
  | none => s
  | some e =>
    let x := ({ x with envelope := e, nextEnvelope := none } : Span).takeUp s.time.beat
    let m := s.mode span
    s.setSpan span { x with pace := if x.pace = 4 then 4 else BitVec.ofNat 3 m }

/-- FLOOR_ENTRY: the latest floor entry whose offset has passed (R463). -/
def State.floorEntry (s : State) (span : Nat) : State :=
  let x := s.spanOf span
  match x.latestFloor s.time.beat with
  | some i => s.setSpan span { x with floor := some i }
  | none => s

/-- The setting of a point with the span's trim, in mV. -/
def Span.settingOf (x : Span) (p : Nat) : BitVec 10 := BitVec.ofInt 10 ((pointMv p : Int) + x.trim.toInt)

/-- PACE_POINT_MOVE: the next part of a move to the target point (R460): upward the voltage first, then the frequency; downward the
frequency, then the voltage. No frequency comes before its voltage, and the voltage moves only while the regulator is on and its output
holds; REST stays at point 0. -/
def State.movePoint (s : State) (span : Nat) : State :=
  let x := (s.spanOf span).rebase s.time.beat
  let p := if x.pace = 5 then 0 else x.target
  let works : Bool := x.regulatorOn && !x.undervolt
  s.setSpan span (
    if p < x.point.toNat then { x with point := BitVec.ofNat 4 p }
    else if x.vout.toNat < (x.settingOf p).toNat then (if works then { x with vout := x.settingOf p } else x)
    else if p > x.point.toNat then { x with point := BitVec.ofNat 4 p }
    else if works then { x with vout := x.settingOf p } else x)

/-! ## The surge governor (R469) -/

/-- Has the span held no tile and run no short operation for the previous 256 span beats? -/
def State.surgeIdle (s : State) (span : Nat) : Bool :=
  decide ((s.spanOf span).busyUntil + 256 ≤ s.spanBeat span) &&
    !(s.cores.any (fun e => coreSpan e.1 = span && !e.2.held.isEmpty)) &&
    !(s.crews.any (fun e => crewSpan e.1 = span && !e.2.started.isEmpty))

/-- The span runs a load up to a span beat: a grant is used up (R469). -/
def State.loads (s : State) (span upTo : Nat) : State :=
  let x := s.spanOf span
  s.setSpan span { x with granted := false, busyUntil := max x.busyUntil upTo }

/-- May the span step to load: it is not idle, or its request has been granted? -/
def State.mayLoad (s : State) (span : Nat) : Bool := !s.surgeIdle span || (s.spanOf span).granted

def State.grantSpan (s : State) (span : Nat) : State :=
  let s := s.setSpan span { s.spanOf span with surgeWait := false, granted := true }
  s.setGlob { s.glob with grants := (s.glob.grants ++ [s.time.beat]).filter (fun b => s.time.beat < b + 64) }

/-- Serve the queue: all at once while at most 4 grants fall in beats t − 63 to t, else one at a time, each 32 beats after the
previous grant. -/
def State.serveSurge (s : State) : State :=
  let g := s.glob
  let t := s.time.beat
  let recent := (g.grants.filter (fun b => t < b + 64)).length
  match g.surgeQueue with
  | [] => s.setGlob { g with stagger := false }
  | (p, _) :: rest =>
    if !g.stagger && recent + g.surgeQueue.length ≤ 4 then
      (g.surgeQueue.map Prod.fst).foldl State.grantSpan (s.setGlob { g with surgeQueue := [] })
    else
      let last := match g.grants.getLast? with | some b => b + 32 | none => 0
      if last ≤ t then (s.setGlob { g with surgeQueue := rest, stagger := !rest.isEmpty }).grantSpan p
      else s.setGlob { g with stagger := true }

/-- SURGE_REQUEST: an idle span asks to step to load; ties in one beat go by ascending span number. -/
def State.surgeRequest (s : State) (span : Nat) : State :=
  let x := s.spanOf span
  if !s.surgeIdle span || x.surgeWait || x.granted then s
  else
    let q := s.glob.surgeQueue
    let before := q.filter (fun e => e.2 < s.time.beat || e.1 < span)
    let after := q.filter (fun e => !(e.2 < s.time.beat || e.1 < span))
    (s.setSpan span { x with surgeWait := true }).setGlob
      { s.glob with surgeQueue := before ++ [(span, s.time.beat)] ++ after }

/-! ## Thermal limits (R63, R64, R470): readings in half degrees -/

/-- The readings of a span's sensors that count. -/
def Span.readings (x : Span) : List Int := x.sensors.filterMap (fun e => if e.2.failed then none else e.2.valid)

/-- The span's highest valid reading; a failed sensor brings in the highest reading of its neighbours (R63). DESIGN CHOICE (log 73): the rule
does not say whose; they are the working sensors of spans n - 1 and n + 1, on one side only at spans 0 and 15, and the span's own
working sensors still count beside them. -/
def State.hottest (s : State) (span : Nat) : Option Int :=
  let x := s.spanOf span
  let near := if x.sensors.any (fun e => e.2.failed) then 
      (if span = 0 then [] else (s.spanOf (span - 1)).readings) ++ (if span ≥ 15 then [] else (s.spanOf (span + 1)).readings) else []
  (x.readings ++ near).foldl (fun (m : Option Int) r => match m with | none => some r | some v => some (max v r)) none

/-- Take one junction sample: is it valid (R63), and the sensor after it. DESIGN CHOICE (log 74): the rule does not say whether a sensor
taken as failed returns to use after valid readings; it stays failed until a cold reset. -/
def senseOne (old : Sensor) (r : Int) : Bool × Sensor :=
  let near := match old.previous with
    | some p => decide (r - p ≤ 20) && decide (p - r ≤ 20)
    | none => true
  if decide (-80 ≤ r) && decide (r ≤ 300) && near then (true, { old with valid := some r, previous := some r, discards := 0 })
  else (false, { old with previous := some r, discards := old.discards + 1, failed := old.failed || decide (old.discards + 1 ≥ 2) })

/-- One thermal step toward LO, then stretch; or one step undone, stretch first (R470). -/
def Span.thermStep (x : Span) (temp : Int) (beat : Nat) : Span :=
  if temp ≥ 210 then
    let x := { x with coolSince := none }
    if x.lastTherm ≠ 0 && beat < x.lastTherm + 10 * usBeats then x
    else
      let x := { x with lastTherm := beat }
      if x.target > x.part.lo then { x with thermPoints := x.thermPoints + 1 }
      else { x with thermStretch := min 8 (x.thermStretch + 1) }
  else if temp ≤ 202 && x.thermPoints + x.thermStretch > 0 then
    match x.coolSince with
    | none => { x with coolSince := some beat }
    | some b =>
      if beat < b + 100 * usBeats then x
      else
        let x := { x with coolSince := some beat }
        if x.thermStretch > 0 then { x with thermStretch := x.thermStretch - 1 } else { x with thermPoints := x.thermPoints - 1 }
  else { x with coolSince := none }

/-- THERMAL_SAMPLE (R63, R64, R470). -/
def State.thermalSample (s : State) (span sensor : Nat) (r : Int) : State :=
  let x := s.spanOf span
  let (ok, e) := senseOne (x.sensors.get sensor {}) r
  let x := { x with sensors := x.sensors.set sensor e, tempMax := if ok then some ((x.tempMax.map (max r)).getD r) else x.tempMax }
  let s := s.setSpan span x
  if ok && r ≥ 230 then
    let s := s.raiseAll (fun _ => true) { code := 0x0A06, detail := hwDetail 15 sensor 0xFFFF 0 0 }
    let s := (List.range 16).foldl (fun s p => s.setSpan p { s.spanOf p with regulatorOn := false }) s
    s.alert 2 none (some span)
  else
    match s.hottest span with
    | none => s
    | some t =>
      let y := (x.thermStep t s.time.beat).govern s.time.beat (s.mode span)
      let s := s.setSpan span y
      if y.throttle && !x.throttle then s.alert 1 none (some span) else s

/-! ## Power caps (R461, R467, R471) -/

/-- One cap step: down a point every 5 µs toward LO, then stretch every microsecond; or one step undone for every 100 µs below 90 % of the
cap. -/
def Span.capStep (x : Span) (mw beat : Nat) : Span :=
  let due (us : Nat) : Bool := x.lastCap = 0 || decide (beat ≥ x.lastCap + us * usBeats)
  if mw > (x.capBefore beat).toNat * 1000 then
    let x := { x with underSince := none }
    if x.target > x.part.lo then (if due 5 then { x with capPoints := x.capPoints + 1, lastCap := beat } else x)
    else if due 1 then { x with capStretch := min 8 (x.capStretch + 1), lastCap := beat } else x
  else if mw * 10 < (x.capBefore beat).toNat * 9000 && x.capPoints + x.capStretch > 0 then
    match x.underSince with
    | none => { x with underSince := some beat }
    | some b =>
      if beat < b + 100 * usBeats then x
      else
        let x := { x with underSince := some beat, lastCap := beat }
        if x.capStretch > 0 then { x with capStretch := x.capStretch - 1 } else { x with capPoints := x.capPoints - 1 }
  else { x with underSince := none }

/-- The sensed input power of one microsecond joins the energy of the stroke, and its current the largest (R468), in units of 10 mA; before a
reading of the rail input it counts as 1.8 V. -/
def Span.sense (x : Span) (mw : Nat) : Span :=
  { x with energy := x.energy + mw, peakIin := max x.peakIin (100 * mw / (if x.vin = 0 then 1800 else x.vin.toNat)) }

/-- POWER_CAP_STEP: the span's 1 µs mean input power against its cap (R471). -/
def State.powerCap (s : State) (span mw : Nat) : State :=
  let y := (((s.spanOf span).sense mw).capStep mw s.time.beat).govern s.time.beat (s.mode span)
  let s := s.setSpan span y
  match s.owner span with
  | none => s
  | some c =>
    let exceeds := (spansOf (s.adminOf c).owned).any (fun p => (s.spanOf p).capped)
    s.setCtx c { s.ctxOf c with overPower := exceeds }

/-- BLOCK_PEAK_STEP: once the block's 10 µs mean exceeds PEAK_W, every span raises s by one each microsecond until the mean is below it (R471),
and then gives one back each microsecond (log 18). -/
def State.blockPeak (s : State) (mw : Nat) : State :=
  let limit := s.glob.peakW.toNat * 1000
  let active : Bool := (List.range 16).any (fun p => (s.spanOf p).peakStretch > 0)
  let exceeds := decide (mw > limit) || (active && decide (mw = limit))
  if s.glob.lastPeak ≠ 0 && s.time.beat < s.glob.lastPeak + usBeats then s else
  let s := s.setGlob { s.glob with lastPeak := s.time.beat }
  (List.range 16).foldl (fun s p =>
    let x := s.spanOf p
    s.setSpan p ({ x with peakStretch := if exceeds then min 8 (x.peakStretch + 1) else x.peakStretch - 1 }.govern s.time.beat (s.mode p))) s

/-- A rail fault of a span (R61, R476): the regulator ramps down, the owning contexts halt, MGMT_ALERT is raised. -/
def State.railFault (s : State) (span : Nat) : State :=
  let s := s.setSpan span { s.spanOf span with regulatorOn := false }
  let s := s.raiseAll (fun c => bit (s.adminOf c).owned span) { code := 0x0A03, detail := hwDetail 13 span 0xFFFF 0 0 }
  s.alert 3 none (some span)

/-- RAIL_FAULT: a rail input outside 1.66 V to 1.95 V for longer than 1 µs (R61). -/
def State.railInput (s : State) (span mv ns : Nat) : State :=
  let s := s.setSpan span { s.spanOf span with vin := BitVec.ofNat 11 mv }
  if (mv < 1660 || mv > 1950) && ns > 1000 then s.railFault span else s

/-- OUTPUT_UNDERVOLTAGE (R467). -/
def State.underVoltage (s : State) (span mv ns : Nat) : State :=
  let x := s.spanOf span
  if decide ((mv : Int) < x.setting - 40) && decide (ns > 50) then
    let s := s.setSpan span ({ x with undervolt := true, uv := true, vout := BitVec.ofNat 10 mv }.govern s.time.beat (s.mode span))
    if ns ≥ 10000 then s.railFault span else s
  else s

/-- OUTPUT_UNDERVOLTAGE_CLEAR: the output is within 20 mV of its setting again (R467). -/
def State.underVoltageClear (s : State) (span mv : Nat) : State :=
  let x := s.spanOf span
  if decide ((mv : Int) ≥ x.setting - 20) then
    s.setSpan span ({ x with undervolt := false, uv := false, vout := BitVec.ofNat 10 mv }.govern s.time.beat (s.mode span))
  else s

/-- OUTPUT_OVERVOLTAGE (R467). -/
def State.overVoltage (s : State) (span mv ns : Nat) : State :=
  let x := s.spanOf span
  if (decide ((mv : Int) > x.setting + 60) || decide (mv > 930)) && decide (ns ≥ 200) then
    (s.setSpan span { x with ov := true, vout := BitVec.ofNat 10 mv }).railFault span
  else s

/-- OUTPUT_OVERCURRENT: the 1 µs mean output current, in tenths of an ampere (R467). -/
def State.overCurrent (s : State) (span da : Nat) : State :=
  let x := s.spanOf span
  let n := if da > 680 then min 8 (x.currentStretch + 1) else if da < 640 then x.currentStretch - 1 else x.currentStretch
  s.setSpan span ({ x with currentStretch := n, iout := BitVec.ofNat 10 da }.govern s.time.beat (s.mode span))

/-- REFCLK_LOST: the reference clock stands still for 1 µs (R62). -/
def State.refclkLost (s : State) (ns : Nat) : State :=
  if ns ≥ 1000 then (s.raiseAll (fun _ => true) { code := 0x0A04, detail := hwDetail 14 0 0xFFFF 0 0 }).alert 4 none none else s

/-- A write of CTX_PACE (R466): REQ 4 to 7 stores 1; under LOCKED a write of REQ is ignored and counted. -/
def State.paceWrite (s : State) (c : Fin 4) (req : BitVec 3) (deadline : BitVec 24) : State :=
  let x := s.ctxOf c
  if !s.pageOpen c then s
  else if s.glob.policy then s.setCtx c { x with deadline := deadline, paceIgnored := satAdd x.paceIgnored 1 }
  else s.setCtx c { x with deadline := deadline, paceReq := if req.toNat ≥ 4 then 1 else req }

/-! ## Meanings -/

/-- ENVELOPE_DELIVER. -/
def execEnvelopeDeliver (span : Fin 16) (s : State) : Host.Outcome State Fault Refusal := .next (s.deliver span.val)
/-- FLOOR_ENTRY. -/
def execFloorEntry (span : Fin 16) (beat : Nat) (s : State) : Host.Outcome State Fault Refusal :=
  .next ((s.advanceTo beat).floorEntry span.val)
/-- PACE_POINT_MOVE. -/
def execPacePointMove (span : Fin 16) (s : State) : Host.Outcome State Fault Refusal := .next (s.movePoint span.val)
/-- SURGE_REQUEST. -/
def execSurgeRequest (span : Fin 16) (s : State) : Host.Outcome State Fault Refusal := .next (s.surgeRequest span.val)
/-- SURGE_GRANT. -/
def execSurgeGrant (beat : Nat) (s : State) : Host.Outcome State Fault Refusal := .next (s.advanceTo beat).serveSurge
/-- THERMAL_SAMPLE. -/
def execThermalSample (span : Fin 16) (sensor : Fin 4) (reading : Int) (beat : Nat) (s : State) : Host.Outcome State Fault Refusal :=
  .next ((s.advanceTo beat).thermalSample span.val sensor.val reading)
/-- POWER_CAP_STEP. -/
def execPowerCapStep (span : Fin 16) (milliwatts beat : Nat) (s : State) : Host.Outcome State Fault Refusal :=
  .next ((s.advanceTo beat).powerCap span.val milliwatts)
/-- BLOCK_PEAK_STEP. -/
def execBlockPeakStep (milliwatts beat : Nat) (s : State) : Host.Outcome State Fault Refusal :=
  .next ((s.advanceTo beat).blockPeak milliwatts)
/-- OUTPUT_UNDERVOLTAGE. -/
def execOutputUndervoltage (span : Fin 16) (millivolts nanoseconds : Nat) (s : State) : Host.Outcome State Fault Refusal :=
  .next (s.underVoltage span.val millivolts nanoseconds)
/-- OUTPUT_OVERVOLTAGE. -/
def execOutputOvervoltage (span : Fin 16) (millivolts nanoseconds : Nat) (s : State) : Host.Outcome State Fault Refusal :=
  .next (s.overVoltage span.val millivolts nanoseconds)
/-- OUTPUT_OVERCURRENT. -/
def execOutputOvercurrent (span : Fin 16) (deciamps : Nat) (s : State) : Host.Outcome State Fault Refusal :=
  .next (s.overCurrent span.val deciamps)
/-- OUTPUT_UNDERVOLTAGE_CLEAR. -/
def execOutputUndervoltageClear (span : Fin 16) (millivolts : Nat) (s : State) : Host.Outcome State Fault Refusal :=
  .next (s.underVoltageClear span.val millivolts)
/-- RAIL_FAULT. -/
def execRailFault (span : Fin 16) (millivolts nanoseconds : Nat) (s : State) : Host.Outcome State Fault Refusal :=
  .next (s.railInput span.val millivolts nanoseconds)
/-- REFCLK_LOST. -/
def execRefclkLost (nanoseconds : Nat) (s : State) : Host.Outcome State Fault Refusal := .next (s.refclkLost nanoseconds)
/-- PACE_REQ_WRITE. -/
def execPaceReqWrite (c : Fin 4) (req : BitVec 3) (deadline : BitVec 24) (s : State) : Host.Outcome State Fault Refusal :=
  .next (s.paceWrite c req deadline)

end Sys2Proof.Machine
end

