-- ==== Sys2Proof/Machine/Time.lean ====
section
/-! DEFINITION. Local time, strokes and the block stroke boundary (17_timeline_and_power.md R448 to R457; 15 R421 to R423). -/

namespace Sys2Proof.Machine

/-! ## Time samples (R449 to R452) -/

/-- A discarded sample: eight in a row put the block in holdover (R450), where local time advances on the reference clock alone; a stop of R451
lasts until system time has been reached. -/
def TimeBase.discard (t : TimeBase) : TimeBase :=
  let t := { t with discards := t.discards + 1, goodRun := 0, accepted := 0 }
  if t.discards ≥ 8 && !t.holdover then { t with holdover := true, holdSince := t.beat, told := false, lag := 0 } else t

/-- Local time steps forward by d ≥ 0 ns. -/
def TimeBase.stepUp (t : TimeBase) (d : Int) : TimeBase := { t with now := t.now + BitVec.ofInt 64 d, lag := 0, stopped := 0 }

/-- An accepted sample: a step forward, or half rate until local time meets the sample's time line (R449); a stop of R451 goes on until
system time, as this sample gives it, has been reached. -/
def TimeBase.accept (t : TimeBase) (d : Int) : TimeBase :=
  let t := { t with discards := 0, accepted := t.accepted + 1 }
  if d ≥ 0 then t.stepUp d else if t.stopped > 0 then { t with stopped := 18 * d.natAbs } else { t with lag := 18 * d.natAbs }

/-- A sample accepted whatever its d: a step forward, or a stop until system time is reached (R451, R452). -/
def TimeBase.force (t : TimeBase) (d : Int) : TimeBase :=
  let t := { t with discards := 0, accepted := t.accepted + 1, goodRun := t.goodRun + 1 }
  if d ≥ 0 then t.stepUp d else { t with stopped := 18 * d.natAbs, lag := 0 }

/-- A sample with good parity under R449 and R450. -/
def TimeBase.judge (t : TimeBase) (d : Int) : TimeBase :=
  if d.natAbs > 1000 then { t with rejects := satAdd t.rejects 1 }.discard
  else if t.holdover then
    if t.goodRun + 1 ≥ 8 then { t with holdover := false, goodRun := 0 }.accept d
    else { t with goodRun := t.goodRun + 1, discards := 0 }
  else t.accept d

/-- A resync has brought local time forward by `up` ns, its step and what it would still have lost by half rate or a stop: no not-before
condition releases earlier than without it (R451). -/
def Stream.later (t : Stream) (up : Nat) : Stream := { t with holdUntil := t.holdUntil.map (· + up) }
def Ctx.later (x : Ctx) (up : Nat) : Ctx := { x with shift := x.shift + up, access := x.access.later up, exec := x.exec.later up }

/-- TIME_SAMPLE (R56, R449 to R452). -/
def State.timeSample (s : State) (sample : BitVec 64) (parityOk : Bool) : State :=
  let t := s.time
  let d : Int := (sample.toNat : Int) - (t.now.toNat : Int)
  if !parityOk then
    let t := { t with parity := satAdd t.parity 1 }.discard
    { s with time := t, glob := { s.glob with strokeHoldover := s.glob.strokeHoldover || t.holdover } }
  else if t.resyncArmed then
    let up := ((18 * d + (t.lag + t.stopped : Nat)).toNat + 17) / 18
    let t := { t.force d with holdover := false, lost := false, resyncArmed := false, seeded := true, goodRun := 0 }
    { s with time := t, ctx := ⟨s.ctx.c0.later up, s.ctx.c1.later up, s.ctx.c2.later up, s.ctx.c3.later up⟩ }
  else if !t.seeded then { s with time := { t.force d with seeded := true, accepted := 0 } }
  else
    let t := t.judge d
    { s with time := t, glob := { s.glob with strokeHoldover := s.glob.strokeHoldover || t.holdover } }

/-- Control beats in 10 ms. -/
def lostBeats : Nat := 18000000

/-- TIMEBASE_LOST: holdover has lasted 10 ms (R450). -/
def State.timebaseLost (s : State) : State :=
  if s.time.holdover && !s.time.told && s.time.beat ≥ s.time.holdSince + lostBeats then
    { s with time := { s.time with lost := true, told := true } }.alert 0 none none
  else s

/-! ## The block stroke boundary (R456) -/

/-- The advice and MAX_EXP as signed numbers. -/
def Hist.adviceInt (h : Hist) : Int := h.exp.toInt
def Hist.maxExpInt (h : Hist) : Int := h.maxExp.toInt

/-- The scale advisor's update (R421). -/
def Hist.advise (h : Hist) (ended : BitVec 48) : Hist :=
  if h.owner ≠ 7 && h.seen then
    let a := h.adviceInt + h.target.toInt - (h.headroom.toNat : Int) - h.maxExpInt
    { h with exp := BitVec.ofInt 8 (max (-127) (min 127 a)), valid := true, stroke := ended.extractLsb' 0 32 }
  else h

/-- AUTOCLR of a held slot (R421). -/
def Hist.autoClear (h : Hist) : Hist := if h.owner ≠ 7 && h.autoclr then h.wipe else h

/-- The sum of bins 0 to 62, saturating. -/
def Hist.total (h : Hist) : Nat := sat32 ((h.bins.filter (fun e => e.1 ≤ 62)).map (fun e => e.2.toNat)).sum

/-- The 8 B slot summary (15), after the update and before AUTOCLR. -/
def Hist.summary (h : Hist) : List Byte :=
  let on (n : Nat) : Nat := b2n (decide (h.bins.get n 0#32 ≠ 0))
  leBytes 8 (pack
    [(0, 4, h.total), (4, 1, h.exp.toNat),
     (5, 2, h.maxExp.toNat + 512 * b2n h.seen + 1024 * b2n h.valid + 2048 * on 60 + 4096 * on 59 + 8192 * on 61),
     (7, 1, h.owner.toNat)])

/-- Bits set in a fence map. -/
def fencedCount (f : BitVec 128) : Nat := ((List.range 128).filter (bit f)).length

/-- What an event of `tallied` has counted on a span in the block stroke. -/
def State.inStroke (s : State) (n event : Nat) : Nat := s.counted n event - (s.spanOf n).strokeBase.get event 0

/-- The 64 B span entry: ENERGY in mJ with 10 fraction bits, the stalls in units of 128 core-beats. TEMP_MAX of a stroke without a valid reading
is a free value (log 16). -/
def State.spanEntry (s : State) (n : Nat) : List Byte :=
  let x := s.spanOf n
  let stalls := [0x0D, 0x0E, 0x0F, 0x10, 0x11, 0x12].map (fun e => sat32 (s.inStroke n e / 128))
  let owner := match s.owner n with | some c => c.val | none => 7
  leBytes 64 (pack
    ([(0, 4, sat32 (x.energy * 1024 / 1000000)), (4, 1, owner + 8 * x.pace.toNat), (6, 2, fencedCount x.fence), (8, 8, s.inStroke n 0x02),
      (16, 4, sat32 (s.inStroke n 0x01)), (44, 4, sat32 x.steals), (48, 4, sat32 x.replays), (52, 2, min 65535 x.peakIin),
      (54, 2, match x.tempMax with | some t => (BitVec.ofInt 16 t).toNat | none => (Config.noReading n s.glob.blockStroke.toNat).toNat)] ++
     (List.range 6).map (fun i => (20 + 4 * i, 4, stalls.getD i 0))))

/-- VIA_STATUS, the channel's first status register (14). -/
def Channel.status (k : Channel) : BitVec 64 :=
  packBits [(0, 16, k.late.toNat), (16, 16, k.resends.toNat), (32, 16, k.crc.toNat), (48, 16, k.stale.toNat)]

/-- The telemetry record of the stroke that ends (R423). -/
def State.telemBytes (s : State) (tEnd : Nat) : List Byte :=
  leBytes 64 (pack
    [(0, 8, s.glob.blockStroke.toNat), (8, 8, s.glob.blockStart.toNat), (16, 8, tEnd),
     (24, 1, b2n s.glob.block + 2 * b2n s.glob.strokeHoldover + 4 * b2n s.glob.policy)])
  ++ (List.range 16).flatMap s.spanEntry
  ++ (List.range 256).flatMap (fun n => (s.histOf n).summary)
  ++ allCtx.flatMap (fun c => (List.range 8).flatMap (fun ch => recBytes ((s.ctxOf c).channel ch).status))
  ++ List.replicate 0x2C0 0#8

/-- A profile after a stroke that contained its phase: each value moves one eighth of the way (R464). -/
def Profile.learn (p : Profile) (span phase stroke : Nat) : Profile :=
  let eighth (old new : Nat) : Nat := ((old : Int) + ((new : Int) - old) / 8).toNat
  { busy := (List.range 16).map (fun i => eighth (p.busy.getD i 0) (Config.measured span phase i stroke))
    mean := eighth p.mean (Config.measured span phase 16 stroke), strokes := p.strokes + 1 }

/-- The PROFILE payload of a span and phase, 48 B (R508); its layout is the model's (log 17). -/
def profilePayload (span phase : Nat) (p : Profile) : List Byte :=
  leBytes 48 (pack ((0, 1, span) :: (1, 1, phase) :: (4, 4, p.mean) :: (8, 8, p.strokes) ::
    (List.range 16).map (fun i => (16 + 2 * i, 2, p.busy.getD i 0))))

/-- A span at a block boundary: the profiles of the phases that the stroke contained (R464), tallies of the new stroke. -/
def State.spanBoundary (s : State) (n : Nat) : State :=
  let x := s.spanOf n
  let had := (List.range 5).filter (fun ph => ph = x.phase.toNat || x.phases.getLsbD ph)
  let prof := if (s.owner n).isSome && s.glob.anyStroke then
      had.foldl (fun t ph => t.set ph ((t.get ph {}).learn n ph s.glob.blockStroke.toNat)) x.profiles
    else x.profiles
  s.setSpan n { x with profiles := prof, correctedNoted := false, steals := 0, replays := 0, phases := 0, tempMax := none, energy := 0, peakIin := 0
                       strokeBase := tallied.foldl (fun t e => t.set e (s.counted n e)) x.strokeBase }

/-- Profile journaling every 16,384 block strokes (R457). -/
def State.journalProfiles (s : State) : State :=
  if s.glob.strokesSince % 16384 = 0 then
    (List.range 16).foldl (fun s n =>
      (s.spanOf n).profiles.foldl (fun s e =>
        s.journalAsk 0x0015 (profilePayload n e.1 e.2)) s) s
  else s

/-- The slot of the telemetry ring that the next record takes, behind those still waiting (R423). -/
def Global.telemSlot (g : Global) : Nat :=
  let n := 2 ^ min 8 g.telemLog.toNat
  match g.telem.getLast? with
  | some t => (t.slot + 1) % n
  | none => if g.telemTotal = 0 then 0 else (g.telemWr.toNat + 1) % n

/-- A record is on its way: it takes eight writes of 512 B through the service pier (R49, R423). -/
def State.sendTelemetry (s : State) (t : TelemSnap) : State :=
  let p := s.start.servicePier
  let beat := s.spanBeat p
  s.setSpan p ((s.spanOf p).addWrites ((List.range 8).map (fun k => ({ ctx := none, execute := false, index := t.id, tile := 0, block := t.at_ / 512 + k, sent := false, beat := beat, retried := false, seq := 0 } : PierWrite))) beat)

/-- The snapshot of the ended stroke joins the records that wait (R423). -/
def State.snapTelemetry (s : State) (tEnd : BitVec 64) : State :=
  let g := s.glob
  let t : TelemSnap := { stroke := g.blockStroke, tStart := g.blockStart, tEnd := tEnd, bytes := s.telemBytes tEnd.toNat
                         id := match g.telem.getLast? with | some t => t.id + 1 | none => 0
                         slot := g.telemSlot, at_ := g.telemBase.toNat * 4096 + 4096 * g.telemSlot, beat := s.time.beat }
  (s.setGlob { g with telem := g.telem ++ [t] }).sendTelemetry t

/-- The cox computes every span's envelope of the new stroke in one control step (R456, R462); one that has failed computes none, and the
governors hold what they have (R30, R494). -/
def State.planEnvelopes (s : State) : State :=
  if s.glob.coxFailed then s
  else (List.range 16).foldl (fun s n => s.setSpan n { s.spanOf n with nextEnvelope := some (s.envelopeFor n) }) s

/-- The actions of a block boundary, in the order of R456. -/
def State.blockBoundary (s : State) (number : BitVec 48) (start : BitVec 64) : State :=
  -- 1: the advisor, on what was counted before this beat
  let s := { s with hists := s.hists.map (fun (e : Nat × Hist) => (e.1, (e.2.rewind s.time.beat).advise s.glob.blockStroke)) }
  -- 2: the telemetry snapshot of the ended stroke
  let s := if s.glob.anyStroke && s.glob.telemEn then s.snapTelemetry start else s
  -- 3: AUTOCLR; the increments of this beat belong to the new stroke
  let s := { s with hists := s.hists.map (fun (e : Nat × Hist) => (e.1, e.2.autoClear.replay s.time.beat)) }
  let s := (List.range 16).foldl State.spanBoundary s
  let s := s.setGlob { s.glob with
    blockStroke := number, blockStart := start, boundaryBeat := some s.time.beat, anyStroke := true, strokesSince := s.glob.strokesSince + 1
    strokeHoldover := s.time.holdover, policy := s.glob.policyNext.getD s.glob.policy, policyNext := none
    portCrc := [], portResends := [] }
  -- 4: the envelopes of the new stroke
  let s := s.planEnvelopes
  -- 5: background work, and what waits for a block boundary: compaction, profiles, unfences, trace flush, lane swaps
  let s := { s with journal := { s.journal with compacting := s.journal.compacting || decide (s.journal.fill > 0x60000) } }
  let s := s.journalProfiles
  let s := s.glob.unfences.foldl (fun s p => s.clearFence p.1 p.2) s
  let s := s.setGlob { s.glob with unfences := [] }
  let s := allCtx.foldl (fun s c => s.flushTrace c) s
  (((List.range 16).filter (fun n => (s.owner n).isNone)).foldl State.swapSpan s).coxStep

/-! ## Announcements (R453 to R455) -/

/-- Is an announcement of `number` with the TIME register accepted (R453)? -/
def State.announceOk (s : State) (c : Fin 4) (number : BitVec 48) : Bool :=
  let x := s.ctxOf c
  let live := match (s.adminOf c).state with | .free | .creating | .tearingDown => false | _ => true
  live && (!x.announced || (decide (x.stroke.toNat < number.toNat) && decide (x.strokeS.toNat ≤ x.strokeStart.toNat)))
    && decide (x.strokeStart.toNat ≤ s.now + 1000000)

/-- The context's own boundary (R455): stroke and S, the pace request, span changes, lane swaps of its spans. -/
def State.ctxBoundary (s : State) (c : Fin 4) (number : BitVec 48) : State :=
  let x := s.ctxOf c
  let s := s.setCtx c { x with stroke := number, strokeS := x.strokeStart, announced := true, shift := 0
                               paceInForce := if s.glob.policy then x.paceInForce else x.paceReq }
  let s := if x.spanPending.isSome then s.applySpans c else s
  (spansOf (s.adminOf c).owned).foldl State.swapSpan s

/-- Another announcement raises the block stroke in the beat of a boundary: there is one boundary, and the largest number stands (R454). -/
def State.renumber (s : State) (number : BitVec 48) (start : BitVec 64) : State :=
  s.setGlob { s.glob with
    blockStroke := number, blockStart := start
    telem := s.glob.telem.map (fun t => if t.beat ≠ s.time.beat then t else { t with tEnd := start, bytes := t.bytes.take 16 ++ recBytes start ++ t.bytes.drop 24 }) }

/-- STROKE_ANNOUNCE: a write of CTX_STROKE.NUMBER. The envelopes of a boundary see every announcement of its beat (R454, R456). -/
def State.announce (s : State) (c : Fin 4) (number : BitVec 48) : State :=
  if s.announceOk c number then
    let start := (s.ctxOf c).strokeStart
    let s := (s.acceptTrace c).ctxBoundary c number
    let same : Bool := s.glob.boundaryBeat = some s.time.beat
    if number.toNat > s.glob.blockStroke.toNat then
      if same then (s.renumber number start).planEnvelopes else s.blockBoundary number start
    else
      let s := s.setGlob { s.glob with anyStroke := true }
      if same then s.planEnvelopes else s
  else s.setCtx c { s.ctxOf c with strokeRefused := true }

/-- TELEMETRY_RECORD_WRITE: the shared cache accepts the writes of the oldest record that the service pier has sent, unless an older access of
that pier to one of their lines comes first (R46); once none waits for a credit, the record stands in its ring and STROKE_DONE is raised
(R423). -/
def State.writeTelemetry (s : State) : State :=
  let g := s.glob
  match g.telem with
  | [] => s
  | t :: rest =>
    let p := s.start.servicePier
    let mine (w : PierWrite) : Bool := w.ctx.isNone && w.index = t.id
    if (s.spanOf p).held mine then s
    else
      let waits : Bool := (s.spanOf p).writes.any (fun w => mine w && !w.sent)
      let s := s.acceptWrites p mine
      if waits then s
      else
        (s.setMem (Memory.writeBytes t.at_ t.bytes s.mem)).setGlob
          { g with telem := rest, telemWr := BitVec.ofNat 8 t.slot, telemTotal := g.telemTotal + 1, strokeDone := true }

/-! ## Meanings -/

/-- TIME_SAMPLE. -/
def execTimeSample (sample : BitVec 64) (parityOk : Bool) (beat : Nat) (s : State) : Host.Outcome State Fault Refusal :=
  .next ((s.advanceTo beat).timeSample sample parityOk)
/-- TIMEBASE_LOST. -/
def execTimebaseLost (beat : Nat) (s : State) : Host.Outcome State Fault Refusal := .next (s.advanceTo beat).timebaseLost
/-- STROKE_ANNOUNCE. -/
def execStrokeAnnounce (c : Fin 4) (number : BitVec 48) (s : State) : Host.Outcome State Fault Refusal := .next (s.announce c number)
/-- TELEMETRY_RECORD_WRITE. -/
def execTelemetryRecordWrite (s : State) : Host.Outcome State Fault Refusal := .next s.writeTelemetry

end Sys2Proof.Machine
end

