-- ==== Sys2Proof/Machine/Issue.lean ====
section
/-! DEFINITION. Issue, counters, predicates and sync flags (05_bundles_and_streams.md R123 to R131, R143 to R160). -/

namespace Sys2Proof.Machine

/-! ## Order and completion -/

/-- Has a stream completed every macro of its first `n` bundles, all of them issued (R153, R156)? -/
def Stream.doneUpTo (t : Stream) (n : Nat) : Bool := decide (t.next ≥ n) && t.inflight.all (fun m => decide (m.index ≥ n))

/-- The oldest bundle of the execute stream that has not completed (R144). -/
def Stream.oldestIndex (t : Stream) : Nat := match t.inflight with | m :: _ => m.index | [] => t.next

/-- No macro of the context is in flight in either stream (R170). -/
def Ctx.quiet (x : Ctx) : Bool := x.access.inflight.isEmpty && x.exec.inflight.isEmpty

/-- Does a bundle name viaduct channel ch (R387)? By a VIA field of VSTAT, VSMX, VSAMP or of rigs 11 and 12, or by that of the chain
program of a VEW or of rigs 2 to 5, read as the program stands. -/
def Ctx.namesChannel (x : Ctx) (mem : Memory) (b : Bundle) (ch : Nat) : Bool :=
  let v := b.vector
  let m := b.matrix
  let vec := match field v 0 5 with
    | 0x01 => x.programVia mem (field v 68 12)
    | 0x04 | 0x0D => field v 105 4
    | 0x06 => field v 108 4
    | _ => 0
  let mat := if field m 0 4 ≠ 1 then 0
    else match field m 4 4 with
      | 2 | 3 | 4 | 5 => x.programVia mem (field m 68 12)
      | 11 | 12 => field m 83 4
      | _ => 0
  !b.isCall && (vec = ch + 1 || mat = ch + 1)

/-- The issue unit holds both streams while a bay or coupling write waits (R170, R330), and the execute stream at a bundle
that names a channel with a waiting write (R387). -/
def Ctx.held (x : Ctx) (mem : Memory) (execute : Bool) (b : Bundle) : Bool :=
  !x.bayWrites.isEmpty || x.cplPending.isSome ||
    (execute && x.viaWrites.any (fun w => x.namesChannel mem b w.1))

/-- The predicate a bundle sees (R123, R124): the latched value, else the predicates as they stand. -/
def Ctx.acts (x : Ctx) (e : Entry) : Bool :=
  let b : Bundle := e.bits
  !b.predEn || (match e.pred with
    | some p => p
    | none => bit x.preds b.predIdx != b.predNeg)

/-- Does the sync slot act (R123)? -/
def Ctx.syncActs (x : Ctx) (e : Entry) : Bool :=
  let b : Bundle := e.bits
  x.acts e || !(b.predEn && b.predSync)

/-- The access stream holds a predicated bundle until the execute stream has issued every earlier one (R125). -/
def Ctx.predHeld (x : Ctx) (execute : Bool) (e : Entry) : Bool :=
  !execute && Bundle.predEn e.bits && e.pred.isNone && (x.exec.next < e.index || !x.exec.due.isEmpty)

/-- The head of a stream is blocked for a kind; the timeout counts from the beat the block begins (R159). -/
def Stream.block (t : Stream) (kind beat : Nat) : Stream :=
  if (t.blocked.find kind).isSome then t else { t with blocked := t.blocked.set kind beat }

/-- The head is no more blocked for a kind. -/
def Stream.unblock (t : Stream) (kind : Nat) : Stream := { t with blocked := t.blocked.erase kind }

/-- A block of the head that holds, or does not. -/
def Stream.blockIf (t : Stream) (kind : Nat) (holds : Bool) (beat : Nat) : Stream := if holds then t.block kind beat else t.unblock kind

/-- The head's WAIT or FENCE has still to be released. -/
def Ctx.syncHolds (x : Ctx) (execute : Bool) (e : Entry) : Bool :=
  let b : Bundle := e.bits
  let t := x.stream execute
  x.syncActs e && b.syncNames execute && ((b.syncOp = 2 && !t.waitOk) || (b.syncOp = 3 && !t.fenceOk))

/-! ## BUNDLE_ISSUE -/

/-- The scalar operation of an issued bundle (R129 to R131). -/
def scalarDue (b : Bundle) : List Due :=
  let v := b.scalar
  match b.scalarOp with
  | 1 =>
    match field v 4 2 with
    | 0 => [.cntLoad (field v 6 3) b.imm]
    | 1 => [.cntAdd (field v 6 3) b.imm]
    | 2 => [.cntCopy (field v 6 3) (field v 9 3)]
    | _ => [.cntStroke (field v 6 3)]
  | 2 => [.cmp (field v 4 2) (field v 6 3) (bit v 12) (field v 9 3) (field v 13 3) b.imm]
  | _ => []

/-- The sync operations that act after or beside the bundle's other parts: SET and PHASE. A SET on both streams is the
execute stream's. -/
def syncDue (b : Bundle) (execute : Bool) (index : Nat) : List Due :=
  if !b.syncNames execute then []
  else if b.syncOp = 1 then
    if execute then [.set (b.syncNames false) true b.syncFlag b.syncEpoch (index + 1)]
    else if b.syncNames true then [] else [.set true false b.syncFlag b.syncEpoch (index + 1)]
  else if b.syncOp = 4 then [.phase (field b 486 3)]
  else []

/-- A macro of a slot. -/
def newRun (e : Entry) (slot : Nat) (bits : BitVec 128) (gap : Nat) : MacroRun :=
  { slot := slot, bits := bits, tag := e.tag, addr := e.addr, index := e.index, depth := e.depth
    overlapFlag := Bundle.overlap e.bits, gap := gap }

/-- The macros of an issued bundle in one stream, in slot order (R146); a CALL's argument slots carry none (R166).
A VSHORT, which has no plan, takes the trap mask `trap` here; a planned macro takes it at its plan (R412). -/
def issuedRuns (e : Entry) (execute : Bool) (gap : Nat) (trap : BitVec 4) : List MacroRun :=
  let b : Bundle := e.bits
  let v := b.vector
  let m := b.matrix.setWidth 128
  let l := b.load.setWidth 128
  let t := b.store.setWidth 128
  if execute then
    if e.isCall then []
    else (if field v 0 5 = 0 then [] else [{ newRun e 2 v gap with trap := trap }]) ++ (if field m 0 4 = 0 then [] else [newRun e 3 m 0])
  else (if field l 0 4 = 0 then [] else [newRun e 4 l 0]) ++ (if field t 0 4 = 0 then [] else [newRun e 5 t 0])

/-- A VSHORT goes to every crew of the context with its spacing (R185). -/
def State.sendShort (s : State) (c : Fin 4) (e : Entry) (gap : Nat) : State :=
  let v := Bundle.vector e.bits
  let crews := crewsOf (s.spansFor c)
  { s with crews := ((List.range crews.length).zip crews).foldl (fun t k =>
      let q := Table.get t k.2 ({} : Crew)
      t.set k.2 { q with waiting := q.waiting ++ [{ ctx := c.val, index := e.index, bits := v, gap := gap, place := k.1 }] }) s.crews }

/-- Issue the head of a stream whose conditions allow it (R126, R146). -/
def State.issueHead (s : State) (c : Fin 4) (execute : Bool) (e : Entry) : State :=
  let x := s.ctxOf c
  let t := x.stream execute
  let acts := x.acts e
  let sync := if x.syncActs e then syncDue e.bits execute e.index else []
  let isShort := execute && acts && !e.isCall && field (Bundle.vector e.bits) 0 5 = 2
  let gap := match x.lastShort with | some b => s.time.beat - b | none => 0
  let runs := if acts then issuedRuns e execute gap x.trap else []
  let due := if execute then (if acts then scalarDue e.bits else []) ++ e.acts.map Due.frame ++ sync else sync
  let t := { t with
             blocked := [], queue := t.queue.tail, due := due, inflight := t.inflight ++ runs, next := e.index + 1,
             waitOk := false, fenceOk := false, timeOk := false, holdUntil := none }
  let x' := (x.setStream execute t).reach execute
  let x' := if execute then
      { x' with issued := x'.issued + 1
                access := { x'.access with queue := x'.access.queue.map (fun a =>
                  if a.index = e.index then { a with pred := some (x.acts e) } else a) }
                lastShort := if isShort then some s.time.beat else x'.lastShort }
    else x'
  let s := s.setCtx c x'
  if isShort then s.sendShort c e gap else s

/-- The failure that a bad entry raises when a stream reaches it (R140). -/
def Bad.cause (q : Bad) (e : Entry) : Cause := { code := q.code, slot := q.slot, tag := e.tag, addr := e.addr, detail := q.detail.toNat }

/-- BUNDLE_ISSUE (R123 to R127, R140, R144, R146). In the beat in which its context halts a stream still finds its bad head (R478). -/
def State.issue (s : State) (c : Fin 4) (execute : Bool) : State :=
  let x := s.ctxOf c
  let t := x.stream execute
  match t.queue with
  | [] => s
  | e :: _ =>
    let b : Bundle := e.bits
    if !(s.runs c || (s.haltsNow c && e.bad.isSome)) || (s.adminOf c).drain || !t.due.isEmpty then s
    else
      match e.bad with
      | some q => s.raise c (q.cause e)
      | none =>
        let until_ := t.holdUntil.getD (x.releaseTime e)
        let early : Bool := b.notBefore ≠ 0 && !t.timeOk && s.now < until_
        let unknown := x.predHeld execute e
        let ahead : Bool := !execute && decide (e.index > x.exec.oldestIndex + 448)
        let beat := s.time.beat
        if x.held s.mem execute b then s
        else if early || unknown || ahead then
          let t := ((({ t with holdUntil := some until_ }.blockIf 7 early beat).blockIf 4 unknown beat).blockIf 5 ahead beat)
          s.setCtx c (x.setStream execute t)
        else if x.syncHolds execute e then s.setCtx c (x.setStream execute (((t.unblock 7).unblock 4).unblock 5))
        else s.issueHead c execute e

/-- The entry at the head has a double-bit error (R488): its bundle is read again, from the shared cache or, with the same words, from the
library, and BUNDLE_REFETCH is recorded. DESIGN CHOICE (log 104): the read takes no credit and no time, and the error counts in the lowest
span of the context. -/
def State.refetch (s : State) (c : Fin 4) (execute : Bool) : State :=
  let x := s.ctxOf c
  let t := x.stream execute
  match t.queue, s.lowestSpan c with
  | e :: rest, some span =>
    let bits : Bundle := if bit e.addr 63 then e.bits else bundleAt s.mem e.addr.toNat
    let e2 : Entry := if bit e.addr 63 then e else
      { e with bits := bits, tag := bits.tag, isCall := bits.isCall, bad := if bits = e.bits then e.bad else checkBundle x bits e.depth }
    let sp := s.spanOf span
    let s := (s.setSpan span { sp with uncorr := satAdd sp.uncorr 1 }).setCtx c (x.setStream execute { t with queue := e2 :: rest })
    s.absorb c.val { code := 0x0A8A, tag := e.tag, addr := e.addr, detail := hwDetail 6 span 0xFFFF 0 e.addr.toNat }
  | _, _ => s

/-- What the read of the head's entry finds: nothing, a single-bit error, which is corrected (R487), or a double-bit error. -/
def State.readEntry (s : State) (c : Fin 4) (execute : Bool) (errors : Fin 3) : State :=
  match errors, ((s.ctxOf c).stream execute).queue, s.lowestSpan c with
  | 1, e :: _, some span => s.corrected span c.val 6 0xFFFF e.addr.toNat
  | 2, _, _ => s.refetch c execute
  | _, _, _ => s

/-- NOT_BEFORE_RELEASE (R127). -/
def State.releaseTimed (s : State) (c : Fin 4) (execute : Bool) : State :=
  let x := s.ctxOf c
  let t := x.stream execute
  match t.queue with
  | [] => s
  | e :: _ =>
    if s.runs c && s.now ≥ t.holdUntil.getD (x.releaseTime e) then
      s.setCtx c (x.setStream execute { t.unblock 7 with timeOk := true })
    else s

/-! ## Counters and predicates (R130, R131) -/

/-- Drop the first due operation equal to `d`: its row has run. -/
def Ctx.settle (x : Ctx) (execute : Bool) (d : Due) : Ctx :=
  let t := x.stream execute
  x.setStream execute { t with due := t.due.erase d }

def Ctx.setCounter (x : Ctx) (n : Nat) (v : Word) : Ctx := { x with counters := x.counters.set n v }

/-- The COND codes of CMP. -/
def condHolds (cond : Nat) (a b : Word) : Bool :=
  match cond with
  | 0 => decide (a = b)
  | 1 => decide (a ≠ b)
  | 2 => BitVec.slt a b
  | 3 => BitVec.sle b a
  | 4 => BitVec.ult a b
  | _ => BitVec.ule b a

/-- A scalar operation of a context that runs. -/
def State.scalar (s : State) (c : Fin 4) (d : Due) (f : Ctx → Ctx) : State :=
  if s.runs c then s.setCtx c (f ((s.ctxOf c).settle true d)) else s

/-! ## Sync flags (R152 to R156) -/

/-- SYNC_SET: the SET waits for the macros before it (R153). -/
def State.syncSet (s : State) (c : Fin 4) (access execute : Bool) (flag : Nat) (epoch : BitVec 16) : State :=
  if !s.runs c then s
  else
    let x := s.ctxOf c
    let t := x.stream execute
    let mine (d : Due) : Bool := match d with
      | .set a e f p _ => a == access && e == execute && f == flag && p == epoch
      | _ => false
    let upTo := match t.due.find? mine with
      | some (.set _ _ _ _ n) => n
      | _ => max (if access then x.access.next else 0) (if execute then x.exec.next else 0)
    let x := x.setStream execute { t with due := match t.due.find? mine with | some d => t.due.erase d | none => t.due }
    s.setCtx c { x with sets := x.sets ++ [⟨flag, epoch, access, execute, upTo⟩] }

/-- Are the conditions of a waiting SET met (R153)? -/
def Ctx.setMet (x : Ctx) (w : WaitingSet) : Bool :=
  (!w.access || x.access.doneUpTo w.upTo) && (!w.execute || x.exec.doneUpTo w.upTo)

/-- A SET writes EPOCH only where EPOCH has reached the flag's value; else BACKSET counts (R154). -/
def Ctx.writeFlag (x : Ctx) (flag : Nat) (epoch : BitVec 16) : Ctx :=
  if reached epoch (x.flag flag) then { x with flags := x.flags.set flag epoch }
  else { x with backset := satAdd x.backset 1 }

/-- SET_FLAG_WRITE: the first waiting SET whose conditions are met, the access stream's before the execute stream's (R155). -/
def State.setFlagWrite (s : State) (c : Fin 4) : State :=
  let x := s.ctxOf c
  let met := x.sets.filter x.setMet
  match (met.find? (fun w => !w.execute)).or met.head? with
  | none => s
  | some w => if s.runs c then s.setCtx c ({ x with sets := x.sets.erase w }.writeFlag w.flag w.epoch) else s

/-- The head of a stream where its sync slot acts on that stream with the given opcode; not while its predicate is unknown: before an earlier
bundle has issued, or while the CMP of one has still to act (R124, R125). DESIGN CHOICE (log 105): it acts, and its block begins, though
NOT_BEFORE or the run-ahead limit still holds the bundle. -/
def Ctx.headSync (x : Ctx) (execute : Bool) (op : Nat) : Option Entry :=
  match (x.stream execute).queue with
  | [] => none
  | e :: _ =>
    let b : Bundle := e.bits
    if e.bad.isNone && !x.predHeld execute e && !(execute && b.predEn && !x.exec.due.isEmpty) && b.syncOp = op &&
      b.syncNames execute && x.syncActs e then some e else none

/-- Has the WAIT of an entry been reached? -/
def Ctx.waitMet (x : Ctx) (e : Entry) : Bool := reached (x.flag (Bundle.syncFlag e.bits)) (Bundle.syncEpoch e.bits)

/-- SYNC_WAIT: the head's WAIT acts: it lets the parts go where the flag has reached EPOCH, else blocks the stream (R153). -/
def State.syncWait (s : State) (c : Fin 4) (execute : Bool) : State :=
  let x := s.ctxOf c
  match x.headSync execute 2 with
  | none => s
  | some e =>
    if !s.runs c then s
    else
      let t := x.stream execute
      s.setCtx c (x.setStream execute (if x.waitMet e then { t.unblock 1 with waitOk := true } else t.block 1 s.time.beat))

/-- WAIT_SATISFIED: a blocked WAIT observes its epoch (R155). -/
def State.waitSatisfied (s : State) (c : Fin 4) (execute : Bool) : State :=
  let x := s.ctxOf c
  match x.headSync execute 2 with
  | none => s
  | some e =>
    if s.runs c && x.waitMet e then
      s.setCtx c (x.setStream execute { (x.stream execute).unblock 1 with waitOk := true })
    else s

/-- Has the FENCE of an entry been met: the earlier macros of its stream, or, on both streams, every earlier bundle of
both (R156)? -/
def Ctx.fenceMet (x : Ctx) (execute : Bool) (e : Entry) : Bool :=
  if Bundle.syncStream e.bits = 3 then x.access.doneUpTo e.index && x.exec.doneUpTo e.index
  else (x.stream execute).doneUpTo e.index

/-- SYNC_FENCE. -/
def State.syncFence (s : State) (c : Fin 4) (execute : Bool) : State :=
  let x := s.ctxOf c
  match x.headSync execute 3 with
  | none => s
  | some e =>
    if !s.runs c then s
    else
      let t := x.stream execute
      s.setCtx c (x.setStream execute (if x.fenceMet execute e then { t.unblock 2 with fenceOk := true } else t.block 2 s.time.beat))

/-- FENCE_RELEASE. -/
def State.fenceRelease (s : State) (c : Fin 4) (execute : Bool) : State :=
  let x := s.ctxOf c
  match x.headSync execute 3 with
  | none => s
  | some e =>
    if s.runs c && x.fenceMet execute e then
      s.setCtx c (x.setStream execute { (x.stream execute).unblock 2 with fenceOk := true })
    else s

/-- A host write of CTX_FLAGn, without the test of R154. -/
def State.flagHostWrite (s : State) (c : Fin 4) (flag : Nat) (epoch : BitVec 16) : State :=
  if s.pageOpen c then
    let x := s.ctxOf c
    s.setCtx c { x with flags := x.flags.set flag epoch }
  else s

/-! ## Timeouts (R159, R160) -/

/-- The macro of a number. -/
def Stream.runId (t : Stream) (n : Nat) : Option MacroRun := t.inflight.find? (fun m => 8 * m.index + m.slot = n)

/-- A macro's dealing is blocked, for DQ or ARRIVAL. -/
def Stream.blockDeal (t : Stream) (kind id beat : Nat) : Stream :=
  if t.deal.any (fun d => d.kind = kind && d.id = some id) then t
  else { t with deal := t.deal.filter (fun d => d.id ≠ some id) ++ [⟨kind, beat, some id⟩] }

/-- The dealing of a macro goes on. -/
def Stream.unblockDeal (t : Stream) (id : Nat) : Stream := { t with deal := t.deal.filter (fun d => d.id ≠ some id) }

/-- The beat from which a dealing block counts: an ARRIVAL counts from its macro's plan, or from the last arrival that made a tile
eligible (R224, R356). -/
def Stream.dealSince (t : Stream) (d : StreamBlock) : Nat :=
  if d.kind = 6 then ((d.id.bind t.runId).map MacroRun.lastArrival).getD d.since else d.since

/-- What blocks a stream: at its head, and in its dealing. -/
def Stream.blocks (t : Stream) : List StreamBlock :=
  t.blocked.map (fun b => ⟨b.1, b.2, none⟩) ++ t.deal.map (fun d => { d with since := t.dealSince d })

/-- The kind that CTX_STREAM_STATUS shows: the head's lowest, else the dealing's. -/
def Stream.kind (t : Stream) : Nat := match t.blocks with | b :: _ => b.kind | [] => 0

/-- The tag and bundle that a block concerns: the macro for DQ and ARRIVAL, else the head. -/
def Stream.blockedBundle (t : Stream) (b : StreamBlock) : Word × BitVec 64 :=
  match b.id with
  | some id => (match t.runId id with | some m => (m.tag, m.addr) | none => (0, 0))
  | none => match t.queue with | e :: _ => (e.tag, e.addr) | [] => (0, 0)

/-- Beats after which a block of a kind times out. -/
def Ctx.waitLimit (x : Ctx) (execute : Bool) (kind : Nat) : Nat :=
  match (x.stream execute).queue with
  | e :: _ =>
    let n := Bundle.syncTmo e.bits
    if kind = 1 && n ≠ 0 then 2 ^ (n + 10) else x.waitTimeout.toNat
  | [] => x.waitTimeout.toNat

/-- DETAIL of WAIT_TIMEOUT (R481). -/
def Ctx.waitDetail (x : Ctx) (execute : Bool) (kind : Nat) : Nat :=
  match kind, (x.stream execute).queue with
  | 1, e :: _ =>
    let f := Bundle.syncFlag e.bits
    pack [(0, 1, f), (1, 1, 1), (2, 2, (Bundle.syncEpoch e.bits).toNat), (4, 2, (x.flag f).toNat)]
  | k, _ => pack [(0, 1, 0xFF), (1, 1, k)]

/-- WAIT_TIMEOUT (R159): every blocked kind but NOT_BEFORE. -/
def State.waitTimeout (s : State) (c : Fin 4) (execute : Bool) : State :=
  let x := s.ctxOf c
  let t := x.stream execute
  match t.blocks.find? (fun b => b.kind ≠ 7 && s.time.beat ≥ b.since + x.waitLimit execute b.kind) with
  | some b =>
    if s.judges c then
      s.raise c { code := 0x0501, tag := (t.blockedBundle b).1, addr := (t.blockedBundle b).2, detail := x.waitDetail execute b.kind }
    else s
  | none => s

/-- Does a stream wait on a host-driven flag (R160)? -/
def Ctx.hostDriven (x : Ctx) (execute : Bool) : Bool :=
  let t := x.stream execute
  match t.blocked.find 1, t.queue with
  | some _, e :: _ => bit x.flagHost (Bundle.syncFlag e.bits)
  | _, _ => false

/-- A write of CTX_FLAG_HOST: where a stream no longer waits on a host-driven flag, that condition of R160 begins to hold. -/
def Ctx.setFlagHost (x : Ctx) (v : BitVec 64) (beat : Nat) : Ctx :=
  let y := { x with flagHost := v }
  let ends (execute : Bool) : Bool := x.hostDriven execute && !y.hostDriven execute
  if ends false || ends true then { y with crossSince := some beat } else y

/-- Is a tile of a macro held by a core, or on its way? -/
def MacroRun.tileInFlight (m : MacroRun) : Bool :=
  m.tiles.any (fun e => match e.2.status with | .undealt | .committed | .dropped => false | _ => true)

/-- The first block of a stream with a kind of 1 to 5 (R160). -/
def Stream.crossBlock (t : Stream) : Option StreamBlock := t.blocks.find? (fun b => 1 ≤ b.kind && b.kind ≤ 5)

/-- Is an arrival pending: has an LDA, or a rig 9 macro, tiles that have not been dealt (R160, R222, R356)? -/
def Ctx.arrivalPending (x : Ctx) : Bool :=
  (x.access.inflight ++ x.exec.inflight).any (fun m =>
    ((m.slot = 4 && m.op = 2) || (m.slot = 3 && m.rig = 9)) && (match m.plan with
      | some p => (List.range p.tiles).any (fun t => (m.tiles.get t {}).status = .undealt)
      | none => false))

/-- CROSS_WAIT (R160). The 65,536 beats count from the last of: each block's beginning, the completion of a macro, the commit or the replay of
a tile, the end of a wait on a host-driven flag. -/
def State.crossWait (s : State) (c : Fin 4) : State :=
  let x := s.ctxOf c
  match x.access.crossBlock, x.exec.crossBlock with
  | some p, some q =>
    let since := max (max p.since q.since) (x.crossSince.getD 0)
    if s.judges c && !x.hostDriven false && !x.hostDriven true && !x.arrivalPending &&
        !(x.access.inflight ++ x.exec.inflight).any MacroRun.tileInFlight && s.time.beat ≥ since + 65536 then
      let a := x.access.blockedBundle p
      let e := x.exec.blockedBundle q
      s.raise c { code := 0x0502, tag := e.1, addr := e.2
                  detail := pack [(0, 4, a.1.toNat), (4, 1, p.kind), (5, 1, q.kind), (8, 8, a.2.toNat)] }
    else s
  | _, _ => s

/-! ## Meanings -/

/-- BUNDLE_ISSUE; `errors`: what the read of the entry finds (R487, R488): 1, a single-bit error; 2, a double-bit error. -/
def execBundleIssue (c : Fin 4) (execute : Bool) (errors : Fin 3) (s : State) : Host.Outcome State Fault Refusal :=
  .next ((s.readEntry c execute errors).issue c execute)
/-- NOT_BEFORE_RELEASE. -/
def execNotBeforeRelease (c : Fin 4) (execute : Bool) (beat : Nat) (s : State) : Host.Outcome State Fault Refusal :=
  .next ((s.advanceTo beat).releaseTimed c execute)
/-- CNT LOAD writes IMM. -/
def execCntLoad (c : Fin 4) (d : Fin 8) (imm : BitVec 32) (s : State) : Host.Outcome State Fault Refusal :=
  .next (s.scalar c (.cntLoad d.val imm) (fun x => x.setCounter d.val imm))
/-- CNT ADD adds IMM modulo 2^32. -/
def execCntAdd (c : Fin 4) (d : Fin 8) (imm : BitVec 32) (s : State) : Host.Outcome State Fault Refusal :=
  .next (s.scalar c (.cntAdd d.val imm) (fun x => x.setCounter d.val (x.counter d.val + imm)))
/-- CNT COPY writes counter CSRC. -/
def execCntCopy (c : Fin 4) (d src : Fin 8) (s : State) : Host.Outcome State Fault Refusal :=
  .next (s.scalar c (.cntCopy d.val src.val) (fun x => x.setCounter d.val (x.counter src.val)))
/-- CNT STROKE writes the low 32 bits of the stroke number. -/
def execCntStroke (c : Fin 4) (d : Fin 8) (s : State) : Host.Outcome State Fault Refusal :=
  .next (s.scalar c (.cntStroke d.val) (fun x => x.setCounter d.val (x.stroke.extractLsb' 0 32)))
/-- CMP sets predicate PDST by COND (R131). -/
def execCmp (c : Fin 4) (p : Fin 4) (a : Fin 8) (useB : Bool) (b : Fin 8) (cond : Fin 6) (imm : BitVec 32) (s : State) :
    Host.Outcome State Fault Refusal :=
  .next (s.scalar c (.cmp p.val a.val useB b.val cond.val imm) (fun x =>
    { x with preds := putBit x.preds p.val (condHolds cond.val (x.counter a.val) (if useB then x.counter b.val else imm)) }))
/-- SYNC_SET. -/
def execSyncSet (c : Fin 4) (access execute : Bool) (flag : Fin 64) (epoch : BitVec 16) (s : State) :
    Host.Outcome State Fault Refusal := .next (s.syncSet c access execute flag.val epoch)
/-- SET_FLAG_WRITE. -/
def execSetFlagWrite (c : Fin 4) (s : State) : Host.Outcome State Fault Refusal := .next (s.setFlagWrite c)
/-- SYNC_WAIT. -/
def execSyncWait (c : Fin 4) (execute : Bool) (s : State) : Host.Outcome State Fault Refusal := .next (s.syncWait c execute)
/-- WAIT_SATISFIED. -/
def execWaitSatisfied (c : Fin 4) (execute : Bool) (s : State) : Host.Outcome State Fault Refusal := .next (s.waitSatisfied c execute)
/-- SYNC_FENCE. -/
def execSyncFence (c : Fin 4) (execute : Bool) (s : State) : Host.Outcome State Fault Refusal := .next (s.syncFence c execute)
/-- FENCE_RELEASE. -/
def execFenceRelease (c : Fin 4) (execute : Bool) (s : State) : Host.Outcome State Fault Refusal := .next (s.fenceRelease c execute)
/-- PHASE delivers its code to the cox and the governors (R157, R463). -/
def execPhase (c : Fin 4) (p : Fin 5) (s : State) : Host.Outcome State Fault Refusal :=
  .next (if s.runs c then (s.setCtx c ((s.ctxOf c).settle true (.phase p.val))).setPhase c p.val else s)
/-- WAIT_TIMEOUT. -/
def execWaitTimeout (c : Fin 4) (execute : Bool) (beat : Nat) (s : State) : Host.Outcome State Fault Refusal :=
  .next ((s.advanceTo beat).waitTimeout c execute)
/-- CROSS_WAIT. -/
def execCrossWait (c : Fin 4) (beat : Nat) (s : State) : Host.Outcome State Fault Refusal := .next ((s.advanceTo beat).crossWait c)
/-- FLAG_HOST_WRITE. -/
def execFlagHostWrite (c : Fin 4) (flag : Fin 64) (epoch : BitVec 16) (s : State) : Host.Outcome State Fault Refusal :=
  .next (s.flagHostWrite c flag.val epoch)

end Sys2Proof.Machine
end

