-- ==== Sys2Proof/Machine/Journal.lean ====
section
/-! DEFINITION. The journal: mounting, appends and compaction (19_start_and_journal.md R508 to R514). -/

namespace Sys2Proof.Machine

/-- A record read back: type, sequence number, payload, bytes it takes. -/
structure Read where
  type : Nat
  seq : Nat
  payload : List Byte
  size : Nat
  deriving DecidableEq, Repr

/-- The record at an offset of a bank, where it lies whole in the bank and its CRC is good. -/
def readRecord (bank : Memory) (off : Nat) : Option Read :=
  let head := bank.readBytes off 16
  let len := ofLe ((head.drop 2).take 2)
  let padded := (len + 15) / 16 * 16
  if off + 16 + padded > bankBytes || len > 4080 then none
  else
    let body := bank.readBytes (off + 16) padded
    if crc32c (head.take 8 ++ body) = ofLe ((head.drop 8).take 4) then
      some ⟨ofLe (head.take 2), ofLe ((head.drop 4).take 4), body.take len, 16 + padded⟩
    else none

/-- The chain of good records from an offset with consecutive sequence numbers (R512). -/
def walk (bank : Memory) : Nat → Nat → Option Nat → List Read
  | 0, _, _ => []
  | fuel + 1, off, prev =>
    match readRecord bank off with
    | none => []
    | some r =>
      if prev.all (fun p => r.seq = (p + 1) % 2 ^ 32) then r :: walk bank fuel (off + r.size) (some r.seq) else []

def chain (bank : Memory) : List Read := walk bank (bankBytes / 16) 0 none

/-- The EPOCH of a valid bank: its chain meets an ANCHOR (R511, R512). -/
def bankEpoch (bank : Memory) : Option Nat :=
  ((chain bank).find? (fun r => r.type = 0x0001)).map (fun r => ofLe (r.payload.take 8))

/-- Mount: the valid bank with the greater EPOCH is active (R512). -/
def Journal.mount (j : Journal) : Option Journal :=
  let pick (which : Bool) (e : Nat) : Journal :=
    let l := chain (if which then j.bankB else j.bankA)
    { j with active := which, mounted := true, epoch := BitVec.ofNat 64 e, fill := (l.map Read.size).sum
             next := match l.getLast? with | some r => BitVec.ofNat 32 (r.seq + 1) | none => j.next }
  match bankEpoch j.bankA, bankEpoch j.bankB with
  | none, none => none
  | some a, none => some (pick false a)
  | none, some b => some (pick true b)
  | some a, some b => some (if a ≥ b then pick false a else pick true b)

/-- JOURNAL_APPEND: the oldest waiting record, in one control step (R509). -/
def Journal.appendOne (j : Journal) : Journal :=
  match j.queue with
  | [] => j
  | r :: t =>
    match j.append r.type r.payload with
    | some j' => { j' with queue := t }
    | none => j

/-- The key of a record (R508): `none` for a type that keeps every record. -/
def Read.key (r : Read) : Option (Nat × Nat) :=
  let byte (n : Nat) : Nat := (r.payload.getD n 0#8).toNat
  match r.type with
  | 0x0010 | 0x0011 => some (r.type, byte 0)
  | 0x0014 => some (r.type, 0)
  | 0x0015 => some (r.type, byte 0 + 256 * byte 1)
  | _ => none

/-- The attempt a record belongs to: ATTEMPT by its payload, LEDGER by its entry. -/
def Read.attempt (r : Read) : Nat :=
  match r.type with
  | 0x0002 => ofLe (r.payload.take 4)
  | 0x0012 => ofLe ((r.payload.drop 4).take 4)
  | _ => 0

/-- The live records of a chain, in order (R508): the newest of each key, the newest 4 attempts with their entries, the
newest 1,024 faults, and every record of a reserved type; no anchor. -/
def live (l : List Read) : List Read :=
  let attempts := (l.filter (fun r => r.type = 0x0002)).map Read.attempt
  let newest := attempts.drop (attempts.length - 4)
  let faults := (l.filter (fun r => r.type = 0x0013)).length
  let step (acc : List Read × Nat) (r : Read) : List Read × Nat :=
    if r.type = 0x0001 then acc
    else if r.type = 0x0002 || r.type = 0x0012 then (if newest.contains r.attempt then (acc.1 ++ [r], acc.2) else acc)
    else if r.type = 0x0013 then (if acc.2 + 1024 ≥ faults then (acc.1 ++ [r], acc.2 + 1) else (acc.1, acc.2 + 1))
    else
      match r.key with
      | none => (acc.1 ++ [r], acc.2)
      | some k => (acc.1.filter (fun q => q.key ≠ some k) ++ [r], acc.2)
  (l.foldl step ([], 0)).1

/-- What the journal holds live once what waits is appended: the live records of the active bank and, behind them, the queue (R508, R513). -/
def Journal.records (j : Journal) : List Read :=
  live ((if j.mounted then chain j.bank else []) ++ j.queue.map (fun r => ⟨r.type, 0, r.payload, 0⟩))

/-- The payload of an ANCHOR (R511): EPOCH, first SEQ, count and bytes of the compacted records. -/
def anchorPayload (epoch first count bytes : Nat) : List Byte :=
  leBytes 48 (pack [(0, 8, epoch), (8, 4, first), (12, 4, count), (16, 4, bytes)])

/-- Compaction (R510, R511): the live records into the other bank with new numbers, then the anchor, whose CRC switches. -/
def Journal.compact (j : Journal) : Journal :=
  if j.compacting && j.mounted then
    let l := live (chain j.bank)
    let first := j.next.toNat
    let body := ((List.range l.length).zip l).flatMap (fun p => recordBytes p.2.type (first + p.1) p.2.payload)
    let anchor := recordBytes 0x0001 (first + l.length) (anchorPayload (j.epoch.toNat + 1) first l.length body.length)
    let bank := Memory.writeBytes 0 (body ++ anchor) (if j.active then j.bankA else j.bankB)
    { (if j.active then { j with bankA := bank } else { j with bankB := bank }) with
      active := !j.active, epoch := j.epoch + 1, fill := body.length + anchor.length
      next := BitVec.ofNat 32 (first + l.length + 1), compacting := false }
  else j

/-- Format: bank A with an anchor of EPOCH 1, bank B with zeros (R514). -/
def Journal.format (j : Journal) : Journal :=
  let anchor := recordBytes 0x0001 1 (anchorPayload 1 2 0 0)
  { j with bankA := Memory.writeBytes 0 anchor [], bankB := [], active := false, mounted := true, epoch := 1
           fill := anchor.length, next := 2 }

/-- A raw write of the selected page, in MANUFACTURE only (R543). -/
def State.journalRaw (s : State) (off : Nat) (bytes : List Byte) : State :=
  if (testAccess s.glob.lifecycle).debug = .full then
    let at_ := s.glob.jvPage.toNat * 32768 + off
    let j := s.journal
    { s with journal := if s.glob.jvBank then { j with bankB := Memory.writeBytes at_ bytes j.bankB }
                        else { j with bankA := Memory.writeBytes at_ bytes j.bankA } }
  else s

/-- The bytes of a 32-bit or 64-bit write. -/
def writeBytesOf (wide : Bool) (v : BitVec 64) : List Byte := leBytes (if wide then 8 else 4) v.toNat

/-- A control step of the cox on the journal; a cox that has failed takes none (R494). -/
def State.journalStep (s : State) (f : Journal → Journal) : State :=
  if s.glob.coxFailed then s else ({ s with journal := f s.journal } : State).coxStep

/-- JOURNAL_APPEND. -/
def execJournalAppend (s : State) : Host.Outcome State Fault Refusal := .next (s.journalStep Journal.appendOne)
/-- JOURNAL_COMPACTION. -/
def execJournalCompaction (s : State) : Host.Outcome State Fault Refusal := .next (s.journalStep Journal.compact)
/-- JOURNAL_RAW_WRITE; a misaligned one is a bad access (R532). -/
def execJournalRawWrite (offset : BitVec 15) (wide : Bool) (value : BitVec 64) (s : State) : Host.Outcome State Fault Refusal :=
  .next (if offset.toNat % (if wide then 8 else 4) ≠ 0 then s.countBad else s.journalRaw offset.toNat (writeBytesOf wide value))

end Sys2Proof.Machine
end

