-- ==== Sys2Proof/Machine/Start.lean ====
section
/-! DEFINITION. Resets, start attempts and the ledger (19_start_and_journal.md R498 to R507, R512 to R514; 20 R527 to R529;
16 R446, R447). -/

namespace Sys2Proof.Machine

/-! ## The ledger -/

/-- A ledger entry (19). -/
def ledgerEntry (step event form outcome fenced attempt us count : Nat) : BitVec 128 :=
  BitVec.ofNat 128 (pack [(0, 1, step), (1, 1, event + 2 * form + 8 * outcome), (2, 2, fenced), (4, 4, attempt), (8, 4, us), (12, 1, count)])

/-- The form of a step in this attempt: 0 NORMAL, 1 ALT, 2 SKIPPED. -/
def Start.form (t : Start) (n : Nat) : Nat := if bit t.skipped n then 2 else if bit t.alt n then 1 else 0

def Start.count (t : Start) (n : Nat) : Nat := t.counts.get n 0

/-- Append a record of start, or hold it until ST3 has a journal (R499, R500). -/
def State.startRecord (s : State) (type : Nat) (payload : List Byte) : State :=
  if s.journal.mounted then s.journalAsk type payload
  else { s with start := { s.start with heldBack := s.start.heldBack ++ [⟨type, payload⟩] } }

/-- A ledger entry. -/
def State.ledger (s : State) (e : BitVec 128) : State := s.startRecord 0x0012 (recBytes e)

/-- The records held back go to the journal, in order (R499). -/
def State.release (s : State) : State :=
  if s.journal.mounted then
    s.start.heldBack.foldl (fun s r => s.journalAsk r.type r.payload) { s with start := { s.start with heldBack := [] } }
  else s

/-- A BEGIN entry can be appended before its step acts (R500), or is held until ST3. -/
def State.beginOk (s : State) : Bool :=
  !s.journal.mounted || (s.journal.drain.queue.isEmpty && decide (s.journal.drain.fill + 32 ≤ bankBytes))

/-- Microseconds since the attempt began. -/
def State.startUs (s : State) : Nat := (s.time.beat - s.start.began) / usBeats

def State.beginStep (s : State) (n : Nat) : State :=
  let t := s.start
  let e := ledgerEntry n 0 (t.form n) 0 0 t.attempt.toNat s.startUs (t.count n)
  { s with start := { t with step := BitVec.ofNat 4 n, stepBegan := s.time.beat, running := true }
           time := if n = 12 then { s.time with accepted := 0 } else s.time }.ledger e

/-- END with an outcome; the count falls to 0 at a PASS or SKIPPED and rises at a failure (R505). -/
def State.endStep (s : State) (n outcome fenced : Nat) : State :=
  let t := s.start
  let count := if outcome = 0 then 0 else if outcome = 2 then t.count n else t.count n + 1
  let e := ledgerEntry n 1 (t.form n) outcome fenced t.attempt.toNat s.startUs count
  { s with start := { t with running := false, counts := t.counts.set n count, lastEnd := t.lastEnd.set n e } }.ledger e

/-- A failed step (R504): its END entry, START_FAILED, and the regulators down where the attempt began at ST0; a retry follows, but the third
failure in a row blocks start (R506). -/
def State.failStep (s : State) (n fenced : Nat) : State :=
  let blocked := s.start.count n + 1 ≥ 3
  let s := (s.endStep n (if blocked then 3 else 1) fenced).alert 5 (some n) none
  let s := if s.start.first = 0 then
      (List.range 16).foldl (fun s p => s.setSpan p { s.spanOf p with regulatorOn := false }) s
    else s
  if blocked then { s with start := { s.start with st := 4 } }.alert 6 (some n) none
  else { s with start := { s.start with st := 3, waitBegan := s.time.beat } }

/-! ## The ledger scan (R499, R505, R506) -/

/-- Replay the ledger of a chain: each step's count, and the step whose BEGIN has no END (R500). -/
def ledgerCounts (l : List Read) : Table Nat × Option Nat :=
  (l.filter (fun r => r.type = 0x0012)).foldl (fun (acc : Table Nat × Option Nat) r =>
    let step := (r.payload.getD 0 0#8).toNat
    let ending := (r.payload.getD 1 0#8).toNat % 2 = 1
    let acc := match acc.2 with
      | some p => if ending && p = step then (acc.1, none) else (acc.1.set p (acc.1.get p 0 + 1), none)
      | none => acc
    if ending then (acc.1.set step (r.payload.getD 12 0#8).toNat, acc.2) else (acc.1, some step)) ([], none)

/-- Steps that are optional (R501). -/
def optionalStep (n : Nat) : Bool := n = 8 || n = 10 || n = 12

/-- The scan (R499, R505, R506): the active bank, the records held back, each step's count and form, the ATTEMPT record; START_BLOCKED while any
count is 3. With no valid bank every step has its normal form; DEDUCED (log 108): but for ST3, which after its failure without a bank runs the
alternative that formats one (R501, R502). -/
def State.scan (s : State) : State :=
  let s : State := ({ s with journal := s.journal.mount.getD { s.journal with mounted := false } } : State).release
  let l := if s.journal.mounted then chain s.journal.bank else []
  let counts : Table Nat :=
    if s.journal.mounted then
      let (t, last) := ledgerCounts l
      match last with | some p => t.set p (t.get p 0 + 1) | none => t
    else if s.start.count 3 = 0 then [] else [(3, s.start.count 3)]
  let old := ((l.filter (fun r => r.type = 0x0002)).map Read.attempt).foldl max s.start.attempt.toNat
  let weak := (List.range 14).filter (fun n => 1 ≤ counts.get n 0 && counts.get n 0 ≤ 2)
  let mask (p : Nat → Bool) : BitVec 14 := weak.foldl (fun m n => if p n then putBit m n true else m) 0
  let t := { s.start with attempt := BitVec.ofNat 32 (old + 1), counts := counts, lastEnd := [], alt := mask (fun n => !optionalStep n)
                          skipped := mask optionalStep, patchAsked := false, patches := none, patchAt := 0, running := false }
  let s := ({ s with start := t } : State).startRecord 0x0002 (leBytes 4 (old + 1))
  match (List.range 14).find? (fun n => counts.get n 0 ≥ 3) with
  | some n => { s with start := { s.start with st := 4, step := BitVec.ofNat 4 n } }.alert 6 (some n) none
  | none => { s with start := { s.start with st := 1, step := BitVec.ofNat 4 s.start.first } }

/-! ## Patches (R446, R527 to R529) -/

/-- Is an image's directory entry legal (R517, R521, R528)? `size`: bytes of the image. -/
def imageEntryOk (e : BitVec 512) (size : Nat) : Bool :=
  entryOk e size && 1 ≤ field e 96 16 && field e 96 16 ≤ 0x3FF && field e 112 16 = 0

/-- Do the bytes verify with a key that the lifecycle state allows (R445, R446)? Key 1 is Gelxel's production key, key 0 its manufacturing key. -/
def State.keyOk (s : State) (img : List Byte) : Bool :=
  Config.signatureOk 1 img || (s.glob.lifecycle = 0 && Config.signatureOk 0 img)

/-- Is an image accepted (R446, R528, R529)? None is while the counter stands as a format left it (R514). -/
def State.imageOk (s : State) (img : List Byte) (used : Nat) : Bool :=
  let n := img.length
  let le (o k : Nat) : Nat := ofLe ((img.drop o).take k)
  let nrout := le 10 2
  s.keyOk img && !s.glob.restorable && le 4 4 ≥ s.glob.rollback.toNat && le 0 4 = n && n % 64 = 0 &&
    1 ≤ nrout && nrout ≤ 1024 && le 12 52 = 0 && 64 + 64 * nrout + 96 ≤ n && used + n ≤ 0x80000 &&
    (List.range nrout).all (fun i => imageEntryOk (BitVec.ofNat 512 (le (64 + 64 * i) 64)) n)

/-- Load one accepted image: its bytes into patch RAM, its entries into the effective directory, SOURCE and absolute OFFSET
filled in (R528, R529). -/
def Library.loadImage (l : Library) (img : List Byte) : Library :=
  let le (o k : Nat) : Nat := ofLe ((img.drop o).take k)
  let base := 0x200000 + l.patchUsed
  let source := l.images.toNat + 1
  let dir := (List.range (le 10 2)).foldl (fun t i =>
    let e := BitVec.ofNat 512 (le (64 + 64 * i) 64)
    let off := field e 0 32 + base
    let v := (e &&& ~~~(BitVec.ofNat 512 (0xFFFFFFFF + 0xFFFF * 2 ^ 96))) ||| BitVec.ofNat 512 (off + source * 2 ^ 96)
    Table.set (field e 96 16) v t) l.dir
  let svn := le 4 4
  { l with patch := Memory.writeBytes base img l.patch, patchUsed := l.patchUsed + img.length, dir := dir, images := l.images + 1
           patchSvn := if l.images = 0 then BitVec.ofNat 32 svn else BitVec.ofNat 32 (min svn l.patchSvn.toNat) }

/-- The next image of the answer has been read, or its read has failed: it is loaded, or rejected, which sets PATCH_REJECTED. -/
def State.takeImage (s : State) (img : Option (List Byte)) : State :=
  let s := { s with start := { s.start with patchAt := s.start.patchAt + 1 } }
  match img.filter (fun b => s.imageOk b s.lib.patchUsed) with
  | some b => { s with lib := s.lib.loadImage b }
  | none => { s with lib := { s.lib with rejected := true } }

/-- Read and load the images still to come, in order (R527, R529); `false`: one is still being read. DEDUCED (log 109): an image whose read
fails (R39) is rejected. -/
def State.loadPatches (s : State) : List (Nat × Nat) → State × Bool
  | [] => (s, true)
  | p :: t =>
    match s.coxFetch p.1 p.2 with
    | (s, .waiting) => (s, false)
    | (s, .failed) => (s.takeImage none).loadPatches t
    | (s, .data b) => (s.takeImage (some b)).loadPatches t

/-- ST8 begins, or is skipped: no patch is loaded (R501, R527). -/
def Library.unpatch (l : Library) : Library := { l with patch := [], patchUsed := 0, dir := [], images := 0, patchSvn := 0 }

/-! ## The steps (R501 to R503, R513, R514) -/

/-- The live REPAIR_MAP of a span. -/
def State.repairOf (s : State) (span : Nat) : Option (List Byte) :=
  (s.journal.records.find? (fun r => r.type = 0x0010 && (r.payload.getD 0 0#8).toNat = span)).map Read.payload

/-- A whole span is fenced in the repair map (R503). -/
def State.fenceSpan (s : State) (p : Nat) : State :=
  let s := s.setSpan p { s.spanOf p with fence := BitVec.allOnes 128, regulatorOn := false }
  { s with start := { s.start with fencedSpans := putBit s.start.fencedSpans p true } }

/-- Fence whole spans (R503): each with the lane map that the journal holds for it; without a journal the map waits for ST4. -/
def State.fenceSpans (s : State) (mask : BitVec 16) : State :=
  (spansOf mask).foldl (fun s p =>
    let s := match s.repairOf p with | some b => s.loadRepair p b | none => s
    let s := s.fenceSpan p
    if s.journal.mounted then s.journalRepair p else s) s

/-- Cores that a test finds and that are not fenced yet. -/
def State.newCores (s : State) (l : List Nat) : List Nat := (l.filter (fun k => k < 2048 && !s.isFenced k)).eraseDups

/-- The lowest unfenced span. -/
def State.unfencedSpan (s : State) : Option Nat := (List.range 16).find? (fun p => !bit s.start.fencedSpans p)

/-- The service pier is that of the lowest unfenced span (R49), as the repair map stands. -/
def State.choosePier (s : State) : State := { s with start := { s.start with servicePier := s.unfencedSpan.getD s.start.servicePier } }

/-- The spans that this start has fenced and whose map does not say so yet enter it (R503). -/
def State.keepFences (s : State) (mask : BitVec 16) : State :=
  (spansOf mask).foldl (fun s p => if (s.spanOf p).fence = BitVec.allOnes 128 then s else (s.fenceSpan p).journalRepair p) s

/-- ST4: the live REPAIR_MAP records into every core; a span with every core fenced is a fenced span. -/
def State.applyMap (s : State) : State :=
  let maps := s.journal.records.filter (fun r => r.type = 0x0010)
  let s := (maps.foldl (fun s r => s.loadRepair (r.payload.getD 0 0#8).toNat r.payload) s).keepFences s.start.fencedSpans
  ((List.range 16).foldl (fun s p =>
    if (s.spanOf p).fence = BitVec.allOnes 128 then { s with start := { s.start with fencedSpans := putBit s.start.fencedSpans p true } } else s) s
    ).choosePier

/-- ST4 in its alternative: an empty map; ST5, ST6 and ST9 then run in normal form. -/
def State.emptyMap (s : State) : State :=
  let s := { s with cores := s.cores.map (fun (e : Nat × Core) => (e.1, { e.2 with swapped := [], scheduled := [], dueSwaps := [] })) }
  let s := ((List.range 16).foldl (fun s p => s.setSpan p { s.spanOf p with fence := 0 }) s).keepFences s.start.fencedSpans
  { s with start := { s.start with alt := s.start.alt &&& ~~~(0b10_0110_0000#14) } }

/-- The journaled trim of a span, from REG_CAL (R513); 0 with none. -/
def State.journalTrim (s : State) (span : Nat) : Option (BitVec 8) :=
  (s.journal.records.find? (fun r => r.type = 0x0011 && (r.payload.getD 0 0#8).toNat = span)).map (fun r => r.payload.getD 1 0#8)

/-- The payload of a ROLLBACK record (R508): the counter, and in byte 4 whether a format left it so (the model's layout, log 100). -/
def rollbackPayload (n : Nat) (restorable : Bool) : List Byte := leBytes 16 (n + 2 ^ 32 * b2n restorable)

/-- ST3 with a mounted journal: what an attempt without a valid bank held back (R499; the ATTEMPT records among it DEDUCED, log 91), the rollback
counter, and the profiles with their observation counts (R513). -/
def State.loadTables (s : State) : State :=
  let s := s.release
  let l := s.journal.records
  let s := match l.find? (fun r => r.type = 0x0014) with
    | some r => s.setGlob { s.glob with rollback := BitVec.ofNat 32 (ofLe (r.payload.take 4)), restorable := (r.payload.getD 4 0#8) = 1#8 }
    | none => s
  (l.filter (fun r => r.type = 0x0015)).foldl (fun s r =>
    let le (o k : Nat) : Nat := ofLe ((r.payload.drop o).take k)
    let p : Profile := { busy := (List.range 16).map (fun i => le (16 + 2 * i) 2), mean := le 4 4, strokes := le 8 8 }
    let x := s.spanOf (le 0 1)
    s.setSpan (le 0 1) { x with profiles := x.profiles.set (le 1 1) p }) s

/-- The anti-rollback counter takes a value, and the journal a ROLLBACK record (R447, R508). -/
def State.setRollback (s : State) (n : Nat) (restorable : Bool) : State :=
  (s.setGlob { s.glob with rollback := BitVec.ofNat 32 n, restorable := restorable }).journalAsk 0x0014 (rollbackPayload n restorable)

/-- ST3's formatting (R514). The counter's new value 0xFFFF_FFFF is appended as a ROLLBACK record, so that it stands until SVN_RESTORE (R447;
DEDUCED, log 100). -/
def State.formatJournal (s : State) : State :=
  let s := { s with journal := s.journal.format, start := { s.start with alt := putBit s.start.alt 4 true } }
  if s.glob.lifecycle = 0 then (s.setGlob { s.glob with rollback := 0, restorable := false }).loadTables
  else
    let s := ({ s with journal := { s.journal with lost := true } } : State).setRollback 0xFFFFFFFF true
    (s.alert 8 none none).loadTables

/-- What a step found: passed, failed, or still running, with the cores it fenced. -/
inductive Found where
  | pass (fenced : Nat)
  | fail (fenced : Nat)
  | running
  deriving DecidableEq, Repr

/-- ST5, ST6 and ST9 fence the cores a test has found; more than 64 in one step fail it (R502). -/
def State.testCores (s : State) (faulty : List Nat) : State × Found :=
  let l := s.newCores faulty
  if l.length > 64 then (s, .fail 0) else (l.foldl State.markFence s, .pass l.length)

/-- The lanes that ST6 has found bad: 4,096 + 64 × core + physical lane in the list. -/
def badLanes (faulty : List Nat) : List (Nat × Nat) :=
  (faulty.filter (fun k => 4096 ≤ k && k < 4096 + 64 * 2048)).map (fun k => ((k - 4096) / 64, (k - 4096) % 64))

/-- The bad lanes of a core that no spare has replaced. -/
def State.newLanes (s : State) (faulty : List Nat) (core : Nat) : List Nat :=
  (((badLanes faulty).filter (fun e => e.1 = core && !(s.coreOf core).swapped.contains e.2)).map Prod.snd).eraseDups

/-- ST6: a bad lane takes the next free spare of its core at once; a core without one is fenced (R491, R492, R502). -/
def State.testLanes (s : State) (faulty : List Nat) : State × Found :=
  let cores := ((badLanes faulty).map Prod.fst).eraseDups
  let spent := cores.filter (fun k => (s.coreOf k).swapped.length + (s.newLanes faulty k).length > 2)
  match s.testCores (faulty ++ spent) with
  | (t, .pass n) =>
    ((cores.filter (fun k => !t.isFenced k)).foldl (fun t k =>
      (t.setCore k { t.coreOf k with dueSwaps := t.newLanes faulty k }).swapDue k) t, .pass n)
  | r => r

/-- A viaduct port is marked failed, and the failure recorded (R405). -/
def State.markPort (s : State) (port : Nat) : State :=
  (s.setGlob { s.glob with portFailed := putBit s.glob.portFailed port true }).absorb 7
    { code := 0x0A89, detail := hwDetail 12 port 0xFFFF 0 0 }

/-- One step acts, with what the hardware tests found: the failing bit of the step, spans out of limits, and by step the cores
(ST5, ST6, ST9) and lanes (ST6), routines (ST7) or ports 0 to 3 and closed links 256 + c (ST11) found bad. -/
def State.act (s : State) (n : Nat) (failing : Bool) (badSpans : BitVec 16) (faulty : List Nat) : State × Found :=
  let normal := s.start.form n = 0
  if s.start.form n = 2 then
    match n with
    | 8 => ({ s with lib := s.lib.unpatch }, .pass 0)
    | 10 =>
      let trims := (List.range 16).map s.journalTrim
      let s := (List.range 16).foldl (fun s p => s.setSpan p { s.spanOf p with trim := ((trims.getD p none).getD 0) }) s
      let without := (List.range 16).filter (fun p => (trims.getD p none).isNone)
      ({ s with start := { s.start with forceSteady := without.foldl (fun m p => putBit m p true) 0 } }, .pass 0)
    | 12 => ({ s with time := { s.time with holdover := true, holdSince := s.time.beat } }, .pass 0)
    | _ => (s, .pass 0)
  else
    match n with
    | 0 | 1 | 2 =>
      let new := badSpans &&& ~~~s.start.fencedSpans
      if (normal && new ≠ 0) || failing then (s, .fail 0)
      else
        let s := s.fenceSpans new
        let s := if n = 1 then
            (List.range 16).foldl (fun s p =>
              if bit s.start.fencedSpans p then s
              else
                let trim := (s.journalTrim p).getD 0
                s.setSpan p { s.spanOf p with regulatorOn := true, trim := trim, vout := BitVec.ofInt 10 ((pointMv 12 : Int) + trim.toInt) }) s
          else s
        match s.unfencedSpan with
        | none => (s, .fail (128 * (spansOf new).length))
        | some _ => (s.choosePier, .pass (128 * (spansOf new).length))
    | 3 =>
      match s.journal.mount with
      | some j => if failing && normal then (s, .fail 0) else ({ s with journal := j }.loadTables, .pass 0)
      | none =>
        if normal then ({ s with journal := { s.journal with mounted := false } }, .fail 0) else (s.formatJournal, .pass 0)
    | 4 => if normal then (if failing then (s, .fail 0) else (s.applyMap, .pass 0)) else (s.emptyMap, .pass 0)
    | 5 | 9 => if failing then (s, .fail 0) else s.testCores faulty
    | 6 => if failing then (s, .fail 0) else s.testLanes faulty
    | 7 =>
      if normal then
        (if failing then (s, .fail 0) else ({ s with lib := { s.lib with romLoaded := true, absent := [], romPartial := false } }, .pass 0))
      else ({ s with lib := { s.lib with romLoaded := true, absent := faulty, romPartial := !faulty.isEmpty } }, .pass 0)
    | 8 =>
      if failing then (s, .fail 0)
      else
        match s.start.patches with
        | some l =>
          match s.loadPatches (l.drop s.start.patchAt) with
          | (s, true) => (s, .pass 0)
          | (s, false) => (s, .running)
        | none =>
          if s.start.patchAsked then (s, .running)
          else ({ s with start := { s.start with patchAsked := true, patchAt := 0 }, lib := { s.lib.unpatch with rejected := false }
                         mbox := s.mbox.send (BitVec.ofNat 512 (pack [(0, 2, 0x8001)])) }, .running)
    | 10 =>
      if failing then (s, .fail 0)
      else
        let s := (List.range 16).foldl (fun s p =>
          let cal := Config.calibration p s.start.attempt.toNat
          let trim := BitVec.ofInt 8 (max (-30) (min 30 (sfield cal 0 8)))
          let s := s.setSpan p { s.spanOf p with trim := trim }
          s.journalAsk 0x0011 (leBytes 64 (pack [(0, 1, p), (1, 1, trim.toNat), (8, 48, cal.toNat / 256)]))) s
        ({ s with start := { s.start with forceSteady := 0 } }, .pass 0)
    | 11 =>
      let ports := (List.range 4).filter (fun p => faulty.contains p)
      if normal && (failing || !faulty.isEmpty) then (s, .fail 0)
      else
        let s := ports.foldl State.markPort s
        let s := { s with start := { s.start with linksUp := true, closedLinks := (faulty.filter (fun k => k ≥ 256)).map (· - 256) } }
        if (ports.contains 0 && ports.contains 1) || (ports.contains 2 && ports.contains 3) then (s, .fail 0) else (s, .pass 0)
    | 12 => if failing then (s, .fail 0) else if s.time.seeded && s.time.accepted ≥ 8 then (s, .pass 0) else (s, .running)
    | _ => (s, .pass 0)

/-- The limit of each step in beats (R501); ST8's is for each image. -/
def State.stepLimit (s : State) (n : Nat) : Nat :=
  let ms := [1, 1, 1, 10, 1, 30, 50, 5, 10 * max 1 ((s.start.patches.getD []).length), 5, 10, 5, 10].getD n 0
  ms * 1000 * usBeats

/-- Is the present step still running at its limit? ST13 has none. -/
def State.pastLimit (s : State) (n : Nat) : Bool := n < 13 && s.time.beat ≥ s.start.stepBegan + s.stepLimit n

/-- Run steps from the present one: `fuel` steps at most, stopping with BEGIN written at step `upTo`. A step begins once its BEGIN entry is
appended (R500), and one still running at its limit fails (R501). -/
def State.runSteps (s : State) (upTo : Nat) (failing : BitVec 14) (badSpans : BitVec 16) (faulty : List Nat) : Nat → State
  | 0 => s
  | fuel + 1 =>
    let n := s.start.step.toNat
    if !s.start.running && !s.beginOk then s
    else
    let s := if s.start.running then s else s.beginStep n
    if n ≥ upTo then s
    else if s.pastLimit n then s.failStep n 0
    else
      match s.act n (bit failing n) badSpans faulty with
      | (s, .running) => s
      | (s, .fail k) => s.failStep n k
      | (s, .pass k) =>
        let s := s.endStep n 0 k
        if n ≥ 13 then { s with start := { s.start with st := 2 } }
        else State.runSteps { s with start := { s.start with step := BitVec.ofNat 4 (n + 1) } } upTo failing badSpans faulty fuel

/-- START_ATTEMPT: the scan of a new attempt, then its steps; or the steps of the attempt under way. A cox that has failed takes no step
(R494). -/
def State.startAttempt (s : State) (upTo : Nat) (failing : BitVec 14) (badSpans : BitVec 16) (faulty : List Nat) : State :=
  if s.glob.coxFailed then s
  else
  let s := if s.start.st = 0 then s.scan else s
  if s.start.st = 1 then s.runSteps upTo failing badSpans faulty 14 else s

/-- START_STEP_TIMEOUT: a step still running at its limit fails (R501, R504). -/
def State.stepTimeout (s : State) : State :=
  let n := s.start.step.toNat
  if !s.glob.coxFailed && s.start.st = 1 && s.start.running && s.pastLimit n then s.failStep n 0 else s

/-- START_RETRY: 1 ms after the failure a new attempt begins where the one it repeats began (R498, R504). -/
def State.retry (s : State) : State :=
  if !s.glob.coxFailed && s.start.st = 3 && s.time.beat ≥ s.start.waitBegan + 1000 * usBeats then
    { s with start := { s.start with st := 0, step := BitVec.ofNat 4 s.start.first, began := s.time.beat } }
  else s

/-! ## Resets -/

/-- COLD reset: every state is cleared except the journal's banks (02); fuses, straps and ROM stand, and the shared cache and
the queue of commands lie outside the block. The fuse that ends MANUFACTURE blows at Gelxel's test (R445): whether it has is a free value, and
the state is read from the fuses (log 110). -/
def State.coldReset (s : State) : State :=
  let g := s.glob
  let lifecycle : BitVec 2 := if g.lifecycle = 0 && Config.fuseBlown s.free then 1 else g.lifecycle
  { State.reset with
    glob := { State.reset.glob with lifecycle := lifecycle, access := testAccess lifecycle, block := g.block, package := g.package, revision := g.revision }
    lib := { State.reset.lib with romVer := s.lib.romVer }
    journal := { State.reset.journal with bankA := s.journal.bankA, bankB := s.journal.bankB }
    mem := s.mem, free := s.free + 1, pending := s.pending }

/-- WARM reset (02, R498, R500; a step that a lockup interrupted gets no entry): all contexts torn down at once, the cox restarted, start
from ST3; regulators, clocks, local time, the mailbox and the journal stay. -/
def State.warmReset (s : State) : State :=
  let s := if s.start.running && !s.glob.coxFailed then s.endStep s.start.step.toNat 2 0 else s
  let s := allCtx.foldl (fun s c =>
    if (s.adminOf c).state = .free then s
    else
      let s := s.setAdmin c { s.adminOf c with state := .tearingDown }
      (s.setCtx c (s.ctxOf c).stop).teardownComplete c) s
  let s := s.setGlob { s.glob with coxFailed := false, coxMismatch := 0, coxRead := none, portFailed := 0, strokesSince := 0 }
  { s.choosePier with start := { s.choosePier.start with st := 0, step := 3, first := 3, running := false, began := s.time.beat }
                      lib := { State.reset.lib with romVer := s.lib.romVer } }

/-! ## Meanings -/

/-- The start steps are control steps of the cox (R29). -/
def State.startStep (s : State) : State := if s.glob.coxFailed then s else s.coxStep

/-- START_ATTEMPT. -/
def execStartAttempt (upTo : Nat) (failing : BitVec 14) (badSpans : BitVec 16) (faulty : List Nat) (beat : Nat) (s : State) :
    Host.Outcome State Fault Refusal := .next ((s.advanceTo beat).startAttempt upTo failing badSpans faulty).startStep
/-- START_STEP_TIMEOUT. -/
def execStartStepTimeout (beat : Nat) (s : State) : Host.Outcome State Fault Refusal := .next (s.advanceTo beat).stepTimeout
/-- START_RETRY. -/
def execStartRetry (beat : Nat) (s : State) : Host.Outcome State Fault Refusal := .next (s.advanceTo beat).retry
/-- COLD_RESET. -/
def execColdReset (s : State) : Host.Outcome State Fault Refusal := .next s.coldReset

end Sys2Proof.Machine
end

