-- ==== Sys2Proof/Machine/Mailbox.lean ====
section
/-! DEFINITION. The management mailbox (02 R57; 21 R541, R542; 16 R430, R438, R445, R447; 17 R451, R466; 18 R493; 19 R506,
R507; 20 R527), and the test network's request (02 R65). One message is handled in a control step. -/

namespace Sys2Proof.Machine

/-- A message (R542). -/
abbrev Message := BitVec 512

namespace Message
/-- The field of n bytes at byte o. -/
def num (v : Message) (o n : Nat) : Nat := field v (8 * o) (8 * n)
def opcode (v : Message) : Nat := num v 0 2

/-- Every byte outside OPCODE, SEQ and the fields named (offset, length) is zero. -/
def tidy (v : Message) (fields : List (Nat × Nat)) : Bool :=
  (List.range 64).all (fun i =>
    i < 4 || fields.any (fun f => f.1 ≤ i && i < f.1 + f.2) || num v i 1 = 0)

/-- The REPLY to it: SEQ copied, with a status (R542). -/
def reply (v : Message) (status : Nat) : Message := BitVec.ofNat 512 (pack [(0, 2, 0x8000), (2, 2, num v 2 2), (4, 2, status)])
end Message

/-- The message at place i among those posted and not yet handled, and the oldest. -/
def Mailbox.slot (m : Mailbox) (i : Nat) : Message := m.inbound.get ((m.inWr.toNat + 8 - m.inCount.toNat + i) % 8) 0
def Mailbox.front (m : Mailbox) : Option Message := if m.inCount = 0 then none else some (m.slot 0)

/-- The oldest message is handled and answered (R541). -/
def Mailbox.answer (m : Mailbox) (v : Message) (status : Nat) : Mailbox :=
  { m with inCount := m.inCount - 1 }.send (v.reply status)

/-- Opcodes that the cox handles (R542). -/
def knownOpcode (n : Nat) : Bool := 1 ≤ n && n ≤ 0x0B

/-- How the cox handles one opcode: the payload fields it defines, which values are in range, the bytes of the shared cache that it reads first
(R49), what the present state allows, whether it needs a journal record, and what it does with the bytes (R542). -/
structure Handler where
  opcode : Nat
  fields : List (Nat × Nat)
  inRange : Message → Bool
  reads : Message → Option (Nat × Nat) := fun _ => none
  allowed : Message → List Byte → State → Bool
  journals : State → Bool := fun _ => false
  act : Message → List Byte → State → State

/-- A control step of the cox answers a message. -/
def State.answer (s : State) (v : Message) (status : Nat) : State := ({ s with mbox := s.mbox.answer v status } : State).coxStep

/-- The message is well formed and, where the handler reads bytes, they have come: DONE and its effect, or REFUSED; a read that has failed is a
token that fails its checks (R39; DEDUCED, log 109). A control step that needs a journal record waits for a place (R509). -/
def State.judge (s : State) (h : Handler) (v : Message) (got : CoxGot) : State :=
  match got with
  | .waiting => s
  | .failed => s.answer v 1
  | .data b =>
    if !h.allowed v b s then s.answer v 1
    else if h.journals s && !s.journal.canTake then s
    else (h.act v b s).answer v 0

/-- A row of the mailbox: the cox handles the oldest message where it is of this row's opcode; one of an unknown opcode, which no row handles, is
answered BAD_MESSAGE by any of them (DEDUCED, log 19). A failed cox handles none (R494). -/
def State.handle (s : State) (h : Handler) : State :=
  if s.glob.coxFailed then s
  else
    match s.mbox.front with
    | none => s
    | some v =>
      if !knownOpcode v.opcode then s.answer v 2
      else if v.opcode ≠ h.opcode then s
      else if !v.tidy h.fields || !h.inRange v then s.answer v 2
      else
        match h.reads v with
        | none => s.judge h v (.data [])
        | some (a, n) =>
          let (s, got) := s.coxFetch a n
          s.judge h v got

/-- Start is READY: a message that needs a context is refused before (R507). -/
def State.ready (s : State) : Bool := decide (s.start.st = 2)

/-- DRAIN (R438). -/
def drainHandler : Handler where
  opcode := 0x0002
  fields := [(8, 1)]
  inRange v := v.num 8 1 < 4
  allowed _ _ s := s.ready
  act v _ s := s.setAdmin (ctxNo (v.num 8 1)) { s.adminOf (ctxNo (v.num 8 1)) with drain := true }

/-- SET_POLICY: the limits at once, the policy at the next block boundary (R466, R471). -/
def policyHandler : Handler where
  opcode := 0x0003
  fields := [(8, 1), (10, 4)]
  inRange v := v.num 8 1 < 2 && v.num 10 2 < 512 && v.num 12 2 < 512
  allowed _ _ _ := true
  act v _ s :=
    (s.setGlob { s.glob with policyNext := some (decide (v.num 8 1 = 1)), sustainedW := BitVec.ofNat 9 (v.num 10 2)
                             peakW := BitVec.ofNat 9 (v.num 12 2) }).writeCaps

/-- TIME_RESYNC (R451). -/
def resyncHandler : Handler where
  opcode := 0x0004
  fields := []
  inRange _ := true
  allowed _ _ _ := true
  act _ _ s := { s with time := { s.time with resyncArmed := true } }

/-- COMMIT_SVN: from the present counter up to the SVN of the patches now loaded (R447). -/
def commitHandler : Handler where
  opcode := 0x0005
  fields := [(8, 4)]
  inRange _ := true
  allowed v _ s := s.lib.images ≠ 0 && s.glob.rollback.toNat ≤ v.num 8 4 && v.num 8 4 ≤ s.lib.patchSvn.toNat
  journals _ := true
  act v _ s := s.setRollback (v.num 8 4) false

/-- Where the token that a message names lies: address and bytes. -/
def tokenAt (v : Message) : Option (Nat × Nat) := some (v.num 8 8, v.num 16 4)

/-- SVN_RESTORE: only while the counter stands at 0xFFFF_FFFF after a journal format (R447, R514); the token verifies with
the production key (log 10). -/
def restoreHandler : Handler where
  opcode := 0x0006
  fields := [(8, 12)]
  inRange _ := true
  reads := tokenAt
  allowed _ b s := s.glob.restorable && s.glob.rollback = 0xFFFFFFFF#32 && Config.signatureOk 1 b
  journals _ := true
  act _ b s := s.setRollback (Config.tokenSvn b).toNat false

/-- A context torn down for ENTER_RETURN; its RNG key is zero (R445). -/
def State.returnCtx (s : State) (c : Fin 4) : State :=
  let s := s.setCtx c { s.ctxOf c with rngLo := 0, rngHi := 0 }
  if (s.adminOf c).state = .free || (s.adminOf c).state = .tearingDown then s else s.teardown c

/-- ENTER_RETURN, from PRODUCTION (R445); the token's SVN is checked against the counter, as a patch image's is (R446, R447). -/
def returnHandler : Handler where
  opcode := 0x0007
  fields := [(8, 12)]
  inRange _ := true
  reads := tokenAt
  allowed _ b s := s.glob.lifecycle = 1 && Config.signatureOk 1 b && s.glob.rollback.toNat ≤ (Config.tokenSvn b).toNat
  act _ _ s := allCtx.foldl State.returnCtx (s.setGlob { s.glob with lifecycle := 2, access := testAccess 2 })

/-- UNFENCE: cleared at the next block stroke boundary (R493). -/
def unfenceHandler : Handler where
  opcode := 0x0008
  fields := [(8, 1), (10, 2)]
  inRange v := v.num 8 1 < 16 && (v.num 10 2 < 128 || v.num 10 2 = 0xFFFF)
  allowed _ _ _ := true
  act v _ s := s.setGlob { s.glob with unfences := s.glob.unfences ++ [(v.num 8 1, v.num 10 2)] }

/-- LEDGER_CLEAR: the step's count is 0 for the next attempt (R506). The entry that carries the count to the next scan, an END
of outcome ABANDONED with count 0, is the model's (log 20). -/
def clearHandler : Handler where
  opcode := 0x0009
  fields := [(8, 1)]
  inRange v := v.num 8 1 < 14
  allowed _ _ _ := true
  journals s := s.journal.mounted
  act v _ s :=
    let n := v.num 8 1
    let e := ledgerEntry n 1 0 2 0 s.start.attempt.toNat s.startUs 0
    { s with start := { s.start with counts := s.start.counts.set n 0 } }.ledger e

/-- WARM_RESET: the REPLY, then the reset (R542); the mailbox stays (R541). -/
def warmHandler : Handler where
  opcode := 0x000A
  fields := []
  inRange _ := true
  allowed _ _ _ := true
  act _ _ s := s.warmReset

/-- PATCH_LIST: up to four addresses and lengths, asked for at ST8 (R527). -/
def patchHandler : Handler where
  opcode := 0x000B
  fields := [(8, 1), (16, 48)]
  inRange v := v.num 8 1 ≤ 4
  allowed _ _ s := s.start.st = 1 && s.start.step = 8 && s.start.patchAsked && s.start.patches.isNone
  act v _ s :=
    let l := (List.range (v.num 8 1)).map (fun i => (v.num (16 + 12 * i) 8, v.num (24 + 12 * i) 4))
    { s with start := { s.start with patches := some l, patchAt := 0 } }

/-- WARM_RESET with a cox that has failed: the oldest well-formed message of that opcode restarts it, wherever it stands behind messages that the
failed cox never handled (R494; DEDUCED, log 90); those keep their order. -/
def Mailbox.warmAt (m : Mailbox) : Option Nat :=
  (List.range m.inCount.toNat).find? (fun i => let v : Message := m.slot i; v.opcode = 0x000A && v.tidy [])

/-- The message at place i is taken out, and those before it move up. -/
def Mailbox.pull (m : Mailbox) (i : Nat) : Mailbox :=
  let at_ (k : Nat) : Nat := (m.inWr.toNat + 8 - m.inCount.toNat + k) % 8
  { m with inbound := (List.range i).foldl (fun t k => t.set (at_ (i - k)) (t.get (at_ (i - k - 1)) 0)) m.inbound }

def State.warmHandle (s : State) : State :=
  if s.glob.coxFailed then
    match s.mbox.warmAt with
    | none => s
    | some i =>
      let v : Message := s.mbox.slot i
      ({ s with mbox := s.mbox.pull i } : State).warmReset.answer v 0
  else s.handle warmHandler

/-- MBOX_POST (R541, R57). -/
def Mailbox.post (m : Mailbox) : Mailbox :=
  if m.inCount.toNat ≥ 8 then { m with fullDrop := true } else { m with inWr := m.inWr + 1, inCount := m.inCount + 1 }

/-- Waiting messages of the cox take free slots, in order. -/
def Mailbox.settle (m : Mailbox) : Nat → Mailbox
  | 0 => m
  | n + 1 =>
    match m.waiting with
    | v :: t =>
      if m.outCount.toNat < 8 then
        Mailbox.settle { m with outbound := m.outbound.set ((m.outRd.toNat + m.outCount.toNat) % 8) v, outCount := m.outCount + 1, waiting := t } n
      else m
    | [] => m

/-- MBOX_ACK (R541). -/
def Mailbox.ack (m : Mailbox) : Mailbox :=
  if m.outCount = 0 then m
  else { m with outRd := m.outRd + 1, outCount := m.outCount - 1 }.settle 8

/-! ## Meanings -/

/-- MBOX_POST. -/
def execMboxPost (s : State) : Host.Outcome State Fault Refusal := .next { s with mbox := s.mbox.post }
/-- MBOX_ACK. -/
def execMboxAck (s : State) : Host.Outcome State Fault Refusal := .next { s with mbox := s.mbox.ack }
/-- DRAIN. -/
def execDrain (s : State) : Host.Outcome State Fault Refusal := .next (s.handle drainHandler)
/-- SET_POLICY. -/
def execSetPolicy (s : State) : Host.Outcome State Fault Refusal := .next (s.handle policyHandler)
/-- TIME_RESYNC. -/
def execTimeResync (s : State) : Host.Outcome State Fault Refusal := .next (s.handle resyncHandler)
/-- COMMIT_SVN. -/
def execCommitSvn (s : State) : Host.Outcome State Fault Refusal := .next (s.handle commitHandler)
/-- SVN_RESTORE. -/
def execSvnRestore (s : State) : Host.Outcome State Fault Refusal := .next (s.handle restoreHandler)
/-- ENTER_RETURN. -/
def execEnterReturn (s : State) : Host.Outcome State Fault Refusal := .next (s.handle returnHandler)
/-- UNFENCE. -/
def execUnfence (s : State) : Host.Outcome State Fault Refusal := .next (s.handle unfenceHandler)
/-- LEDGER_CLEAR. -/
def execLedgerClear (s : State) : Host.Outcome State Fault Refusal := .next (s.handle clearHandler)
/-- WARM_RESET. -/
def execWarmReset (s : State) : Host.Outcome State Fault Refusal := .next s.warmHandle
/-- PATCH_LIST. -/
def execPatchList (s : State) : Host.Outcome State Fault Refusal := .next (s.handle patchHandler)
/-- TEST_REQ: the test network asks for attention (R65). -/
def execTestReq (s : State) : Host.Outcome State Fault Refusal := 
  .next ((s.setGlob { s.glob with testReq := true, access := testAccess s.glob.lifecycle }).setsBit 5)

end Sys2Proof.Machine
end

