-- ==== Sys2Proof/Machine/Bays.lean ====
section
/-! DEFINITION. Registers of a context that wait for it to be idle: bays (06 R170 to R172), coupling mode (12 R330), viaduct
channels (14 R387 to R389); and the small context and span registers with rows of their own. -/

namespace Sys2Proof.Machine

/-! ## Bays -/

/-- A configuration as the register spells it. -/
def bayOf (v : BitVec 30) : Bay := { cfg := v }

/-- Does a configuration enable its bay? -/
def Bay.on (b : Bay) : Bool := b.mode ≠ 0

def Bay.isRing (b : Bay) : Bool := b.mode = 2 || b.mode = 3

/-- Do the line ranges of two bays meet? -/
def Bay.meets (a b : Bay) : Bool := decide (a.base < b.base + b.lines) && decide (b.base < a.base + a.lines)

/-- Does bay `b`, in force under another number, forbid `a` (R171)? -/
def Bay.clashes (a b : Bay) : Bool :=
  b.on && ((a.meets b && !(a.mode = 1 && b.mode = 1)) || (a.isRing && b.isRing && a.dq = b.dq) || (a.mode = 4 && b.mode = 4))

/-- Is a write of entry n refused against the entries in force (R171)? -/
def Ctx.bayRefused (x : Ctx) (n : Nat) (v : BitVec 30) : Bool :=
  let b := bayOf v
  b.base + b.lines > 2048 || b.mode ≥ 5 || (b.on != decide (b.lines ≠ 0)) || (b.dq ≠ 0 && !b.isRing) ||
    (b.on && x.bays.any (fun e => e.1 ≠ n && b.clashes e.2))

/-- Lines and ring bays of an entry. -/
def Bay.holds (b : Bay) : Nat × Nat := (if b.on then b.lines else 0, if b.isRing then 1 else 0)

/-- Would a write of entry n acquire lines or a queue beyond the quota, or behind an earlier write that waits for the same kind
(R172, R437)? The answer for lines and for queues. -/
def bayShort (x : Ctx) (a : Admin) (n : Nat) (v : BitVec 30) (stuck : Bool × Bool) : Bool × Bool :=
  let old := (x.bay n).holds
  let new := (bayOf v).holds
  (new.1 > old.1 && (stuck.1 || x.bayLines - old.1 + new.1 > a.effBay),
   new.2 > old.2 && (stuck.2 || x.ringBays - old.2 + new.2 > a.effQueues))

/-- Judge pending bay writes in their order: refused, applied, or still waiting for the quota (R171, R172). -/
def settleBays (a : Admin) (x : Ctx) (stuck : Bool × Bool) : List (Nat × BitVec 30) → Ctx × List (Nat × BitVec 30)
  | [] => (x, [])
  | (n, v) :: t =>
    let b := x.bay n
    if x.bayRefused n v then settleBays a { x with bays := x.bays.set n { b with refused := true, pending := false } } stuck t
    else
      let new := (bayOf v).holds
      let old := b.holds
      let short := bayShort x a n v stuck
      if short.1 || short.2 then
        let (x', r) := settleBays a x (stuck.1 || new.1 > old.1, stuck.2 || new.2 > old.2) t
        (x', (n, v) :: r)
      else settleBays a { x with bays := x.bays.set n { b with cfg := v, pending := false } } stuck t

/-- BAY_WRITE (R170): pending, in the place of a pending write of the same entry. -/
def State.bayWrite (s : State) (c : Fin 4) (n : Nat) (v : BitVec 30) : State :=
  if s.pageOpen c then
    let x := s.ctxOf c
    s.setCtx c { x with bays := x.bays.set n { x.bay n with pending := true }
                        bayWrites := x.bayWrites.filter (fun w => w.1 ≠ n) ++ [(n, v)] }
  else s

/-! ## Coupling mode (R330) -/

/-- A pending coupling write takes effect with no macro in flight. -/
def Ctx.settleCpl (x : Ctx) : Ctx :=
  match x.cplPending with
  | some m => if x.quiet then { x with cplMode := m, cplPending := none } else x
  | none => x

/-- CPL_WRITE. -/
def State.cplWrite (s : State) (c : Fin 4) (mode : Bool) : State :=
  if s.pageOpen c then s.setCtx c { s.ctxOf c with cplPending := some mode }.settleCpl else s

/-! ## Viaduct channel registers (R387 to R389) -/

/-- VIA_CFG of a channel, but for REFUSED and PENDING. -/
def ViaRegs.cfgWord (r : ViaRegs) : BitVec 64 :=
  packBits [(0, 1, b2n r.en), (1, 3, r.kind.toNat), (4, 1, b2n r.order), (5, 1, b2n r.primary), (6, 9, r.nslices.toNat),
    (15, 8, r.sliceIdx.toNat), (32, 16, r.treeTag.toNat)]

/-- The words of the channel's registers, by offset / 8: CFG, SLICE, COVER, PARENT, BUDGET, and 8 + j for CHILDj. -/
def ViaRegs.word (r : ViaRegs) (k : Nat) : BitVec 64 :=
  match k with
  | 0 => r.cfgWord
  | 1 => r.slice
  | 2 => r.cover.setWidth 64
  | 3 => r.parent.setWidth 64
  | 4 => r.budget
  | k => if k ≥ 8 then r.child (k - 8) else 0

/-- Bits of a channel register that hold a field; of VIA_CFG also REFUSED and PENDING. -/
def viaFields (k : Nat) : BitVec 64 :=
  match k with
  | 0 => 0xC000FFFF007FFFFF#64
  | 1 => BitVec.allOnes 64
  | 2 => 0x1FFFFFFFFF#64
  | 3 => 0xFFFFF#64
  | 4 => 0x00FFFFFF00FFFFFF#64
  | k => if k ≥ 8 then 0xFFFFFFFF003FFFFF#64 else 0

/-- The registers after a write of register k. -/
def ViaRegs.put (r : ViaRegs) (k : Nat) (v : BitVec 64) : ViaRegs :=
  match k with
  | 0 => { r with en := bit v 0, kind := v.extractLsb' 1 3, order := bit v 4, primary := bit v 5, nslices := v.extractLsb' 6 9
                  sliceIdx := v.extractLsb' 15 8, treeTag := v.extractLsb' 32 16 }
  | 1 => { r with slice := v }
  | 2 => { r with cover := v.extractLsb' 0 37 }
  | 3 => { r with parent := v.extractLsb' 0 20 }
  | 4 => { r with budget := v &&& viaFields 4 }
  | k => if k ≥ 8 then { r with children := r.children.set (k - 8) (v &&& viaFields 8) } else r

def ViaRegs.sliceStart (r : ViaRegs) : Nat := field r.slice 0 32
def ViaRegs.sliceWidth (r : ViaRegs) : Nat := field r.slice 32 32
def ViaRegs.coverStart (r : ViaRegs) : Nat := field r.cover 0 32
def ViaRegs.coverWidth (r : ViaRegs) : Nat := 2 ^ field r.cover 32 5
def ViaRegs.childStart (r : ViaRegs) (j : Nat) : Nat := field (r.child j) 32 32
def ViaRegs.childWidth (r : ViaRegs) (j : Nat) : Nat := 2 ^ field (r.child j) 17 5

def isPow2 (n : Nat) : Bool := n ≠ 0 && 2 ^ n.log2 = n

/-- The ranges of the own slice and of the valid children: start and width. -/
def ViaRegs.parts (r : ViaRegs) : List (Nat × Nat) :=
  (r.sliceStart, r.sliceWidth) :: r.validChildren.map (fun j => (r.childStart j, r.childWidth j))

/-- Are ranges pairwise disjoint? -/
def disjointRanges : List (Nat × Nat) → Bool
  | [] => true
  | p :: t => t.all (fun q => decide (p.1 + p.2 ≤ q.1) || decide (q.1 + q.2 ≤ p.1)) && disjointRanges t

/-- ALIGNED order's conditions on the slice, the cover and the children's covers (R389). -/
def ViaRegs.alignedOk (r : ViaRegs) : Bool :=
  isPow2 r.sliceWidth && r.sliceStart % r.sliceWidth = 0 && r.coverStart % r.coverWidth = 0 &&
    r.parts.all (fun p => p.1 % p.2 = 0 && decide (r.coverStart ≤ p.1) && decide (p.1 + p.2 ≤ r.coverStart + r.coverWidth)) &&
    disjointRanges r.parts

/-- Would these registers be refused, given JOIN_ID (R389)? -/
def ViaRegs.bad (r : ViaRegs) (joinId : BitVec 16) : Bool :=
  r.sliceIdx.toNat ≥ r.nslices.toNat || (r.en && (r.up = 0 || r.roundBudget = 0)) || r.up > r.roundBudget ||
    (!r.order && !r.alignedOk) ||
    (r.validChildren.any (fun i => r.validChildren.any (fun j => i < j && r.childAddr i = r.childAddr j))) ||
    (r.en && r.nslices.toNat > 1 && (joinId = 0 || r.treeTag ≠ joinId))

/-- A channel's registers as its pending writes will leave them. -/
def Ctx.viaView (x : Ctx) (ch : Nat) : ViaRegs :=
  (x.viaWrites.filter (fun w => w.1 = ch)).foldl (fun r w => r.put w.2.1 w.2.2) (x.channel ch).regs

/-- No macro in flight uses the channel (R387). -/
def Ctx.channelIdle (x : Ctx) (mem : Memory) (ch : Nat) : Bool :=
  !(x.access.inflight ++ x.exec.inflight).any (fun m => x.usesChannel mem m ch)

/-- New registers in force; the counts clear when the channel is enabled. -/
def Channel.setRegs (k : Channel) (r : ViaRegs) : Channel :=
  if r.en && !k.regs.en then { k with regs := r, late := 0, resends := 0, crc := 0, stale := 0, dups := 0, busy := 0 }
  else { k with regs := r }

/-- Apply pending channel writes in their order: each once its channel is idle and, where it enables the channel, the quota has
room; a write that waits holds back the later writes of its channel, and the later enablings (R387, R388, R437). -/
def settleVia (a : Admin) (mem : Memory) (x : Ctx) (stuck : List Nat) (full : Bool) : List (Nat × Nat × BitVec 64) → Ctx × List (Nat × Nat × BitVec 64)
  | [] => (x, [])
  | (ch, k, v) :: t =>
    let q := x.channel ch
    let r := q.regs.put k v
    let enables := r.en && !q.regs.en
    let short := enables && (full || decide (x.viaUsed + 1 > a.effVia))
    if stuck.contains ch || !x.channelIdle mem ch || short then
      let (x', l) := settleVia a mem x (ch :: stuck) (full || (enables && !stuck.contains ch)) t
      (x', (ch, k, v) :: l)
    else settleVia a mem (x.setChannel ch (q.setRegs r)) stuck full t

/-- Pass after pass, until one applies nothing: a later disabling lets an earlier enabling go (R388). -/
def settleAllVia (a : Admin) (mem : Memory) : Nat → Ctx → Ctx
  | 0, x => x
  | fuel + 1, x =>
    let (x', left) := settleVia a mem x [] false x.viaWrites
    if left.length = x.viaWrites.length then x else settleAllVia a mem fuel { x' with viaWrites := left }

def State.serveVia (s : State) (c : Fin 4) : State :=
  let x := s.ctxOf c
  s.setCtx c (settleAllVia (s.adminOf c) s.mem x.viaWrites.length x)

/-- SET_CAP: CTX_CAP bits [38:0], each within the range of its kind (16 R430, R431, R439; DEDUCED, log 21); DRAIN is bit 39 and
stays. -/
def capHandler : Handler where
  opcode := 0x0001
  fields := [(8, 1), (16, 8)]
  inRange v :=
    let cap : BitVec 64 := v.extractLsb' 128 64
    v.num 8 1 < 4 && field cap 39 25 = 0 && field cap 0 12 ≤ 0x800 && field cap 12 5 ≤ 0x10 && field cap 17 9 ≤ 0x100 &&
      field cap 26 4 ≤ 8 && field cap 30 9 ≤ 300
  allowed _ _ s := s.ready
  act v _ s :=
    let c := ctxNo (v.num 8 1)
    let cap : BitVec 64 := v.extractLsb' 128 64
    let s := s.setAdmin c { s.adminOf c with capBay := cap.extractLsb' 0 12, capQueues := cap.extractLsb' 12 5
                                             capHist := cap.extractLsb' 17 9, capVia := cap.extractLsb' 26 4
                                             capWatts := cap.extractLsb' 30 9 }
    s.serveHist.writeCaps.serveVia c

/-- VIA_CONFIG_WRITE: registers 0 to 4 and 8 to 15 by offset / 8; the status registers are read only, and the one other offset is
unmapped. A write of VIA_CFG with bit 62 set clears REFUSED first (R10). -/
def State.viaWrite (s : State) (c : Fin 4) (ch k : Nat) (v : BitVec 64) : State :=
  if !s.pageOpen c || (5 ≤ k && k ≤ 7) then s
  else
    let x := s.ctxOf c
    let q := x.channel ch
    let q := if k = 0 && bit v 62 then { q with refused := false } else q
    let x := x.setChannel ch q
    if v &&& ~~~(viaFields k) ≠ 0 || ((x.viaView ch).put k v).bad (s.adminOf c).joinId then
      s.setCtx c (x.setChannel ch { q with refused := true })
    else (s.setCtx c { x with viaWrites := x.viaWrites ++ [(ch, k, v)] }).serveVia c

/-- What the completion of a macro lets go: channel writes and the coupling mode (R330, R387). -/
def State.serveIdle (s : State) (c : Fin 4) : State :=
  let s := s.serveVia c
  s.setCtx c (s.ctxOf c).settleCpl

/-- BAY_WRITE_APPLY (R170, R171): with no macro in flight, bay writes are judged; so are the other writes that wait for an idle
context. -/
def State.bayApply (s : State) (c : Fin 4) : State :=
  let x := s.ctxOf c
  if x.quiet then
    let (x', left) := settleBays (s.adminOf c) x (false, false) x.bayWrites
    (s.setCtx c { x' with bayWrites := left }).serveIdle c
  else s

/-! ## Rings of records (R428) -/

/-- Does a ring of `n` bytes at `base` lie wholly in the window, enabled and writable? -/
def State.ringOk (s : State) (c : Fin 4) (window base n : Nat) : Bool :=
  s.inWindow c window base ((base : Int) + n - 1) true

/-- A write of CTX_DONE_BASE: refused where its ring does not lie in a writable window, whether or not it enables the ring (R428). -/
def State.doneBaseWrite (s : State) (c : Fin 4) (v : BitVec 64) : State :=
  let x := s.ctxOf c
  if !s.ringOk c (field v 1 3) (128 * field v 7 57) (128 * 2 ^ x.doneLog.toNat) then
    s.setCtx c { x with doneRefused := true }
  else s.setCtx c { x with doneEn := bit v 0, doneWindow := v.extractLsb' 1 3, doneBase := v.extractLsb' 7 57 }

/-- A write of CTX_DONE_CTL: LOG2N of 4 to 12 with the ring still in its window; others are refused. REFUSED clears first. -/
def State.doneCtlWrite (s : State) (c : Fin 4) (v : BitVec 64) : State :=
  let x := s.ctxOf c
  let x := if bit v 4 then { x with doneRefused := false } else x
  let n := field v 0 4
  if n < 4 || n > 12 || (x.doneEn && !s.ringOk c x.doneWindow.toNat (128 * x.doneBase.toNat) (128 * 2 ^ n)) then
    s.setCtx c { x with doneRefused := true }
  else s.setCtx c { x with doneLog := BitVec.ofNat 4 n }

/-- A write of CTX_TRACE_BASE. -/
def State.traceBaseWrite (s : State) (c : Fin 4) (v : BitVec 64) : State :=
  let x := s.ctxOf c
  if !s.ringOk c (field v 1 3) (65536 * field v 16 48) 65536 then s.setCtx c { x with traceRefused := true }
  else s.setCtx c { x with traceEn := bit v 0, traceWindow := v.extractLsb' 1 3, traceBase := v.extractLsb' 16 48 }

/-- RING_BASE_WRITE: 0 CTX_DONE_BASE, 1 CTX_DONE_CTL, 2 CTX_TRACE_BASE. -/
def State.ringBaseWrite (s : State) (c : Fin 4) (which : Fin 3) (v : BitVec 64) : State :=
  if !s.pageOpen c then s
  else
    match which with
    | 0 => s.doneBaseWrite c v
    | 1 => s.doneCtlWrite c v
    | 2 => s.traceBaseWrite c v

/-! ## The RNG key, performance counters, the fault ring, arrival flags -/

/-- RNG_KEY_WRITE (R384). -/
def State.rngWrite (s : State) (c : Fin 4) (hi : Bool) (v : BitVec 64) : State :=
  if s.pageOpen c then s.setCtx c (if hi then { s.ctxOf c with rngHi := v } else { s.ctxOf c with rngLo := v }) else s

/-- PERF_SEL_WRITE: the event, a reserved code as OFF, and the counter cleared (15). -/
def State.perfSelWrite (s : State) (span n : Nat) (event : BitVec 6) : State :=
  let x := (s.spanOf span).settlePerf (s.counted span)
  s.setSpan span { x with perfSel := x.perfSel.set n (if event.toNat ≥ 0x18 then 0 else event), perfCnt := x.perfCnt.set n 0 }

/-- PERF_CLEAR_ALL. -/
def State.perfClear (s : State) (span : Nat) : State :=
  s.setSpan span { (s.spanOf span).settlePerf (s.counted span) with perfCnt := [] }

/-- PERF_CTL.FREEZE. -/
def State.perfFreeze (s : State) (span : Nat) (on : Bool) : State :=
  s.setSpan span { (s.spanOf span).settlePerf (s.counted span) with freeze := on }

/-- PERF_CNTn (15). -/
def State.perfRead (s : State) (span n : Nat) : BitVec 48 := (((s.spanOf span).settlePerf (s.counted span)).perfCnt.get n 0#48)

/-- FAULT_RING_RD_WRITE (R483): (new RD − old RD) mod 256 records are read; more than UNREAD stores WR. -/
def FaultRing.setRd (f : FaultRing) (rd : BitVec 8) : FaultRing :=
  let n := (rd - f.rd).toNat
  if n > f.unread.toNat then { f with rd := f.wr, unread := 0 } else { f with rd := rd, unread := f.unread - BitVec.ofNat 9 n }

/-- ARRIVAL_FLAG (R55, R222): discarded and counted, or stored in the arrival table. -/
def State.discardFlag (s : State) (c : Fin 4) (cause : BitVec 2) : State :=
  s.setGlob { s.glob with discardCount := satAdd s.glob.discardCount 1, discardCtx := BitVec.ofNat 2 c.val, discardCause := cause }

/-- An arrival that makes a tile of an LDA, or a group of rig 9, eligible sets its macro's last arrival (R224, R356). -/
def MacroRun.noteArrival (m : MacroRun) (index beat : Nat) (old new : BitVec 16) : MacroRun :=
  let lda : Bool := m.slot = 4 && m.op = 2
  let nine : Bool := m.slot = 3 && m.rig = 9
  let aux := field m.bits (if lda then 22 else 56) 12
  let seq : BitVec 16 := m.bits.extractLsb' (if lda then 46 else 80) 16
  let n := match m.plan with
    | some p => if lda then p.tiles else (p.order.getD 1 (0, 0)).2
    | none => 0
  if (lda || nine) && aux ≤ index && index < aux + n && reached new seq && !reached old seq then { m with lastArrival := beat }
  else m

/-- An arrival flag (R55). DESIGN CHOICE (log 122): every number that is not after the entry in serial order counts as seen, whether or not it was
itself written, and is dropped. -/
def State.arrivalFlag (s : State) (c : Fin 4) (index : BitVec 12) (seq : BitVec 16) (parityOk : Bool) : State :=
  if !parityOk then s.discardFlag c 0
  else if (s.adminOf c).state ≠ .live then s.discardFlag c 2
  else
    let x := s.ctxOf c
    let old := x.arrivals.get index.toNat 0#16
    if !reached seq old || seq = old then s
    else
    let note (t : Stream) : Stream :=
      { t with inflight := t.inflight.map (fun m => m.noteArrival index.toNat s.time.beat old seq) }
    s.setCtx c { x with arrivals := x.arrivals.set index.toNat seq, access := note x.access, exec := note x.exec }

/-! ## Meanings -/

/-- SET_CAP. -/
def execSetCap (s : State) : Host.Outcome State Fault Refusal := .next (s.handle capHandler)
/-- BAY_WRITE. -/
def execBayWrite (c : Fin 4) (bay : Fin 256) (value : BitVec 30) (s : State) : Host.Outcome State Fault Refusal :=
  .next (s.bayWrite c bay.val value)
/-- BAY_WRITE_APPLY. -/
def execBayWriteApply (c : Fin 4) (s : State) : Host.Outcome State Fault Refusal := .next (s.bayApply c)
/-- CPL_WRITE. -/
def execCplWrite (c : Fin 4) (mode : Bool) (s : State) : Host.Outcome State Fault Refusal := .next (s.cplWrite c mode)
/-- VIA_CONFIG_WRITE. -/
def execViaConfigWrite (c : Fin 4) (ch : Fin 8) (register : Fin 16) (value : BitVec 64) (s : State) :
    Host.Outcome State Fault Refusal := .next (s.viaWrite c ch.val register.val value)
/-- RING_BASE_WRITE. -/
def execRingBaseWrite (c : Fin 4) (which : Fin 3) (value : BitVec 64) (s : State) : Host.Outcome State Fault Refusal :=
  .next (s.ringBaseWrite c which value)
/-- RNG_KEY_WRITE. -/
def execRngKeyWrite (c : Fin 4) (hi : Bool) (value : BitVec 64) (s : State) : Host.Outcome State Fault Refusal :=
  .next (s.rngWrite c hi value)
/-- PERF_SEL_WRITE. -/
def execPerfSelWrite (span : Fin 16) (n : Fin 64) (event : BitVec 6) (s : State) : Host.Outcome State Fault Refusal :=
  .next (s.perfSelWrite span.val n.val event)
/-- PERF_CLEAR_ALL. -/
def execPerfClearAll (span : Fin 16) (s : State) : Host.Outcome State Fault Refusal := .next (s.perfClear span.val)
/-- FAULT_RING_RD_WRITE. -/
def execFaultRingRdWrite (rd : BitVec 8) (s : State) : Host.Outcome State Fault Refusal := .next { s with ring := s.ring.setRd rd }
/-- ARRIVAL_FLAG. -/
def execArrivalFlag (c : Fin 4) (index : BitVec 12) (seq : BitVec 16) (parityOk : Bool) (s : State) : Host.Outcome State Fault Refusal :=
  .next (s.arrivalFlag c index seq parityOk)

end Sys2Proof.Machine
end

