-- ==== Sys2Proof/Machine/Num.lean ====
section
/-! DEFINITION. Numbers (03_number_formats.md, 09_special_functions.md): exact values, the formats of R66 and
R67, the one rounding of R75, the range step of R76, and the binary32 operations of R239 to R242. -/

namespace Sys2Proof.Machine

/-- The exact value of an element or of a result before its one rounding (R75).
`fin neg m e sticky` is the magnitude `m * 2^e`, or, with `sticky`, a magnitude strictly between
`m * 2^e` and `(m + 1) * 2^e`. Quotients and function values are held that way, with `m` far
longer than any target's precision, so one rounding from it is the rounding of the exact value. -/
inductive XVal where
  | nan (neg : Bool)
  | inf (neg : Bool)
  | fin (neg : Bool) (m : Nat) (e : Int) (sticky : Bool)
  deriving DecidableEq, Repr, Inhabited

/-- The bits of `m`: 0 for 0, else floor(log2 m) + 1. -/
def bitLen (m : Nat) : Nat := if m = 0 then 0 else Nat.log2 m + 1

/-- `m * 2^k`, rounded down where `k` is negative. -/
def shiftI (m : Nat) (k : Int) : Nat :=
  match k with
  | .ofNat n => m <<< n
  | .negSucc n => m >>> (n + 1)

namespace XVal

def zero (neg : Bool) : XVal := .fin neg 0 0 false

def one : XVal := .fin false 1 0 false

/-- An integer, exactly. -/
def ofInt (i : Int) : XVal := .fin (decide (i < 0)) i.natAbs 0 false

def isNaN : XVal → Bool
  | .nan _ => true
  | _ => false

def isInf : XVal → Bool
  | .inf _ => true
  | _ => false

def isZero : XVal → Bool
  | .fin _ 0 _ false => true
  | _ => false

def sign : XVal → Bool
  | .nan n => n
  | .inf n => n
  | .fin n _ _ _ => n

def setSign (b : Bool) : XVal → XVal
  | .nan _ => .nan b
  | .inf _ => .inf b
  | .fin _ m e s => .fin b m e s

def negate (x : XVal) : XVal := x.setSign (!x.sign)

/-- A magnitude strictly between 1 - 2^-200 and 1: what a saturated TANH, ERF, SIGMOID or EXPM1 holds
before it is rounded (R263). -/
def belowOne (neg : Bool) : XVal := .fin neg (2 ^ 200 - 1) (-200) true

/-- floor(log2 |v|) of a finite non-zero value (R82, R416). -/
def log2 : XVal → Int
  | .fin _ m e _ => (bitLen m : Int) + e - 1
  | _ => 0

/-- Exact product; `none` where it is invalid (0 times infinity), with no NaN operand. -/
def mul (x y : XVal) : Option XVal :=
  match x, y with
  | .nan n, _ => some (.nan n)
  | _, .nan n => some (.nan n)
  | .inf a, .inf b => some (.inf (a != b))
  | .inf a, .fin b m _ s => if m = 0 && !s then none else some (.inf (a != b))
  | .fin a m _ s, .inf b => if m = 0 && !s then none else some (.inf (a != b))
  | .fin a m e s, .fin b m' e' s' => some (.fin (a != b) (m * m') (e + e') (s || s'))

/-- The signed integer of a finite value at the exponent `e0 ≤ e`. -/
def scaled (neg : Bool) (m : Nat) (e e0 : Int) : Int :=
  let v : Int := (m <<< (e - e0).toNat : Nat)
  if neg then -v else v

/-- Exact sum of two values with no sticky part; `none` where it is invalid (opposite infinities).
An exact zero sum of unlike signs is +0, of like signs keeps the sign (R239, round to nearest). -/
def add (x y : XVal) : Option XVal :=
  match x, y with
  | .nan n, _ => some (.nan n)
  | _, .nan n => some (.nan n)
  | .inf a, .inf b => if a = b then some (.inf a) else none
  | .inf a, _ => some (.inf a)
  | _, .inf b => some (.inf b)
  | .fin a m e s, .fin b m' e' s' =>
    if m = 0 && m' = 0 then some (.fin (a && b) 0 0 (s || s'))
    else if m = 0 then some (.fin b m' e' (s || s'))
    else if m' = 0 then some (.fin a m e (s || s'))
    else
      let e0 := min e e'
      let v := scaled a m e e0 + scaled b m' e' e0
      if v = 0 then some (.fin false 0 0 (s || s'))
      else some (.fin (decide (v < 0)) v.natAbs e0 (s || s'))

/-- Exact quotient of finite operands with a non-zero divisor, to at least 100 leading bits and sticky. -/
def divFin (x y : XVal) : XVal :=
  match x, y with
  | .fin a m e _, .fin b m' e' _ =>
    let k := 100 + bitLen m'
    let n := m <<< k
    .fin (a != b) (n / m') (e - e' - k) (decide (n % m' ≠ 0))
  | _, _ => .nan false

/-- Compare two values that are no NaN, +0 above -0 where `zeros` asks for it (R241, R295). -/
def lt (zeros : Bool) (x y : XVal) : Bool :=
  match x, y with
  | .nan _, _ => false
  | _, .nan _ => false
  | .inf a, .inf b => a && !b
  | .inf a, .fin .. => a
  | .fin .., .inf b => !b
  | .fin a m e _, .fin b m' e' _ =>
    if m = 0 && m' = 0 then zeros && a && !b
    else
      let e0 := min e e'
      decide (scaled a m e e0 < scaled b m' e' e0)

/-- Equality of values that are no NaN, with -0 equal to +0. -/
def eqv (x y : XVal) : Bool := !x.isNaN && !y.isNaN && !(lt false x y) && !(lt false y x)

end XVal

/-! ## Formats -/

/-- The format codes of R66. -/
inductive Format where
  | binary32 | bfloat16 | binary16 | e4m3 | e5m2
  | mxE4m3 | mxE5m2 | mxE3m2 | mxE2m3 | mxE2m1 | mxInt8
  | int8 | uint8 | int16 | int32 | int4 | uint4
  | lut4 | lut8 | mask1
  deriving DecidableEq, Repr, Inhabited

namespace Format

/-- The format of a code; any other code is BAD_FORMAT (R66). -/
def ofCode (c : Nat) : Option Format :=
  match c with
  | 0x01 => some .binary32 | 0x02 => some .bfloat16 | 0x03 => some .binary16
  | 0x04 => some .e4m3 | 0x05 => some .e5m2
  | 0x10 => some .mxE4m3 | 0x11 => some .mxE5m2 | 0x12 => some .mxE3m2
  | 0x13 => some .mxE2m3 | 0x14 => some .mxE2m1 | 0x15 => some .mxInt8
  | 0x20 => some .int8 | 0x21 => some .uint8 | 0x22 => some .int16 | 0x23 => some .int32
  | 0x24 => some .int4 | 0x25 => some .uint4
  | 0x30 => some .lut4 | 0x31 => some .lut8 | 0x3F => some .mask1
  | _ => none

/-- Bits of one element (R66). -/
def bits : Format → Nat
  | .binary32 | .int32 => 32
  | .bfloat16 | .binary16 | .int16 => 16
  | .e4m3 | .e5m2 | .mxE4m3 | .mxE5m2 | .mxInt8 | .int8 | .uint8 | .lut8 => 8
  | .mxE3m2 | .mxE2m3 => 6
  | .mxE2m1 | .int4 | .uint4 | .lut4 => 4
  | .mask1 => 1

def isMx : Format → Bool
  | .mxE4m3 | .mxE5m2 | .mxE3m2 | .mxE2m3 | .mxE2m1 | .mxInt8 => true
  | _ => false

def isLut : Format → Bool
  | .lut4 | .lut8 => true
  | _ => false

/-- The integer formats: they enter a chain as INT32 (R238). -/
def isInt : Format → Bool
  | .int8 | .uint8 | .int16 | .int32 | .int4 | .uint4 => true
  | _ => false

/-- Formats narrower than a byte, or MX: STRIDE0 must be 1 (R102). -/
def isSubByte : Format → Bool
  | .int4 | .uint4 | .lut4 | .mask1 => true
  | f => f.isMx

/-- The row granule of R102, in elements. -/
def granule : Format → Nat
  | .int4 | .uint4 | .lut4 => 2
  | .mask1 => 8
  | f => if f.isMx then 32 else 1

/-- Alignment of BASE in bytes (R100). -/
def baseAlign : Format → Nat
  | .binary32 | .int32 => 4
  | .bfloat16 | .binary16 | .int16 => 2
  | _ => 1

end Format

/-- A floating-point encoding of R67. -/
structure FpSpec where
  expBits : Nat
  fracBits : Nat
  bias : Nat
  /-- Largest finite magnitude `maxM * 2^maxE`. -/
  maxM : Nat
  maxE : Int
  hasInf : Bool
  hasNan : Bool
  deriving DecidableEq, Repr

namespace FpSpec

def b32 : FpSpec := ⟨8, 23, 127, 2 ^ 24 - 1, 104, true, true⟩
def bf16 : FpSpec := ⟨8, 7, 127, 255, 120, true, true⟩
def b16 : FpSpec := ⟨5, 10, 15, 2047, 5, true, true⟩
def e4m3 : FpSpec := ⟨4, 3, 7, 14, 5, false, true⟩
def e5m2 : FpSpec := ⟨5, 2, 15, 7, 13, true, true⟩
def e3m2 : FpSpec := ⟨3, 2, 3, 7, 2, false, false⟩
def e2m3 : FpSpec := ⟨2, 3, 1, 15, -1, false, false⟩
def e2m1 : FpSpec := ⟨2, 1, 1, 3, 1, false, false⟩

/-- The exponent of the last place of a subnormal (R67). -/
def minExp (f : FpSpec) : Int := 1 - f.bias - f.fracBits

def signBit (f : FpSpec) (neg : Bool) : Nat := if neg then 2 ^ (f.expBits + f.fracBits) else 0

/-- The canonical NaN of R69, with its sign. -/
def nanCode (f : FpSpec) (neg : Bool) : Nat :=
  f.signBit neg +
    (if f.hasInf then (2 ^ f.expBits - 1) * 2 ^ f.fracBits + 2 ^ (f.fracBits - 1)
     else 2 ^ (f.expBits + f.fracBits) - 1)

def infCode (f : FpSpec) (neg : Bool) : Nat := f.signBit neg + (2 ^ f.expBits - 1) * 2 ^ f.fracBits

/-- The value of a code (R67): exponent field, fraction, infinity and NaN. -/
def decode (f : FpSpec) (code : Nat) : XVal :=
  let neg := decide (code / 2 ^ (f.expBits + f.fracBits) % 2 = 1)
  let ex := code / 2 ^ f.fracBits % 2 ^ f.expBits
  let fr := code % 2 ^ f.fracBits
  if f.hasInf && ex = 2 ^ f.expBits - 1 then
    (if fr = 0 then .inf neg else .nan neg)
  else if !f.hasInf && f.hasNan && ex = 2 ^ f.expBits - 1 && fr = 2 ^ f.fracBits - 1 then .nan neg
  else if ex = 0 then .fin neg fr f.minExp false
  else .fin neg (2 ^ f.fracBits + fr) ((ex : Int) - 1 + f.minExp) false

end FpSpec

/-- Round a magnitude to nearest, ties to even, at the exponent grid `g` (R75): `q` with the result `q * 2^g`. -/
def roundAt (m : Nat) (e : Int) (sticky : Bool) (g : Int) : Nat :=
  if g ≤ e then m <<< (e - g).toNat
  else
    let d := (g - e).toNat
    let q := m >>> d
    let r := m % 2 ^ d
    let half := 2 ^ (d - 1)
    if r > half || (r = half && (sticky || q % 2 = 1)) then q + 1 else q

/-- The rounding of R75 to a floating-point target's precision with an unbounded exponent range above and the
fixed spacing of the subnormal range below: `(q, g)` for `q * 2^g`. -/
def roundFp (f : FpSpec) (m : Nat) (e : Int) (sticky : Bool) : Nat × Int :=
  let g := max (e + bitLen m - (f.fracBits + 1)) f.minExp
  (roundAt m e sticky g, g)

/-- Does `q * 2^g` exceed the largest finite magnitude (R76)? -/
def exceeds (f : FpSpec) (q : Nat) (g : Int) : Bool :=
  let e0 := min g f.maxE
  decide (q <<< (g - e0).toNat > f.maxM <<< (f.maxE - e0).toNat)

/-- The code of a representable magnitude `q * 2^g` with `g` at least the subnormal spacing. -/
def encodeFp (f : FpSpec) (neg : Bool) (q : Nat) (g : Int) : Nat :=
  let l := bitLen q
  if q = 0 then f.signBit neg
  else
    let top := g + l - (f.fracBits + 1)
    if top < f.minExp then f.signBit neg + shiftI q (g - f.minExp)
    else
      let sig := shiftI q (g - top)
      f.signBit neg + ((top - f.minExp).toNat + 1) * 2 ^ f.fracBits + (sig - 2 ^ f.fracBits)

/-- The outcome of a conversion: the code stored, and what R89 and R90 say of it. -/
structure Cvt where
  code : Nat
  /-- a finite value overflowed (R89) -/
  overflow : Bool := false
  /-- the element saturated: counted in the clipped bin and in N_CLIP (R89) -/
  clipped : Bool := false
  /-- an invalid operation (R90) -/
  invalid : Bool := false
  deriving DecidableEq, Repr, Inhabited

def Cvt.plain (code : Nat) : Cvt := { code := code }

/-- Conversion of an exact value to a floating-point target (R75, R76). -/
def cvtFp (f : FpSpec) (clip : Bool) (clipInf : Bool) : XVal → Cvt
  | .nan n => .plain (f.nanCode n)
  | .inf n =>
    if f.hasInf && !clipInf then .plain (f.infCode n)
    else if clip then { code := encodeFp f n f.maxM f.maxE, clipped := true }
    else if f.hasInf then .plain (f.infCode n) else .plain (f.nanCode n)
  | .fin n m e s =>
    let (q, g) := roundFp f m e s
    if exceeds f q g then
      if clip then { code := encodeFp f n f.maxM f.maxE, overflow := true, clipped := true }
      else if f.hasInf then { code := f.infCode n, overflow := true }
      else { code := f.nanCode n, overflow := true }
    else .plain (encodeFp f n q g)

/-- Conversion to an integer target of `w` bits: nearest, ties to even, then saturate (R77, R76); NaN gives 0 and
is invalid (R90). -/
def cvtInt (w : Nat) (signed : Bool) : XVal → Cvt
  | .nan _ => { code := 0, invalid := true }
  | .inf n =>
    { code := if signed then (if n then 2 ^ (w - 1) else 2 ^ (w - 1) - 1) else (if n then 0 else 2 ^ w - 1)
      clipped := true }
  | .fin n m e s =>
    let q := roundAt m e s 0
    let hi := if signed then 2 ^ (w - 1) - 1 else 2 ^ w - 1
    let lo := if signed then 2 ^ (w - 1) else 0
    if n then
      if q > lo then { code := if signed then 2 ^ (w - 1) else 0, overflow := true, clipped := true }
      else .plain ((2 ^ w - q) % 2 ^ w)
    else if q > hi then { code := hi, overflow := true, clipped := true }
    else .plain q

/-- A MASK1 target: 1 for anything but ±0, NaN included (R78). -/
def cvtMask (x : XVal) : Cvt := .plain (if x.isZero then 0 else 1)

/-- Conversion of one exact value into a target that is no MX and no LUT format (R75 to R78). -/
def convert (t : Format) (clip : Bool) (x : XVal) : Cvt :=
  match t with
  | .binary32 => cvtFp .b32 clip false x
  | .bfloat16 => cvtFp .bf16 clip false x
  | .binary16 => cvtFp .b16 clip false x
  | .e4m3 => cvtFp .e4m3 clip true x
  | .e5m2 => cvtFp .e5m2 clip false x
  | .int8 => cvtInt 8 true x
  | .uint8 => cvtInt 8 false x
  | .int16 => cvtInt 16 true x
  | .int32 => cvtInt 32 true x
  | .int4 => cvtInt 4 true x
  | .uint4 => cvtInt 4 false x
  | .mask1 => cvtMask x
  | _ => .plain 0

/-- The fused output conversion's exact value `x * s + b` (R80, R81) and whether the operation is invalid.
The first NaN of x, s, b decides; with no bias nothing is added. -/
def fuse (x s : XVal) (b : Option XVal) : XVal × Bool :=
  if x.isNaN then (x, false)
  else if s.isNaN then (s, false)
  else
    match b with
    | some (.nan n) => (.nan n, false)
    | _ =>
      match XVal.mul x s with
      | none => (.nan false, true)
      | some p =>
        match b with
        | none => (p, false)
        | some b =>
          match XVal.add p b with
          | none => (.nan false, true)
          | some v => (v, false)

/-- `fuse` with a residual r between the product and the bias: acc × s + r + b, exactly (R339). DESIGN CHOICE (log 84): the sign
of a NaN is that of the first NaN in the order x, s, r, b; R70 gives the order x, s, b and no place for r. -/
def fuse3 (x s : XVal) (r b : Option XVal) : XVal × Bool :=
  let nan? := [some x, some s, r, b].filterMap (fun v => v.filter XVal.isNaN)
  match nan? with
  | n :: _ => (n, false)
  | [] =>
    let plus (a : Option XVal) (v : Option XVal) : Option XVal :=
      match a, v with
      | none, _ => none
      | some a, none => some a
      | some a, some v => XVal.add a v
    match plus (plus (XVal.mul x s) r) b with
    | none => (.nan false, true)
    | some v => (v, false)

/-- The exact value of an element code, for formats whose value needs no companion (R67, R74). An MX element
gives its element value (R72): the caller scales it. -/
def decodeCode (f : Format) (code : Nat) : XVal :=
  let sgn (w : Nat) : XVal :=
    if code ≥ 2 ^ (w - 1) then XVal.ofInt ((code : Int) - 2 ^ w) else XVal.ofInt code
  match f with
  | .binary32 => FpSpec.b32.decode code
  | .bfloat16 => FpSpec.bf16.decode code
  | .binary16 => FpSpec.b16.decode code
  | .e4m3 | .mxE4m3 => FpSpec.e4m3.decode code
  | .e5m2 | .mxE5m2 => FpSpec.e5m2.decode code
  | .mxE3m2 => FpSpec.e3m2.decode code
  | .mxE2m3 => FpSpec.e2m3.decode code
  | .mxE2m1 => FpSpec.e2m1.decode code
  | .mxInt8 =>
    if code ≥ 128 then .fin true (256 - code) (-6) false else .fin false code (-6) false
  | .int8 => sgn 8
  | .int16 => sgn 16
  | .int32 => sgn 32
  | .int4 => sgn 4
  | .uint8 | .uint4 => XVal.ofInt code
  | .lut4 | .lut8 => XVal.ofInt code
  | .mask1 => if code = 1 then XVal.one else .zero false

/-! ## binary32 operations -/

/-- A binary32 or INT32 result word with the events of R253 it raises as a non-last stage. -/
structure RWord where
  w : Word
  invalid : Bool := false
  divzero : Bool := false
  overflow : Bool := false
  deriving DecidableEq, Repr, Inhabited

/-- The unrounded result of an F-type operation: the exact value with INVALID and DIVZERO, before its rounding. -/
structure RExact where
  x : XVal
  invalid : Bool := false
  divzero : Bool := false
  deriving DecidableEq, Repr, Inhabited

def val32 (w : Word) : XVal := FpSpec.b32.decode w.toNat

def isNaN32 (w : Word) : Bool := (val32 w).isNaN

def qnan (neg : Bool) : Word := if neg then 0xFFC00000#32 else 0x7FC00000#32

/-- Round an exact value to binary32 (R239): the word, and whether finite operands overflowed. -/
def toWord32 (x : XVal) : Word × Bool :=
  let c := cvtFp .b32 false false x
  (BitVec.ofNat 32 c.code, c.overflow)

def word32 (x : XVal) : Word := (toWord32 x).1

/-- The rounding of a non-last F-type stage: INVALID and DIVZERO of the operation, OVERFLOW where finite operands
round to ±∞ (R253). -/
def RExact.round (r : RExact) : RWord :=
  let (w, ov) := toWord32 r.x
  ⟨w, r.invalid, r.divzero, ov⟩

/-- The first NaN operand in the stated order decides the sign of a NaN result (R70, R240). -/
def firstNaN (ops : List Word) : Option XVal :=
  match ops.find? isNaN32 with
  | some w => some (.nan (val32 w).sign)
  | none => none

def nanOr (ops : List Word) (k : RExact) : RExact :=
  match firstNaN ops with
  | some x => { x := x }
  | none => k

def ofOption (o : Option XVal) : RExact :=
  match o with
  | some x => { x := x }
  | none => { x := .nan false, invalid := true }

def addX (a b : Word) : RExact := nanOr [a, b] (ofOption (XVal.add (val32 a) (val32 b)))

def subX (a b : Word) : RExact := nanOr [a, b] (ofOption (XVal.add (val32 a) (val32 b).negate))

def mulX (a b : Word) : RExact := nanOr [a, b] (ofOption (XVal.mul (val32 a) (val32 b)))

def fmaX (a b c : Word) : RExact :=
  nanOr [a, b, c]
    (match XVal.mul (val32 a) (val32 b) with
     | none => { x := .nan false, invalid := true }
     | some p => ofOption (XVal.add p (val32 c)))

/-- a / b, with INVALID for 0/0 and ∞/∞ and DIVZERO for a finite non-zero a over 0 (R253). -/
def divX (a b : Word) : RExact :=
  nanOr [a, b]
    (let x := val32 a
     let y := val32 b
     let s := x.sign != y.sign
     match x, y with
     | .inf _, .inf _ => { x := .nan false, invalid := true }
     | .inf _, _ => { x := .inf s }
     | _, .inf _ => { x := .zero s }
     | _, _ =>
       if y.isZero then
         (if x.isZero then { x := .nan false, invalid := true } else { x := .inf s, divzero := true })
       else if x.isZero then { x := .zero s }
       else { x := XVal.divFin x y })

def add32 (a b : Word) : Word := (addX a b).round.w
def sub32 (a b : Word) : Word := (subX a b).round.w
def mul32 (a b : Word) : Word := (mulX a b).round.w
def div32 (a b : Word) : Word := (divX a b).round.w
def fma32 (a b c : Word) : Word := (fmaX a b c).round.w

/-- Inverts the sign bit of any word, NaN included (R183). -/
def neg32 (a : Word) : Word := a ^^^ 0x80000000#32

/-- Clears the sign bit of any word, NaN included (R183). -/
def abs32 (a : Word) : Word := a &&& 0x7FFFFFFF#32

/-- MAX (`big`) or MIN of two words, -0 below +0; a NaN propagates as the canonical NaN of the first NaN operand,
or, with `nansel`, is passed over (R240, R241). -/
def extreme (big nansel : Bool) (a b : Word) : Word :=
  if isNaN32 a && isNaN32 b then qnan (val32 a).sign
  else if nansel && isNaN32 a then b
  else if nansel && isNaN32 b then a
  else if isNaN32 a then qnan (val32 a).sign
  else if isNaN32 b then qnan (val32 b).sign
  else if big then (if XVal.lt true (val32 a) (val32 b) then b else a)
  else (if XVal.lt true (val32 b) (val32 a) then b else a)

/-- The comparison conditions of CMPM: 0 EQ, 1 NE, 2 LT, 3 LE, 4 GT, 5 GE; a NaN operand holds only for NE (R182, R242). -/
def holds32 (fn : Nat) (a b : Word) : Bool :=
  let x := val32 a
  let y := val32 b
  if x.isNaN || y.isNaN then decide (fn = 1)
  else match fn with
    | 0 => XVal.eqv x y
    | 1 => !XVal.eqv x y
    | 2 => XVal.lt false x y
    | 3 => !XVal.lt false y x
    | 4 => XVal.lt false y x
    | _ => !XVal.lt false x y

/-- F2I under R77 and R76: saturates with OVERFLOW, NaN gives 0 with INVALID (R242, R253). -/
def f2i (a : Word) : RWord :=
  let c := cvtInt 32 true (val32 a)
  { w := BitVec.ofNat 32 c.code, invalid := c.invalid, overflow := c.clipped }

/-- I2F rounds under R75 (R242). -/
def i2f (a : Word) : Word := word32 (XVal.ofInt a.toInt)

/-- A natural number rounded once to binary32 (to_binary32 of R244 and R280). -/
def natTo32 (n : Nat) : Word := word32 (XVal.ofInt n)

/-- The mask floor -2^100 (R300, 03). -/
def maskFloor : Word := 0xF1800000#32

def negInf32 : Word := 0xFF800000#32
def posInf32 : Word := 0x7F800000#32
def one32 : Word := 0x3F800000#32

end Sys2Proof.Machine
end

