-- ==== Sys2Proof/Machine/Sfu.lean ====
section
/-! DEFINITION. Special functions (09_special_functions.md): the fourteen functions of the SFU as exact values that are
then rounded once (R257, R258), with the special values and events of R261. -/

namespace Sys2Proof.Machine

/-- floor(π × 2^1100). -/
def piFix : Nat := 0x3243f6a8885a308d313198a2e03707344a4093822299f31d0082efa98ec4e6c89452821e638d01377be5466cf34e90c6cc0ac29b7c97c50dd3f84d5b5b54709179216d5d98979fb1bd1310ba698dfb5ac2ffd72dbd01adfb7b8e1afed6a267e96ba7c9045f12c7f9924a19947b3916cf70801f2e2858efc16636920d871574e69a458fea3f4933d7e0d9

/-- floor(ln 2 × 2^640). -/
def ln2Fix : Nat := 0xb17217f7d1cf79abc9e3b39803f2f6af40f343267298b62d8a0d175b8baafa2be7b876206debac98559552fb4afa1b10ed2eae35c138214427573b291169b8253e96ca16224ae8c51acbda11317c387e

/-- Fraction bits of the fixed-point evaluation. DEDUCED (log 9): the spec asks for the correctly rounded value (R257);
640 fraction bits, of which 100 are dropped as guard, exceed the bits that R262 says correct rounding needs. -/
def fixP : Nat := 640
def fixGuard : Nat := 100
def fixOne : Int := 2 ^ 640

/-- A fixed-point magnitude as an exact value known to lie just above its kept bits (R260: no value but the exact points
is a tie). `k` is a further power of two. -/
def ofFix (v : Int) (k : Int) : XVal :=
  .fin (decide (v < 0)) (v.natAbs >>> fixGuard) (k - (fixP - fixGuard : Nat)) true

/-- A finite value in fixed point with `p` fraction bits. -/
def toFix (p : Nat) (neg : Bool) (m : Nat) (e : Int) : Int :=
  let v : Int := (shiftI m (e + p) : Nat)
  if neg then -v else v

def fmul (a b : Int) : Int := (a * b) / fixOne
def fdiv (a b : Int) : Int := (a * fixOne) / b

/-- The sum 1 + r/k (1 + r/(k+1) (1 + …)), `n` terms: the exponential series of r, in fixed point. -/
def expSeries (r : Int) : Nat → Nat → Int
  | 0, _ => fixOne
  | n + 1, k => fixOne + (fmul r (expSeries r n (k + 1))) / (k : Int)

/-- e^x for a fixed-point x: `(s, k)` with e^x = s × 2^k and s in [1, 2) in fixed point. -/
def expFix (x : Int) : Int × Int :=
  let k := x / (ln2Fix : Int)
  (expSeries (x - k * (ln2Fix : Int)) 140 1, k)

/-- s × 2^k in fixed point. -/
def unshift (s k : Int) : Int :=
  match k with
  | .ofNat n => s * 2 ^ n
  | .negSucc n => s / 2 ^ (n + 1)

/-- Σ t^(2j+1)/(2j+1), `n` terms from the term `p = t^(2j+1)`: atanh t. -/
def atanhSeries (t2 : Int) : Nat → Nat → Int → Int
  | 0, _, _ => 0
  | n + 1, j, p => p / (2 * j + 1 : Int) + atanhSeries t2 n (j + 1) (fmul p t2)

/-- ln of the positive magnitude m × 2^e, in fixed point. -/
def lnFix (m : Nat) (e : Int) : Int :=
  let l := bitLen m
  -- f = m / 2^l in [1/2, 1); doubled where it is below 0.7
  let f0 := toFix fixP false m (-(l : Int))
  let low := decide (10 * f0 < 7 * fixOne)
  let f := if low then 2 * f0 else f0
  let n := e + l - (if low then 1 else 0)
  let t := fdiv (f - fixOne) (f + fixOne)
  2 * atanhSeries (fmul t t) 140 0 t + n * (ln2Fix : Int)

/-- floor(sqrt n) by its bits from bit `k` down. -/
def isqrtBits (n : Nat) : Nat → Nat → Nat
  | 0, r => r
  | k + 1, r =>
    let r' := r + 2 ^ k
    isqrtBits n k (if r' * r' ≤ n then r' else r)

def isqrt (n : Nat) : Nat := isqrtBits n (bitLen n / 2 + 1) 0

/-- √(m × 2^e) exactly or with a sticky part (R260: a dyadic root always fits). -/
def sqrtX (m : Nat) (e : Int) : XVal :=
  let odd := e % 2
  let n := (m <<< (200 + odd.toNat))
  let r := isqrt n
  .fin false r ((e - odd - 200) / 2) (decide (r * r ≠ n))

/-- 1/√(m × 2^e). -/
def rsqrtX (m : Nat) (e : Int) : XVal :=
  let odd := e % 2
  let d := m <<< odd.toNat
  let k := 2 * (bitLen d + 120)
  let q := 2 ^ k / d
  let r := isqrt q
  .fin false r ((-(e - odd) - k) / 2) (decide (r * r ≠ q || 2 ^ k % d ≠ 0))

/-- Σ (-1)^j r^(2j)/(…): the sine or cosine series from the term `p` with the next divisor factors `j+1`, `j+2`. -/
def trigSeries (r2 : Int) : Nat → Nat → Int → Int
  | 0, _, _ => 0
  | n + 1, j, p => p + trigSeries r2 n (j + 2) (-(fmul p r2) / ((j + 1) * (j + 2) : Int))

/-- The exact reduction of R262: the quadrant k mod 4 of the magnitude m × 2^e and the remainder r in fixed point. -/
def trigReduce (neg : Bool) (m : Nat) (e : Int) : Nat × Int :=
  let x := toFix 1100 neg m e
  let half : Int := (piFix / 2 : Nat)
  let k := (x + half / 2) / half
  ((k % 4).toNat, (x - k * half) / 2 ^ (1100 - 640))

/-- sin (shift 0) or cos (shift 1) of the exact magnitude (R262). -/
def trigX (shift : Nat) (neg : Bool) (m : Nat) (e : Int) : XVal :=
  let (q, r) := trigReduce neg m e
  let r2 := fmul r r
  let v :=
    match (q + shift) % 4 with
    | 0 => trigSeries r2 64 1 r
    | 1 => trigSeries r2 64 0 fixOne
    | 2 => -(trigSeries r2 64 1 r)
    | _ => -(trigSeries r2 64 0 fixOne)
  ofFix v 0

/-- Σ (-1)^n x^(2n+1)/(n! (2n+1)) from the term `p = x^(2n+1)/n!` with its sign. -/
def erfSeries (x2 : Int) : Nat → Nat → Int → Int
  | 0, _, _ => 0
  | f + 1, n, p => p / (2 * n + 1 : Int) + erfSeries x2 f (n + 1) (-(fmul p x2) / (n + 1 : Int))

def erfX (neg : Bool) (m : Nat) (e : Int) : XVal :=
  let x := toFix fixP false m e
  if x ≥ 6 * fixOne then .belowOne neg
  else
    let s := erfSeries (fmul x x) 420 0 x
    let rpi : Int := (isqrt (piFix <<< 180) : Nat)          -- √π × 2^640
    (ofFix (fdiv (2 * s) rpi) 0).setSign neg

/-- A positive value below everything a target can hold, and one above. -/
def tinyX (neg : Bool) : XVal := .fin neg 1 (-4000) true
def hugeX (neg : Bool) : XVal := .fin neg 1 4000 true

/-- e^x for finite x ≠ 0. -/
def expXV (neg : Bool) (m : Nat) (e : Int) : XVal :=
  if (bitLen m : Int) + e > 10 then (if neg then tinyX false else hugeX false)
  else
    let (s, k) := expFix (toFix fixP neg m e)
    ofFix s k

def exp2XV (neg : Bool) (m : Nat) (e : Int) : XVal :=
  if (bitLen m : Int) + e > 10 then (if neg then tinyX false else hugeX false)
  else
    let x := toFix fixP neg m e
    let k := x / fixOne
    let f := x - k * fixOne
    if f = 0 then .fin false 1 k false
    else
      let (s, k') := expFix (fmul f (ln2Fix : Int))
      ofFix s (k + k')

def expm1XV (neg : Bool) (m : Nat) (e : Int) : XVal :=
  if (bitLen m : Int) + e > 10 then (if neg then .belowOne true else hugeX false)
  else
    let (s, k) := expFix (toFix fixP neg m e)
    if k > 300 then ofFix s k
    else if k < -300 then .belowOne true
    else ofFix (unshift s k - fixOne) 0

def tanhXV (neg : Bool) (m : Nat) (e : Int) : XVal :=
  if (bitLen m : Int) + e > 7 then .belowOne neg
  else
    let (s, k) := expFix (toFix fixP false m (e + 1))
    let v := unshift s k
    (ofFix (fdiv (v - fixOne) (v + fixOne)) 0).setSign neg

def sigmoidXV (neg : Bool) (m : Nat) (e : Int) : XVal :=
  if (bitLen m : Int) + e > 9 then (if neg then tinyX false else .belowOne false)
  else
    let (s, k) := expFix (toFix fixP true m e)             -- e^-|x|
    let v := unshift s k
    if neg then ofFix (fdiv s (fixOne + v)) k
    else if v >>> 220 = 0 then .belowOne false
    else ofFix (fdiv fixOne (fixOne + v)) 0

/-- The function numbers of R256. -/
inductive Fn where
  | exp | exp2 | expm1 | log | log2 | log1p | sqrt | rsqrt | recip | tanh | sigmoid | erf | sin | cos
  deriving DecidableEq, Repr, Inhabited

def Fn.ofCode (c : Nat) : Option Fn :=
  match c with
  | 0 => some .exp | 1 => some .exp2 | 2 => some .expm1 | 3 => some .log | 4 => some .log2
  | 5 => some .log1p | 6 => some .sqrt | 7 => some .rsqrt | 8 => some .recip | 9 => some .tanh
  | 10 => some .sigmoid | 11 => some .erf | 12 => some .sin | 13 => some .cos
  | _ => none

def invalidX : RExact := { x := .nan false, invalid := true }

/-- A function at ±∞ (R261). -/
def sfnInf (f : Fn) (neg : Bool) : RExact :=
  match f with
  | .exp | .exp2 => { x := if neg then .zero false else .inf false }
  | .expm1 => { x := if neg then .fin true 1 0 false else .inf false }
  | .log | .log2 | .log1p | .sqrt => if neg then invalidX else { x := .inf false }
  | .rsqrt => if neg then invalidX else { x := .zero false }
  | .recip => { x := .zero neg }
  | .tanh | .erf => { x := .fin neg 1 0 false }
  | .sigmoid => { x := if neg then .zero false else .one }
  | .sin | .cos => invalidX

/-- A function at ±0 (R260, R261). -/
def sfnZero (f : Fn) (neg : Bool) : RExact :=
  match f with
  | .exp | .exp2 | .cos => { x := .one }
  | .expm1 | .log1p | .sqrt | .tanh | .erf | .sin => { x := .zero neg }
  | .log | .log2 => { x := .inf true, divzero := true }
  | .rsqrt => { x := .inf false, divzero := true }
  | .recip => { x := .inf neg, divzero := true }
  | .sigmoid => { x := .fin false 1 (-1) false }

/-- 1 + x for a finite x, as sign and magnitude at the exponent min(e, 0). -/
def onePlus (neg : Bool) (m : Nat) (e : Int) : Int × Int :=
  let e0 := min e 0
  (XVal.scaled neg m e e0 + XVal.scaled false 1 0 e0, e0)

/-- A function at a finite non-zero x (R257, R260, R261). -/
def sfnFin (f : Fn) (neg : Bool) (m : Nat) (e : Int) : RExact :=
  match f with
  | .exp => { x := expXV neg m e }
  | .exp2 => { x := exp2XV neg m e }
  | .expm1 => { x := expm1XV neg m e }
  | .log =>
    if neg then invalidX
    else if XVal.eqv (.fin false m e false) .one then { x := .zero false }
    else { x := ofFix (lnFix m e) 0 }
  | .log2 =>
    if neg then invalidX
    else if m = 2 ^ (bitLen m - 1) then { x := XVal.ofInt (e + bitLen m - 1) }
    else { x := ofFix (fdiv (lnFix m e) (ln2Fix : Int)) 0 }
  | .log1p =>
    let (v, e0) := onePlus neg m e
    if v < 0 then invalidX
    else if v = 0 then { x := .inf true, divzero := true }
    else { x := ofFix (lnFix v.natAbs e0) 0 }
  | .sqrt => if neg then invalidX else { x := sqrtX m e }
  | .rsqrt => if neg then invalidX else { x := rsqrtX m e }
  | .recip => { x := XVal.divFin .one (.fin neg m e false) }
  | .tanh => { x := tanhXV neg m e }
  | .sigmoid => { x := sigmoidXV neg m e }
  | .erf => { x := erfX neg m e }
  | .sin => { x := trigX 0 neg m e }
  | .cos => { x := trigX 1 neg m e }

/-- The exact value of a function at an exact argument (R257 to R262). A NaN gives the canonical NaN with its sign and
raises nothing. -/
def sfnAt (f : Fn) (x : XVal) : RExact :=
  match x with
  | .nan n => { x := .nan n }
  | .inf n => sfnInf f n
  | .fin n m e _ => if m = 0 then sfnZero f n else sfnFin f n m e

/-- A function of a binary32 word, before its one rounding (R258). -/
def sfnX (f : Fn) (a : Word) : RExact := sfnAt f (val32 a)

/-- The evaluator of R259. -/
def sfn32 (f : Fn) (a : Word) : Word := (sfnX f a).round.w

def exp32 (a : Word) : Word := sfn32 .exp a
def log32 (a : Word) : Word := sfn32 .log a

end Sys2Proof.Machine
end

