-- ==== Sys2Proof/Machine/Tensor.lean ====
section
/-! DEFINITION. Tensors (04_tensor_descriptors.md, 03_number_formats.md): the fields of a descriptor, the checks of R116, the
addresses and values of elements, MX block conversion, and the staging of a tile's converted outputs. -/

namespace Sys2Proof.Machine

/-- A failed check: its reason code and the DETAIL of its record. -/
structure Fail where
  code : Nat
  detail : Nat
  deriving DecidableEq, Repr

/-- DETAIL of the classes 0x01, 0x02 and 0x03 (R481). -/
def detail1 (handle off stage depth : Nat) : Nat := pack [(0, 2, handle), (2, 2, off), (4, 1, stage), (5, 1, depth)]
def detail2 (handle off value : Nat) : Nat := pack [(0, 2, handle), (2, 2, off), (8, 8, value)]
def detail3 (have_ need level : Nat) : Nat := pack [(0, 4, have_), (4, 4, need), (8, 1, level)]

/-- A signed value in 64 bits. -/
def signed64 (v : Int) : Nat := (BitVec.ofInt 64 v).toNat

/-- The first check that fails. -/
def firstFail (l : List (Option Fail)) : Option Fail := l.findSome? id

/-- A failure where `b` holds. -/
def failIf (b : Bool) (f : Fail) : Option Fail := if b then some f else none

/-- The fields of a descriptor (R98 table). -/
structure Flat where
  handle : Nat
  base : Nat
  fmt : Format
  rank : Nat
  paged : Bool
  clip : Bool
  readonly : Bool
  static : BitVec 8
  /-- rows of a page (PAGE_ROWS) -/
  rows : Nat
  /-- POOL_PAGES, in the STRIDE2 field of a PAGED descriptor (R107) -/
  pool : Nat
  window : Nat
  sizes : List Nat
  strides : List Int
  scaleH : Nat
  pageH : Nat
  maskH : Nat
  /-- the slot of a binding in force (R113) -/
  hist : Option Nat
  deriving DecidableEq, Repr

/-- Element k of a list of sizes or indices. -/
def at6 (l : List Nat) (k : Nat) : Nat := l.getD k 0

def sizeOff (k : Nat) : Nat := 20 + 4 * k
def strideOff (k : Nat) : Nat := 44 + 8 * k

/-- Read a descriptor. -/
def Flat.parse (h : Nat) (d : BitVec 1024) : Flat :=
  { handle := h, base := field d 0 64, fmt := (Format.ofCode (field d 64 16)).getD .uint8, rank := field d 80 8
    paged := decide (field d 88 8 = 1), clip := bit d 96, readonly := bit d 97, static := BitVec.ofNat 8 (field d 104 8)
    rows := 16 * 2 ^ field d 112 3, pool := field d (8 * strideOff 2) 64, window := field d 128 3
    sizes := (List.range 6).map (fun k => field d (8 * sizeOff k) 32)
    strides := (List.range 6).map (fun k => sfield d (8 * strideOff k) 64)
    scaleH := field d 736 12, pageH := field d 752 12, maskH := field d 784 12
    hist := if bit d 783 then some (field d 768 8) else none }

namespace Flat

def size (d : Flat) (k : Nat) : Nat := at6 d.sizes k
def stride (d : Flat) (k : Nat) : Int := d.strides.getD k 0
def isEmpty (d : Flat) : Bool := (d.sizes.take d.rank).any (fun n => n = 0)

/-- A size of 1 broadcasts (R236). -/
def bcast (d : Flat) (idx : List Nat) : List Nat := (d.sizes.zip idx).map (fun p => if p.1 = 1 then 0 else p.2)

/-- Linear index of R8. -/
def linear (d : Flat) (idx : List Nat) : Nat := (d.sizes.zip idx).foldr (fun p acc => p.2 + p.1 * acc) 0

/-- The addressed axes: dimension, stride and count; the pool's rows stand for D1 and D2 of a PAGED tensor (R107). -/
def axes (d : Flat) : List (Nat × Int × Nat) :=
  if d.paged then
    [(0, d.stride 0, d.size 0), (1, d.stride 1, d.pool * d.rows)] ++ [3, 4, 5].map (fun k => (k, d.stride k, d.size k))
  else (List.range 6).map (fun k => (k, d.stride k, d.size k))

/-- Lowest and highest addressed byte; none for an empty tensor (R101, R103, R107). -/
def extent (d : Flat) : Option (Int × Int) :=
  if d.isEmpty then none
  else
    let reach := d.axes.map (fun a => a.2.1 * ((a.2.2 : Int) - 1))
    let lo := (reach.filter (· < 0)).foldl (· + ·) 0
    let hi := (reach.filter (· > 0)).foldl (· + ·) 0
    let w : Int := d.fmt.bits
    some ((d.base * 8 + lo * w) / 8, (d.base * 8 + hi * w + w - 1) / 8)

end Flat

/-! ## The checks of R116 -/

/-- Check 2: the first field with a reserved bit or code (R99). -/
def reservedField (d : BitVec 1024) : Option Nat :=
  let flags : Bool := field d 98 6 ≠ 0 || field d 115 13 ≠ 0 || field d 104 8 = 0x80 || field d 112 3 > 4 ||
    (field d 88 8 = 0 && field d 112 3 ≠ 0)
  ([(decide (field d 88 8 > 1), 11), (flags, 12), (decide (field d 131 29 ≠ 0), 16), (decide (field d 748 4 ≠ 0), 92),
    (decide (field d 764 4 ≠ 0), 94), (decide (field d 776 7 ≠ 0), 96), (decide (field d 796 4 ≠ 0), 98),
    (decide (field d 800 224 ≠ 0), 100)].find? Prod.fst).map Prod.snd

/-- Insert before the first element that does not come before `a`. -/
def insertBy {α : Type} (before : α → α → Bool) (a : α) : List α → List α
  | [] => [a]
  | b :: t => if before a b then a :: b :: t else b :: insertBy before a t

/-- A stable sort: equal elements keep their order when `before` is strict. -/
def sortBy {α : Type} (before : α → α → Bool) (l : List α) : List α := l.foldl (fun acc a => insertBy before a acc) []

/-- Check 8: the first dimension that aliases, by rising |stride|, ties by dimension number (R104). -/
def aliasing (dims : List (Nat × Int × Nat)) : Option Nat :=
  let big := dims.filter (fun a => a.2.2 > 1)
  let ordered := sortBy (fun a b => a.2.1.natAbs < b.2.1.natAbs) big
  (ordered.foldl (fun (acc : Nat × Option Nat) a =>
    (acc.1 + a.2.1.natAbs * (a.2.2 - 1), acc.2.or (if a.2.1.natAbs < 1 + acc.1 then some a.1 else none))) (0, none)).2

/-- Checks 2 to 9 of R116. DESIGN CHOICE (log 83): where several conditions of one check fail, the record names the lowest dimension, its size
before its stride; the table names no field among them. -/
def Flat.check (d : Flat) (raw : BitVec 1024) (dst : Bool) : Option Fail :=
  let r (code off : Nat) : Fail := ⟨code, detail2 d.handle off 0⟩
  let g := d.fmt.granule
  let sub := d.fmt.isSubByte
  firstFail
    ([(reservedField raw).map (r 0x0206),
      failIf ((Format.ofCode (field raw 64 16)).isNone || (dst && d.fmt.isLut)) (r 0x0202 8),
      failIf (d.rank < 1 || d.rank > 6) (r 0x0201 10)] ++
     (List.range 6).flatMap (fun k =>
       if k ≥ d.rank then
         [failIf (d.size k ≠ 1) (r 0x0201 (sizeOff k)), failIf (field raw (8 * strideOff k) 64 ≠ 0) (r 0x0201 (strideOff k))]
       else [failIf (d.size k > 0x80000000) (r 0x0201 (sizeOff k))]) ++
     [failIf (d.base % d.fmt.baseAlign ≠ 0) (r 0x0201 0),
      failIf (sub && d.stride 0 ≠ 1) (r 0x0201 (strideOff 0))] ++
     ((List.range d.rank).drop 1).map (fun k =>
       failIf (sub && !(d.paged && k = 2) && d.size k > 1 && d.stride k % g ≠ 0) (r 0x0201 (strideOff k))) ++
     [failIf (d.paged && d.rank < 3) (r 0x0201 10),
      failIf (d.paged && (d.pool < 1 || d.pool > 2 ^ 32)) (r 0x0201 (strideOff 2)),
      failIf (dst && d.readonly) (r 0x0208 12),
      if dst && !d.isEmpty then (aliasing d.axes).map (fun k => r 0x0201 (strideOff k)) else none,
      match d.extent with
      | some (lo, hi) => failIf (lo < 0 || hi ≥ 2 ^ 64) (r 0x0201 0)
      | none => none])

/-- The bytes from lo to hi lie in a window (R106); the record names the first byte outside it. -/
def State.extentFail (s : State) (c : Fin 4) (window : Nat) (lo hi : Int) (dst : Bool) : Option Fail :=
  if s.inWindow c window lo hi dst then none
  else
    let a := s.windowsOf c
    let at_ := if a.opens window dst && a.first window ≤ lo && lo ≤ a.last window then a.last window + 1 else lo
    some ⟨0x0901, pack [(0, 1, window), (1, 1, b2n dst), (8, 8, at_.toNat)]⟩

/-- Check 10: the extent lies in its window (R106). -/
def State.domainFail (s : State) (c : Fin 4) (d : Flat) (dst : Bool) : Option Fail :=
  match d.extent with
  | none => none
  | some (lo, hi) => s.extentFail c d.window lo hi dst

/-- A tensor as a macro reads or writes it: its descriptor, its companions, and the ring tile it is bound to (R110, R163). -/
structure Tensor where
  d : Flat
  mask : Option Flat := none
  scale : Option Flat := none
  pages : Option Flat := none
  ring : Option RingTile := none
  /-- the other ring tiles that its macro consumes by the same operand -/
  others : List RingTile := []
  deriving DecidableEq, Repr

/-- A descriptor of a snapshot. -/
def flatOf (descs : Table (BitVec 1024)) (h : Nat) : Flat := Flat.parse h (descs.get h 0)

def companion (descs : Table (BitVec 1024)) (h : Nat) : Option Flat := if h = 0 then none else some (flatOf descs h)

/-- A tensor of a snapshot. -/
def tensorOf (descs : Table (BitVec 1024)) (h : Nat) : Tensor :=
  let d := flatOf descs h
  { d := d, mask := companion descs d.maskH, scale := companion descs d.scaleH
    pages := if d.paged then companion descs d.pageH else none }

/-- A tensor, or none for handle 0. -/
def tensor? (descs : Table (BitVec 1024)) (h : Nat) : Option Tensor := if h = 0 then none else some (tensorOf descs h)

/-- Checks 2 to 10 of a companion, then that its own handles are zero and BIND is clear (R110); PAGED, it would need a page table (R111). -/
def State.companionFail (s : State) (c : Fin 4) (descs : Table (BitVec 1024)) (h : Nat) (dst : Bool) : Option Fail :=
  let raw := descs.get h 0
  let d := Flat.parse h raw
  let r (off : Nat) : Fail := ⟨0x0204, detail2 h off 0⟩
  firstFail [d.check raw dst, s.domainFail c d dst, failIf (d.scaleH ≠ 0) (r 92), failIf (d.pageH ≠ 0 || d.paged) (r 94),
    failIf (d.maskH ≠ 0) (r 98), failIf d.hist.isSome (r 96)]

/-- Check 11: what the descriptor itself asks of its companion fields, then its companions, in the order of the fields (R108, R110, R111,
R116). `weight`: an integer weight of a dequantising prologue with
groups of that many elements (R84). -/
def State.companionsFail (s : State) (c : Fin 4) (descs : Table (BitVec 1024)) (d : Flat) (dst : Bool) (weight : Option Nat) :
    Option Fail :=
  let r (off : Nat) : Fail := ⟨0x0204, detail2 d.handle off 0⟩
  let tail (x : Flat) : Bool := x.sizes.tail == d.sizes.tail
  let group := if d.fmt.isInt then weight else none
  let scaleNeeded := d.fmt.isMx || d.fmt.isLut || group.isSome
  let sc := flatOf descs d.scaleH
  let scaleOk : Bool :=
    if d.fmt.isMx then sc.fmt = .uint8 && sc.size 0 = (d.size 0 + 31) / 32 && tail sc
    else if d.fmt.isLut then sc.fmt = .binary32 && sc.rank = 1 && sc.size 0 = (if d.fmt = .lut4 then 16 else 256)
    else match group with
      | some g => (sc.fmt = .binary32 || sc.fmt = .bfloat16) && (sc.size 0 = 1 || sc.size 0 = 2) &&
          sc.size 1 = (d.size 0 + g - 1) / g && (sc.sizes.drop 2).take 4 == (d.sizes.drop 1).take 4
      | none => true
  let pg := flatOf descs d.pageH
  let mk := flatOf descs d.maskH
  let held : Bool := match d.hist with
    | some n => decide ((s.histOf n).owner.toNat = c.val)
    | none => true
  firstFail
    [failIf (scaleNeeded != decide (d.scaleH ≠ 0)) (r 92),
     failIf (d.scaleH ≠ 0 && !scaleOk) (r 92),
     failIf (d.paged != decide (d.pageH ≠ 0)) (r 94),
     failIf (d.paged && (pg.fmt ≠ .int32 || pg.rank ≠ 2 || pg.size 0 < (d.size 1 + d.rows - 1) / d.rows ||
       pg.size 1 ≠ d.size 2)) (r 94),
     failIf (d.maskH ≠ 0 && (mk.fmt ≠ .mask1 || mk.rank > d.rank ||
       (mk.sizes.zip d.sizes).any (fun p => p.1 ≠ 1 && p.1 ≠ p.2))) (r 98),
     failIf (!held) (r 96),
     if d.scaleH ≠ 0 then s.companionFail c descs d.scaleH (dst && d.fmt.isMx) else none,
     if d.pageH ≠ 0 then s.companionFail c descs d.pageH false else none,
     if d.maskH ≠ 0 then s.companionFail c descs d.maskH false else none]

/-- All checks of one named descriptor (R116). -/
def State.descFail (s : State) (c : Fin 4) (descs : Table (BitVec 1024)) (h : Nat) (dst : Bool) (weight : Option Nat) :
    Option Fail :=
  let raw := descs.get h 0
  let d := Flat.parse h raw
  firstFail [d.check raw dst, s.domainFail c d dst, s.companionsFail c descs d dst weight]

/-! ## Elements -/

/-- Value of an MX element (R72). -/
def mxValue (f : Format) (scale code : Nat) : XVal :=
  if scale = 255 then .nan (decide (code / 2 ^ (f.bits - 1) % 2 = 1))
  else match decodeCode f code with
    | .fin n m e s => .fin n m (e + scale - 127) s
    | v => v

/-- Bit address of an element of a STRIDED tensor (R9, R100). -/
def Flat.bitAt (d : Flat) (idx : List Nat) : Nat :=
  let off := ((d.strides.zip idx).map (fun p => p.1 * (p.2 : Int))).foldl (· + ·) 0
  ((d.base * 8 : Nat) + off * (d.fmt.bits : Int)).toNat

namespace Tensor

/-- The page-table entry that an element of a PAGED tensor uses (R107). -/
def page (t : Tensor) (m : Memory) (idx : List Nat) : Int :=
  match t.pages with
  | none => 0
  | some p => (BitVec.ofNat 32 (m.readBits (p.bitAt [at6 idx 1 / t.d.rows, at6 idx 2, 0, 0, 0, 0]) 32)).toInt

/-- The entry is outside the pool (R109). -/
def badPage (t : Tensor) (m : Memory) (idx : List Nat) : Bool :=
  t.d.paged && (t.page m idx < 0 || t.page m idx ≥ t.d.pool)

/-- Row of the pool (R107). -/
def poolRow (t : Tensor) (m : Memory) (idx : List Nat) : Nat := (t.page m idx).toNat * t.d.rows + at6 idx 1 % t.d.rows

/-- Bit address of an element (R98, R107). -/
def bitAt (t : Tensor) (m : Memory) (idx : List Nat) : Nat :=
  if t.d.paged then t.d.bitAt [at6 idx 0, t.poolRow m idx, 0, at6 idx 3, at6 idx 4, at6 idx 5] else t.d.bitAt idx

/-- PAGE_RANGE where an active element uses a bad entry (R109, R117). -/
def pageFail (t : Tensor) (m : Memory) (act : Bool) (idx : List Nat) : Option Fail :=
  let i := t.d.bcast idx
  if act && t.badPage m i then some ⟨0x0207, detail2 t.d.handle 94 (signed64 (t.page m i))⟩ else none

/-- Extent of a ring tile on its inner and on its outer tile axis (R191). -/
def ringWidth (r : RingTile) : Nat := [2048, 256, 128, 64, 32].getD r.shape 2048
def ringHeight (r : RingTile) : Nat := [1, 8, 16, 32, 64].getD r.shape 1

/-- Does a ring tile hold the element of an index? -/
def ringCovers (r : RingTile) (idx : List Nat) : Bool :=
  let within (k n : Nat) : Bool := decide (at6 r.coord k ≤ at6 idx k) && decide (at6 idx k < at6 r.coord k + n)
  within r.inner (ringWidth r) && within r.outer (ringHeight r) &&
    (List.range 6).all (fun k => k = r.inner || k = r.outer || at6 r.coord k = at6 idx k)

/-- The place of an element in a ring tile. -/
def ringPlace (r : RingTile) (idx : List Nat) : Nat :=
  (at6 idx r.outer - at6 r.coord r.outer) * ringWidth r + (at6 idx r.inner - at6 r.coord r.inner)

/-- Code of an element, and the scale byte of its MX block. -/
def code (t : Tensor) (m : Memory) (idx : List Nat) : Nat × Nat :=
  match t.ring with
  | some r =>
    let q := ((r :: t.others).find? (fun o => ringCovers o idx)).getD r
    let v := q.data.getD (ringPlace q idx) 0
    (v % 2 ^ 32, v / 2 ^ 32)
  | none =>
    (m.readBits (t.bitAt m idx) t.d.fmt.bits,
     match t.scale with
     | some sc => if t.d.fmt.isMx then m.readBits (sc.bitAt (idx.set 0 (at6 idx 0 / 32))) 8 else 0
     | none => 0)

/-- The exact value of an element; +0 where its page entry is bad (R72 to R74, R109). -/
def exact (t : Tensor) (m : Memory) (idx : List Nat) : XVal :=
  let i := t.d.bcast idx
  if t.ring.isNone && t.badPage m i then .zero false
  else
    let (c, sc) := t.code m i
    if t.d.fmt.isMx then mxValue t.d.fmt sc c
    else if t.d.fmt.isLut then
      match t.scale with
      | some l => val32 (BitVec.ofNat 32 (m.readBits (l.bitAt [c, 0, 0, 0, 0, 0]) 32))
      | none => .zero false
    else decodeCode t.d.fmt c

/-- A chain word of an element (R238): the word, whether its type is I, and whether its conversion overflows (R79). A binary32 element
is no conversion and keeps its bits; every other conversion writes the canonical NaN (R69). -/
def word (t : Tensor) (m : Memory) (clip : Bool) (idx : List Nat) : Word × Bool × Bool :=
  let i := t.d.bcast idx
  let v := t.exact m idx
  if t.ring.isNone && t.badPage m i then (0, false, false)
  else if t.d.fmt = .binary32 then (BitVec.ofNat 32 (t.code m i).1, false, false)
  else if t.d.fmt.isInt then
    match v with
    | .fin n k _ _ => (BitVec.ofInt 32 (if n then -(k : Int) else k), true, false)
    | _ => (0, true, false)
  else
    let c := cvtFp .b32 clip false v
    (BitVec.ofNat 32 c.code, false, c.overflow)

/-- A binary32 leaf word (R279): an integer element is rounded once. The flag says that the conversion overflows. -/
def leaf (t : Tensor) (m : Memory) (clip : Bool) (idx : List Nat) : Word × Bool :=
  let (w, isInt, ov) := t.word m clip idx
  (if isInt then i2f w else w, ov)

/-- A signed integer element. -/
def int (t : Tensor) (m : Memory) (idx : List Nat) : Int := (t.word m false idx).1.toInt

/-- Does the tensor hold an element at an index? A source that is empty on an axis holds none (R101). -/
def holds (t : Tensor) (idx : List Nat) : Bool := (idx.zip t.d.sizes).all (fun q => decide (q.1 < q.2) || q.2 = 1)

/-- The mask bit of an element (R112). -/
def active (t : Tensor) (m : Memory) (idx : List Nat) : Bool :=
  match t.mask with
  | none => true
  | some k => decide (m.readBits (k.bitAt (k.bcast idx)) 1 = 1)

/-- Every tensor of a list is active at the indices. -/
def allActive (ts : List Tensor) (m : Memory) (idx : List Nat) : Bool := ts.all (fun t => t.active m (t.d.bcast idx))

end Tensor

/-! ## MX blocks (R82, R83) -/

/-- A position of a block: an active element, a kept code, or neither. -/
inductive MxPos where
  | active (x : XVal)
  | kept (x : XVal)
  | zero
  deriving DecidableEq, Repr

def MxPos.val? : MxPos → Option XVal
  | .active x => some x
  | .kept x => some x
  | .zero => none

/-- The element format of an MX format, but for MXINT8. -/
def mxSpec : Format → FpSpec
  | .mxE4m3 => .e4m3
  | .mxE5m2 => .e5m2
  | .mxE3m2 => .e3m2
  | .mxE2m3 => .e2m3
  | _ => .e2m1

def mxEmax : Format → Int
  | .mxE4m3 => 8
  | .mxE5m2 => 15
  | .mxE3m2 => 4
  | .mxE2m3 => 2
  | .mxE2m1 => 2
  | _ => 0

/-- One element at the block's exponent: rounded once and saturated (R82 step 5, R83). -/
def mxElem (f : Format) (clip : Bool) (x : Int) : XVal → Cvt
  | .nan _ => .plain 0
  | .inf n =>
    if f = .mxE5m2 && !clip then .plain (FpSpec.e5m2.infCode n)
    else if f = .mxInt8 then { code := if n then 0x81 else 0x7F, clipped := true }
    else { code := encodeFp (mxSpec f) n (mxSpec f).maxM (mxSpec f).maxE, clipped := true }
  | .fin n m e s =>
    if f = .mxInt8 then
      let q := roundAt m (e - x + 6) s 0
      let k := min q 127
      { code := if n then (256 - k) % 256 else k, clipped := decide (q > 127) }
    else
      let sp := mxSpec f
      let (q, g) := roundFp sp m (e - x) s
      if exceeds sp q g then { code := encodeFp sp n sp.maxM sp.maxE, clipped := true } else .plain (encodeFp sp n q g)

/-- A block: its scale byte and the outcome at each position. -/
def mxBlock (f : Format) (clip : Bool) (ps : List MxPos) : Nat × List Cvt :=
  let vals := ps.filterMap MxPos.val?
  let bad := vals.any XVal.isNaN || (vals.any XVal.isInf && !clip && f ≠ .mxE5m2)
  if bad then (255, ps.map (fun _ => Cvt.plain 0))
  else
    let exps := vals.filterMap (fun v => match v with
      | .fin _ m e s => if m = 0 then none else some (XVal.log2 (.fin false m e s))
      | _ => none)
    let x : Int := match exps with
      | [] => 0
      | e :: t => max (-127) (min 127 (t.foldl max e - mxEmax f))
    ((x + 127).toNat, ps.map (fun p => match p.val? with
      | some v => mxElem f clip x v
      | none => Cvt.plain 0))

/-! ## Staging outputs -/

/-- One element of a macro's output before its conversion. `evs`: events of earlier work: kind and where code. -/
structure Item where
  x : XVal := .zero false
  act : Bool := true
  /-- the macro leaves the position as it is -/
  skip : Bool := false
  /-- stored although inactive: +0 where an index row is inactive and KEEP is 0 (R368) -/
  stored : Bool := false
  /-- the fused output operation is invalid (R90) -/
  invalid : Bool := false
  evs : List (Nat × Nat) := []
  index : Nat := 0
  bad : Option Fail := none
  deriving DecidableEq, Repr, Inhabited

/-- Join what two parts of a tile stage. -/
def TileOut.append (a b : TileOut) : TileOut :=
  { stores := a.stores ++ b.stores, rings := a.rings ++ b.rings, hist := a.hist ++ b.hist, events := a.events ++ b.events
    clips := a.clips + b.clips, empties := a.empties ++ b.empties, fmasks := a.fmasks ++ b.fmasks, drops := a.drops + b.drops, rescales := a.rescales + b.rescales
    fail := a.fail.or b.fail }

def TileOut.joinAll (l : List TileOut) : TileOut := l.foldl TileOut.append {}

/-- The histogram count of one stored element (R416, R417). `base`: the slot's BASE. -/
def histAdd (slot : Nat) (base : BitVec 8) (static : BitVec 8) (act : Bool) (x : XVal) (clipped : Bool) : HistAdd :=
  if !act then ⟨slot, 62, none, static⟩
  else
    let v := val32 (word32 x)
    let e : Option Int := match v with
      | .fin _ m k _ => if m = 0 then none else some (XVal.log2 (.fin false m k false))
      | _ => none
    let bin : Nat :=
      if clipped then 61
      else match v, e with
        | .nan _, _ => 60
        | .inf _, _ => 59
        | _, none => 58
        | _, some e => let k := e - base.toInt; if k < 0 then 56 else if k > 55 then 57 else k.toNat
    ⟨slot, bin, e, static⟩

/-- What staging an output needs to know: the memory, the BASE of the bound slot, and the where code of the conversion. -/
structure EmitAt where
  mem : Memory
  base : BitVec 8 := 0xE4
  at_ : Nat := 9
  deriving DecidableEq, Repr

/-- One converted element: its store, its events, its count. -/
def Tensor.emitOne (t : Tensor) (k : EmitAt) (idx : List Nat) (it : Item) (c : Cvt) (kept : Bool) : TileOut :=
  let evs := if it.act then it.evs ++ (if c.overflow then [(2, k.at_)] else []) ++
      (if c.invalid || it.invalid then [(0, k.at_)] else []) else []
  let dead := it.skip || t.badPage k.mem idx
  { stores := if dead || kept then [] else [.mem (t.bitAt k.mem idx) t.d.fmt.bits c.code]
    events := evs.map (fun e => ⟨e.1, it.index, e.2⟩)
    clips := if it.act && c.clipped && !dead && !(t.d.clip && it.evs.contains (2, 8)) then 1 else 0
    -- a masked element counts in the masked bin although nothing is stored (R91)
    hist := match t.d.hist with
      | some slot => if it.skip && it.act then [] else [histAdd slot k.base t.d.static (it.act && !kept) it.x c.clipped]
      | none => []
    fail := (it.bad.or (t.pageFail k.mem (it.act && !it.skip) idx)).map (fun f => (f.code, f.detail)) }

/-- A position whose DST mask bit is 0 keeps its value (R112). -/
def Tensor.keeps (t : Tensor) (k : EmitAt) (idx : List Nat) (it : Item) : Bool := it.skip || !t.active k.mem idx

/-- An MX block that a tile writes: every code of the block inside its tensor, a kept position's new code among them, and the scale byte; the
events and counts of the tile's own positions. Where a block lies across two tiles, each writes all of it, to the same codes. DESIGN CHOICE
(log 117): the padding of a partial block, which R82 stores as +0, is not stored, as R114 and R252 have it. -/
def Tensor.emitBlock (t : Tensor) (k : EmitAt) (key : List Nat) (own : List (List Nat)) (f : List Nat → Item) : TileOut :=
  let place (j : Nat) : List Nat := key.set 0 (32 * at6 key 0 + j)
  let old := match t.scale with | some sc => k.mem.readBits (sc.bitAt key) 8 | none => 0
  let ps := (List.range 32).map (fun j =>
    let i := place j
    if at6 i 0 ≥ t.d.size 0 then MxPos.zero
    else
      let it := f i
      if t.keeps k i it then .kept (mxValue t.d.fmt old (k.mem.readBits (t.bitAt k.mem i) t.d.fmt.bits))
      else if it.act then .active it.x else .zero)
  let inside := ((List.range 32).map place).filter (fun i => at6 i 0 < t.d.size 0)
  let live := ps.any (fun p => match p with | .active _ => true | _ => false) || inside.any (fun i => !t.keeps k i (f i) && (f i).stored)
  let (sb, cs) := mxBlock t.d.fmt t.d.clip ps
  let code (i : List Nat) : Cvt := cs.getD (at6 i 0 % 32) default
  let each := own.map (fun i =>
    let it := f i
    let kept := t.keeps k i it
    { t.emitOne k i it (if kept then .plain 0 else code i) kept with stores := [] })
  let codes := (inside.filter (fun i => !t.badPage k.mem i)).map (fun i => Store.mem (t.bitAt k.mem i) t.d.fmt.bits (code i).code)
  let scale := t.scale.toList.map (fun sc => Store.mem (sc.bitAt key) 8 sb)
  (TileOut.joinAll each).append { stores := if live then codes ++ scale else [] }

/-- Convert and stage the elements of an output at some positions (R75 to R83, R112, R252). A ring-bound output goes to the
ring as a tile of codes. -/
def Tensor.emit (t : Tensor) (k : EmitAt) (pos : List (List Nat)) (f : List Nat → Item) : TileOut :=
  if t.d.fmt.isMx then
    let keys := (pos.map (fun i => i.set 0 (at6 i 0 / 32))).eraseDups
    TileOut.joinAll (keys.map (fun key => t.emitBlock k key (pos.filter (fun i => i.set 0 (at6 i 0 / 32) == key)) f))
  else
    TileOut.joinAll (pos.map (fun i =>
      let it := f i
      t.emitOne k i it (convert t.d.fmt t.d.clip it.x) (!t.active k.mem i)))

/-- The entry of a ring tile for one element: its code and the scale byte of its MX block; 0 where the mask keeps it. -/
def Tensor.ringCode (t : Tensor) (k : EmitAt) (f : List Nat → Item) (idx : List Nat) : Nat :=
  let it := f idx
  if t.keeps k idx it then 0
  else if t.d.fmt.isMx then
    let key := idx.set 0 (at6 idx 0 / 32)
    let ps := (List.range 32).map (fun j =>
      let i := key.set 0 (32 * at6 key 0 + j)
      if at6 i 0 ≥ t.d.size 0 || !(f i).act then MxPos.zero else .active (f i).x)
    let (sb, cs) := mxBlock t.d.fmt t.d.clip ps
    (cs.getD (at6 idx 0 % 32) default).code + 2 ^ 32 * sb
  else (convert t.d.fmt t.d.clip it.x).code

/-! ## Events of arithmetic -/

/-- The event kinds that a rounded result raises (R253): 0 INVALID, 1 DIVZERO, 2 OVERFLOW. -/
def RWord.kinds (r : RWord) : List Nat :=
  (if r.invalid then [0] else []) ++ (if r.divzero then [1] else []) ++ (if r.overflow then [2] else [])

def RExact.kinds (r : RExact) : List Nat := (if r.invalid then [0] else []) ++ (if r.divzero then [1] else [])

/-- A where code's place in the order in which an element meets the work of a tile: the input conversion, the stages, the tap
behind its stage, the output conversion (R253). -/
def whereRank (tap : Nat) (w : Nat) : Nat := if w = 8 then 0 else if w = 9 then 100 else if w = 10 then 2 * tap + 3 else 2 * w + 2

/-- N_CLIP counts the elements whose input conversion saturates with the clip flag on (R79, R89), beside those of the output. -/
def TileOut.inputClips (o : TileOut) (clip : Bool) : TileOut :=
  if clip then { o with clips := o.clips + o.events.countP (fun e => e.kind = 2 && e.at_ = 8) } else o

/-- Count each element once for each event, at its earliest place (R253). -/
def oncePer (tap : Nat) (l : List Event) : List Event :=
  l.foldl (fun acc e =>
    if acc.any (fun f => f.kind = e.kind && f.index = e.index) then
      acc.map (fun f => if f.kind = e.kind && f.index = e.index && whereRank tap e.at_ < whereRank tap f.at_ then e else f)
    else acc ++ [e]) []

/-- Is a store that of a descriptor? -/
def Store.isDesc : Store → Bool
  | .desc _ _ => true
  | _ => false

/-- What a macro counts with one more tile (R409): an element counts once for each event kind, at its earliest place; `tap`: TAP_STAGE (R253). -/
def TileOut.addCounts (tap : Nat) (a b : TileOut) : TileOut :=
  let ev := (a.events ++ b.events).filter (fun e => e.kind ≠ 3)
  { stores := a.stores ++ b.stores.filter Store.isDesc
    events := oncePer tap ev ++ (a.events ++ b.events).filter (fun e => e.kind = 3)
    clips := a.clips + b.clips, empties := (a.empties ++ b.empties).eraseDups, fmasks := (a.fmasks ++ b.fmasks).eraseDups
    drops := a.drops + b.drops, rescales := a.rescales + b.rescales }

/-! ## Truss order (R266 to R268, R272) -/

/-- Events of a node, reported at the lowest present leaf of its subtree. -/
def nodeEvents (at_ low : Nat) (kinds : List Nat) : List Event := kinds.map (fun k => ⟨k, low, at_⟩)

/-- One level of the tree: a node for each pair, an absent child passing the other up. -/
def pairUp {α : Type} (at_ : Nat) (node : α → α → α × List Nat) : List (Option (α × Nat)) → List (Option (α × Nat)) × List Event
  | [] => ([], [])
  | [x] => ([x], [])
  | x :: y :: t =>
    let (r, e) := pairUp at_ node t
    match x, y with
    | some (a, i), some (b, _) =>
      let (c, k) := node a b
      (some (c, i) :: r, nodeEvents at_ i k ++ e)
    | some a, none => (some a :: r, e)
    | none, z => (z :: r, e)

/-- The root of the truss tree over leaves with their element indices, and the events of its nodes. -/
def trussN {α : Type} (at_ : Nat) (node : α → α → α × List Nat) : Nat → List (Option (α × Nat)) → Option (α × Nat) × List Event
  | _, [] => (none, [])
  | _, [x] => (x, [])
  | 0, x :: _ => (x, [])
  | n + 1, l =>
    let (l', e) := pairUp at_ node l
    let (r, e') := trussN at_ node n l'
    (r, e ++ e')

def truss {α : Type} (at_ : Nat) (node : α → α → α × List Nat) (l : List (Option (α × Nat))) : Option (α × Nat) × List Event :=
  trussN at_ node (bitLen l.length + 1) l

/-- An arithmetic node on words. -/
def arith (op : Word → Word → RExact) (a b : Word) : Word × List Nat :=
  let r := (op a b).round
  (r.w, r.kinds)

/-- Sum of words in truss order with no events kept (R183). -/
def trussSum (at_ : Nat) (l : List (Option (Word × Nat))) : Option (Word × Nat) × List Event := truss at_ (arith addX) l

end Sys2Proof.Machine
end

