-- ==== Sys2Proof/Machine/Chain.lean ====
section
/-! DEFINITION. Chain programs and their stages (08_elementwise_chains.md R225 to R253), which VSHORT shares (06 R182, R183), and
the row statistics of hold points (10 R271, R280, 08 R244). -/

namespace Sys2Proof.Machine

/-! ## Operations -/

/-- What an operation yields: the exact value of an F-type arithmetic result, or a word. -/
inductive StageRes where
  | exact (r : RExact)
  | word (w : Word) (isInt : Bool) (kinds : List Nat)
  deriving DecidableEq, Repr

/-- An operation code of the table after R182 on its operand words (R183, R239 to R242). `aInt`: the type of A. -/
def stageOp (op fn : Nat) (nansel aInt : Bool) (a b c : Word) : StageRes :=
  match op with
  | 0x01 => .word a aInt []
  | 0x02 => .exact (addX a b)
  | 0x03 => .exact (subX a b)
  | 0x04 => .exact (mulX a b)
  | 0x05 => .exact (fmaX a b c)
  | 0x06 => .exact (divX a b)
  | 0x07 => .word (extreme false nansel a b) false []
  | 0x08 => .word (extreme true nansel a b) false []
  | 0x09 => .word (abs32 a) false []
  | 0x0A => .word (neg32 a) false []
  | 0x0B => .word (extreme false nansel (extreme true nansel a b) c) false []
  | 0x0C => .word (if holds32 fn a b then 0xFFFFFFFF#32 else 0#32) true []
  | 0x0D => .word (if c ≠ 0#32 then a else b) aInt []
  | 0x0E => match Fn.ofCode fn with
    | some f => .exact (sfnX f a)
    | none => .word 0#32 false []
  | 0x10 => .word (a + b) true []
  | 0x11 => .word (a - b) true []
  | 0x12 => .word (a &&& b) true []
  | 0x13 => .word (a ||| b) true []
  | 0x14 => .word (a ^^^ b) true []
  | 0x15 => .word (a <<< (b.toNat % 32)) true []
  | 0x16 => .word (a >>> (b.toNat % 32)) true []
  | 0x17 => .word (a.sshiftRight (b.toNat % 32)) true []
  | 0x18 => .exact { x := XVal.ofInt a.toInt }
  | 0x19 => let r := f2i a; .word r.w true r.kinds
  | _ => .word 0#32 false []

/-- A result rounded as a non-last stage rounds it: word, type I, event kinds. -/
def StageRes.finish : StageRes → Word × Bool × List Nat
  | .exact r => (r.round.w, false, r.round.kinds)
  | .word w i k => (w, i, k)

/-- The value a last stage hands to the output conversion (R246), and the event kinds of its operation. -/
def StageRes.value : StageRes → XVal × List Nat
  | .exact r => (r.x, r.kinds)
  | .word w true k => (XVal.ofInt w.toInt, k)
  | .word w false k => (val32 w, k)

/-- Operands that an operation uses; 0 for a code that is no stage operation (R233). -/
def opUses (op : Nat) : Nat :=
  if [0x01, 0x09, 0x0A, 0x0E, 0x18, 0x19].contains op then 1
  else if [0x02, 0x03, 0x04, 0x06, 0x07, 0x08, 0x0C].contains op || (0x10 ≤ op && op ≤ 0x17) then 2
  else if [0x05, 0x0B, 0x0D].contains op then 3 else 0

/-! ## The program (R229 to R232) -/

/-- A stage word (R231). -/
structure StageW where
  bits : BitVec 32
  deriving DecidableEq, Repr

namespace StageW
def op (w : StageW) : Nat := field w.bits 0 5
/-- Source of operand 0 A, 1 B, 2 C. -/
def src (w : StageW) (k : Nat) : Nat := field w.bits (5 + 5 * k) 5
def fn (w : StageW) : Nat := field w.bits 20 4
def nansel (w : StageW) : Bool := bit w.bits 24
/-- Sources in use. -/
def used (w : StageW) : List Nat := (List.range (opUses w.op)).map w.src
end StageW

/-- A chain program block. -/
structure Chain where
  bits : BitVec 1024
  deriving DecidableEq, Repr

namespace Chain
def ofBytes (b : List Byte) : Chain := ⟨BitVec.ofNat 1024 (ofLe b)⟩
def n (c : Chain) : Nat := field c.bits 0 4
def hold (c : Chain) : Bool := bit c.bits 4
def hs (c : Chain) : Nat := field c.bits 5 3
def via (c : Chain) : Nat := field c.bits 8 4
def tap (c : Chain) : Bool := bit c.bits 12
def ts (c : Chain) : Nat := field c.bits 13 3
def oscaleMode (c : Chain) : Nat := field c.bits 16 2
def biasEn (c : Chain) : Bool := bit c.bits 18
def kint (c : Chain) (k : Nat) : Bool := bit c.bits (19 + k)
def eps (c : Chain) : Word := c.bits.extractLsb' 32 32
def stage (c : Chain) (k : Nat) : StageW := ⟨c.bits.extractLsb' (64 + 32 * k) 32⟩
def const (c : Chain) (k : Nat) : Word := c.bits.extractLsb' (320 + 32 * k) 32
/-- Handle fields: 0 ROW_H, 1 COL_H, 2 OSCALE_H, 3 BIAS_H, 4 TAP_H. -/
def handle (c : Chain) (i : Nat) : Nat := field c.bits (576 + 16 * i) 12
def oscale (c : Chain) : Word := c.bits.extractLsb' 672 32
def stages (c : Chain) : List StageW := (List.range (min c.n 8)).map c.stage
end Chain

def isFinite (w : Word) : Bool := match val32 w with | .fin .. => true | _ => false

/-- A power of two of either sign. -/
def pow2Word (w : Word) : Bool := match val32 w with | .fin _ m _ _ => m ≠ 0 && m = 2 ^ (bitLen m - 1) | _ => false

/-- Items 2 and 7 of R234, which an output block takes too (R338): the offset of the first offending field. -/
def Chain.outputFail (c : Chain) : Option Nat :=
  ([(decide (c.oscaleMode = 1) && (!isFinite c.oscale || (val32 c.oscale).isZero), 84),
    (decide (c.oscaleMode ≠ 1) && decide (c.oscale ≠ 0#32), 84),
    (decide (field c.bits 608 16 ≠ 0) != decide (c.oscaleMode ≥ 2), 76),
    (decide (field c.bits 624 16 ≠ 0) != c.biasEn, 78)].find? Prod.fst).map Prod.snd

/-- The checks of R234 in their order: the stage and the byte offset of the first failure. `bound k`: is input k bound? -/
def Chain.check (c : Chain) (bound : Nat → Bool) (tclass : Nat) : Option (Nat × Nat) :=
  let st (k : Nat) : Nat × Nat := (k, 8 + 4 * k)
  let hdr : Nat × Nat := (0xFF, 0)
  let ks := List.range (min c.n 8)
  let each (p : Nat → StageW → Bool) : List (Bool × Nat × Nat) := ks.map (fun k => (p k (c.stage k), st k))
  let srcs (p : Nat → Nat → Bool) : List (Bool × Nat × Nat) :=
    each (fun k w => [w.src 0, w.src 1, w.src 2].any (p k))
  let range (en : Bool) (v : Nat) : Bool := if en then v + 2 > c.n else v ≠ 0
  let last := c.stage (c.n - 1)
  let e := val32 c.eps
  let checks : List (Bool × Nat × Nat) :=
    [(c.n < 1 || c.n > 8, hdr)] ++
    ((List.range 8).drop c.n).map (fun k => (decide ((c.stage k).bits ≠ 0#32), st k)) ++
    [(decide (field c.bits 27 5 ≠ 0), hdr)] ++
    each (fun _ w => decide (field w.bits 25 7 ≠ 0)) ++
    (List.range 5).map (fun i => (decide (field c.bits (588 + 16 * i) 4 ≠ 0), 0xFF, 72 + 2 * i)) ++
    [(decide (field c.bits 656 16 ≠ 0), 0xFF, 82), (decide (field c.bits 704 320 ≠ 0), 0xFF, 88)] ++
    each (fun _ w =>
      let u := opUses w.op
      u = 0 || w.fn > (if w.op = 0x0C then 5 else if w.op = 0x0E then 13 else 0) ||
        (w.nansel && !([0x07, 0x08, 0x0B].contains w.op)) ||
        (List.range 3).any (fun j => w.src j > 0x15 || (decide (w.src j = 0) != decide (j ≥ u)))) ++
    srcs (fun k v => (v = 1 && k = 0) || (v ≥ 0x10 && (!c.hold || k ≤ c.hs))) ++
    srcs (fun _ v => (2 ≤ v && v ≤ 5 && !bound (v - 2)) || (v = 6 && c.handle 0 = 0) || (v = 7 && c.handle 1 = 0)) ++
    [(range c.hold c.hs || range c.tap c.ts || c.via > 8 || (!c.hold && (c.via ≠ 0 || tclass ≠ 0)), hdr),
     ((match e with | .fin n m _ _ => n && m ≠ 0 | _ => true), 0xFF, 4)] ++
    (match c.outputFail with | some o => [(true, 0xFF, o)] | none => []) ++
    [(decide (c.handle 4 ≠ 0) != c.tap, 0xFF, 80),
     ((last.op = 0x06 || last.op = 0x0E) && (c.biasEn || c.oscaleMode ≥ 2), c.n - 1, 0),
     ((last.op = 0x06 || last.op = 0x0E) && c.oscaleMode = 1 && !pow2Word c.oscale, c.n - 1, 84)]
  (checks.find? Prod.fst).map Prod.snd

/-! ## Row statistics (R244, R271, R280) -/

/-- A statistic: n, then S and Q, or the mean and M2. -/
structure Stat where
  n : Nat
  u : Word
  v : Word
  deriving DecidableEq, Repr

/-- Leaf of an element, and the events of its operation. -/
def Stat.leaf (bulk : Bool) (x : Word) : Stat × List Nat :=
  if bulk then (⟨1, x, 0⟩, [])
  else let q := (mulX x x).round; (⟨1, x, q.w⟩, q.kinds)

/-- One binary32 operation that records its events. -/
def note (r : RWord) (acc : List Nat) : Word × List Nat := (r.w, acc ++ r.kinds)

/-- The Chan node of R280, in its operation order. -/
def chanNode (l r : Stat) : Stat × List Nat :=
  let n := l.n + r.n
  let nf := natTo32 n
  let naf := natTo32 l.n
  let nbf := natTo32 r.n
  let (d, k) := note (subX r.u l.u).round []
  let (w, k) := note (divX nbf nf).round k
  let (mean, k) := note (fmaX d w l.u).round k
  let (t, k) := note (mulX naf w).round k
  let (u, k) := note (mulX d t).round k
  let (q, k) := note (addX l.v r.v).round k
  let (q, k) := note (fmaX u d q).round k
  (⟨n, mean, q⟩, k)

/-- The node of either class. -/
def Stat.node (bulk : Bool) (l r : Stat) : Stat × List Nat :=
  if bulk then chanNode l r
  else
    let (a, k) := note (addX l.u r.u).round []
    let (b, k) := note (addX l.v r.v).round k
    (⟨l.n + r.n, a, b⟩, k)

/-- The STAT sources in the order STAT_N, MEAN, VAR, MSQ, RSTD, RRMS, and the events of their derivation (R244, R245). -/
def statSources (bulk : Bool) (s : Stat) (eps : Word) : List Word × List Nat :=
  if s.n = 0 then ([0, 0, 0, 0, 0, 0], [])
  else
    let nf := natTo32 s.n
    let e : Word := if val32 eps == .zero true then 0 else eps
    let (mean, var, msq, k) :=
      if bulk then
        let (var, k) := note (divX s.v nf).round []
        let (msq, k) := note (fmaX s.u s.u var).round k
        (s.u, var, msq, k)
      else
        let (mean, k) := note (divX s.u nf).round []
        let (msq, k) := note (divX s.v nf).round k
        let (var, k) := note (fmaX (neg32 mean) mean msq).round k
        (mean, if bit var 31 && !isNaN32 var then 0 else var, msq, k)
    let (a, k) := note (addX var e).round k
    let (rstd, k) := note (sfnX .rsqrt a).round k
    let (b, k) := note (addX msq e).round k
    let (rrms, k) := note (sfnX .rsqrt b).round k
    ([nf, mean, var, msq, rstd, rrms], k)

/-! ## Running a program at one element -/

/-- What a chain reads: its inputs as functions of the index, the vectors, and the activity of a lane (R227, R238, R251). -/
structure ChainAt where
  prog : Chain
  mem : Memory
  clip : Bool
  /-- input k at an index: word, type I, input conversion overflows -/
  input : Nat → List Nat → Word × Bool × Bool
  /-- the inputs that are bound -/
  bound : List Nat
  row : Option Tensor
  col : Option Tensor
  osc : Option Tensor
  bias : Option Tensor
  tap : Option Tensor
  active : List Nat → Bool
  /-- a value-dependent check that fails at an active element (R117) -/
  bad : List Nat → Option Fail

/-- The index of a row vector's element, and of a column vector's (R235). -/
def rowIdx (idx : List Nat) : List Nat := [at6 idx 0, 0, 0, 0, 0, 0]
def colIdx (idx : List Nat) : List Nat := idx.set 0 0

namespace ChainAt

/-- An operand word: word, type I, overflow of its conversion (R232, R238). -/
def operand (k : ChainAt) (idx : List Nat) (prev : Word × Bool) (stat : List Word) (src : Nat) : Word × Bool × Bool :=
  if src = 0 then (0, false, false)
  else if src = 1 then (prev.1, prev.2, false)
  else if src ≤ 5 then k.input (src - 2) idx
  else if src = 6 then match k.row with | some t => t.word k.mem k.clip (rowIdx idx) | none => (0, false, false)
  else if src = 7 then match k.col with | some t => t.word k.mem k.clip (colIdx idx) | none => (0, false, false)
  else if src < 0x10 then (k.prog.const (src - 8), k.prog.kint (src - 8), false)
  else (stat.getD (src - 0x10) 0, false, false)

/-- The state of a run: previous result, results so far, events as (kind, where code), the exact value of the last stage. -/
structure Run where
  prev : Word × Bool := (0, false)
  words : List Word := []
  evs : List (Nat × Nat) := []
  x : XVal := .zero false

/-- Stages lo to hi − 1 at one element. -/
def run (k : ChainAt) (idx : List Nat) (stat : List Word) (r : Run) (lo hi : Nat) : Run :=
  ((List.range hi).drop lo).foldl (fun r i =>
    let w := k.prog.stage i
    let a := k.operand idx r.prev stat (w.src 0)
    let b := k.operand idx r.prev stat (w.src 1)
    let c := k.operand idx r.prev stat (w.src 2)
    let conv := if a.2.2 || b.2.2 || c.2.2 then [((2 : Nat), (8 : Nat))] else []
    let res := stageOp w.op w.fn w.nansel a.2.1 a.1 b.1 c.1
    if i + 1 = k.prog.n then
      let (x, kinds) := res.value
      { r with x := x, evs := r.evs ++ conv ++ kinds.map (fun q => (q, i)) }
    else
      let (v, isInt, kinds) := res.finish
      { prev := (v, isInt), words := r.words ++ [v], evs := r.evs ++ conv ++ kinds.map (fun q => (q, i)), x := r.x }) r

/-- Overflow of an input conversion: every bound input converts as it is loaded, whether or not a stage reads it (R79). -/
def loads (k : ChainAt) (idx : List Nat) : List (Nat × Nat) :=
  if k.bound.any (fun i => (k.input i idx).2.2) then [(2, 8)] else []

/-- The word a hold point takes its statistic of. -/
def held (k : ChainAt) (idx : List Nat) : Word := (k.run idx [] {} 0 (k.prog.hs + 1)).prev.1

/-- The output scale at an element; none for a scale of 1 (R246). -/
def scale (k : ChainAt) (idx : List Nat) : XVal :=
  match k.prog.oscaleMode with
  | 1 => val32 k.prog.oscale
  | 2 => match k.osc with | some t => t.exact k.mem (colIdx idx) | none => .one
  | 3 => match k.osc with | some t => t.exact k.mem (rowIdx idx) | none => .one
  | _ => .one

/-- PAGE_RANGE of the vectors of the program and of its output block at an element (R109). -/
def vecBad (k : ChainAt) (idx : List Nat) : Option Fail :=
  let at_ (t : Option Tensor) (i : List Nat) : Option Fail := t.bind (fun t => t.pageFail k.mem true i)
  (at_ k.row (rowIdx idx)).or ((at_ k.col (colIdx idx)).or ((match k.prog.oscaleMode with
    | 2 => at_ k.osc (colIdx idx)
    | 3 => at_ k.osc (rowIdx idx)
    | _ => none).or (if k.prog.biasEn then at_ k.bias (rowIdx idx) else none)))

/-- The bias at an element (R246). -/
def biasAt (k : ChainAt) (idx : List Nat) : Option XVal :=
  if k.prog.biasEn then k.bias.map (fun t => t.exact k.mem (rowIdx idx)) else none

/-- The output of a lane (R246, R252), with the row's STAT sources. `index`: its linear index over DST. -/
def item (k : ChainAt) (stat : List Word) (index : List Nat → Nat) (idx : List Nat) : Item :=
  let r := k.run idx stat {} 0 k.prog.n
  let act := k.active idx
  let (x, inv) := fuse r.x (k.scale idx) (k.biasAt idx)
  { x := x, act := act, invalid := inv, evs := k.loads idx ++ r.evs, index := index idx, bad := if act then (k.bad idx).or (k.vecBad idx) else none }

/-- The tap of a lane (R248, R252): no scale and no bias. -/
def tapItem (k : ChainAt) (stat : List Word) (index : List Nat → Nat) (idx : List Nat) : Item :=
  let r := k.run idx stat {} 0 (k.prog.ts + 1)
  let w := if k.prog.ts + 1 = k.prog.n then r.x else val32 r.prev.1
  let tactive := match k.tap with | some t => t.active k.mem idx | none => true
  { x := w, act := k.active idx && tactive, index := index idx }

end ChainAt

end Sys2Proof.Machine
end

