-- ==== Sys2Proof/Machine/Nodes.lean ====
section
/-! DEFINITION. The truss nodes of extremes, softmax pairs and normalisation-backward sums (10 R273, 11 R310, R322, 12 R360), and
the total order of candidates (10 R295). -/

namespace Sys2Proof.Machine

/-- R273: is the left child chosen? `big`: MAX, else MIN. -/
def leftWins (big : Bool) (l r : Word) : Bool :=
  if isNaN32 l then true
  else if isNaN32 r then false
  else if big then !XVal.lt true (val32 l) (val32 r) else !XVal.lt true (val32 r) (val32 l)

/-- A softmax pair (R310). -/
structure SmxPair where
  m : Word
  l : Word
  deriving DecidableEq, Repr

/-- c = exp32(sub32(a, b)), with its events. -/
def expDiff (a b : Word) (acc : List Nat) : Word × List Nat :=
  let (d, k) := note (subX a b).round acc
  note (sfnX .exp d).round k

/-- smx_node of R310. -/
def smxNode (a b : SmxPair) : SmxPair × List Nat :=
  if leftWins true a.m b.m then
    if isNaN32 a.m then (⟨a.m, a.m⟩, [])
    else
      let (c, k) := expDiff b.m a.m []
      let (l, k) := note (fmaX b.l c a.l).round k
      (⟨a.m, l⟩, k)
  else
    if isNaN32 b.m then (⟨b.m, b.m⟩, [])
    else
      let (c, k) := expDiff a.m b.m []
      let (l, k) := note (fmaX a.l c b.l).round k
      (⟨b.m, l⟩, k)

/-- The log-sum-exp m + log l (R311, R317), and its events. -/
def logSumExp (p : SmxPair) : Word × List Nat :=
  let (g, k) := note (sfnX .log p.l).round []
  note (addX p.m g).round k

/-- A key's place in the ascending total order of R295. -/
def keyRank (w : Word) : Nat :=
  let mag := w.toNat % 2 ^ 31
  if isNaN32 w then 2 ^ 33 else if w.toNat ≥ 2 ^ 31 then 0x7FFFFFFF - mag else 0x80000000 + mag

/-- A key with the index of its element. -/
structure Cand where
  key : Word
  index : Nat
  deriving DecidableEq, Repr

/-- a comes before b in descending order, equal keys in ascending index order. -/
def Cand.before (a b : Cand) : Bool :=
  decide (keyRank a.key > keyRank b.key) || (decide (keyRank a.key = keyRank b.key) && decide (a.index < b.index))

/-- The k greatest, in descending order (R296). -/
def topOf (k : Nat) (l : List Cand) : List Cand := (sortBy Cand.before l).take k

/-! ## What the viaduct carries (14 R392) -/

/-- A partial or a combined value: the count, two words, and whether a NaN was seen. SMX has no count. -/
structure ViaVal where
  n : Nat
  u : Word
  v : Word
  nan : Bool
  deriving DecidableEq, Repr

/-- The node operation of a channel kind (R395): 0 LAT, 1 BULK, 2 SMX, 3 PAIR. -/
def viaNode (kind : Nat) (a b : ViaVal) : ViaVal :=
  let mark (n : Nat) (u v : Word) : ViaVal := ⟨n, u, v, a.nan || b.nan || isNaN32 u || isNaN32 v⟩
  match kind with
  | 1 => let r := (chanNode ⟨a.n, a.u, a.v⟩ ⟨b.n, b.u, b.v⟩).1; mark r.n r.u r.v
  | 2 => let r := (smxNode ⟨a.u, a.v⟩ ⟨b.u, b.v⟩).1; mark 0 r.m r.l
  | _ => mark (a.n + b.n) (add32 a.u b.u) (add32 a.v b.v)

/-- The message words of a value, or of an absent partial (R392). -/
def viaWords (kind : Nat) : Option ViaVal → List Word
  | none => [0, 0, 0, 1]
  | some p =>
    let f : Word := if p.nan then 2 else 0
    if kind = 2 then [p.u, p.v, 0, f] else [BitVec.ofNat 32 p.n, p.u, p.v, f]

/-- The value that message words carry. -/
def viaValue (kind : Nat) (w : List Word) : Option ViaVal :=
  let f := w.getD 3 0
  if bit f 0 then none
  else if kind = 2 then some ⟨0, w.getD 0 0, w.getD 1 0, bit f 1⟩
  else some ⟨(w.getD 0 0).toNat, w.getD 1 0, w.getD 2 0, bit f 1⟩

/-- Combine two partials, an absent one passing the other (R268). -/
def viaJoin (kind : Nat) : Option ViaVal → Option ViaVal → Option ViaVal
  | none, b => b
  | a, none => a
  | some a, some b => some (viaNode kind a b)

/-- The truss tree of R266 over 2^k indices from `start`, whose inputs are whole subtrees (R395). -/
def viaCover (kind : Nat) (inputs : List (Nat × Nat × Option ViaVal)) : Nat → Nat → Option ViaVal
  | start, 0 => ((inputs.find? (fun i => i.1 = start && i.2.1 = 1)).map (fun i => i.2.2)).getD none
  | start, k + 1 =>
    let inside := inputs.filter (fun i => start ≤ i.1 && i.1 < start + 2 ^ (k + 1))
    match inside with
    | [] => none
    | _ =>
      match inside.find? (fun i => i.1 = start && i.2.1 = 2 ^ (k + 1)) with
      | some i => i.2.2
      | none => viaJoin kind (viaCover kind inside start k) (viaCover kind inside (start + 2 ^ k) k)

/-- A candidate's message words, and an absent one. -/
def candWords : Option Cand → List Word
  | none => [0, 0, 0, 1]
  | some c => [c.key, BitVec.ofNat 32 c.index, 0, 0]

def candValue (w : List Word) : Option Cand :=
  if bit (w.getD 3 0) 0 then none else some ⟨w.getD 0 0, (w.getD 1 0).toNat⟩

end Sys2Proof.Machine
end

