-- ==== Sys2Proof/Machine/Operands.lean ====
section
/-! DEFINITION. The operands of a macro (05 R132 to R137, 12 R335), its parameter blocks, the field checks of R547, and the
descriptor snapshot (04 R96, R116). -/

namespace Sys2Proof.Machine

/-- An operand: its handle, whether it is an output, whether it is required, its queue select, and the bit where its handle
field starts. -/
structure Opnd where
  h : Nat
  dst : Bool
  req : Bool
  q : Nat
  bit : Nat
  deriving DecidableEq, Repr

/-- The parameter blocks (R229, R304, R338, R374, R381). -/
inductive BlockKind where
  | program | output | softmax | rotary | sampling
  deriving DecidableEq, Repr

def BlockKind.bytes : BlockKind → Nat
  | .program | .output => 128
  | .softmax | .sampling => 64
  | .rotary => 32

namespace MacroRun

/-- A MODE field of a vector macro. -/
def mode (m : MacroRun) (lo n : Nat) : Nat := field m.bits (105 + lo) n
/-- A field of RIG_MODE (R337). -/
def rigMode (m : MacroRun) (lo n : Nat) : Nat := field m.bits (80 + lo) n
def tclass (m : MacroRun) : Bool := bit m.bits 5
def isVec (m : MacroRun) (op : Nat) : Bool := m.slot = 2 && m.op = op
def isRig (m : MacroRun) (l : List Nat) : Bool := m.slot = 3 && l.contains m.rig
/-- Sub-operation of VRED, VSCAN, VSMX, VGATH, VSCAT: the low MODE bits. -/
def sop (m : MacroRun) : Nat := if m.op = 6 then m.mode 0 3 else if m.op = 9 || m.op = 10 then m.mode 0 1 else m.mode 0 4
/-- LD and ST: TARGET or SOURCE, DQ, AUX or BAY, COUNT. -/
def target (m : MacroRun) : Nat := field m.bits 4 2
def dq (m : MacroRun) : Nat := field m.bits 6 4
def aux (m : MacroRun) : Nat := field m.bits 22 12
def count (m : MacroRun) : Nat := field m.bits 34 12
def seq (m : MacroRun) : BitVec 16 := if m.slot = 3 then m.bits.extractLsb' 80 16 else m.bits.extractLsb' 46 16
def isLda (m : MacroRun) : Bool := m.slot = 4 && m.op = 2
/-- The bay of an LD, an LDA or an ST (R135, R137). -/
def bay (m : MacroRun) : Nat := if m.isLda then m.count else m.aux

/-- An operand of the slot at a handle field. -/
def opnd (m : MacroRun) (at_ : Nat) (dst req : Bool) : Opnd :=
  let q := if m.slot ≠ 2 then 0
    else if at_ = 8 then field m.bits 80 5 else if at_ ≥ 20 && at_ ≤ 56 then field m.bits (85 + 5 * ((at_ - 20) / 12)) 5 else 0
  ⟨field m.bits at_ 12, dst, req, q, at_⟩

/-- Operands of a vector macro, in the order of their fields (R225, R277, R282, R290, R297, R309, R363 to R382, R548). -/
def vectorOpnds (m : MacroRun) : List Opnd :=
  let d := m.opnd 8 true true
  let s (k : Nat) (req : Bool) := m.opnd (20 + 12 * k) false req
  let p (req : Bool) := m.opnd 68 false req
  match m.op with
  | 0x01 => [d, s 0 false, s 1 false, s 2 false, s 3 false, p true]
  | 0x03 => [d, s 0 true] ++ (if m.sop = 2 then [s 1 true] else []) ++ [m.opnd 56 true false] ++
      (if m.sop = 4 || m.sop = 5 then [m.opnd 116 true false] else [])
  | 0x04 => [d, s 0 true, m.opnd 56 true false, p false]
  | 0x05 => [d, s 0 true] ++ (if m.sop = 4 then [s 1 true, s 2 false] else [])
  | 0x06 => match m.sop with
    | 0 => [d, s 0 true, s 1 false, p true]
    | 1 => [d, s 0 true, s 1 true, p true]
    | _ => [d, s 0 true, s 1 true, s 2 false, p true]
  | 0x07 => [d, s 0 true]
  | 0x08 => [d, s 0 true]
  | 0x09 => [d, s 0 true, s 1 true] ++ (if m.sop = 1 then [s 2 true] else [])
  | 0x0A => [d, s 0 true, s 1 true, p false]
  | 0x0B =>
    if m.mode 10 1 = 1 then [d, s 0 true, s 1 false, m.opnd 44 true false, m.opnd 56 true false, p false]
    else [d, s 0 true, m.opnd 44 true false]
  | 0x0C => [d, s 0 true, m.opnd 107 true false]
  | 0x0D => [d, s 0 true, p true]
  | _ => []

/-- Operands of a matrix macro (R335). -/
def matrixOpnds (m : MacroRun) : List Opnd :=
  let f (at_ : Nat) (dst req : Bool) := m.opnd at_ dst req
  let base := [f 8 false true, f 20 false true, f 32 true true]
  base ++ match m.rig with
    | 0 => [f 68 false false]
    | 1 => [f 44 false true, f 68 false false]
    | 2 => [f 44 false false, f 56 false false, f 68 false true]
    | 3 => [f 44 false true, f 56 false false, f 68 false true]
    | 4 => [f 44 false true, f 56 false false, f 68 false true]
    | 5 => [f 44 false true, f 56 false true, f 68 false true]
    | 6 | 7 => [f 44 false true, f 56 false true, f 68 false false]
    | 8 | 9 => [f 44 false false, f 68 false false]
    | 10 => [f 44 false true, f 56 false true, f 68 false false]
    | 11 => [f 44 true false, f 56 true false, f 68 false true]
    | _ => [f 44 false true, f 56 false true, f 68 false true]

/-- Every named operand, in field order. -/
def opnds (m : MacroRun) : List Opnd :=
  match m.slot with
  | 2 => m.vectorOpnds
  | 3 => m.matrixOpnds
  | 4 => [m.opnd 10 false true]
  | _ => [m.opnd 10 true true]

/-- Data queues written and read: queue and the operand's handle field. -/
def queuesOut (m : MacroRun) : List (Nat × Nat) :=
  if m.slot = 4 then (if m.target = 0 then [(m.dq, 10)] else [])
  else (m.opnds.filter (fun o => o.dst && o.q ≠ 0 && o.h ≠ 0)).map (fun o => (o.q - 1, o.bit))

def queuesIn (m : MacroRun) : List (Nat × Nat) :=
  if m.slot = 5 then (if m.target = 0 then [(m.dq, 10)] else [])
  else (m.opnds.filter (fun o => !o.dst && o.q ≠ 0 && o.h ≠ 0)).map (fun o => (o.q - 1, o.bit))

/-- A pass of VSMX that reads its inputs twice (R313). -/
def rereads (m : MacroRun) : Bool := m.isVec 0x06 && m.sop ≠ 1 && m.mode 7 1 = 1

/-- The parameter block of a macro: its kind and its handle. -/
def block (m : MacroRun) : Option (BlockKind × Nat) :=
  let p := m.param
  let k : Option (BlockKind × Nat) :=
    if m.slot = 2 then
      match m.op with
      | 0x01 => some (.program, p)
      | 0x06 => some (.softmax, p)
      | 0x0A => some (.rotary, p)
      | 0x0D => some (.sampling, p)
      | _ => none
    else if m.slot = 3 then
      match m.rig with
      | 0 | 1 | 8 | 9 => some (.output, p)
      | 2 | 3 | 4 | 5 => some (.program, p)
      | 6 | 7 => some (.softmax, field m.bits 56 12)
      | 10 => some (.rotary, p)
      | 11 => some (.sampling, p)
      | 13 => some (.softmax, p)
      | _ => none
    else none
  k.filter (fun x => x.2 ≠ 0)

/-- The bytes of the macro's block as its snapshot holds them. -/
def blockBytes (m : MacroRun) : List Byte :=
  match m.block with
  | some (_, h) => m.blocks.get h []
  | none => []

/-- A field of the block: byte offset and bytes. -/
def blockField (m : MacroRun) (off n : Nat) : Nat := ofLe ((m.blockBytes.drop off).take n)

/-- The chain program of the block. -/
def chain (m : MacroRun) : Chain := Chain.ofBytes m.blockBytes

/-- A word of the block. -/
def blockWord (m : MacroRun) (off : Nat) : Word := BitVec.ofNat 32 (m.blockField off 4)

/-- A tensor named by a handle field of the slot, as the snapshot holds it. -/
def tens (m : MacroRun) (at_ : Nat) : Option Tensor := tensor? m.descs (field m.bits at_ 12)

/-- A tensor named by the block at a byte offset. -/
def blockTens (m : MacroRun) (off : Nat) : Option Tensor := tensor? m.descs (m.blockField off 2 % 4096)

/-- A tensor for one tile: bound to the ring tile that the tile consumes, with those of the macro's other tiles. -/
def tensAt (m : MacroRun) (tile : TileRun) (at_ : Nat) : Option Tensor :=
  let mine (r : TileRun) : Option RingTile := (r.rings.find? (fun q => q.1 = at_)).map Prod.snd
  (m.tens at_).map (fun t => { t with ring := mine tile, others := m.tiles.filterMap (fun e => mine e.2) })

end MacroRun

/-- Handle fields of a block: byte offsets, and whether each names an output. -/
def BlockKind.handles : BlockKind → List (Nat × Bool)
  | .program => [(72, false), (74, false), (76, false), (78, false), (80, true)]
  | .output => [(76, false), (78, false)]
  | .softmax => [(24, false), (26, false), (28, true), (30, true)]
  | .rotary => [(4, false), (6, false)]
  | .sampling => [(16, true), (18, true)]

/-- Non-zero handles of the block: offset, handle, output. -/
def MacroRun.blockHandles (m : MacroRun) : List (Nat × Nat × Bool) :=
  match m.block with
  | none => []
  | some (k, _) =>
    (k.handles.map (fun p => (p.1, m.blockField p.1 2 % 4096, p.2))).filter (fun p => p.2.1 ≠ 0)

/-! ## Field checks at plan (R334, R547) -/

namespace MacroRun

/-- BAD_FIELD at a bit of the slot. -/
def badField (m : MacroRun) (off : Nat) : Fail := ⟨0x0103, detail1 0 off 0xFF m.depth⟩

/-- A handle field that the operation does not use holds a handle. -/
def unused (m : MacroRun) : List (Bool × Nat) :=
  let fields := if m.slot = 2 then [20, 32, 44, 56, 68] else if m.slot = 3 then [44, 56, 68] else []
  (fields.filter (fun b => !m.opnds.any (fun o => o.bit = b) && !(m.isRig [9] && b = 56))).map
    (fun b => (decide (field m.bits b 12 ≠ 0), b))

/-- Values of the MODE fields and of TCLASS (R226, R276 to R278, R290, R309, R377, R547). -/
def modeChecks (m : MacroRun) : List (Bool × Nat) :=
  let tc := (m.tclass && m.op ≠ 1 && m.op ≠ 4, 5)
  let extreme : Bool := m.sop = 4 || m.sop = 5
  let gate : Bool := m.mode 10 1 = 1
  tc :: match m.op with
    | 0x01 => [(decide (m.mode 0 5 = 31), 105)]
    | 0x03 => [(decide (m.sop > 6), 105), (decide (m.mode 4 6 = 0), 109),
        (m.mode 10 1 = 1 && !extreme, 115), (m.mode 11 12 ≠ 0 && !extreme, 116)]
    | 0x04 => [(decide (m.mode 0 4 > 8), 105)]
    | 0x05 => [(decide (m.sop > 4), 105), (m.mode 6 1 = 1 && m.mode 5 1 = 0, 111),
        (m.mode 7 1 = 1 && m.sop ≠ 1 && m.sop ≠ 2, 112)]
    | 0x06 => [(decide (m.sop > 2), 105), (decide (m.mode 3 4 > 8), 108)]
    | 0x0B => [(m.mode 0 9 < 1 || m.mode 0 9 > (if gate then 32 else 256), 105),
        (m.mode 11 2 = 3 || (!gate && m.mode 11 2 ≠ 0), 116)]
    | 0x0D => [(decide (m.mode 0 4 > 8), 105)]
    | _ => []

/-- Values of RIG_MODE (R337). -/
def rigChecks (m : MacroRun) : List (Bool × Nat) :=
  match m.rig with
  | 5 => [(decide (m.rigMode 11 2 = 3), 91)]
  | 6 | 7 => [(decide (m.rigMode 0 2 = 3), 80),
      ((if m.rigMode 2 1 = 1 then m.rigMode 3 4 ≥ 12 else m.rigMode 3 4 ≠ 0), 83)]
  | 8 => [(decide (m.rigMode 3 2 = 3), 83), (decide (m.rigMode 5 2 = 3), 85)]
  | 11 => [(decide (m.rigMode 3 4 > 8), 83), (decide (m.rigMode 7 2 ≠ 0), 87)]
  | 12 => [(decide (m.rigMode 3 4 > 8), 83)]
  | _ => []

/-- The first field check that fails, by rising bit. -/
def fieldFail (m : MacroRun) (direct : Bool) : Option Fail :=
  let fs := if m.slot = 2 then m.modeChecks ++ m.unused else if m.slot = 3 then m.rigChecks ++ m.unused else []
  let low := (fs.filter Prod.fst).foldl (fun (b : Option Nat) f =>
    match b with | none => some f.2 | some k => some (min k f.2)) none
  if m.isRig [6, 7] && !direct then some ⟨0x0703, pack [(3, 1, m.rig)]⟩ else low.map m.badField

end MacroRun

/-! ## DESCRIPTOR_SNAPSHOT -/

/-- Companions of a descriptor. -/
def companionHandles (d : BitVec 1024) : List Nat :=
  ([field d 736 12, field d 752 12, field d 784 12]).filter (· ≠ 0)

/-- Take the snapshot of a macro: the descriptors it names, its parameter block, and the descriptors those name (R96, R228); `descs`: the
table as it stood before this beat's writes. -/
def MacroRun.snapshot (m : MacroRun) (descs : Table (BitVec 1024)) (mem : Memory) : MacroRun :=
  let get (h : Nat) : BitVec 1024 := if h = 0 then 0 else descs.get h 0
  let add (t : Table (BitVec 1024)) (h : Nat) : Table (BitVec 1024) := if h = 0 then t else t.set h (get h)
  let named := m.opnds.map Opnd.h
  let blocks : Table (List Byte) := match m.block with
    | some (k, h) => [(h, descBytes (get h) mem k.bytes)]
    | none => []
  let m := { m with blocks := blocks, snapped := true }
  let first := named ++ m.blockHandles.map (fun p => p.2.1)
  { m with descs := (first ++ first.flatMap (fun h => companionHandles (get h))).foldl add [] }

/-- The group size of rig 8's weights (R337). -/
def MacroRun.weights (m : MacroRun) (at_ : Nat) : Option Nat :=
  if m.isRig [8] && at_ = 20 then some (32 * 2 ^ m.rigMode 3 2) else none

/-- Checks 1 to 11 of R116 over the named descriptors. -/
def State.namedFail (s : State) (c : Fin 4) (m : MacroRun) : Option Fail :=
  firstFail (m.opnds.map (fun o =>
    if o.h = 0 then failIf o.req ⟨0x0204, detail2 0 0 0⟩ else s.descFail c m.descs o.h o.dst (m.weights o.bit)))

/-- The oldest macro of a stream for which `p` holds. -/
def Stream.firstRun (t : Stream) (p : MacroRun → Bool) : Option (Nat × MacroRun) :=
  ((List.range t.inflight.length).zip t.inflight).find? (fun e => p e.2)

/-- A VSHORT deals no tiles and has no plan (R185). -/
def MacroRun.isShort (m : MacroRun) : Bool := m.slot = 2 && m.op = 2

/-- Raise a failed check of a macro. -/
def State.raiseFail (s : State) (c : Fin 4) (m : MacroRun) (f : Fail) : State :=
  s.raise c { m.cause f.code with detail := f.detail }

/-- The byte ranges of a parameter block: one for each aligned block of 512 B that its bytes lie in. -/
def blockRanges (d : BitVec 1024) (n : Nat) : List (Int × Int) :=
  let at_ := (List.range n).map (fun i => ((field d 0 64 : Int) + sfield d 352 64 * (i : Int)) % 2 ^ 64)
  ((at_.map (· / 512)).eraseDups).map (fun b =>
    let l := at_.filter (· / 512 = b)
    (l.foldl min (l.headD 0), l.foldl max (l.headD 0)))

/-- Send reads of a parameter block as far as the pier has tags (R38, R45). -/
def State.readBlock (s : State) (c : Fin 4) (execute : Bool) (i id : Nat) (m : MacroRun) (r : BlockRead) : State :=
  let sp := s.spanOf r.pier
  let n := min r.todo.length sp.freeTags.length
  let s := s.setSpan r.pier (sp.sendReads c.val (execute, id, blockTile) (s.spanBeat r.pier) 0 r.todo)
  s.setRun c execute i { m with blockRead := some { r with todo := r.todo.drop n, out := r.out + n } }

/-- What the read of the descriptor store meets at a handle that the macro names: a single-bit error, corrected (R487), or a double-bit error in
the only copy, which halts (R488); `true` where it halts. -/
def State.storeRead (s : State) (c : Fin 4) (m : MacroRun) (errors : Fin 3) (handle : Nat) : State × Bool :=
  match s.lowestSpan c with
  | none => (s, false)
  | some span =>
    if errors = 0 || (m.descs.find handle).isNone then (s, false)
    else if errors = 1 then (s.corrected span c.val 4 0xFFFF handle, false)
    else
      let (syn, s) := s.takeFree
      let sp := s.spanOf span
      ((s.setSpan span { sp with uncorr := satAdd sp.uncorr 1 }).raise c
        { m.cause 0x0A05 with detail := hwDetail 4 span 0xFFFF syn.toNat handle }, true)

/-- DESCRIPTOR_SNAPSHOT (R96, R116, R547). A parameter block is read through the pier first (R228): the row sends its reads, and takes the snapshot
once they have been answered. `errors`, `handle`: what the descriptor store's check of one descriptor found. -/
def State.snapshotNext (s : State) (c : Fin 4) (execute : Bool) (errors : Fin 3) (handle : Nat) : State :=
  let x := s.ctxOf c
  match (x.stream execute).firstRun (fun m => !m.snapped && !m.isShort) with
  | none => s
  | some (i, m) =>
    if !s.inBeat c || i > 1 then s
    else
      let m' := m.snapshot (x.descsAt s.time.beat) ((m.blockRead.map BlockRead.seen).getD s.mem)
      let s' := s.setRun c execute i m'
      match firstFail [m.fieldFail x.cplMode, s'.namedFail c m'] with
      | some f => s'.raiseFail c m f
      | none =>
        match s.storeRead c m' errors handle with
        | (s, true) => s
        | (s, false) =>
          match m.block, m.blockRead, s.lowestSpan c with
          | some (k, h), none, some span =>
            if h = 0 then s.setRun c execute i m'
            else s.readBlock c execute i (8 * m.index + m.slot) m { pier := span, todo := blockRanges (m'.descs.get h 0) k.bytes }
          | _, some r, _ =>
            if r.todo.isEmpty && r.out = 0 then s.setRun c execute i m' else s.readBlock c execute i (8 * m.index + m.slot) m r
          | _, none, _ => s.setRun c execute i m'

/-- DESCRIPTOR_SNAPSHOT. -/
def execDescriptorSnapshot (c : Fin 4) (read : SnapshotRead) (s : State) : Host.Outcome State Fault Refusal :=
  .next (s.snapshotNext c read.execute read.errors read.handle.toNat)

end Sys2Proof.Machine
end

