-- ==== Sys2Proof/Machine/Draft.lean ====
section
/-! DEFINITION. What a macro's chapter says of its plan: the checks that follow R116, the iteration tensor, the allowed shapes,
the footprint of R199, and the inputs and outputs. Vector and access-stream macros here; the rigs in RigDraft.lean. -/

namespace Sys2Proof.Machine

/-- Sizes of the iteration space and how a macro is tiled over it. -/
structure Draft where
  /-- the first check of the opcode's chapter that fails -/
  fail : Option Fail := none
  /-- seven sizes: D0 to D5 and the linear axis of R193 -/
  sizes : List Nat
  inner : Nat := 0
  outer : Nat := 1
  shapes : List Nat := [0, 1, 2, 3, 4]
  deny : Nat := 0
  /-- lines of one tile of a × b (R199) -/
  foot : Nat → Nat → Nat
  /-- inputs and outputs, each with the place that names it: the bit of the slot, or 1000 and the byte of the block -/
  ins : List (Nat × Tensor)
  outs : List (Nat × Tensor)
  /-- pairs of an output and an input that may lie in place -/
  inPlace : List (Nat × Nat) := []
  hold : Bool := false
  /-- park lines of one tile (R285) -/
  park : Nat → Nat → Nat := fun _ _ => 0
  /-- dealt and bound as a halo macro (R218) -/
  halo : Bool := false
  seam : Bool := false
  rig : Bool := false
  /-- crew-bound rows although no hold point (R298) -/
  rowBound : Bool := false
  via : Nat := 0
  kind : Nat := 0
  /-- the D0 size that R390 compares with WIDTH, where it is not that of the iteration tensor -/
  width : Option Nat := none
  /-- banks a group needs -/
  banks : Nat := 0

/-! ## Checks -/

/-- Every size is the wanted one, or 1 where `bc` lets it broadcast (R236). -/
def shapeIs (t : Tensor) (want : List Nat) (bc : Bool) : Option Fail :=
  ((List.range 6).find? (fun k => t.d.size k ≠ want.getD k 1 && !(bc && t.d.size k = 1))).map
    (fun k => ⟨0x020A, detail2 t.d.handle (sizeOff k) 0⟩)

def shapeIs? (t : Option Tensor) (want : List Nat) (bc : Bool) : Option Fail :=
  match t with | some t => shapeIs t want bc | none => none

def fmtIs (t : Tensor) (f : Format) : Option Fail := failIf (t.d.fmt ≠ f) ⟨0x0202, detail2 t.d.handle 8 0⟩

def fmtIs? (t : Option Tensor) (f : Format) : Option Fail :=
  match t with | some t => fmtIs t f | none => none

/-- A per-row tensor: SIZE0 = 1, the other sizes as given, broadcasting where `bc`. -/
def perRow (t : Option Tensor) (f : Format) (sizes : List Nat) (bc : Bool) : Option Fail :=
  match t with
  | none => none
  | some t => firstFail [fmtIs t f, failIf (t.d.size 0 ≠ 1) ⟨0x020A, detail2 t.d.handle (sizeOff 0) 0⟩,
      shapeIs t (sizes.set 0 1) bc]

/-- A block descriptor: UINT8, rank 1, its size (R228, R303, R374, R381). -/
def blockDesc (t : Option Tensor) (bytes : Nat) : Option Fail :=
  match t with
  | none => none
  | some t => firstFail [fmtIs t .uint8, failIf (t.d.rank ≠ 1) ⟨0x0201, detail2 t.d.handle 10 0⟩,
      failIf (t.d.size 0 ≠ bytes) ⟨0x0201, detail2 t.d.handle (sizeOff 0) 0⟩]

/-! ## Footprints (R199) -/

/-- Lines of a tile at full width. -/
def fullLines (f : Format) : Nat := if f = .mask1 then 1 else f.bits + b2n f.isMx

/-- A record of `w` words for each row of the tile. -/
def recordLines (w a : Nat) : Nat := ceilDiv (4 * w * a) 256

/-- 1 line for a mask. -/
def maskLine (t : Tensor) : Nat := b2n t.mask.isSome

/-- Lines of an input or an output, whose sizes on the axes of the iteration tensor are `sz`, by the tile axes it varies along: an operand
of size 1 on a tile axis does not vary along it, whatever the iteration tensor's size there. None where a queue binds it. -/
def inputLines (sz inner : List Nat) (outer : Nat) (t : Tensor) (bound : Bool) (a b : Nat) : Nat :=
  let in1 := inner.all (fun k => at6 sz k = 1)
  let out1 := !inner.contains outer && at6 sz outer = 1
  (if bound then 0
   else if in1 && out1 then 1
   else if out1 then ceilDiv (4 * b) 256
   else if in1 then ceilDiv (4 * a) 256
   else fullLines t.d.fmt) + maskLine t

/-- Lines of an operand whose axes are those of the iteration tensor, with D0 the inner tile axis. -/
def operandLines (outer : Nat) (t : Tensor) (bound : Bool) (a b : Nat) : Nat := inputLines t.d.sizes [0] outer t bound a b

/-- Lines of an output with one element for each row of the tile. -/
def rowLines (t : Tensor) (a : Nat) : Nat := ceilDiv (4 * a) 256 + maskLine t

def linesOf? (f : Tensor → Nat) (t : Option Tensor) : Nat := match t with | some t => f t | none => 0

/-- Is the operand at a handle field bound to a queue? -/
def MacroRun.bound (m : MacroRun) (at_ : Nat) : Bool := m.opnds.any (fun o => o.bit = at_ && o.q ≠ 0)

/-- The tensors of a list of places that are there. -/
def MacroRun.named (m : MacroRun) (l : List Nat) : List (Nat × Tensor) :=
  l.filterMap (fun p => (if p < 1000 then m.tens p else m.blockTens (p - 1000)).map (fun t => (p, t)))

/-- Sizes with the linear axis at 1. -/
def plain7 (d : Flat) : List Nat := d.sizes ++ [1]

/-! ## Chains (R225, R234 to R237) -/

/-- The five handles of a chain program as companions of DST (R235): the checks of R116, then format, shape and handle fields. -/
def State.chainHandles (s : State) (c : Fin 4) (m : MacroRun) (p : Chain) (sizes : List Nat) : Option Fail :=
  let rowShape := [at6 sizes 0, 1, 1, 1, 1, 1]
  let one (off : Nat) (dst f32 : Bool) (row : Option Bool) (own : List Nat) : Option Fail :=
    match m.blockTens off with
    | none => none
    | some t =>
      let raw := m.descs.get t.d.handle 0
      firstFail ([s.descFail c m.descs t.d.handle dst none,
        if f32 then fmtIs t .binary32 else none,
        match row with
        | some true => shapeIs t rowShape false
        | some false => firstFail [failIf (t.d.size 0 ≠ 1) ⟨0x020A, detail2 t.d.handle (sizeOff 0) 0⟩, shapeIs t (sizes.set 0 1) true]
        | none => shapeIs t sizes false] ++
        own.map (fun o => failIf (decide (field raw (8 * o) 16 ≠ 0)) ⟨0x0204, detail2 t.d.handle o 0⟩))
  firstFail [one 72 false false (some true) [96, 98], one 74 false false (some false) [96, 98],
    one 76 false true (some (decide (p.oscaleMode ≠ 2))) [92, 94, 96, 98], one 78 false true (some true) [92, 94, 96, 98],
    one 80 true false none []]

/-- BAD_CHAIN of a program's check. -/
def MacroRun.chainFail (m : MacroRun) (p : Chain) (bound : Nat → Bool) (tclass : Bool) : Option Fail :=
  (p.check bound (b2n tclass)).map (fun f => ⟨0x010A, detail1 ((m.block.map Prod.snd).getD 0) f.2 f.1 m.depth⟩)

/-- Lines of the vectors of a program and of its tap: each by the tile axes it varies along (R199, R235). -/
def chainVectors (m : MacroRun) (p : Chain) (a b : Nat) : Nat :=
  let at_ := [72, 74, 78, 80] ++ (if p.oscaleMode = 2 || p.oscaleMode = 3 then [76] else [])
  (at_.map (fun off => linesOf? (fun t => operandLines 1 t false a b) (m.blockTens off))).sum

/-- Inputs that a stage after the hold point reads. -/
def Chain.readsAfterHold (p : Chain) (k : Nat) : Bool :=
  ((p.stages).drop (p.hs + 1)).any (fun w => w.used.contains (k + 2))

/-- VEW. -/
def draftVew (s : State) (c : Fin 4) (m : MacroRun) (d : Tensor) : Draft :=
  let p := m.chain
  let ins := m.named [20, 32, 44, 56]
  let sizes := plain7 d.d
  let lines (t : Nat × Tensor) (a b : Nat) := operandLines 1 t.2 (m.bound t.1) a b
  { fail := firstFail ([blockDesc (m.tens 68) 128, m.chainFail p (fun k => (m.tens (20 + 12 * k)).isSome) m.tclass,
      s.chainHandles c m p d.d.sizes] ++ ins.map (fun t => shapeIs t.2 d.d.sizes true))
    sizes := sizes, deny := m.mode 0 5
    foot := fun a b => operandLines 1 d (m.bound 8) a b + (ins.map (fun t => lines t a b)).sum +
      chainVectors m p a b
    ins := ins ++ m.named [1072, 1074, 1076, 1078, 68], outs := (8, d) :: m.named [1080]
    inPlace := [8, 1080].flatMap (fun o => [20, 32, 44, 56].map (fun i => (o, i)))
    hold := p.hold
    park := fun a b => 32 + ((ins.filter (fun t => p.readsAfterHold ((t.1 - 20) / 12))).map (fun t => lines t a b - maskLine t.2)).sum +
      b2n ((d :: ins.map Prod.snd).any (fun t => t.mask.isSome))
    via := p.via, kind := b2n m.tclass }

/-- VCVT (R548) and VPERM (R364, R365). -/
def draftCopy (m : MacroRun) (d x : Tensor) : Draft :=
  let perm (k : Nat) : Nat := m.mode (3 * k) 3
  let isPerm := m.op = 8
  let r := d.d.rank
  let sizes := plain7 d.d
  let moved := isPerm && perm 0 ≠ 0
  let outer := if moved then ((List.range 6).find? (fun k => perm k = 0)).getD 1 else 1
  let illegal : Option Nat := (List.range 6).find? (fun k =>
    (k ≥ r && perm k ≠ k) || (k < r && (perm k ≥ r || (List.range k).any (fun j => perm j = perm k))))
  { fail := if isPerm then
        firstFail [failIf (x.d.rank ≠ r) ⟨0x0103, detail1 0 105 0xFF m.depth⟩,
          illegal.map (fun k => m.badField (105 + 3 * k)),
          ((List.range 6).find? (fun k => d.d.size k ≠ x.d.size (perm k))).map (fun k => ⟨0x020A, detail2 d.d.handle (sizeOff k) 0⟩)]
      else shapeIs x d.d.sizes true
    sizes := sizes, outer := outer, shapes := if moved then [3, 4] else [0, 1, 2, 3, 4]
    foot := fun a b => inputLines d.d.sizes [0] outer d (m.bound 8) a b +
      inputLines (if isPerm then d.d.sizes else x.d.sizes) [0] outer x (m.bound 20) a b
    ins := [(20, x)], outs := [(8, d)], inPlace := if isPerm then [] else [(8, 20)] }

/-! ## Reductions (R277 to R283, R289 to R297) -/

/-- Reduced axes of a VRED. -/
def MacroRun.redAxes (m : MacroRun) : List Nat := (List.range 6).filter (fun k => m.mode 4 6 / 2 ^ k % 2 = 1)

/-- The seven sizes of a reduction over `red`, with its inner and outer axes (R193). A source that is empty on a reduced axis
takes its destination (R101). -/
def reductionSpace (sizes dst : List Nat) (red : List Nat) : List Nat × Nat × Nat :=
  let kept := (List.range 6).filter (fun k => !red.contains k)
  let outer (i : Nat) := (kept.find? (fun k => k ≠ i)).getD (if i = 0 then 1 else 0)
  if red.any (fun k => at6 sizes k = 0) then
    let i := red.headD 0
    (dst ++ [1], i, outer i)
  else match red with
    | [r] => (sizes ++ [1], r, outer r)
    | _ => ((List.range 6).map (fun k => if red.contains k then 1 else at6 sizes k) ++
        [(red.map (at6 sizes)).foldl (· * ·) 1], 6, outer 6)

/-- VRED. -/
def draftRed (m : MacroRun) (d x : Tensor) : Draft :=
  let red := m.redAxes
  let want := (List.range 6).map (fun k => if red.contains k then 1 else x.d.size k)
  let (sizes, inner, outer) := reductionSpace x.d.sizes d.d.sizes red
  let n := (red.map (fun k => x.d.size k)).foldl (· * ·) 1
  let x1 := if m.sop = 2 then m.tens 32 else none
  let ix := if m.sop = 4 || m.sop = 5 then m.tens 116 else none
  let st := m.tens 56
  { fail := firstFail [failIf (red.any (fun k => k ≥ x.d.rank)) (m.badField 109),
      failIf (ix.isSome && n > 0xFFFFFFFE) (m.badField 116),
      shapeIs d want false, shapeIs? x1 x.d.sizes true, fmtIs? ix .int32, shapeIs? ix want false,
      fmtIs? st .uint8, shapeIs? st want false]
    sizes := sizes, inner := inner, outer := outer, shapes := if red.length > 1 then [0] else [0, 1, 2, 3, 4]
    foot := fun a b => inputLines x.d.sizes red outer x (m.bound 20) a b +
      linesOf? (fun t => inputLines t.d.sizes red outer t (m.bound 32) a b) x1 +
      (if m.bound 8 then maskLine d else rowLines d a) + (([ix, st].filterMap id).map (rowLines · a)).sum
    ins := (20, x) :: (if m.sop = 2 then m.named [32] else [])
    outs := (8, d) :: (m.named [56] ++ (if ix.isSome then m.named [116] else [])) }

/-- The value of VSTAT's PARAM. -/
def statEps (m : MacroRun) (mem : Memory) : Word := match m.tens 68 with | some t => (t.word mem false [0, 0, 0, 0, 0, 0]).1 | none => 0

/-- VSTAT. -/
def draftStat (m : MacroRun) (mem : Memory) (d x : Tensor) : Draft :=
  let st := m.tens 56
  let p := m.tens 68
  let (sizes, inner, outer) := reductionSpace x.d.sizes d.d.sizes [0]
  let e := val32 (statEps m mem)
  { fail := firstFail [fmtIs d .binary32, shapeIs d (x.d.sizes.set 0 8) false, fmtIs? st .uint8,
      shapeIs? st (x.d.sizes.set 0 1) false, fmtIs? p .binary32,
      match p with
      | some t => failIf (t.d.rank ≠ 1) ⟨0x020A, detail2 t.d.handle 10 0⟩
      | none => none,
      shapeIs? p [1, 1, 1, 1, 1, 1] false,
      failIf (match e with | .fin n k _ _ => n && k ≠ 0 | _ => true) (m.badField 68)]
    sizes := sizes, inner := inner, outer := outer
    foot := fun a b => operandLines outer x (m.bound 20) a b + (if m.bound 8 then 0 else recordLines 8 a) + maskLine d +
      linesOf? (rowLines · a) st
    ins := (20, x) :: m.named [68], outs := (8, d) :: m.named [56]
    via := m.mode 0 4, kind := b2n m.tclass, width := some (x.d.size 0) }

/-- VSCAN (R290 to R294). -/
def draftScan (m : MacroRun) (d x : Tensor) : Draft :=
  let lr := m.sop = 4
  let sizes := plain7 d.d
  let b := if lr then m.tens 32 else none
  let h := if lr then m.tens 44 else none
  let lower := m.mode 5 1 = 1 && m.mode 6 1 = 0
  let n1 := d.d.size 1
  { fail := firstFail [shapeIs x d.d.sizes true, shapeIs? b d.d.sizes true, shapeIs? h (d.d.sizes.set 1 1) false,
      failIf (lower && n1 ≠ 2 ^ (bitLen n1 - 1)) (m.badField 110)]
    sizes := sizes, shapes := if lr then [4] else [3, 4]
    foot := fun a b' => operandLines 1 d (m.bound 8) a b' + operandLines 1 x (m.bound 20) a b' +
      linesOf? (fun t => operandLines 1 t (m.bound 32) a b') b + linesOf? (fun t => operandLines 1 t false a b') h
    ins := (20, x) :: (if lr then m.named [32, 44] else []), outs := [(8, d)], halo := true, seam := m.mode 5 1 = 1 }

/-- VSORT (R297, R298). -/
def draftSort (m : MacroRun) (d x : Tensor) : Draft :=
  let ix := m.tens 107
  let n := x.d.size 0
  let shape := if n ≤ 32 then 4 else if n ≤ 64 then 3 else if n ≤ 128 then 2 else if n ≤ 256 then 1 else 0
  { fail := firstFail [failIf (n > 4096) ⟨0x0201, detail2 x.d.handle (sizeOff 0) 0⟩, shapeIs d x.d.sizes false,
      fmtIs? ix .int32, shapeIs? ix x.d.sizes false]
    sizes := plain7 x.d, shapes := [shape]
    foot := fun a b => operandLines 1 x (m.bound 20) a b + operandLines 1 d (m.bound 8) a b +
      linesOf? (fun t => operandLines 1 t false a b) ix
    ins := [(20, x)], outs := (8, d) :: m.named [107], rowBound := true }

/-! ## Softmax (R303 to R309, R313, R323, R549) -/

/-- Fields of SMX_HDR and of the block. -/
def MacroRun.maskKind (m : MacroRun) : Nat := m.blockField 0 4 % 8
def MacroRun.lseEn (m : MacroRun) : Bool := m.blockField 0 4 / 8 % 2 = 1
def MacroRun.logOut (m : MacroRun) : Bool := m.blockField 0 4 / 16 % 2 = 1

/-- The checks of R308: the offset of the first failing field. `use`: 0 VSMX FWD, 1 COMBINE, 2 BWD, 3 an attention rig,
4 rig 13. -/
def softmaxFail (m : MacroRun) (use : Nat) : Option Fail :=
  let f := m.blockField
  let hdr := f 0 4
  let kind := m.maskKind
  let s := val32 (m.blockWord 4)
  let within (v : Nat) (on : Bool) : Bool := if on then 1 ≤ v && v ≤ 0x80000000 else v = 0
  let masked := use = 0 || use = 3
  let h (o : Nat) := f o 2
  let checks : List (Bool × Nat) :=
    [(hdr / 32 ≠ 0 || kind > 4 || (m.logOut && use ≠ 0) || (kind ≠ 0 && !masked) || (use = 4 && hdr ≠ 0), 0),
     ((match s with | .fin n k _ _ => n || k = 0 | _ => true), 4),
     (use = 4 && f 8 4 ≠ 0, 8), (use = 4 && f 12 4 ≠ 0, 12),
     (!within (f 16 4) (kind = 2), 16), (!within (f 20 4) (kind = 3 || kind = 4), 20),
     (h 24 / 4096 ≠ 0 || (h 24 ≠ 0 && !masked), 24), (h 26 / 4096 ≠ 0 || (h 26 ≠ 0 && !masked), 26),
     (h 28 / 4096 ≠ 0 || (use ≥ 2 && use ≠ 3 && h 28 ≠ 0) || (decide (h 28 ≠ 0) != m.lseEn), 28),
     (decide (h 30 / 4096 ≠ 0), 30), (decide (ofLe ((m.blockBytes.drop 32).take 32) ≠ 0), 32)]
  ((checks.find? Prod.fst).map Prod.snd).map (fun o => ⟨0x010B, detail1 ((m.block.map Prod.snd).getD 0) o 0xFF m.depth⟩)

/-- The companions of a softmax block against the row shape (R307); `lse`: the shape that LSE_H must have instead. -/
def State.softmaxHandles (s : State) (c : Fin 4) (m : MacroRun) (rows : List Nat) (lse : Option (List Nat)) : Option Fail :=
  let named (off : Nat) (dst : Bool) : Option Fail :=
    match m.blockTens off with | some t => s.descFail c m.descs t.d.handle dst none | none => none
  firstFail [named 24 false, perRow (m.blockTens 24) .int32 rows true, named 26 false, perRow (m.blockTens 26) .int32 rows true,
    named 28 true,
    (match lse with
     | none => perRow (m.blockTens 28) .binary32 rows false
     | some z => firstFail [fmtIs? (m.blockTens 28) .binary32, shapeIs? (m.blockTens 28) z false]),
    named 30 true, perRow (m.blockTens 30) .uint8 rows false]

/-- ceil(log2 n). -/
def log2Up (n : Nat) : Nat := bitLen (n - 1)

/-- VSMX. -/
def draftSmx (s : State) (c : Fin 4) (m : MacroRun) (d x : Tensor) : Draft :=
  let sop := m.sop
  let y := m.tens 32
  let dd := if sop = 2 then m.tens 44 else none
  let rows := if sop = 1 then d.d.sizes else x.d.sizes
  let sizes := plain7 d.d
  let chunks := x.d.size 1
  let perIn := ([m.blockTens 24, m.blockTens 26, dd]).filterMap id
  let perOut := ([m.blockTens 28, m.blockTens 30]).filterMap id
  let whole := sop = 0 || (sop = 2 && dd.isNone)
  { fail := firstFail
      [blockDesc (m.tens 68) 64, softmaxFail m sop, s.softmaxHandles c m rows none,
       if sop = 1 then
         firstFail [fmtIs x .binary32, fmtIs? y .binary32, shapeIs x ((d.d.sizes).set 1 chunks) false,
           shapeIs? y (((d.d.sizes).set 1 chunks).set 0 2) false, failIf (d.d.size 1 ≠ 1) ⟨0x020A, detail2 d.d.handle (sizeOff 1) 0⟩]
       else
         firstFail [shapeIs d x.d.sizes false, shapeIs? y x.d.sizes true, perRow dd .binary32 x.d.sizes true]]
    sizes := sizes
    foot := fun a b =>
      if sop = 1 then (if m.bound 20 then 0 else fullLines x.d.fmt) + recordLines 2 a + 32 * log2Up chunks
      else operandLines 1 d (m.bound 8) a b + operandLines 1 x (m.bound 20) a b + linesOf? (fun t => operandLines 1 t (m.bound 32) a b) y +
        (perIn.map (fun t => operandLines 1 t false a b)).sum + (perOut.map (rowLines · a)).sum
    ins := (20, x) :: m.named ([32] ++ (if sop = 2 then [44] else []) ++ [1024, 1026, 68])
    outs := (8, d) :: m.named [1028, 1030]
    hold := whole
    park := fun _ _ => if m.mode 7 1 = 1 then 0 else 32 + b2n (d.mask.isSome || x.mask.isSome || (match y with | some t => t.mask.isSome | none => false))
    via := m.mode 3 4, kind := 2 }

/-! ## Routing (R366 to R381) -/

/-- VGATH. -/
def draftGath (m : MacroRun) (d x ix : Tensor) : Draft :=
  let combine := m.sop = 1
  let w := if combine then m.tens 44 else none
  let above (t : Tensor) : List Nat := t.d.sizes.tail
  let want := x.d.size 0 :: (if combine then (above ix).set 0 1 else above ix)
  { fail := firstFail [fmtIs ix .int32, failIf (ix.d.size 0 < 1 || ix.d.size 0 > 2) ⟨0x020A, detail2 ix.d.handle (sizeOff 0) 0⟩,
      shapeIs d want false, fmtIs? w .binary32, shapeIs? w (1 :: above ix) false]
    sizes := plain7 d.d
    foot := fun a b => operandLines 1 d (m.bound 8) a b + inputLines d.d.sizes [0] 1 x false a b +
      recordLines (ix.d.size 0) a + maskLine ix + linesOf? (fun t => operandLines 1 t false a b) w
    ins := [(20, x), (32, ix)] ++ (if combine then m.named [44] else []), outs := [(8, d)] }

/-- The checks of R374 on a rotary block: `width` is the head width. -/
def rotaryFail (m : MacroRun) (width : Nat) : Option Fail :=
  let f := m.blockField
  let checks : List (Bool × Nat) :=
    [(decide (f 0 1 > 1), 0), (decide (f 1 1 ≠ 0), 1), (f 2 2 < 2 || f 2 2 > width || f 2 2 % 2 ≠ 0, 2),
     (f 4 2 = 0 || f 4 2 / 4096 ≠ 0, 4), (decide (f 6 2 / 4096 ≠ 0), 6),
     (decide (ofLe (m.blockBytes.drop 8) ≠ 0), 8)]
  ((checks.find? Prod.fst).map Prod.snd).map (fun o => ⟨0x010C, detail1 ((m.block.map Prod.snd).getD 0) o 0xFF m.depth⟩)

/-- The rotary block's tensors: THETA_H, and POS_H per row of shape `rows` (R374). -/
def State.rotaryHandles (s : State) (c : Fin 4) (m : MacroRun) (rows : List Nat) : Option Fail :=
  let named (off : Nat) : Option Fail :=
    match m.blockTens off with | some t => s.descFail c m.descs t.d.handle false none | none => none
  firstFail [named 4, fmtIs? (m.blockTens 4) .binary32,
    (m.blockTens 4).bind (fun t => failIf (t.d.rank ≠ 1) ⟨0x020A, detail2 t.d.handle 10 0⟩), shapeIs? (m.blockTens 4) [m.blockField 2 2 / 2, 1, 1, 1, 1, 1] false,
    named 6, perRow (m.blockTens 6) .int32 rows true]

/-- Rows of a scatter destination (R370): the pool's rows for PAGED. -/
def Flat.rowCount (d : Flat) : Nat :=
  if d.paged then d.pool * d.rows * d.size 3 * d.size 4 * d.size 5 else d.sizes.tail.foldl (· * ·) 1

/-- VSCAT. -/
def draftScat (s : State) (c : Fin 4) (m : MacroRun) (d x ix : Tensor) : Draft :=
  let rows := x.d.size 0 :: ix.d.sizes.tail
  let rotary := m.block.isSome
  { fail := firstFail [fmtIs ix .int32, failIf (ix.d.size 0 < 1 || ix.d.size 0 > 2) ⟨0x020A, detail2 ix.d.handle (sizeOff 0) 0⟩,
      failIf (d.d.size 0 ≠ x.d.size 0) ⟨0x020A, detail2 d.d.handle (sizeOff 0) 0⟩, shapeIs x rows true,
      failIf (m.sop = 0 && d.d.rowCount > 2 ^ 20) ⟨0x0201, detail2 d.d.handle (sizeOff 1) 0⟩,
      if rotary then firstFail [blockDesc (m.tens 68) 32, rotaryFail m (x.d.size 0), s.rotaryHandles c m rows] else none]
    sizes := rows ++ [1]
    foot := fun a b => inputLines rows [0] 1 d (m.bound 8) a b + operandLines 1 x (m.bound 20) a b + recordLines (ix.d.size 0) a + maskLine ix +
      (if rotary then linesOf? (fun t => operandLines 1 t false a b) (m.blockTens 4) +
        linesOf? (fun t => operandLines 1 t false a b) (m.blockTens 6) else 0)
    ins := [(20, x), (32, ix)] ++ (if rotary then m.named [68, 1004, 1006] else []), outs := [(8, d)] }

/-- VTOPK (R376, R377). -/
def draftTopk (m : MacroRun) (d x : Tensor) (mem : Memory) : Draft :=
  let gate := m.mode 10 1 = 1
  let k := m.mode 0 9
  let bias := if gate then m.tens 32 else none
  let vals := m.tens 44
  let st := if gate then m.tens 56 else none
  let cap := if gate then m.tens 68 else none
  let above := x.d.sizes.tail
  let tokens := above.foldl (· * ·) 1
  let (sizes, inner, outer) := reductionSpace x.d.sizes d.d.sizes [0]
  let dsz := if gate then 2 :: k :: above.take 4 else k :: above
  { fail := firstFail
      [failIf (gate && x.d.size 0 > 1024) (m.badField 105), failIf (gate && tokens > 65536) (m.badField 105),
       failIf (x.d.size 0 > 1048576) ⟨0x0201, detail2 x.d.handle (sizeOff 0) 0⟩,
       fmtIs d .int32, failIf (gate && at6 x.d.sizes 5 ≠ 1) ⟨0x020A, detail2 x.d.handle (sizeOff 5) 0⟩, shapeIs d dsz false,
       fmtIs? bias .binary32, shapeIs? bias [x.d.size 0, 1, 1, 1, 1, 1] false, shapeIs? vals (k :: above) false,
       perRow st .uint8 x.d.sizes false, fmtIs? cap .int32,
       (match cap with | some t => failIf (t.d.rank ≠ 1) ⟨0x020A, detail2 t.d.handle 10 0⟩ | none => none),
       shapeIs? cap [1, 1, 1, 1, 1, 1] false,
       (match cap with | some t => failIf (t.int mem [0, 0, 0, 0, 0, 0] < 1) (m.badField 68) | none => none)]
    sizes := sizes, inner := inner, outer := outer
    foot := fun a b => operandLines outer x (m.bound 20) a b + linesOf? (fun t => inputLines t.d.sizes [0] outer t false a b) bias +
      recordLines (if gate then 2 * k else k) a + maskLine d + linesOf? (fun t => recordLines k a + maskLine t) vals +
      linesOf? (rowLines · a) st
    ins := (20, x) :: (if gate then m.named [32, 68] else []), outs := (8, d) :: m.named (if gate then [44, 56] else [44]) }

/-- The checks of R381 on a sampling block. -/
def samplingFail (m : MacroRun) : Option Fail :=
  let f := m.blockField
  let t := val32 (m.blockWord 4)
  let p := val32 (m.blockWord 8)
  let greedy := f 2 1 / 2 % 2 = 1
  let topp := f 2 1 % 2 = 1
  let pos (v : XVal) : Bool := match v with | .fin n k _ _ => !n && k ≠ 0 | _ => false
  let checks : List (Bool × Nat) :=
    [(decide (f 0 2 > 256), 0), (decide (f 2 1 > 3), 2), (decide (f 3 1 ≠ 0), 3),
     (if greedy then decide (m.blockWord 4 ≠ 0#32) else !pos t, 4),
     (if topp then !(pos p && !XVal.lt false .one p) else decide (m.blockWord 8 ≠ 0#32), 8),
     (decide (f 16 2 / 4096 ≠ 0), 16), (decide (f 18 2 / 4096 ≠ 0), 18), (decide (ofLe (m.blockBytes.drop 20) ≠ 0), 20)]
  ((checks.find? Prod.fst).map Prod.snd).map (fun o => ⟨0x010C, detail1 ((m.block.map Prod.snd).getD 0) o 0xFF m.depth⟩)

/-- Candidates K of a sampling block. -/
def MacroRun.topK (m : MacroRun) : Nat := if m.blockField 0 2 = 0 then 256 else m.blockField 0 2

/-- The sampling block's tensors over rows of shape `rows` (R381). -/
def State.samplingHandles (s : State) (c : Fin 4) (m : MacroRun) (rows : List Nat) : Option Fail :=
  let named (off : Nat) : Option Fail :=
    match m.blockTens off with | some t => s.descFail c m.descs t.d.handle true none | none => none
  firstFail [named 16, perRow (m.blockTens 16) .binary32 rows false, named 18, fmtIs? (m.blockTens 18) .int32,
    shapeIs? (m.blockTens 18) (rows.set 0 m.topK) false]

/-- VSAMP. -/
def draftSamp (s : State) (c : Fin 4) (m : MacroRun) (d x : Tensor) : Draft :=
  let (sizes, inner, outer) := reductionSpace x.d.sizes d.d.sizes [0]
  { fail := firstFail [blockDesc (m.tens 68) 64, samplingFail m, s.samplingHandles c m x.d.sizes,
      perRow (some d) .int32 x.d.sizes false, failIf (x.d.size 0 > 1048576) ⟨0x0201, detail2 x.d.handle (sizeOff 0) 0⟩]
    sizes := sizes, inner := inner, outer := outer
    foot := fun a b => operandLines outer x (m.bound 20) a b + rowLines d a + linesOf? (rowLines · a) (m.blockTens 16) +
      linesOf? (fun t => recordLines m.topK a + maskLine t) (m.blockTens 18)
    ins := (20, x) :: m.named [68], outs := (8, d) :: m.named [1016, 1018], via := m.mode 0 4, kind := 4
    width := some (x.d.size 0) }

/-! ## Access stream (R136, R177 to R179) -/

/-- Does every crew take or give the whole tensor (R177)? -/
def wholeTensor (d : Flat) : Bool := d.rank = 1 || d.size (d.rank - 1) = 1

/-- Words of one slice. -/
def sliceWords (d : Flat) : Nat :=
  let n := d.sizes.foldl (· * ·) 1
  if wholeTensor d then n else n / max 1 (d.size (d.rank - 1))

/-- LD, LDA and ST. -/
def draftAccess (x : Ctx) (m : MacroRun) (d : Tensor) (crews : Nat) : Draft :=
  let b := x.bay m.bay
  let load := m.slot = 4
  let top := sizeOff (d.d.rank - 1)
  let badTop := d.d.size (d.d.rank - 1) ≠ crews
  { fail :=
      if m.target = 1 then
        firstFail [failIf (m.isLda && m.count > 255) (m.badField 34),
          failIf (b.mode ≠ 1) ⟨0x0108, detail1 0 (if m.isLda then 34 else 22) 0xFF m.depth⟩,
          failIf (if load then !wholeTensor d.d && badTop else d.d.rank < 2 || badTop) ⟨0x0201, detail2 d.d.handle top 0⟩,
          failIf (sliceWords d.d > 64 * b.lines) ⟨0x0107, detail1 d.d.handle 0 0xFF m.depth⟩]
      else if m.target = 2 then
        firstFail [failIf (d.d.fmt ≠ .uint8) ⟨0x0201, detail2 d.d.handle 8 0⟩, failIf (d.d.rank ≠ 2) ⟨0x0201, detail2 d.d.handle 10 0⟩,
          failIf (d.d.size 0 ≠ 128) ⟨0x0201, detail2 d.d.handle (sizeOff 0) 0⟩,
          failIf (d.d.size 1 ≠ m.count) ⟨0x0201, detail2 d.d.handle (sizeOff 1) 0⟩]
      else none
    sizes := plain7 d.d
    foot := fun a b => operandLines 1 d false a b
    ins := if load then [(10, d)] else [], outs := if load then [] else [(10, d)] }

end Sys2Proof.Machine
end

