-- ==== Sys2Proof/Machine/RigDraft.lean ====
section
/-! DEFINITION. What the rigs' chapter says of a plan (12 R326 to R362): formats, shapes, the output block, the banks, and the
footprint. -/

namespace Sys2Proof.Machine

/-! ## Formats (R327) -/

def Format.isFp8 (f : Format) : Bool := f = .e4m3 || f = .e5m2

/-- The format of a PFMT, IFMT or OPFMT code. -/
def pfmt (code : Nat) : Format := match code with | 0 => .bfloat16 | 1 => .e4m3 | _ => .e5m2

/-- May two operands meet in one product? -/
def partners (a b : Format) : Bool := (a = .bfloat16 && b = .bfloat16) || (a.isFp8 && b.isFp8)

/-- BAD_FORMAT of an operand. -/
def badFormat (t : Tensor) : Fail := ⟨0x0202, detail2 t.d.handle 8 0⟩

/-- A plain operand against its partner's format. -/
def plainOperand (t : Tensor) (partner : Format) : Option Fail := failIf (!partners t.d.fmt partner) (badFormat t)

/-- A plain A operand. -/
def plainA (t : Tensor) : Option Fail := failIf (!(t.d.fmt = .bfloat16 || t.d.fmt.isFp8)) (badFormat t)

/-- A gathered row of rig 7: it may be FP8 beside a bfloat16 partner. -/
def gatheredRow (t : Tensor) (partner : Format) : Option Fail :=
  failIf (!(partners t.d.fmt partner || (partner = .bfloat16 && t.d.fmt.isFp8))) (badFormat t)

/-- Weights of rig 8. -/
def weightFormat (f : Format) : Bool := f = .int4 || f = .uint4 || f = .int8 || f = .uint8 || f.isLut

/-! ## Shapes (R336) -/

/-- A product's B operand: D0 = K, D1 as given, and above D1 the sizes of A or 1. -/
def productB (a b : Tensor) (n : Option Nat) : Option Fail :=
  let bad (k : Nat) : Fail := ⟨0x020A, detail2 b.d.handle (sizeOff k) 0⟩
  firstFail ([failIf (b.d.size 0 ≠ a.d.size 0) (bad 0),
      match n with | some n => failIf (b.d.size 1 ≠ n) (bad 1) | none => none] ++
    [2, 3, 4, 5].map (fun k => failIf (b.d.size k ≠ a.d.size k && b.d.size k ≠ 1) (bad k)))

/-- Banks a group needs (the rig table). -/
def rigBanks (rig g d : Nat) : Nat :=
  match rig with
  | 4 => 4 * g
  | 5 => 4 * g + 2
  | 6 | 7 => 2 + ceilDiv d 64
  | 9 => 2
  | _ => 2 * g

/-- Output tiles of a resident group. -/
def MacroRun.nres (m : MacroRun) : Nat := if m.isRig [9] then 1 else m.rigMode 0 3 + 1

/-! ## The output block (R338) -/

/-- The checks of the output block: only the scale and the bias may be set. -/
def MacroRun.outputFail (m : MacroRun) : Option Fail :=
  let p := m.chain
  let bad (off : Nat) : Fail := ⟨0x010A, detail1 ((m.block.map Prod.snd).getD 0) off 0xFF m.depth⟩
  let hdr : Bool := field p.bits 0 16 ≠ 0 || field p.bits 19 13 ≠ 0
  let early : List (Bool × Nat) :=
    [(hdr, 0), (decide (p.eps ≠ 0#32), 4)] ++ (List.range 8).map (fun k => (decide ((p.stage k).bits ≠ 0#32), 8 + 4 * k)) ++
    (List.range 8).map (fun k => (decide (p.const k ≠ 0#32), 40 + 4 * k)) ++
    [(decide (field p.bits 576 16 ≠ 0), 72), (decide (field p.bits 592 16 ≠ 0), 74), (decide (field p.bits 620 4 ≠ 0), 76),
     (decide (field p.bits 636 4 ≠ 0), 78), (decide (field p.bits 640 16 ≠ 0), 80), (decide (field p.bits 656 16 ≠ 0), 82),
     (decide (field p.bits 704 320 ≠ 0), 88)]
  (((early.find? Prod.fst).map Prod.snd).or p.outputFail).map bad

/-! ## Drafts -/

/-- The parts all rigs share. -/
def rigBase (m : MacroRun) (sizes : List Nat) (outs ins : List (Nat × Tensor)) : Draft :=
  { sizes := sizes ++ [1], shapes := [3], foot := fun _ _ => 0, ins := ins, outs := outs, rig := true
    banks := rigBanks m.rig m.nres (at6 sizes 0) }

/-- Lines of a rig tile: the staged accumulator, the output, and the inputs through the pier. -/
def rigFoot (outer : Nat) (out : Tensor) (ts : List Tensor) (extra : Nat → Nat → Nat) (a b : Nat) : Nat :=
  32 + operandLines outer out false a b + (ts.map (fun t => operandLines outer t false a b)).sum + extra a b

/-- Rigs 0, 1, 8 and 9 (R339, R355, R356). -/
def draftPlain (s : State) (c : Fin 4) (m : MacroRun) (a b out : Tensor) : Draft :=
  let sizes := b.d.size 1 :: a.d.sizes.tail
  let res := m.tens 44
  let p := m.chain
  let base := rigBase m sizes [(32, out)] ([(8, a), (20, b)] ++ m.named [44, 68, 1076, 1078])
  let mt := ceilDiv (a.d.size 1) 64
  { base with
    fail := firstFail
      [plainA a,
       if m.rig = 8 then firstFail [failIf (!weightFormat b.d.fmt) (badFormat b), plainOperand a (pfmt (m.rigMode 5 2))]
       else plainOperand b a.d.fmt,
       productB a b none, shapeIs out sizes false, (res.bind (fun t => shapeIs t sizes true)),
       blockDesc (m.tens 68) 128,
       (if m.block.isSome then (m.outputFail).or (s.chainHandles c m p sizes) else none),
       failIf (m.rig = 9 && field m.bits 56 12 + mt > 4096) (m.badField 56)]
    foot := rigFoot 1 out res.toList (chainVectors m p)
    inPlace := [(32, 44)] }

/-- Rigs 2 to 5 (R348 to R351). -/
def draftChain (s : State) (c : Fin 4) (m : MacroRun) (a b out : Tensor) : Draft :=
  let p := m.chain
  let five := m.rig = 5
  let up := if m.rig = 4 || five then m.tens 44 else none
  let down := if five then m.tens 56 else none
  let acc := b.d.size 1 :: a.d.sizes.tail
  let sizes := match down with | some t => t.d.size 1 :: a.d.sizes.tail | none => acc
  let in1 := if m.rig = 2 || m.rig = 3 then m.tens 44 else none
  let in2 := if five then none else m.tens 56
  let bound (k : Nat) : Bool := match k with
    | 0 => true
    | 1 => up.isSome || in1.isSome
    | 2 => in2.isSome
    | _ => false
  let hdr (off st : Nat) : Fail := ⟨0x010A, detail1 ((m.block.map Prod.snd).getD 0) off st m.depth⟩
  let bay := m.rigMode 3 8
  let x := (s.ctxOf c).bay bay
  let ib := if m.rigMode 11 2 = 0 then 2 else 1
  let ins := [(8, a), (20, b)] ++ m.named [44, 56, 68, 1072, 1074, 1076, 1078]
  let base := rigBase m sizes ((32, out) :: m.named [1080]) ins
  { base with
    fail := firstFail
      ([failIf (five && x.mode ≠ 1) ⟨0x0108, detail1 0 83 0xFF m.depth⟩,
       plainA a, plainOperand b a.d.fmt, up.bind (fun t => plainOperand t a.d.fmt),
       down.bind (fun t => plainOperand t (pfmt (m.rigMode 11 2))),
       productB a b none, up.bind (fun t => productB a t (some (b.d.size 1))),
       down.bind (fun t => firstFail
         [failIf (t.d.size 0 ≠ b.d.size 1) ⟨0x020A, detail2 t.d.handle (sizeOff 0) 0⟩,
          ([2, 3, 4, 5].find? (fun k => t.d.size k ≠ a.d.size k && t.d.size k ≠ 1)).map
            (fun k => ⟨0x020A, detail2 t.d.handle (sizeOff k) 0⟩)]),
       shapeIs out sizes false, in1.bind (fun t => shapeIs t acc true), in2.bind (fun t => shapeIs t acc true),
       blockDesc (m.tens 68) 128, m.chainFail p bound false,
       failIf (m.rig = 3 && !(p.hold && p.tap && p.ts = p.hs)) (hdr 0 0xFF),
       failIf (five && p.kint 7) (hdr 0 0xFF),
       s.chainHandles c m p acc,
       failIf (five && ceilDiv (64 * b.d.size 1 * ib) 256 > x.lines) ⟨0x0107, detail1 0 83 0xFF m.depth⟩])
    foot := rigFoot 1 out (in1.toList ++ in2.toList) (if five then fun _ _ => 0 else chainVectors m p)
    inPlace := if five then [] else [32, 1080].flatMap (fun o => (if m.rig = 4 then [56] else [44, 56]).map (fun i => (o, i)))
    hold := p.hold
    park := fun ra rb => 32 + ((([(1, in1), (2, in2)]).filter (fun q => p.readsAfterHold q.1)).map (fun q =>
      linesOf? (fun t => operandLines 1 t false ra rb - maskLine t) q.2)).sum + (if p.readsAfterHold 0 then 32 else 0) +
      b2n ((out :: (in1.toList ++ in2.toList)).any (fun t => t.mask.isSome))
    via := p.via, kind := 0, width := if five then some (b.d.size 1) else none }

/-- Rigs 6 and 7 (R352 to R354). -/
def draftAttn (s : State) (c : Fin 4) (m : MacroRun) (q k out : Tensor) : Draft :=
  let v := (m.tens 44).getD k
  let mk := m.tens 68
  let split := m.rigMode 2 1 = 1
  let width := 64 * 2 ^ m.rigMode 3 4
  let chunks := ceilDiv (k.d.size 1) width
  let above := (q.d.sizes.drop 1)
  let sizes := if split then q.d.size 0 :: chunks :: above.take 4 else q.d.sizes
  let outer := if split then 2 else 1
  let rows := 1 :: above
  let kv (t : Tensor) (n : Option Nat) : Option Fail := productB q t n
  let pf := pfmt (m.rigMode 0 2)
  let scoreMask : Option Fail := mk.bind (fun t =>
    firstFail ([fmtIs t .mask1, failIf (t.d.size 0 ≠ k.d.size 1) ⟨0x020A, detail2 t.d.handle (sizeOff 0) 0⟩,
      failIf (t.d.size 1 ≠ q.d.size 1) ⟨0x020A, detail2 t.d.handle (sizeOff 1) 0⟩] ++
      [2, 3, 4, 5].map (fun i => failIf (t.d.size i ≠ q.d.size i && t.d.size i ≠ 1) ⟨0x020A, detail2 t.d.handle (sizeOff i) 0⟩)))
  let perIn := ([m.blockTens 24, m.blockTens 26]).filterMap id
  let perOut := ([m.blockTens 28, m.blockTens 30]).filterMap id
  let base := rigBase m sizes ((32, out) :: m.named [1028, 1030]) ([(8, q), (20, k)] ++ m.named [44, 56, 68, 1024, 1026])
  { base with
    fail := firstFail
      [plainA q,
       if m.rig = 7 then
         firstFail [failIf (!k.d.paged) ⟨0x0201, detail2 k.d.handle 11 0⟩, failIf (!v.d.paged) ⟨0x0201, detail2 v.d.handle 11 0⟩,
           gatheredRow k q.d.fmt, gatheredRow v pf]
       else firstFail [plainOperand k q.d.fmt, plainOperand v pf],
       kv k none, kv v (some (k.d.size 1)),
       if split then failIf (q.d.size 5 ≠ 1) ⟨0x020A, detail2 q.d.handle (sizeOff 5) 0⟩ else none,
       if split then fmtIs out .binary32 else none, shapeIs out sizes false, scoreMask,
       blockDesc (m.tens 56) 64, softmaxFail m 3,
       failIf (split && !m.lseEn) ⟨0x010B, detail1 ((m.block.map Prod.snd).getD 0) 0 0xFF m.depth⟩,
       s.softmaxHandles c m rows (if split then some (2 :: chunks :: above.take 4) else none)]
    outer := outer
    foot := rigFoot outer out [] (fun a b => (perIn.map (fun t => operandLines 1 t false a b)).sum + (perOut.map (rowLines · a)).sum +
      b2n mk.isSome)
    banks := rigBanks m.rig 0 (q.d.size 0) }

/-- Rig 10 (R357, R358). -/
def draftKv (s : State) (c : Fin 4) (m : MacroRun) (a b out : Tensor) : Draft :=
  let sizes := b.d.size 1 :: a.d.sizes.tail
  let pos := m.tens 44
  let sq := m.tens 56
  let index (t : Option Tensor) : Option Fail := t.bind (fun t =>
    firstFail [fmtIs t .int32, failIf (t.d.size 0 ≠ 1) ⟨0x020A, detail2 t.d.handle (sizeOff 0) 0⟩,
      failIf (t.d.size 1 ≠ a.d.size 1) ⟨0x020A, detail2 t.d.handle (sizeOff 1) 0⟩, shapeIs t (sizes.set 0 1) true])
  let base := rigBase m sizes [(32, out)] ([(8, a), (20, b)] ++ m.named [44, 56, 68, 1004, 1006])
  { base with
    fail := firstFail
      [plainA a, plainOperand b a.d.fmt, productB a b none, failIf (!out.d.paged) ⟨0x0201, detail2 out.d.handle 11 0⟩,
       failIf (b.d.size 1 ≠ out.d.size 0 * out.d.size 3) ⟨0x020A, detail2 b.d.handle (sizeOff 1) 0⟩, index pos, index sq,
       (if m.block.isSome then
         firstFail [blockDesc (m.tens 68) 32, rotaryFail m (out.d.size 0), s.rotaryHandles c m (sizes.set 0 1)]
        else none)]
    foot := rigFoot 1 out (pos.toList ++ sq.toList ++ (m.blockTens 4).toList ++ (m.blockTens 6).toList) (fun _ _ => 0) }

/-- Rig 11 (R359). -/
def draftLogits (s : State) (c : Fin 4) (m : MacroRun) (a b out : Tensor) : Draft :=
  let sizes := b.d.size 1 :: a.d.sizes.tail
  let lg := m.tens 44
  let lse := m.tens 56
  let base := rigBase m sizes ((32, out) :: m.named [44, 56, 1016, 1018]) ([(8, a), (20, b)] ++ m.named [68])
  { base with
    fail := firstFail
      [plainA a, plainOperand b a.d.fmt, productB a b none,
       failIf (b.d.size 1 > 1048576) ⟨0x0201, detail2 b.d.handle (sizeOff 1) 0⟩,
       perRow (some out) .int32 sizes false, lg.bind (fun t => shapeIs t sizes false), perRow lse .binary32 sizes false,
       blockDesc (m.tens 68) 64, samplingFail m, s.samplingHandles c m sizes]
    foot := fun a b => 32 + rowLines out a + linesOf? (fun t => operandLines 1 t false a b) lg + linesOf? (rowLines · a) lse +
      linesOf? (rowLines · a) (m.blockTens 16) + linesOf? (fun t => recordLines m.topK a + maskLine t) (m.blockTens 18)
    via := m.rigMode 3 4, kind := 2 }

/-- Rig 12 (R360, R361). -/
def draftNormBwd (m : MacroRun) (a b out : Tensor) : Draft :=
  let sizes := b.d.size 1 :: a.d.sizes.tail
  let xh := m.tens 44
  let st := m.tens 56
  let g := m.tens 68
  let raw := m.descs.get (m.param) 0
  let base := rigBase m sizes [(32, out)] ([(8, a), (20, b)] ++ m.named [44, 56, 68])
  { base with
    fail := firstFail
      [plainA a, plainOperand b a.d.fmt, productB a b none, shapeIs out sizes false, xh.bind (fun t => shapeIs t sizes false),
       st.bind (fun t => firstFail [fmtIs t .binary32, shapeIs t (sizes.set 0 8) false]),
       g.bind (fun t => firstFail ([shapeIs t [at6 sizes 0, 1, 1, 1, 1, 1] false] ++
         [96, 98].map (fun o => failIf (decide (field raw (8 * o) 16 ≠ 0)) ⟨0x0204, detail2 t.d.handle o 0⟩)))]
    foot := rigFoot 1 out (xh.toList ++ g.toList) (fun a _ => recordLines 8 a + linesOf? maskLine st)
    hold := true
    park := fun ra rb => 32 + linesOf? (fun t => operandLines 1 t false ra rb - maskLine t) xh + b2n ((out :: xh.toList).any (fun t => t.mask.isSome))
    via := m.rigMode 3 4, kind := 3 }

/-- Rig 13 (R362). -/
def draftSmxBwd (s : State) (c : Fin 4) (m : MacroRun) (a b out : Tensor) : Draft :=
  let sizes := b.d.size 1 :: a.d.sizes.tail
  let p := m.tens 44
  let base := rigBase m sizes ((32, out) :: m.named [1030]) ([(8, a), (20, b)] ++ m.named [44, 56, 68])
  { base with
    fail := firstFail
      [plainA a, plainOperand b a.d.fmt, productB a b none, shapeIs out sizes false, p.bind (fun t => shapeIs t sizes false),
       perRow (m.tens 56) .binary32 sizes true, blockDesc (m.tens 68) 64, softmaxFail m 4,
       s.softmaxHandles c m (sizes.set 0 1) none]
    foot := rigFoot 1 out (p.toList ++ (m.tens 56).toList) (fun a _ => linesOf? (rowLines · a) (m.blockTens 30))
    inPlace := [(32, 44)] }

/-- The draft of a matrix macro. -/
def draftRig (s : State) (c : Fin 4) (m : MacroRun) (a b out : Tensor) : Draft :=
  match m.rig with
  | 2 | 3 | 4 | 5 => draftChain s c m a b out
  | 6 | 7 => draftAttn s c m a b out
  | 10 => draftKv s c m a b out
  | 11 => draftLogits s c m a b out
  | 12 => draftNormBwd m a b out
  | 13 => draftSmxBwd s c m a b out
  | _ => draftPlain s c m a b out

end Sys2Proof.Machine
end

