-- ==== Sys2Proof/Machine/Viaduct.lean ====
section
/-! DEFINITION. The viaduct protocol (14_viaduct.md R386 to R405): receiving, combining and sending the frames of a row, the retry
ladder, and the port failures. A value held in a row is a message's kind followed by its four words. -/

namespace Sys2Proof.Machine

/-- DETAIL of class 0x08 (R481). -/
def viaDetail (channel round edge port row node remote : Nat) : Nat :=
  pack [(0, 1, channel), (1, 1, round), (2, 1, edge), (3, 1, port), (4, 4, row), (8, 2, node), (10, 2, remote)]

/-- The macro of a round (R393). -/
def Ctx.roundRun (x : Ctx) (ch round : Nat) : Option MacroRun :=
  x.exec.inflight.find? (fun m => m.plan.isSome && m.via = some (ch + 1) && m.round = round)

/-- The kinds of messages of a row, in the order in which they are sent: the channel's, and the candidates beside the pairs of
rig 11 (R390). -/
def Ctx.roundKinds (x : Ctx) (ch round : Nat) : List Nat :=
  let k := (x.channel ch).regs.kind.toNat
  match x.roundRun ch round with
  | some m => if m.isRig [11] then [k, 4] else [k]
  | none => [k]

/-- The candidates K of a round. -/
def Ctx.roundTop (x : Ctx) (ch round : Nat) : Nat := match x.roundRun ch round with | some m => m.topK | none => 256

/-! ## Rows -/

def Channel.rowOf (k : Channel) (round row : Nat) : Option ViaRow := k.rows.find? (fun r => r.round = round && r.row = row)

/-- Put a row, in place of the one of its number. -/
def Channel.putRow (k : Channel) (r : ViaRow) : Channel :=
  if k.rows.any (fun q => q.round = r.round && q.row = r.row) then
    { k with rows := k.rows.map (fun q => if q.round = r.round && q.row = r.row then r else q) }
  else { k with rows := k.rows ++ [r] }

/-- The row, or a new one whose up timer starts now (R400). -/
def Channel.rowOrNew (k : Channel) (round row beat : Nat) : ViaRow :=
  (k.rowOf round row).getD { round := round, row := row, upStart := beat }

/-- A frame received from an edge: slot, kind and PART in one number, words. -/
abbrev Got := Nat × Nat × List Word

def gotKey (kind part : Nat) : Nat := 65536 * kind + part

/-- The frames of a slot of one kind, in PART order. -/
def ofSlot (got : List Got) (slot kind : Nat) : List Got :=
  sortBy (fun a b => a.2.1 < b.2.1) (got.filter (fun g => g.1 = slot && g.2.1 / 65536 = kind))

/-- Own values of a kind: the words. -/
def ownOf (own : List (List Word)) (kind : Nat) : List (List Word) :=
  (own.filter (fun v => v.headD 0 = BitVec.ofNat 32 kind)).map List.tail

/-- The frames that have come by an edge: kind and PART, in one number each. -/
def ViaRow.keysOf (r : ViaRow) (edge : Nat) : List Nat :=
  if edge = 8 then r.downGot.map Prod.fst else (r.got.filter (fun g => g.1 = edge)).map (fun g => g.2.1)

/-- Have all the frames of a kind come by an edge: of the candidates each PART up to that of the LAST frame, and else any? -/
def ViaRow.wholeKind (r : ViaRow) (edge kind : Nat) : Bool :=
  if kind = 4 then
    match r.ends.find edge with
    | some n => (List.range (n + 1)).all (fun part => (r.keysOf edge).contains (gotKey 4 part))
    | none => false
  else (r.keysOf edge).any (fun q => q / 65536 = kind)

/-- Does the root hold every partial of a kind in SEQUENTIAL order (R396)? -/
def ViaRow.allPartials (r : ViaRow) (regs : ViaRegs) (kind : Nat) : Bool :=
  decide ((r.got.filter (fun g => g.2.1 / 65536 = kind)).length + 1 ≥ regs.nslices.toNat)

/-- Has a child answered for the row: have all its frames of each kind arrived? DESIGN CHOICE (log 115): in SEQUENTIAL order only the root
knows how many partials there are, so there every child is waited for until all have come, and at an inner node a child's first partial
answers. -/
def ViaRow.has (r : ViaRow) (regs : ViaRegs) (kinds : List Nat) (slot : Nat) : Bool :=
  kinds.all (fun k => if regs.order && k ≠ 4 && regs.isRoot then r.allPartials regs k else r.wholeKind slot k)

/-- Have all the frames of the down group of a row come (R398)? -/
def ViaRow.downWhole (r : ViaRow) (kinds : List Nat) : Bool := kinds.all (r.wholeKind 8)

/-- The messages of the down group, kind by kind and in rank order. -/
def ViaRow.downMessages (r : ViaRow) (kinds : List Nat) : List (List Word) :=
  kinds.flatMap (fun k => (sortBy (fun a b => a.1 < b.1) (r.downGot.filter (fun g => g.1 / 65536 = k))).map Prod.snd)

/-- Add a frame to its row. -/
def ViaRow.add (r : ViaRow) (f : FrameInfo) : ViaRow :=
  let edge := if f.down then 8 else f.slot
  let r := if f.kind = 4 && f.last then { r with ends := r.ends.set edge f.part } else r
  if f.down then { r with downGot := r.downGot ++ [(gotKey f.kind f.part, BitVec.ofNat 32 f.kind :: f.words)] }
  else { r with got := r.got ++ [(f.slot, gotKey f.kind f.part, f.words)] }

/-! ## Combining (R395 to R397) -/

/-- The combined value of a row of kind 0 to 3 in ALIGNED order. -/
def ViaRow.aligned (r : ViaRow) (regs : ViaRegs) (kind : Nat) : Option ViaVal :=
  let own := (regs.sliceStart, regs.sliceWidth, ((ownOf r.own kind).head?).bind (viaValue kind))
  let kids := regs.validChildren.map (fun j =>
    (regs.childStart j, regs.childWidth j, ((ofSlot r.got j kind).head?).bind (fun g => viaValue kind g.2.2)))
  viaCover kind (own :: kids) regs.coverStart (field regs.cover 32 5)

/-- The fold in slice order at the root in SEQUENTIAL order (R396). -/
def ViaRow.sequential (r : ViaRow) (regs : ViaRegs) (kind : Nat) : Option ViaVal :=
  let own := (regs.sliceIdx.toNat, ((ownOf r.own kind).head?).bind (viaValue kind))
  let kids := (r.got.filter (fun g => g.2.1 / 65536 = kind)).map (fun g => (g.2.1 % 65536, viaValue kind g.2.2))
  (sortBy (fun a b => a.1 < b.1) (own :: kids)).foldl (fun acc p => viaJoin kind acc p.2) none

/-- The merged candidates (R397). -/
def ViaRow.merged (r : ViaRow) (top : Nat) : List Cand :=
  topOf top (((ownOf r.own 4) ++ (r.got.filter (fun g => g.2.1 / 65536 = 4)).map (fun g => g.2.2)).filterMap candValue)

/-- A list of candidates as messages: one absent message where there is none. -/
def candMessages (l : List Cand) : List (List Word) := if l = [] then [candWords none] else l.map (fun c => candWords (some c))

/-- The messages that combine the row: kind and words, in order. -/
def ViaRow.combined (r : ViaRow) (regs : ViaRegs) (kinds : List Nat) (top : Nat) : List (List Word) :=
  kinds.flatMap (fun k =>
    (if k = 4 then candMessages (r.merged top)
     else [viaWords k (if regs.order then r.sequential regs k else r.aligned regs k)]).map (fun w => BitVec.ofNat 32 k :: w))

/-- Does the root hold every partial it waits for? -/
def ViaRow.allIn (r : ViaRow) (regs : ViaRegs) (kinds : List Nat) : Bool :=
  r.ownReady && (kinds.all (fun k =>
    if regs.order && k ≠ 4 then !regs.isRoot || r.allPartials regs k else regs.validChildren.all (fun j => r.wholeKind j k)))

/-- The row of a round, with the early frames that will join it (R394, R400). -/
def Channel.seenRow (k : Channel) (round row : Nat) : Option ViaRow :=
  (k.rowOf round row).map (fun r =>
    (k.early.filter (fun v => (frameInfo v.2).round = round && (frameInfo v.2).row = row)).foldl (fun r v => r.add (frameInfo v.2)) r)

/-! ## Sending -/

/-- Send the messages of a row to the edges of one port: kind by kind, PART the rank for CAND and `part` else. -/
def State.sendRow (s : State) (c : Fin 4) (ch round row port : Nat) (edges : List Nat) (msgs : List (List Word)) (part : Nat) :
    State × List (BitVec 256) :=
  let kinds := (msgs.map (fun m => (m.headD 0).toNat)).eraseDups
  kinds.foldl (fun (acc : State × List (BitVec 256)) k =>
    let x := acc.1.ctxOf c
    let mine := ownOf msgs k
    let parts := ((List.range mine.length).zip mine).map (fun p => (if k = 4 then p.1 else part, p.2))
    let (q, fs) := (x.channel ch).frames ch k round row edges parts
    let s := acc.1.setCtx c (x.setChannel ch q)
    (fs.foldl (fun s f => s.sendFrame port f) s, acc.2 ++ fs)) (s, [])

/-- Note what a row has sent. -/
def State.noteRow (s : State) (c : Fin 4) (ch round row : Nat) (f : ViaRow → ViaRow) : State :=
  let x := s.ctxOf c
  let k := x.channel ch
  s.setCtx c (x.setChannel ch (k.putRow (f (k.rowOrNew round row s.time.beat))))

/-- The port that an edge uses in a round. -/
def State.roundPort (s : State) (c : Fin 4) (ch round edge : Nat) : Nat :=
  let k := (s.ctxOf c).channel ch
  s.edgePort k.regs edge (k.usesPaired round edge)

/-- Deliver a row's value and forward it: one frame on each port, for the children that the port reaches (R391, R398). -/
def State.viaDeliver (s : State) (c : Fin 4) (ch round row : Nat) (msgs : List (List Word)) : State :=
  let s := s.noteRow c ch round row (fun r => { r with result := some msgs })
  let kids := (((s.ctxOf c).channel ch).regs.validChildren).map (fun j => (s.roundPort c ch round j, j))
  (List.range 4).foldl (fun s port =>
    let mine := (kids.filter (fun q => q.1 = port)).map Prod.snd
    if mine.isEmpty then s
    else
      let (s, fs) := s.sendRow c ch round row port mine msgs 0
      s.noteRow c ch round row (fun r => { r with downSent := r.downSent ++ fs })) s

/-- Send messages to the parent; the first to leave starts the down timer (R401). -/
def State.viaUp (s : State) (c : Fin 4) (ch round row : Nat) (msgs : List (List Word)) (part : Nat) : State :=
  let port := s.roundPort c ch round 8
  let leaves := s.leaveBeat port
  let (s, fs) := s.sendRow c ch round row port [8] msgs part
  s.noteRow c ch round row (fun r =>
    { r with sent := r.sent ++ fs, upSent := true, downStart := if r.upSent then r.downStart else leaves })

/-- Combine a row whose inputs are all in, and pass it on (R395 to R398). A count above 32 bits halts (R393); DESIGN CHOICE (log 114): its
record names the edge of the child whose partial came last. -/
def State.viaAdvance (s : State) (c : Fin 4) (ch round row : Nat) : State :=
  let x := s.ctxOf c
  let k := x.channel ch
  let regs := k.regs
  let kinds := x.roundKinds ch round
  match k.rowOf round row with
  | none => s
  | some r =>
    -- an inner node in SEQUENTIAL order has relayed every kind but CAND (R396, R397)
    let relays : Bool := regs.order && !regs.isRoot
    let kinds := if relays then kinds.filter (· = 4) else kinds
    let sent : Bool := if relays then r.sent.any (fun v => (frameInfo v).kind = 4) else r.upSent && !regs.isRoot
    if kinds = [] || r.result.isSome || sent || !r.allIn regs kinds then s
    else
      let big := kinds.any (fun q => q ≠ 4 && q ≠ 2 &&
        (match if regs.order then r.sequential regs q else r.aligned regs q with
         | some v => decide (v.n > 0xFFFFFFFF)
         | none => false))
      if big then
        let e := ((r.got.getLast?).map Prod.fst).getD 8
        s.raiseBare c { code := 0x0804, detail := viaDetail ch round e (s.roundPort c ch round e) row (regs.edgeAddr e) 0 }
      else
        let msgs := r.combined regs kinds (x.roundTop ch round)
        if regs.isRoot then s.viaDeliver c ch round row msgs else s.viaUp c ch round row msgs 0

/-- This block's own partial of a row is complete (R393). -/
def State.viaOwn (s : State) (c : Fin 4) (ch round row : Nat) (own : List (List Word)) : State :=
  let s := s.noteRow c ch round row (fun r => { r with own := own, ownReady := true })
  let regs := ((s.ctxOf c).channel ch).regs
  let relayed := own.filter (fun v => v.headD 0 ≠ 4#32)
  let s := if regs.order && !regs.isRoot && !relayed.isEmpty then s.viaUp c ch round row relayed regs.sliceIdx.toNat else s
  s.viaAdvance c ch round row

/-! ## Receiving (R394) -/

/-- A port that fails (R405): recorded, journaled, and where its pair has failed too, halting. -/
def State.failPort (s : State) (port : Nat) : State :=
  if bit s.glob.portFailed port then s
  else
    let s := s.markPort port
    let pair := port / 2 * 2
    if bit s.glob.portFailed pair && bit s.glob.portFailed (pair + 1) then
      allCtx.foldl (fun s c =>
        let hit := ((List.range 8).filter (fun ch =>
          let r := ((s.ctxOf c).channel ch).regs
          r.en && r.edges.any (fun e => s.edgePair r e = pair))).head?
        match hit with
        | some ch =>
          let r := ((s.ctxOf c).channel ch).regs
          let e := (r.edges.find? (fun e => s.edgePair r e = pair)).getD 0
          s.raiseBare c { code := 0x0803, detail := viaDetail ch 0 e port 0 (r.edgeAddr e) 0 }
        | none => s) s
    else s

/-- One more CRC discard or resend on a port, within the stroke (R405). -/
def State.countPort (s : State) (port : Nat) (resend : Bool) : State :=
  let g := s.glob
  let n := (if resend then g.portResends else g.portCrc).get port 0 + 1
  let s := s.setGlob (if resend then { g with portResends := g.portResends.set port n } else { g with portCrc := g.portCrc.set port n })
  if n ≥ (if resend then 4 else 16) then s.failPort port else s

/-- The edge a frame came by: an up frame's child slot, or the parent. -/
def FrameInfo.edge (f : FrameInfo) : Nat := if f.down then 8 else f.slot

/-- Why a frame with a good CRC is discarded: 0 STALE, 1 DUPS; none where it is taken (R394). -/
def Channel.discards (k : Channel) (ch : Nat) (f : FrameInfo) : Option Nat :=
  let regs := k.regs
  let kind := regs.kind.toNat
  let carried := f.kind > 4 || f.kind = kind || (kind = 2 && f.kind = 4)
  let known := if f.down then !regs.isRoot else f.slot < 8 && regs.childValid f.slot
  if f.treeTag ≠ regs.treeTag.toNat || f.channel ≠ ch || !regs.en || !carried || !known ||
      !(k.live.contains f.round || f.round = k.round) then some 0
  else if (k.lseqGot.get f.edge []).any (fun q => q % 65536 = f.lseq) then some 1
  else none

/-- Take the frame's LSEQ as received. DESIGN CHOICE (log 88): it is kept until its round ends; R394 does not say what a node recalls once the
16 bits have wrapped. -/
def Channel.heard (k : Channel) (f : FrameInfo) : Channel :=
  { k with lseqGot := k.lseqGot.set f.edge ((f.lseq + 65536 * f.round) :: k.lseqGot.get f.edge []) }

/-- Is the early store full for this frame: 2,048 rows are held and it is of another? -/
def Channel.earlyFull (k : Channel) (f : FrameInfo) : Bool :=
  let rows := (k.early.map (fun v => (frameInfo v.2).row)).eraseDups
  rows.length ≥ 2048 && !rows.contains f.row

/-- A data frame of a live round joins its row (R395, R396, R398). -/
def State.viaTake (s : State) (c : Fin 4) (ch : Nat) (f : FrameInfo) : State :=
  let x := s.ctxOf c
  let regs := (x.channel ch).regs
  let kinds := x.roundKinds ch f.round
  let s := s.noteRow c ch f.round f.row (fun r => r.add f)
  if f.down then
    match ((s.ctxOf c).channel ch).rowOf f.round f.row with
    | some r =>
      if r.downWhole kinds && r.result.isNone then
        (s.noteRow c ch f.round f.row (fun r => { r with downAt := some s.time.beat })).viaDeliver c ch f.round f.row (r.downMessages kinds)
      else s
    | none => s
  else
    let s := if regs.order && !regs.isRoot && f.kind ≠ 4 then
        s.viaUp c ch f.round f.row [BitVec.ofNat 32 f.kind :: f.words] f.part else s
    s.viaAdvance c ch f.round f.row

/-- A discarded frame is counted. -/
def State.viaDiscard (s : State) (c : Fin 4) (ch why : Nat) : State :=
  let x := s.ctxOf c
  let k := x.channel ch
  s.setCtx c (x.setChannel ch (match why with
    | 0 => { k with stale := satAdd k.stale 1 }
    | 1 => { k with dups := satAdd k.dups 1 }
    | 2 => { k with busy := satAdd k.busy 1 }
    | _ => { k with crc := satAdd k.crc 1 }))

/-- Receive a frame: discard and count it, or hand it on (R394). A context that has halted discards every other frame too (R404). -/
def State.viaReceive (s : State) (c : Fin 4) (ch port : Nat) (v : BitVec 256) (use : State → FrameInfo → State) : State :=
  let f := frameInfo v
  if !frameCrcOk v then (s.viaDiscard c ch 3).countPort port false
  else
    let x := s.ctxOf c
    let k := x.channel ch
    match k.discards ch f with
    | some why => s.viaDiscard c ch why
    | none =>
      if !(s.runs c || (f.kind = 7 && s.judges c)) then s
      else if k.live.contains f.round then use (s.setCtx c (x.setChannel ch (k.heard f))) f
      else if f.kind > 4 then use (s.setCtx c (x.setChannel ch (k.heard f))) f
      else if k.earlyFull f then s.viaDiscard c ch 2
      else s.setCtx c (x.setChannel ch { (k.heard f).putRow (k.rowOrNew f.round f.row s.time.beat) with early := k.early ++ [(s.time.beat, v)] })

/-- A macro takes its round: the round is live, and its early frames join their rows, whose up timers have run from their arrival (R393,
R394, R400). -/
def State.openRound (s : State) (c : Fin 4) (ch round : Nat) : State :=
  let x := s.ctxOf c
  let k := x.channel ch
  let mine := k.early.filter (fun v => (frameInfo v.2).round = round)
  let s := s.setCtx c (x.setChannel ch
    { k with live := k.live ++ [round], round := (round + 1) % 256
             early := k.early.filter (fun v => (frameInfo v.2).round ≠ round) })
  mine.foldl (fun s v => s.viaTake c ch (frameInfo v.2)) s

/-- The round ends with its macro. -/
def State.closeRound (s : State) (c : Fin 4) (ch round : Nat) : State :=
  let x := s.ctxOf c
  let k := x.channel ch
  let got := k.lseqGot.map (fun e => (e.1, e.2.filter (fun q => q / 65536 ≠ round)))
  s.setCtx c (x.setChannel ch
    { k with live := k.live.erase round, rows := k.rows.filter (fun r => r.round ≠ round), lseqGot := got
             paired := k.paired.filter (fun q => q.1 ≠ round) })

/-- VIADUCT_UP_FRAME and VIADUCT_DOWN_FRAME: a data frame of the direction. -/
def State.viaData (s : State) (c : Fin 4) (ch port : Nat) (v : BitVec 256) (down : Bool) : State :=
  let f := frameInfo v
  if frameCrcOk v && (f.kind > 4 || f.down ≠ down) then s else s.viaReceive c ch port v (fun s f => s.viaTake c ch f)

/-! ## The retry ladder (R400 to R404) -/

/-- From now on an edge uses the paired port in a round (R402). -/
def State.pairEdge (s : State) (c : Fin 4) (ch round edge : Nat) : State :=
  let x := s.ctxOf c
  s.setCtx c (x.setChannel ch ((x.channel ch).pairEdge round edge))

/-- RESEND: the row's frames again, with their bits, on the port it came by; or HOLD (R402). -/
def State.viaResend (s : State) (c : Fin 4) (ch port : Nat) (v : BitVec 256) : State :=
  if frameCrcOk v && (frameInfo v).kind ≠ 5 then s
  else
    s.viaReceive c ch port v (fun s f =>
      let k := (s.ctxOf c).channel ch
      let held := match k.rowOf f.round f.row with
        | some r => if f.down then r.sent else r.downSent.filter (fun g => (frameInfo g).slot.testBit f.slot)
        | none => []
      let s := s.pairEdge c ch f.round f.edge
      if held = [] then s.sendControl c ch 6 f.round f.row f.edge 0 port else held.foldl (fun s g => s.sendFrame port g) s)

/-- HOLD: the ladder of the edge starts again (R402). -/
def State.viaHold (s : State) (c : Fin 4) (ch port : Nat) (v : BitVec 256) : State :=
  if frameCrcOk v && (frameInfo v).kind ≠ 6 then s
  else
    s.viaReceive c ch port v (fun s f =>
      if (((s.ctxOf c).channel ch).rowOf f.round f.row).isNone then s
      else s.noteRow c ch f.round f.row (fun r =>
        if f.down then { r with downStart := s.time.beat, downRung := 0 }
        else { r with ladder := r.ladder.set f.slot (s.time.beat, 0) }))

/-- The down frames of a round that came in the present beat are not forwarded: the ABORT of that beat takes effect first (R404). -/
def State.dropForwards (s : State) (c : Fin 4) (ch round : Nat) : State :=
  let mine := (((s.ctxOf c).channel ch).rows.filter (fun r => r.round = round && r.downAt = some s.time.beat)).flatMap ViaRow.downSent
  s.setGlob { s.glob with viaOut := s.glob.viaOut.filter (fun o => !mine.contains o.2.2) }

/-- ABORT: the context halts, and the ABORT goes on by the other edges; a down frame of the same beat comes after it (R404). -/
def State.viaAbort (s : State) (c : Fin 4) (ch port : Nat) (v : BitVec 256) : State :=
  if frameCrcOk v && (frameInfo v).kind ≠ 7 then s
  else
    s.viaReceive c ch port v (fun s f =>
      let code := (f.words.getD 0 0).toNat
      let regs := ((s.ctxOf c).channel ch).regs
      let s := ((s.dropForwards c ch f.round).sendAbort c ch f.round code (some f.edge)).closeRound c ch f.round
      s.raiseBare c { code := 0x0802, detail := viaDetail ch f.round f.edge port f.row (regs.edgeAddr f.edge) code })

/-- A row that still waits for a child, with the beat its ladder counts from and the rungs passed. -/
def State.upWait (s : State) (c : Fin 4) (ch round row child : Nat) : Option (Nat × Nat) :=
  let k := (s.ctxOf c).channel ch
  if !s.judges c || !k.regs.childValid child then none
  else match k.seenRow round row with
    | some r =>
      if r.has k.regs ((s.ctxOf c).roundKinds ch round) child || r.result.isSome || (r.upSent && !k.regs.order) then none
      else some (r.ladder.get child (r.upStart, 0))
    | none => none

/-- A row that waits for its down frame. -/
def State.downWait (s : State) (c : Fin 4) (ch round row : Nat) : Option (Nat × Nat) :=
  let k := (s.ctxOf c).channel ch
  if !s.judges c || !k.live.contains round then none
  else match k.rowOf round row with
    | some r => if r.upSent && r.result.isNone then some (r.downStart, r.downRung) else none
    | none => none

/-- One more frame counted LATE, or one more RESEND sent. -/
def State.countLate (s : State) (c : Fin 4) (ch : Nat) (resend : Bool) : State :=
  let x := s.ctxOf c
  let k := x.channel ch
  s.setCtx c (x.setChannel ch (if resend then { k with resends := satAdd k.resends 1 } else { k with late := satAdd k.late 1 }))

/-- Pass a rung of an edge's ladder. -/
def State.passRung (s : State) (c : Fin 4) (ch round row edge start rung : Nat) : State :=
  s.noteRow c ch round row (fun r =>
    if edge = 8 then { r with downRung := rung } else { r with ladder := r.ladder.set edge (start, rung) })

/-- RESEND on the paired port of the edge, which the edge then uses (R402). -/
def State.askAgain (s : State) (c : Fin 4) (ch round row edge : Nat) : State :=
  let regs := ((s.ctxOf c).channel ch).regs
  let first := s.edgePort regs edge false
  let s := s.pairEdge c ch round edge
  let s := (s.countLate c ch true).sendControl c ch 5 round row edge 0 (s.edgePort regs edge true)
  s.countPort first true

/-- A rung of a ladder is due `n` budgets after its start. -/
def State.rung (s : State) (c : Fin 4) (ch round row edge : Nat) (wait : Option (Nat × Nat)) (budget rung : Nat) : State :=
  match wait with
  | none => s
  | some (start, passed) =>
    let due := decide (s.time.beat ≥ start + budget * (if rung = 1 then 1 else if rung = 2 then 2 else 4))
    if !due || passed ≥ rung || (rung < 3 && !s.runs c) then s
    else match rung with
      | 1 => (s.countLate c ch false).passRung c ch round row edge start 1
      | 2 => (s.askAgain c ch round row edge).passRung c ch round row edge start 2
      | _ =>
        let regs := ((s.ctxOf c).channel ch).regs
        s.raiseBare c { code := 0x0801
                        detail := viaDetail ch round edge (s.edgePort regs edge true) row (regs.edgeAddr edge) 0 }

def State.upRung (s : State) (c : Fin 4) (ch round row child rung : Nat) : State :=
  s.rung c ch round row child (s.upWait c ch round row child) ((s.ctxOf c).channel ch).regs.up rung

def State.downRungStep (s : State) (c : Fin 4) (ch round row rung : Nat) : State :=
  s.rung c ch round row 8 (s.downWait c ch round row) ((s.ctxOf c).channel ch).regs.roundBudget rung

/-! ## Meanings -/

/-- VIADUCT_UP_FRAME. -/
def execViaductUpFrame (c : Fin 4) (ch : Fin 8) (port : Fin 4) (frame : BitVec 256) (beat : Nat) (s : State) :
    Host.Outcome State Fault Refusal := .next ((s.advanceTo beat).viaData c ch.val port.val frame false)
/-- VIADUCT_DOWN_FRAME. -/
def execViaductDownFrame (c : Fin 4) (ch : Fin 8) (port : Fin 4) (frame : BitVec 256) (beat : Nat) (s : State) :
    Host.Outcome State Fault Refusal := .next ((s.advanceTo beat).viaData c ch.val port.val frame true)
/-- RESEND. -/
def execResend (c : Fin 4) (ch : Fin 8) (port : Fin 4) (frame : BitVec 256) (beat : Nat) (s : State) :
    Host.Outcome State Fault Refusal := .next ((s.advanceTo beat).viaResend c ch.val port.val frame)
/-- HOLD. -/
def execHold (c : Fin 4) (ch : Fin 8) (port : Fin 4) (frame : BitVec 256) (beat : Nat) (s : State) :
    Host.Outcome State Fault Refusal := .next ((s.advanceTo beat).viaHold c ch.val port.val frame)
/-- ABORT. -/
def execAbort (c : Fin 4) (ch : Fin 8) (port : Fin 4) (frame : BitVec 256) (beat : Nat) (s : State) :
    Host.Outcome State Fault Refusal := .next ((s.advanceTo beat).viaAbort c ch.val port.val frame)
/-- VIADUCT_UP_LATE. -/
def execViaductUpLate (c : Fin 4) (ch : Fin 8) (round row : Nat) (child : Fin 8) (beat : Nat) (s : State) :
    Host.Outcome State Fault Refusal := .next ((s.advanceTo beat).upRung c ch.val round row child.val 1)
/-- VIADUCT_UP_RESEND_TIMER. -/
def execViaductUpResendTimer (c : Fin 4) (ch : Fin 8) (round row : Nat) (child : Fin 8) (beat : Nat) (s : State) :
    Host.Outcome State Fault Refusal := .next ((s.advanceTo beat).upRung c ch.val round row child.val 2)
/-- VIADUCT_UP_TIMEOUT. -/
def execViaductUpTimeout (c : Fin 4) (ch : Fin 8) (round row : Nat) (child : Fin 8) (beat : Nat) (s : State) :
    Host.Outcome State Fault Refusal := .next ((s.advanceTo beat).upRung c ch.val round row child.val 3)
/-- VIADUCT_DOWN_LATE. -/
def execViaductDownLate (c : Fin 4) (ch : Fin 8) (round row : Nat) (beat : Nat) (s : State) : Host.Outcome State Fault Refusal :=
  .next ((s.advanceTo beat).downRungStep c ch.val round row 1)
/-- VIADUCT_DOWN_RESEND_TIMER. -/
def execViaductDownResendTimer (c : Fin 4) (ch : Fin 8) (round row : Nat) (beat : Nat) (s : State) :
    Host.Outcome State Fault Refusal := .next ((s.advanceTo beat).downRungStep c ch.val round row 2)
/-- VIADUCT_DOWN_TIMEOUT. -/
def execViaductDownTimeout (c : Fin 4) (ch : Fin 8) (round row : Nat) (beat : Nat) (s : State) :
    Host.Outcome State Fault Refusal := .next ((s.advanceTo beat).downRungStep c ch.val round row 3)

end Sys2Proof.Machine
end

