-- ==== Sys2Proof/Machine/Plan.lean ====
section
/-! DEFINITION. The walker's plan (07_tile_walker.md R191 to R200, R215, R217): shape and fit, the order of tiles, the split over
spans, the positions of a tile, and the checks that follow a macro's own. -/

namespace Sys2Proof.Machine

/-! ## Shapes -/

def shapeB (code : Nat) : Nat := [2048, 256, 128, 64, 32].getD code 2048
def shapeA (code : Nat) : Nat := [1, 8, 16, 32, 64].getD code 1

/-- The draft of a macro. -/
def State.draft (s : State) (c : Fin 4) (m : MacroRun) : Draft :=
  let x := s.ctxOf c
  let t (at_ : Nat) : Tensor := (m.tens at_).getD { d := Flat.parse 0 0 }
  let crews := (crewsOf (s.spansFor c)).length
  if m.slot = 3 then draftRig s c m (t 8) (t 20) (t 32)
  else if m.slot = 2 then
    match m.op with
    | 0x01 => draftVew s c m (t 8)
    | 0x03 => draftRed m (t 8) (t 20)
    | 0x04 => draftStat m s.mem (t 8) (t 20)
    | 0x05 => draftScan m (t 8) (t 20)
    | 0x06 => draftSmx s c m (t 8) (t 20)
    | 0x09 => draftGath m (t 8) (t 20) (t 32)
    | 0x0A => draftScat s c m (t 8) (t 20) (t 32)
    | 0x0B => draftTopk m (t 8) (t 20) s.mem
    | 0x0C => draftSort m (t 8) (t 20)
    | 0x0D => draftSamp s c m (t 8) (t 20)
    | _ => draftCopy m (t 8) (t 20)
  else draftAccess x m (t 10) crews

/-! ## Overlapping extents (R103, R150, R215, R237) -/

/-- Do two extents share a byte? -/
def Flat.meets (a b : Flat) : Bool :=
  match a.extent, b.extent with
  | some (l, h), some (l', h') => decide (l ≤ h') && decide (l' ≤ h)
  | _, _ => false

/-- Do two descriptors map every index to the same address (R215)? -/
def Flat.sameMap (a b : Flat) : Bool :=
  a.base = b.base && a.fmt.bits = b.fmt.bits && a.sizes == b.sizes && a.paged == b.paged &&
    (if a.paged then a.rows = b.rows && a.pool = b.pool && a.pageH = b.pageH && a.stride 0 = b.stride 0 && a.stride 1 = b.stride 1
     else (List.range 6).all (fun k => a.size k ≤ 1 || a.stride k = b.stride k))

/-- The parts of a tensor that a macro reads: 0 elements, 1 scale bytes, 2 mask, 3 page table. -/
def Tensor.readParts (t : Tensor) : List (Nat × Flat) :=
  (0, t.d) :: (t.scale.toList.map (fun f => (1, f)) ++ t.mask.toList.map (fun f => (2, f)) ++ t.pages.toList.map (fun f => (3, f)))

/-- The parts that it writes. -/
def Tensor.writeParts (t : Tensor) : List (Nat × Flat) :=
  (0, t.d) :: (if t.d.fmt.isMx then t.scale.toList.map (fun f => (1, f)) else [])

/-- The parts that a macro reads of an output: its mask and its page table. -/
def Tensor.sideParts (t : Tensor) : List (Nat × Flat) := t.mask.toList.map (fun f => (2, f)) ++ t.pages.toList.map (fun f => (3, f))

/-- Everything a draft reads and writes. -/
def Draft.reads (d : Draft) : List Flat :=
  ((d.ins.flatMap (fun p => p.2.readParts)) ++ d.outs.flatMap (fun p => p.2.sideParts)).map Prod.snd
def Draft.writes (d : Draft) : List Flat := (d.outs.flatMap (fun p => p.2.writeParts)).map Prod.snd

/-- An intersection of an output with an input that R215 does not allow, or of a chain's DST with its tap (R237). -/
def Draft.overlapFail (d : Draft) : Option Fail :=
  let bad (t : Tensor) : Fail := ⟨0x0209, detail2 t.d.handle 0 0⟩
  let clash (o i : Nat × Tensor) : Bool :=
    o.2.writeParts.any (fun w => i.2.readParts.any (fun r =>
      w.2.meets r.2 && !(d.inPlace.contains (o.1, i.1) && w.1 = r.1 && w.2.sameMap r.2)))
  let sides (o : Nat × Tensor) : Bool :=
    o.2.writeParts.any (fun w => d.outs.any (fun q => q.2.sideParts.any (fun r => w.2.meets r.2)))
  let tap : Bool := d.outs.any (fun p => p.1 = 1080 && d.outs.any (fun q => q.1 ≠ 1080 &&
    p.2.writeParts.any (fun w => q.2.writeParts.any (fun v => w.2.meets v.2))))
  ((d.outs.find? (fun o => sides o || d.ins.any (clash o))).map (fun o => bad o.2)).or
    (if tap then (d.outs.find? (fun p => p.1 = 1080)).map (fun o => bad o.2) else none)

/-! ## Channels and queues -/

/-- VIADUCT_CONFIG (R390). -/
def Ctx.channelFail (x : Ctx) (d : Draft) : Option Fail :=
  if d.via = 0 then none
  else
    let ch := d.via - 1
    let r := (x.channel ch).regs
    failIf (!r.en || r.kind.toNat ≠ d.kind || d.width.getD (at6 d.sizes 0) ≠ r.sliceWidth) ⟨0x0804, pack [(0, 1, ch), (1, 1, (x.channel ch).round)]⟩

/-- The bay that carries a data queue. -/
def Ctx.ringBay (x : Ctx) (q : Nat) : Option Bay := (x.bays.find? (fun e => e.2.isRing && e.2.dq = q)).map Prod.snd

/-- DQ_MISMATCH of a queue used against its direction (R163), or that no bay carries. -/
def Ctx.queueFail (x : Ctx) (m : MacroRun) : Option Fail :=
  let off (at_ : Nat) : Nat := if m.slot ≠ 2 then 6 else if at_ = 8 then 80 else 85 + 5 * ((at_ - 20) / 12)
  let bad (at_ : Nat) : Fail := ⟨0x0106, detail1 (field m.bits at_ 12) (off at_) 0xFF m.depth⟩
  let mode (access : Bool) : Nat := if access then 2 else 3
  firstFail (m.queuesOut.map (fun q => failIf ((x.ringBay q.1).map Bay.mode ≠ some (mode (m.slot ≥ 4))) (bad q.2)) ++
    m.queuesIn.map (fun q => failIf ((x.ringBay q.1).map Bay.mode ≠ some (mode (m.slot < 4))) (bad q.2)))

/-! ## Fit (R194, R199, R200) -/

/-- Lines in none of the enabled bays (R169). -/
def Ctx.tileArea (x : Ctx) : Nat :=
  let on := x.bays.filter (fun e => e.2.on)
  ((List.range 2048).filter (fun p => !on.any (fun e => e.2.base ≤ p && p < e.2.base + e.2.lines))).length

/-- Tile counts of the axes for a shape. -/
def Draft.count (d : Draft) (shape k : Nat) : Nat :=
  let n := at6 d.sizes k
  if k = d.inner then ceilDiv n (shapeB shape) else if k = d.outer then ceilDiv n (shapeA shape) else n

def Draft.tiles (d : Draft) (shape : Nat) : Nat := ((List.range 7).map (d.count shape)).foldl (· * ·) 1

/-- Shapes in the order of R194. -/
def Draft.ranked (d : Draft) : List Nat :=
  sortBy (fun a b => d.tiles a < d.tiles b || (d.tiles a = d.tiles b && shapeB a > shapeB b))
    (d.shapes.filter (fun k => d.deny / 2 ^ k % 2 = 0))

/-- Is the macro empty: no tile (R101)? -/
def Draft.isEmpty (d : Draft) : Bool := d.tiles 0 = 0

/-! ## The order of tiles (R195, R341) -/

/-- The axes in dealing order with their tile counts: a rig's N-groups, its M-tiles of 64 rows, then the rest. -/
def Draft.order (d : Draft) (shape nres : Nat) : List (Nat × Nat) :=
  let rest := (List.range 7).filter (fun k => k ≠ d.inner && k ≠ d.outer)
  let count (k : Nat) : Nat × Nat := (k, d.count shape k)
  if d.rig then (d.inner, ceilDiv (d.count shape d.inner) nres) :: (d.outer, ceilDiv (at6 d.sizes d.outer) 64) :: rest.map count
  else if d.halo then count d.outer :: count d.inner :: rest.map count
  else count d.inner :: count d.outer :: rest.map count

/-- Mixed-radix digits of a number. -/
def digits (n : Nat) : List Nat → List Nat
  | [] => []
  | r :: t => n % r :: digits (n / r) t

/-- A tile's place: its start index on each axis, its coordinate on each axis of `order`, for rigs the N-tile too. -/
structure Place where
  start : List Nat
  coord : List Nat
  deriving DecidableEq, Repr

/-- Tiles of a rig: within a full M-tile of 64 rows the N-tiles ascend, each with two halves; a last M-tile of at most 32 rows
has one half. -/
def rigPlace (nN rows t : Nat) : Nat × Nat :=
  let full := rows / 2
  if t < full * 2 * nN then
    let r := t % (2 * nN)
    (r / 2, 2 * (t / (2 * nN)) + r % 2)
  else (t - full * 2 * nN, 2 * full)

/-- Where tile t of a plan lies. -/
def Plan.place (p : Plan) (rig : Bool) (nres t : Nat) : Place :=
  if rig then
    let nN := ceilDiv (at6 p.sizes p.inner) p.b
    let rows := ceilDiv (at6 p.sizes p.outer) p.a
    let (n, r) := rigPlace nN rows (t % (nN * rows))
    let up := digits (t / (nN * rows)) ((p.order.drop 2).map Prod.snd)
    let base := ((List.range 7).map (fun _ => 0)).set p.inner (n * p.b)
    { start := (((p.order.drop 2).map Prod.fst).zip up).foldl (fun l q => l.set q.1 q.2) (base.set p.outer (r * p.a))
      coord := n / nres :: r / 2 :: up }
  else
    let ds := digits t (p.order.map Prod.snd)
    { start := ((p.order.map Prod.fst).zip ds).foldl (fun l q =>
        l.set q.1 (if q.1 = p.inner then q.2 * p.b else if q.1 = p.outer then q.2 * p.a else q.2)) ((List.range 7).map (fun _ => 0))
      coord := ds }

def MacroRun.place (m : MacroRun) (p : Plan) (t : Nat) : Place :=
  p.place (m.slot = 3) (if m.isRig [5, 6, 7] then ceilDiv (at6 p.sizes 0) 64 else m.nres) t

/-- The tiles that share a tile's rows: every start index but the inner one is the same. -/
def MacroRun.rowTiles (m : MacroRun) (p : Plan) (pl : Place) : List Nat :=
  (List.range p.tiles).filter (fun t => (m.place p t).start.set p.inner 0 == pl.start.set p.inner 0)

/-- The span that a tile belongs to (R196): floor(j × N / S) bounds; a halo macro follows its crews (R218). -/
def Plan.spanOf (p : Plan) (pl : Place) : Nat :=
  let spans := spansOf p.spans
  let n := spans.length
  if p.lowest then spans.headD 0
  else
    let i := at6 pl.coord p.split
    let total := (p.order.getD p.split (0, 1)).2
    ((List.range n).find? (fun j => j * total / n ≤ i && i < (j + 1) * total / n)).map (fun j => spans.getD j 0) |>.getD 0

/-- Indices of a tile inside the iteration space: the outer positions, and for each the inner ones. -/
def Plan.rows (p : Plan) (pl : Place) : List (List Nat) :=
  let o := at6 pl.start p.outer
  ((List.range p.a).filter (fun r => o + r < at6 p.sizes p.outer)).map (fun r => pl.start.set p.outer (o + r))

def Plan.cols (p : Plan) (pl : Place) : List Nat :=
  let i := at6 pl.start p.inner
  ((List.range p.b).filter (fun k => i + k < at6 p.sizes p.inner)).map (fun k => i + k)

def Plan.positions (p : Plan) (pl : Place) : List (List Nat) :=
  (p.rows pl).flatMap (fun r => (p.cols pl).map (fun k => (r.set p.inner k).take 6))

/-! ## Building the plan -/

/-- The place in `order` of the axis to split along (R196): the outermost with more than one tile; with a hold point or rows
bound together, another than the reduced one. -/
def splitAxis (order : List (Nat × Nat)) (without : Option Nat) : Option Nat :=
  ((List.range order.length).filter (fun i =>
    let q := order.getD i (0, 1)
    q.2 > 1 && some q.1 ≠ without)).getLast?

/-- The plan of a draft for a shape. -/
def Draft.plan (d : Draft) (m : MacroRun) (spans : BitVec 16) (area shape : Nat) : Plan :=
  let nres := if m.isRig [5, 6, 7] then ceilDiv (at6 d.sizes 0) 64 else m.nres
  let order := d.order shape nres
  let bound := d.hold || d.rowBound || (m.isVec 6 && m.sop = 0)
  let split := splitAxis order (if bound then some d.inner else none)
  { shape := shape, b := shapeB shape, a := shapeA shape, inner := d.inner, outer := d.outer, sizes := d.sizes, order := order
    tiles := d.tiles shape, footprint := d.foot (shapeA shape) (shapeB shape), area := area, split := split.getD 0
    lowest := split.isNone, spans := spans, hold := d.hold, halo := 0, seam := d.seam, meBound := d.rig, empty := d.isEmpty }

/-- The park volume of a row group (R285). -/
def Draft.volume (d : Draft) (shape nres : Nat) : Nat :=
  let along := d.count shape d.inner
  (if d.rig then min nres along else along) * d.park (shapeA shape) (shapeB shape)

/-- The PARK bay. -/
def Ctx.parkBay (x : Ctx) : Option Bay := (x.bays.find? (fun e => e.2.mode = 4)).map Prod.snd

/-- Everything that can fail after the shape is chosen (R200, R176, R222). -/
def Draft.lateFail (d : Draft) (x : Ctx) (m : MacroRun) (area : Nat) : Except Fail Nat :=
  match d.ranked with
  | [] => .error (m.badField 105)
  | r :: rest =>
    let fits (k : Nat) : Bool := 16 * d.foot (shapeA k) (shapeB k) ≤ area
    let pick : Option Nat := if d.isEmpty then some r else (r :: rest).find? fits
    match pick with
    | none =>
      let f := (r :: rest).map (fun k => d.foot (shapeA k) (shapeB k))
      .error ⟨0x0301, detail3 area (f.foldl min (f.headD 0)) 0xFF⟩
    | some k =>
      if d.hold && !m.rereads && x.parkBay.isNone then .error ⟨0x0303, detail3 0 (d.volume k m.nres) 0xFF⟩
      else if m.isLda && m.aux + d.tiles k > 4096 then .error (m.badField 22)
      else .ok k

/-- SEAM_PLACEMENT (R221): a scan across the die seam whose carry cannot go by the seam link: the lower block's last tiles along
D1 lie on crew 255, the higher block's first ones on crew 0, and the link is open. -/
def State.seamFail (s : State) (c : Fin 4) (m : MacroRun) (d : Draft) (shape : Nat) : Option Fail :=
  if !d.seam || d.isEmpty then none
  else
    let high := m.mode 6 1 = 1
    let crews := crewsOf (s.spansFor c)
    let along := d.count shape d.outer
    let groups := d.tiles shape / max 1 along
    let there := (List.range groups).all (fun j =>
      crews.getD ((along * j + (if high then 0 else along - 1)) % max 1 crews.length) 0 = (if high then 0 else 255))
    failIf (!(there && s.seamOpen (!high))) ⟨0x0109, detail1 0 110 0xFF m.depth⟩

/-! ## Overlap (R149 to R151, R346) -/

/-- The verdict on a macro's OVERLAP flag: whether it may overlap, and whether a range or bank check denied it. -/
def State.overlapVerdict (s : State) (c : Fin 4) (execute : Bool) (i : Nat) (m : MacroRun) (d : Draft) : Bool × Bool :=
  if !m.overlapFlag || i = 0 then (false, false)
  else match ((s.ctxOf c).stream execute).inflight[i - 1]? with
    | none => (false, false)
    | some q =>
      if q.isShort then (true, false)
      else if q.plan.isNone then (false, false)
      else
        let e := s.draft c q
        let apart := !(d.reads.any (fun a => e.writes.any a.meets) || d.writes.any (fun a => (e.reads ++ e.writes).any a.meets))
        let banks : Bool := d.rig && e.rig && d.banks + e.banks > 16
        (apart && !banks, !apart || banks)

/-! ## WALKER_PLAN -/

/-- Record a plan: the registers, the latches of R384, R412 and R422, and the round of R393. -/
def State.planned (s : State) (c : Fin 4) (execute : Bool) (i : Nat) (m : MacroRun) (d : Draft) (p : Plan) : State :=
  let x := s.ctxOf c
  let verdict := s.overlapVerdict c execute i m d
  let advice : BitVec 8 := match (d.outs.head?).bind (fun q => q.2.d.hist) with
    | some slot => if (s.histOf slot).valid then (s.histOf slot).exp else ((d.outs.head?).map (fun q => q.2.d.static)).getD 0
    | none => ((d.outs.head?).map (fun q => q.2.d.static)).getD 0
  let round := if d.via = 0 then 0 else (x.channel (d.via - 1)).round
  let m := { m with plan := some p, plannedAt := s.time.beat, lastArrival := s.time.beat, overlapped := verdict.1
                    denied := verdict.2, trap := x.trap, advice := advice, round := round
                    key := [x.rngLo.extractLsb' 0 32, x.rngLo.extractLsb' 32 32, x.rngHi.extractLsb' 0 32,
                            x.rngHi.extractLsb' 32 32, x.stroke.extractLsb' 0 32] }
  let x := { x with planShape := BitVec.ofNat 3 p.shape, planStream := execute, planFootprint := BitVec.ofNat 12 p.footprint
                    planArea := BitVec.ofNat 12 p.area, planTiles := BitVec.ofNat 32 (sat32 p.tiles)
                    overlapDenied := if verdict.2 then satAdd x.overlapDenied 1 else x.overlapDenied }
  let s := (s.setCtx c x).setRun c execute i m
  if d.via = 0 then s else s.openRound c (d.via - 1) round

/-- WALKER_PLAN (R194, R215, R390): the macro's own checks, the intersections, the channel and the queues, then the shape. -/
def State.planNext (s : State) (c : Fin 4) (execute : Bool) : State :=
  let x := s.ctxOf c
  match (x.stream execute).firstRun (fun m => m.plan.isNone && !m.isShort) with
  | none => s
  | some (i, m) =>
    if !s.inBeat c || !m.snapped then s
    else
      let d := s.draft c m
      let area := x.tileArea
      match firstFail [d.fail, d.overlapFail, x.channelFail d, x.queueFail m] with
      | some f => s.raiseFail c m f
      | none =>
        match d.lateFail x m area with
        | .error f => s.raiseFail c m f
        | .ok k =>
          match s.seamFail c m d k with
          | some f => s.raiseFail c m f
          | none => s.planned c execute i m d (d.plan m (s.spansFor c) area k)

/-- WALKER_PLAN. -/
def execWalkerPlan (c : Fin 4) (execute : Bool) (s : State) : Host.Outcome State Fault Refusal := .next (s.planNext c execute)

end Sys2Proof.Machine
end

