-- ==== Sys2Proof/Machine/Eval.lean ====
section
/-! DEFINITION. What a tile of an element-wise macro or of an access-stream macro stages (08, 03 R548, 13 R364, 06 R177, R178), and
the row reductions that the other macros share (10 R266 to R269). -/

namespace Sys2Proof.Machine

/-- What the evaluation of a tile sees. -/
structure Ev where
  st : State
  c : Fin 4
  m : MacroRun
  p : Plan
  /-- the tile, its place and what it consumes -/
  t : Nat
  pl : Place
  run : TileRun
  /-- the tiles of the macro that have run before it -/
  done : List Nat := []

namespace Ev

/-- The shared cache as the tile's reads found it (log 12). -/
def mem (e : Ev) : Memory := e.run.seen.getD e.st.mem
def x (e : Ev) : Ctx := e.st.ctxOf e.c
def pos (e : Ev) : List (List Nat) := e.p.positions e.pl

/-- A tensor of a handle field, bound to the ring tile that the tile consumes. -/
def tens (e : Ev) (at_ : Nat) : Option Tensor := e.m.tensAt e.run at_

/-- An operand that the snapshot has found present. -/
def req (e : Ev) (at_ : Nat) : Tensor := (e.tens at_).getD { d := Flat.parse 0 0 }

/-- Staging into a tensor, its conversion reported at a where code. -/
def emitAt (e : Ev) (t : Tensor) (where_ : Nat) : EmitAt :=
  { mem := e.mem, base := match t.d.hist with | some n => (e.st.histOf n).base | none => 0xE4, at_ := where_ }

/-- A histogram counts only in a slot that the context holds (R419). -/
def held (e : Ev) (o : TileOut) : TileOut :=
  { o with hist := o.hist.filter (fun h => (e.st.histOf h.slot).owner.toNat = e.c.val) }

/-- The positions of a tile that starts at an index, along two tile axes, padding included (R191). -/
def cells (e : Ev) (axes : Nat × Nat) (from_ : List Nat) : List (List Nat) :=
  (List.range e.p.a).flatMap (fun r => (List.range e.p.b).map (fun j =>
    ((from_.set axes.1 (at6 from_ axes.1 + j)).set axes.2 (at6 from_ axes.2 + r)).take 6))

/-- A tile as its elements enter a queue, at its coordinates (R163, R223). -/
def ringTile (e : Ev) (handle : Nat) (axes : Nat × Nat) (coord : List Nat) (data : List Nat → Nat) : RingTile :=
  { handle := handle, coord := coord, shape := e.p.shape, inner := axes.1, outer := axes.2, crew := 0, data := (e.cells axes coord).map data }

/-- The elements of a tile but for `n` of them count in the masked bin (R91). -/
def maskedBin (e : Ev) (t : Tensor) (n : Nat) : TileOut :=
  match t.d.hist with
  | some slot => { hist := List.replicate (e.p.a * e.p.b - n) ⟨slot, 62, none, t.d.static⟩ }
  | none => {}

/-- The padding of a tile, for an output over the tile's positions: each counts in the masked bin (R91). DEDUCED (log 118): an output with other
positions, as that of a row's result, has no padding of its own. -/
def padded (e : Ev) (t : Tensor) (pos : List (List Nat)) : TileOut := if pos == e.pos then e.maskedBin t pos.length else {}

/-- The tile axes of an output: those of the plan; of the index pairs that GATE makes, the entry and the rank (R376). -/
def outAxes (e : Ev) (at_ : Nat) : Nat × Nat := if e.m.isVec 0x0B && e.m.mode 10 1 = 1 && at_ = 8 then (0, 1) else (e.p.inner, e.p.outer)

/-- Where the tile begins that holds an index, on two tile axes. -/
def startOf (e : Ev) (axes : Nat × Nat) (i : List Nat) : List Nat :=
  (i.set axes.1 (at6 i axes.1 / e.p.b * e.p.b)).set axes.2 (at6 i axes.2 / e.p.a * e.p.a)

/-- Stage an output named by a handle field: to memory, or as ring tiles where a queue binds it (R163, R175): one over the tile's positions; of an
output with positions of its own, one for each tile that holds some of them. -/
def put (e : Ev) (at_ : Nat) (t : Tensor) (pos : List (List Nat)) (f : List Nat → Item) (where_ : Nat) : TileOut :=
  let k := e.emitAt t where_
  let o := e.held ((t.emit k pos f).append (e.padded t pos))
  match (e.m.queuesOut.find? (fun q => q.2 = at_)).map Prod.fst with
  | none => o
  | some q =>
    let axes := e.outAxes at_
    let starts := if pos == e.pos then [e.pl.start] else ((pos.map (e.startOf axes)).eraseDups).map (· ++ [0])
    { o with stores := []
             rings := starts.map (fun z => (q, e.ringTile t.d.handle axes z (fun i => if pos.contains i then t.ringCode k f i else 0))) }

/-- Stage an output that no queue binds. -/
def stage (e : Ev) (t : Tensor) (pos : List (List Nat)) (f : List Nat → Item) (where_ : Nat) : TileOut :=
  e.held ((t.emit (e.emitAt t where_) pos f).append (e.padded t pos))

/-- The number of a row: the linear index over the dimensions above D0 (R408). -/
def rowNo (e : Ev) (idx : List Nat) : Nat :=
  (((e.p.sizes.drop 1).take 5).zip (idx.drop 1)).foldr (fun q acc => q.2 + q.1 * acc) 0

/-- The closed words of a row. -/
def closed (e : Ev) (idx : List Nat) : List Word := e.m.closed.get (e.rowNo idx) []

/-- Does the tile finish its rows: have the other tiles along the inner axis all run (R269)? -/
def lastBlock (e : Ev) : Bool := ((e.m.rowTiles e.p e.pl).filter (· ≠ e.t)).all e.done.contains

/-- Is it the last tile of the macro to run? -/
def lastTile (e : Ev) : Bool := ((List.range e.p.tiles).filter (· ≠ e.t)).all e.done.contains

/-- The block of the tile along the inner axis. -/
def block (e : Ev) : Nat := at6 e.pl.start e.p.inner / e.p.b

end Ev

/-! ## Row reductions -/

/-- A row reduced: the partial of each aligned block of b leaves, and the root over them, each with its events. -/
structure RowRed (α : Type) where
  blocks : List (Option (α × Nat) × List Event)
  root : Option (α × Nat)
  top : List Event

/-- Reduce n leaves in truss order (R266 to R269): leaf events stand with their block. -/
def rowReduce {α : Type} (n b at_ : Nat) (node : α → α → α × List Nat) (leaf : Nat → Option (α × Nat) × List Event) : RowRed α :=
  let blocks := (List.range (ceilDiv n b)).map (fun j =>
    let ls := (List.range (min b (n - j * b))).map (fun i => leaf (j * b + i))
    let (r, ev) := truss at_ node (ls.map Prod.fst)
    (r, ls.flatMap Prod.snd ++ ev))
  let (r, ev) := truss at_ node (blocks.map Prod.fst)
  ⟨blocks, r, ev⟩

/-- The events of a row that a tile reports: those of its own block, and in the last block those above and `more` of the root. -/
def RowRed.eventsIn {α : Type} (r : RowRed α) (block : Nat) (last : Bool) (more : List Event) : List Event :=
  (r.blocks.getD block (none, [])).2 ++ (if last then r.top ++ more else [])

/-! ## Chains (08) -/

/-- The reader of a chain whose inputs are tensors. -/
def Ev.chainAt (e : Ev) (d : Tensor) : ChainAt :=
  let inputs := [20, 32, 44, 56].map e.tens
  let there := inputs.filterMap id
  { prog := e.m.chain, mem := e.mem, clip := d.d.clip
    input := fun k idx => match (inputs.getD k none) with | some t => t.word e.mem d.d.clip idx | none => (0, false, false)
    bound := (List.range 4).filter (fun k => (inputs.getD k none).isSome)
    row := e.m.blockTens 72, col := e.m.blockTens 74, osc := e.m.blockTens 76, bias := e.m.blockTens 78, tap := e.m.blockTens 80
    active := fun idx => (d :: there).all (fun t => t.active e.mem (t.d.bcast idx))
    bad := fun idx => there.findSome? (fun t => if t.ring.isSome then none else t.pageFail e.mem true idx) }

/-- The statistic of a held row (R243, R280): leaves over the row's indices, events at stage HOLD_STAGE. -/
def statRow (bulk : Bool) (n b at_ : Nat) (index : Nat → Nat) (active : Nat → Bool) (value : Nat → Word) : RowRed Stat :=
  rowReduce n b at_ (Stat.node bulk) (fun i =>
    if active i then
      let (l, k) := Stat.leaf bulk (value i)
      (some (l, index i), nodeEvents at_ (index i) k)
    else (none, []))

/-- The held statistic of the row of an index, over D0. -/
def chainStat (k : ChainAt) (bulk : Bool) (n b : Nat) (index : List Nat → Nat) (idx : List Nat) : RowRed Stat :=
  let at0 (i : Nat) : List Nat := idx.set 0 i
  statRow bulk n b k.prog.hs (fun i => index (at0 i)) (fun i => k.active (at0 i)) (fun i => k.held (at0 i))

/-- What a closed row of a statistic holds: the six STAT sources, the two words of the root, its count, and NAN_SEEN (R244, R276, R282). -/
def closedStat (bulk : Bool) (eps : Word) (r : Option ViaVal) : List Word :=
  match r with
  | none => [0, 0, 0, 0, 0, 0, 0, 0, 0, 0]
  | some v => (statSources bulk ⟨v.n, v.u, v.v⟩ eps).1 ++ [v.u, v.v, BitVec.ofNat 32 v.n, BitVec.ofNat 32 (b2n v.nan)]

/-- The events of a statistic's derivation, at the row's lowest active element. -/
def deriveEvents (bulk : Bool) (eps : Word) (at_ : Nat) (closed : List Word) (low : Option Nat) : List Event :=
  match low with
  | some i => nodeEvents at_ i (statSources bulk ⟨(closed.getD 8 0).toNat, closed.getD 6 0, closed.getD 7 0⟩ eps).2
  | none => []

/-- The tap of a chain at some positions (R248). -/
def Ev.tapOut (e : Ev) (k : ChainAt) (pos : List (List Nat)) (index : List Nat → Nat) : TileOut :=
  match k.tap with
  | some t => if k.prog.tap then e.stage t pos (fun i => k.tapItem (e.closed i) index i) 10 else {}
  | none => {}

/-- A chain's outputs over a tile: the statistic's events, DST, and the tap (R243 to R253). `names`: the place of DST. -/
def Ev.chainOut (e : Ev) (k : ChainAt) (d : Tensor) (at_ : Nat) (bulk : Bool) : TileOut :=
  let index (i : List Nat) : Nat := d.d.linear i % 2 ^ 64
  let pos := e.pos
  let stats : List Event × List Nat :=
    if k.prog.hold then
      let rows := (e.p.rows e.pl).map (fun r => r.take 6)
      let reds := rows.map (fun r => (r, chainStat k bulk (at6 e.p.sizes 0) e.p.b index r))
      (reds.flatMap (fun q => q.2.eventsIn e.block e.lastBlock
          (deriveEvents bulk k.prog.eps k.prog.hs (e.closed q.1) (q.2.root.map Prod.snd))),
       if e.lastBlock then (rows.filter (fun r => (e.closed r).getD 8 0 = 0)).map e.rowNo else [])
    else ([], [])
  let main := e.put at_ d pos (fun i => k.item (e.closed i) index i) 9
  let o := main.append (e.tapOut k pos index)
  { o with events := oncePer k.prog.ts (o.events ++ stats.1), empties := o.empties ++ stats.2 }

def Ev.vew (e : Ev) : TileOut := e.chainOut (e.chainAt (e.req 8)) (e.req 8) 8 e.m.tclass

/-- The statistic that closes a row of a chain: its root's count and two words, and whether a NaN stood in it (R276). -/
def chainClose (k : ChainAt) (bulk : Bool) (n b : Nat) (idx : List Nat) : Option ViaVal :=
  let r := chainStat k bulk n b (fun i => at6 i 0) idx
  r.root.map (fun q =>
    let seen := (List.range n).any (fun i => k.active (idx.set 0 i) && isNaN32 (k.held (idx.set 0 i)))
    ⟨q.1.n, q.1.u, q.1.v, seen || isNaN32 q.1.u || isNaN32 q.1.v⟩)

/-! ## Copies (03 R548, 13 R364) -/

/-- VCVT: each element converts once. -/
def Ev.vcvt (e : Ev) : TileOut :=
  let d := e.req 8
  let x := e.req 20
  let item (i : List Nat) : Item :=
    let act := x.active e.mem (x.d.bcast i) && d.active e.mem i
    { x := x.exact e.mem i, act := act, index := d.d.linear i % 2 ^ 64
      bad := if x.ring.isSome then none else x.pageFail e.mem act i }
  e.put 8 d e.pos item 9

/-- The source index of VPERM. -/
def permIndex (m : MacroRun) (i : List Nat) : List Nat :=
  ((List.range 6).map (fun k => (m.mode (3 * k) 3, at6 i k))).foldl (fun l q => l.set q.1 q.2) [0, 0, 0, 0, 0, 0]

/-- VPERM. -/
def Ev.vperm (e : Ev) : TileOut :=
  let d := e.req 8
  let x := e.req 20
  let item (i : List Nat) : Item :=
    let j := permIndex e.m i
    let act := x.active e.mem j && d.active e.mem i
    { x := x.exact e.mem j, act := act, index := d.d.linear i % 2 ^ 64
      bad := if x.ring.isSome then none else x.pageFail e.mem act j }
  e.put 8 d e.pos item 9

/-! ## The access stream (06 R177, R178, 05 R164) -/

/-- LD into a queue: the codes of the tile as they stand. -/
def Ev.ldQueue (e : Ev) : TileOut :=
  let x := e.req 10
  let pos := e.pos
  let entry (i : List Nat) : Nat :=
    if !pos.contains i || x.badPage e.mem i then 0
    else let (c, sc) := x.code e.mem i; c + 2 ^ 32 * sc
  { rings := [(e.m.dq, e.ringTile x.d.handle (e.p.inner, e.p.outer) e.pl.start entry)]
    fail := (pos.findSome? (fun i => x.pageFail e.mem (x.active e.mem i) i)).map (fun f => (f.code, f.detail)) }

/-- The crews that an element of a bay transfer concerns, by context crew index, and its word in the bay. -/
def bayPlace (d : Flat) (crews : Nat) (i : List Nat) : List Nat × Nat :=
  if wholeTensor d then (List.range crews, d.linear i)
  else
    let top := d.rank - 1
    ([at6 i top], d.linear (i.set top 0))

/-- LD into a LINEAR bay (R177). -/
def Ev.ldBay (e : Ev) : TileOut :=
  let x := e.req 10
  let crews := crewsOf e.p.spans
  let bay := e.x.bay e.m.bay
  let each := e.pos.map (fun i =>
    let (w, _, ov) := x.word e.mem x.d.clip i
    let (ks, n) := bayPlace x.d crews.length i
    let act := x.active e.mem i
    ({ stores := ks.map (fun k => .oc (crews.getD k 0) (bay.base + n / 64) (n % 64) w)
       events := if ov && act then [⟨2, x.d.linear i % 2 ^ 64, 8⟩] else []
       fail := (x.pageFail e.mem act i).map (fun f => (f.code, f.detail)) } : TileOut))
  TileOut.joinAll each

/-- LD into the descriptor store (R136): the descriptors whose bytes the tile holds. -/
def Ev.ldDescriptor (e : Ev) : TileOut :=
  let x := e.req 10
  let rows := (e.p.rows e.pl).map (fun r => at6 r 1)
  { stores := rows.map (fun k => .desc (e.m.aux + k)
      (BitVec.ofNat 1024 (ofLe ((List.range 128).map (fun j => BitVec.ofNat 8 (x.code e.mem [j, k, 0, 0, 0, 0]).1))))) }

/-- ST from a queue (R164): the ring tile's elements; the slot of a histogram counts them where they were converted. -/
def Ev.stQueue (e : Ev) : TileOut :=
  let d := e.req 10
  let o := e.stage { d with ring := none } e.pos (fun i =>
    { x := d.exact e.mem i, act := d.active e.mem i, index := d.d.linear i % 2 ^ 64 }) 9
  { o with hist := [] }

/-- Where an element of an ST lies in its bay: the crew and the word (R178). -/
def Ev.stPlace (e : Ev) (i : List Nat) : Nat × Nat :=
  let crews := crewsOf e.p.spans
  let (ks, n) := bayPlace (e.req 10).d crews.length i
  (crews.getD (ks.headD 0) 0, n)

/-- The words that a tile of an ST reads, in the order of its positions (R180). -/
def Ev.stWords (e : Ev) : List Word :=
  let bay := e.x.bay e.m.bay
  e.pos.map (fun i =>
    let (k, n) := e.stPlace i
    (e.st.crewOf k).oc.get (64 * (bay.base + n / 64) + n % 64) 0)

/-- ST from a LINEAR bay (R178), from the words that its tile has read. -/
def Ev.stBay (e : Ev) : TileOut :=
  let d := e.req 10
  let read := e.pos.zip e.run.words
  e.stage d e.pos (fun i =>
    let w := ((read.find? (fun q => q.1 == i)).map Prod.snd).getD 0
    { x := if d.d.fmt.isInt then XVal.ofInt w.toInt else val32 w, act := d.active e.mem i, index := d.d.linear i % 2 ^ 64 }) 9

end Sys2Proof.Machine
end

