-- ==== Sys2Proof/Machine/EvalRed.lean ====
section
/-! DEFINITION. What a tile of VRED, VSTAT, VSCAN and VSORT stages (10_reductions_statistics_scans.md). -/

namespace Sys2Proof.Machine

/-! ## VRED (R271 to R279) -/

/-- The source index of leaf i of a row: along the inner axis, or over the reduced axes by their linear index (R193, R266). -/
def leafIndex (sizes : List Nat) (inner : Nat) (red row : List Nat) (i : Nat) : List Nat :=
  if inner < 6 then (row.set inner i).take 6
  else ((red.zip (digits i (red.map (at6 sizes)))).foldl (fun l q => l.set q.1 q.2) row).take 6

/-- Empty results of R275. -/
def emptyRed (rop : Nat) : Word := match rop with | 3 => one32 | 4 => negInf32 | 5 => posInf32 | _ => 0

/-- The value that a leaf or a node carries: a word, the reduction index of MAX and MIN, the count of COUNT. -/
structure RedVal where
  w : Word
  i : Nat
  n : Nat
  deriving DecidableEq, Repr

/-- The leaf of an element (R271), and its events. -/
def redLeaf (rop : Nat) (x y : Word) (i : Nat) : RedVal × List Nat :=
  match rop with
  | 1 => let r := (mulX x x).round; (⟨r.w, i, 0⟩, r.kinds)
  | 2 => let r := (mulX x y).round; (⟨r.w, i, 0⟩, r.kinds)
  | _ => (⟨x, i, 0⟩, [])

/-- The node of a reduction (R271, R273). -/
def redNode (rop : Nat) (a b : RedVal) : RedVal × List Nat :=
  match rop with
  | 3 => let r := (mulX a.w b.w).round; (⟨r.w, a.i, 0⟩, r.kinds)
  | 4 => (if leftWins true a.w b.w then a else b, [])
  | 5 => (if leftWins false a.w b.w then a else b, [])
  | 6 => (⟨a.w, a.i, a.n + b.n⟩, [])
  | _ => let r := (addX a.w b.w).round; (⟨r.w, a.i, 0⟩, r.kinds)

/-- One row of a VRED. -/
def Ev.redRow (e : Ev) (x : Tensor) (y : Option Tensor) (row : List Nat) : RowRed RedVal :=
  let rop := e.m.sop
  let nanign := e.m.mode 10 1 = 1
  let red := e.m.redAxes
  rowReduce (at6 e.p.sizes e.p.inner) e.p.b 0 (redNode rop) (fun i =>
    let idx := leafIndex x.d.sizes e.p.inner red row i
    let act := x.holds idx && x.active e.mem idx && (match y with | some t => t.active e.mem (t.d.bcast idx) | none => true)
    if !act then (none, [])
    else
      let at_ := x.d.linear idx % 2 ^ 64
      let (w, ov) := x.leaf e.mem (e.req 8).d.clip idx
      let (v, ov') := match y with | some t => t.leaf e.mem (e.req 8).d.clip idx | none => (0, false)
      let conv : List Event := if ov || ov' then [⟨2, at_, 8⟩] else []
      if nanign && isNaN32 w then (none, conv)
      else
        let (l, k) := redLeaf rop w v i
        let zero : Bool := (x.exact e.mem idx).isZero
        (some (if rop = 6 then ⟨w, i, if zero then 0 else 1⟩ else l, at_), conv ++ nodeEvents 0 at_ k))

/-- VRED: each tile counts the events of its block; the last block of a row stages the row's results. -/
def Ev.vred (e : Ev) : TileOut :=
  let x := e.req 20
  let d := e.req 8
  let rop := e.m.sop
  let y := if rop = 2 then e.tens 32 else none
  let rows := (e.p.rows e.pl).map (fun r => (r, e.redRow x y r))
  let red := e.m.redAxes
  let dst (row : List Nat) : List Nat := red.foldl (fun l k => l.set k 0) (row.take 6)
  let value (r : RowRed RedVal) : XVal := match r.root with
    | some (v, _) => if rop = 6 then XVal.ofInt v.n else val32 v.w
    | none => if rop = 6 then .zero false else val32 (emptyRed rop)
  -- a position of an MX block that lies outside the tile takes the result of its own row
  let row (i : List Nat) : List Nat × RowRed RedVal := (rows.find? (fun q => dst q.1 == i)).getD (i ++ [0], e.redRow x y (i ++ [0]))
  let pos := rows.map (fun q => dst q.1)
  let low (q : List Nat × RowRed RedVal) : Nat := match q.2.root with
    | some (_, i) => i
    | none => x.d.linear (dst q.1) % 2 ^ 64
  -- a NaN leaf, or one that a node makes, stands at the root; of COUNT, whose leaves are numbers, the elements are asked
  let nan (q : List Nat × RowRed RedVal) : Bool :=
    if rop = 6 then (List.range (at6 e.p.sizes e.p.inner)).any (fun i =>
      let idx := leafIndex x.d.sizes e.p.inner red q.1 i
      x.holds idx && x.active e.mem idx && isNaN32 (x.leaf e.mem d.d.clip idx).1)
    else match q.2.root with | some (v, _) => isNaN32 v.w | none => false
  let events := rows.flatMap (fun q => q.2.eventsIn e.block e.lastBlock [])
  let fail := (e.p.rows e.pl).findSome? (fun r => (e.p.cols e.pl).findSome? (fun i =>
    let idx := leafIndex x.d.sizes e.p.inner red r i
    let act := Tensor.allActive (x :: y.toList) e.mem idx
    let at_ (t : Tensor) : Option Fail := if t.ring.isSome then none else t.pageFail e.mem act idx
    if x.holds idx then (at_ x).or (y.bind at_) else none))
  let last : TileOut :=
    if !e.lastBlock then {}
    else
      let item (f : List Nat × RowRed RedVal → XVal) (t : Tensor) (i : List Nat) : Item :=
        { x := f (row i), act := t.active e.mem i, index := low (row i) }
      let main := e.put 8 d pos (item (fun q => value q.2) d) 9
      let ix := match (if rop = 4 || rop = 5 then e.tens 116 else none) with
        | some t => e.stage t pos (item (fun q => XVal.ofInt ((BitVec.ofNat 32 (match q.2.root with
            | some (v, _) => v.i | none => 0xFFFFFFFF)).toInt)) t) 9
        | none => {}
      let st := match e.tens 56 with
        | some t => e.stage t pos (item (fun q => XVal.ofInt ((b2n q.2.root.isNone + 4 * b2n (nan q) : Nat) : Int)) t) 9
        | none => {}
      { TileOut.joinAll [main, ix, st] with
        empties := (rows.filter (fun q => q.2.root.isNone)).map (fun q => d.d.linear (dst q.1)) }
  let o := last.append { fail := fail.map (fun f => (f.code, f.detail)) }
  { o with events := oncePer 0 (events ++ o.events) }

/-! ## VSTAT (R280 to R283) -/

/-- The statistic of a row of VSTAT. -/
def Ev.vstatRow (e : Ev) (x : Tensor) (row : List Nat) : RowRed Stat :=
  let at0 (i : Nat) : List Nat := row.set 0 i |>.take 6
  let n := if x.d.size 0 = 0 then 0 else at6 e.p.sizes 0
  statRow e.m.tclass n e.p.b 0 (fun i => x.d.linear (at0 i) % 2 ^ 64) (fun i => x.active e.mem (at0 i))
    (fun i => (x.leaf e.mem (e.req 8).d.clip (at0 i)).1)

/-- The value that closes a row of VSTAT. -/
def Ev.vstatClose (e : Ev) (row : List Nat) : Option ViaVal :=
  let x := e.req 20
  (e.vstatRow x row).root.map (fun q =>
    let seen := (List.range (x.d.size 0)).any (fun i =>
      x.active e.mem (row.set 0 i) && isNaN32 (x.leaf e.mem (e.req 8).d.clip (row.set 0 i)).1)
    ⟨q.1.n, q.1.u, q.1.v, seen || isNaN32 q.1.u || isNaN32 q.1.v⟩)

/-- VSTAT: the record of each row, in the row's last tile. -/
def Ev.vstat (e : Ev) : TileOut :=
  let x := e.req 20
  let d := e.req 8
  let bulk := e.m.tclass
  let eps := statEps e.m e.mem
  let closed (r : List Nat) : List Word :=
    if e.m.via = some 0 then closedStat bulk eps (e.vstatClose (r.take 6)) else e.closed (r.take 6)
  let rows := (e.p.rows e.pl).map (fun r => (r.take 6, closed r, e.vstatRow x r))
  let conv := (e.p.rows e.pl).flatMap (fun r => (e.p.cols e.pl).flatMap (fun i =>
    let idx := r.set 0 i |>.take 6
    if x.holds idx && x.active e.mem idx && (x.leaf e.mem d.d.clip idx).2 then ([⟨2, x.d.linear idx % 2 ^ 64, 8⟩] : List Event) else []))
  let events := rows.flatMap (fun q => q.2.2.eventsIn e.block e.lastBlock
    (deriveEvents bulk eps 0 q.2.1 (q.2.2.root.map Prod.snd)))
  let fail := e.pos.findSome? (fun i =>
    if x.ring.isSome || !x.holds i then none else x.pageFail e.mem (x.active e.mem i) i)
  let last : TileOut :=
    if !e.lastBlock then {}
    else
      let row? (i : List Nat) := rows.find? (fun q => q.1.set 0 0 == i.set 0 0)
      let word (w : List Word) (k : Nat) : Word := if k < 6 then w.getD k 0 else if k = 6 then (if bulk then w.getD 7 0 else w.getD 6 0)
        else if bulk then 0 else w.getD 7 0
      let main := e.put 8 d (rows.flatMap (fun q => (List.range 8).map (fun k => q.1.set 0 k))) (fun i =>
        match row? i with
        | some q => { x := val32 (word q.2.1 (at6 i 0)), act := d.active e.mem i, index := (q.2.2.root.map Prod.snd).getD 0 }
        | none => { skip := true }) 9
      let st := match e.tens 56 with
        | some t => e.stage t (rows.map (fun q => q.1.set 0 0)) (fun i => match row? i with
            | some q => { x := XVal.ofInt ((b2n (q.2.1.getD 8 0 = 0) + 4 * (q.2.1.getD 9 0).toNat : Nat) : Int), act := t.active e.mem i }
            | none => { skip := true }) 9
        | none => {}
      { main.append st with empties := (rows.filter (fun q => q.2.1.getD 8 0 = 0)).map (fun q => e.rowNo q.1) }
  let o := last.append { fail := fail.map (fun f => (f.code, f.detail)) }
  { o with events := oncePer 0 (conv ++ events ++ o.events) }

/-! ## VSCAN (R289 to R294) -/

/-- An entry of a scan: one word, or the pair of LINREC; with the lowest present leaf. -/
abbrev ScanVal := Option ((Word × Word) × Nat)

/-- The node of a scan. -/
def scanNode (sop : Nat) (l r : Word × Word) : (Word × Word) × List Nat :=
  match sop with
  | 1 => (if leftWins true l.1 r.1 then l else r, [])
  | 2 => (if leftWins false l.1 r.1 then l else r, [])
  | 3 => let q := (mulX l.1 r.1).round; ((q.w, 0), q.kinds)
  | 4 =>
    let (a, k) := note (mulX r.1 l.1).round []
    let (b, k) := note (fmaX r.1 l.2 r.2).round k
    ((a, b), k)
  | _ => let q := (addX l.1 r.1).round; ((q.w, 0), q.kinds)

/-- Join two subtrees, the left one lower. -/
def scanJoin (sop : Nat) (l r : ScanVal) : ScanVal × List Event :=
  match l, r with
  | some (a, i), some (b, _) => let (v, k) := scanNode sop a b; (some (v, i), nodeEvents 0 i k)
  | none, r => (r, [])
  | l, none => (l, [])

/-- Combine subtrees from the largest. -/
def scanFold (sop : Nat) (l : List ScanVal) : ScanVal × List Event :=
  l.foldl (fun acc v => let (r, e) := scanJoin sop acc.1 v; (r, acc.2 ++ e)) (none, [])

/-- The aligned subtrees of the first n of some leaves, the largest first. -/
def scanPieces (sop : Nat) (leaves : List ScanVal) (n : Nat) : List (ScanVal × List Event) :=
  ((List.range 33).reverse.foldl (fun (acc : Nat × List (ScanVal × List Event)) k =>
    if n / 2 ^ k % 2 = 1 then
      (acc.1 + 2 ^ k, acc.2 ++ [truss 0 (scanNode sop) ((leaves.drop acc.1).take (2 ^ k))])
    else acc) (0, [])).2

/-- next_stack of R293: the entries from the largest, for tile t. -/
def nextStack (sop t : Nat) (stack : List ScanVal) (total : ScanVal) : List ScanVal × List Event :=
  let ones := ((List.range 40).find? (fun k => t / 2 ^ k % 2 = 0)).getD 40
  let kept := stack.take (stack.length - ones)
  let merged := (stack.drop (stack.length - ones)).reverse.foldl (fun (acc : ScanVal × List Event) v =>
    let (r, e) := scanJoin sop v acc.1; (r, acc.2 ++ e)) (total, [])
  (kept ++ [merged.1], merged.2)

/-- Words of a stack entry in a carry: presence, lowest leaf, the two words. -/
def scanWords : ScanVal → List Word
  | none => [0, 0, 0, 0, 0]
  | some ((a, b), i) => [1, BitVec.ofNat 32 i, BitVec.ofNat 32 (i / 2 ^ 32), a, b]

def scanOf (w : List Word) : ScanVal :=
  if w.getD 0 0 = 0 then none
  else some ((w.getD 3 0, w.getD 4 0), (w.getD 1 0).toNat + 2 ^ 32 * (w.getD 2 0).toNat)

/-- The stack of channel j of the tile in a carry of `b` channels. -/
def carryStack (b j : Nat) (w : List Word) : List ScanVal :=
  (List.range (w.length / (5 * max 1 b))).map (fun k => scanOf ((w.drop (5 * (k * b + j))).take 5))

/-- A carry from the stacks of the channels. -/
def packCarry (stk : List (List ScanVal)) : List Word :=
  let n := (stk.map List.length).foldl max 0
  (List.range n).flatMap (fun k => stk.flatMap (fun s => scanWords (s.getD k none)))

/-- The empty result of a scan, or h0. -/
def scanEmpty (sop : Nat) : Word := match sop with | 1 => negInf32 | 2 => posInf32 | 3 => one32 | _ => 0

/-- The channel at column `col` of the tile: its leaves, and the events of its input conversions. -/
def Ev.scanLeaves (e : Ev) (col : Nat) : List (ScanVal × List Event) :=
  let d := e.req 8
  let x := e.req 20
  let sop := e.m.sop
  let b := if sop = 4 then e.tens 32 else none
  let h := if sop = 4 then e.tens 44 else none
  let high := e.m.mode 6 1 = 1
  (e.p.rows e.pl).map (fun r =>
    let idx := (r.set 0 col).take 6
    let act := ([some x, b].filterMap id).all (fun t => t.active e.mem (t.d.bcast idx)) && d.active e.mem idx
    let at_ := d.d.linear idx % 2 ^ 64
    let (w, ov) := x.leaf e.mem d.d.clip idx
    let (v, ov') := match b with | some t => t.leaf e.mem d.d.clip idx | none => (0, false)
    let conv : List Event := if act && (ov || ov') then [⟨2, at_, 8⟩] else []
    if !act || (e.m.mode 7 1 = 1 && isNaN32 w) then (none, conv)
    else match h with
      | some t =>
        if at6 idx 1 = 0 && !high then
          let (h0, oh) := t.leaf e.mem d.d.clip (idx.set 1 0)
          let q := (fmaX w h0 v).round
          (some ((w, q.w), at_), conv ++ (if oh then [⟨2, at_, 8⟩] else []) ++ nodeEvents 0 at_ q.kinds)
        else (some ((w, v), at_), conv)
      | none => (some ((w, v), at_), conv))

/-- The stack that comes into the tile for channel j: the twin's subtree first where the scan comes over the seam (R294). -/
def Ev.stackIn (e : Ev) (j : Nat) : List ScanVal := carryStack (e.p.cols e.pl).length j (e.run.carry.getD [])

/-- The tile's number along the scan. -/
def Ev.scanTile (e : Ev) : Nat := at6 e.pl.start 1 / e.p.a

/-- The carry to the next tile (R293). -/
def Ev.carryOut (e : Ev) : List Word :=
  packCarry ((List.range (e.p.cols e.pl).length).map (fun j =>
    let leaves := (e.scanLeaves ((e.p.cols e.pl).getD j 0)).map Prod.fst
    (nextStack e.m.sop e.scanTile (e.stackIn j) (truss 0 (scanNode e.m.sop) leaves).1).1))

/-- Does a scan tile pass a carry on: to a tile after it, or over the seam (R293, R294)? -/
def Ev.passesOn (e : Ev) : Bool :=
  at6 e.pl.start 1 + e.p.a < at6 e.p.sizes 1 || (e.m.mode 5 1 = 1 && e.m.mode 6 1 = 0)

/-- VSCAN. -/
def Ev.vscan (e : Ev) : TileOut :=
  let d := e.req 8
  let sop := e.m.sop
  let excl := e.m.mode 4 1 = 1
  let cols := e.p.cols e.pl
  let h := if sop = 4 then e.tens 44 else none
  let high := e.m.mode 6 1 = 1
  let chans := (List.range cols.length).map (fun j =>
    let col := cols.getD j 0
    let ls := e.scanLeaves col
    let leaves := ls.map Prod.fst
    let stack := e.stackIn j
    let whole := truss 0 (scanNode sop) leaves
    let next := nextStack sop e.scanTile stack whole.1
    let at_ (n : Nat) : ScanVal × List Event :=
      if n = e.p.a then let (v, ev) := scanFold sop next.1; (v, whole.2 ++ next.2 ++ ev)
      else
        let ps := scanPieces sop leaves n
        let (v, ev) := scanFold sop (stack ++ ps.map Prod.fst)
        (v, ps.flatMap Prod.snd ++ ev)
    -- an exclusive scan forms the tile's total and the next stack only where they go on
    let onward : List Event := if excl && e.passesOn then whole.2 ++ next.2 else []
    (col, ls.flatMap Prod.snd ++ onward, (List.range leaves.length).map (fun r => at_ (if excl then r else r + 1))))
  let start := at6 e.pl.start 1
  let value (i : List Nat) : Word :=
    let v := match chans.find? (fun q => q.1 = at6 i 0) with
      | some q => (q.2.2.getD (at6 i 1 - start) (none, [])).1
      | none => none
    match v with
    | some ((a, b), _) => if sop = 4 then b else a
    | none =>
      match h with
      | some t => if excl && at6 i 1 = 0 && !high then (t.leaf e.mem d.d.clip (i.set 1 0)).1 else 0
      | none => scanEmpty sop
  let act (i : List Nat) : Bool :=
    ([some (e.req 20), if sop = 4 then e.tens 32 else none].filterMap id).all (fun t => t.active e.mem (t.d.bcast i)) && d.active e.mem i
  let bad (i : List Nat) : Option Fail :=
    (([some (e.req 20), if sop = 4 then e.tens 32 else none].filterMap id).findSome? (fun t =>
      if t.ring.isSome then none else t.pageFail e.mem (act i) i)).or
    (if at6 i 1 = 0 && !high then h.bind (fun t => t.pageFail e.mem (act i && t.active e.mem (t.d.bcast (i.set 1 0))) (i.set 1 0)) else none)
  let o := e.put 8 d e.pos (fun i =>
    { x := val32 (value i), act := act i, index := d.d.linear i % 2 ^ 64, bad := bad i }) 9
  { o with events := oncePer 0 (chans.flatMap (fun q => q.2.1 ++ q.2.2.flatMap Prod.snd) ++ o.events) }

/-! ## VSORT (R295, R297) -/

/-- The order of a row: the indices of its elements in their new places. -/
def sortRow (desc : Bool) (keys : List (Option Word)) : List Nat :=
  let cs := (List.range keys.length).filterMap (fun i => ((keys.getD i none).map (fun k => (⟨k, i⟩ : Cand))))
  let before (a b : Cand) : Bool :=
    let x := keyRank a.key
    let y := keyRank b.key
    if x = y then decide (a.index < b.index) else if desc then decide (x > y) else decide (x < y)
  (sortBy before cs).map Cand.index ++ (List.range keys.length).filter (fun i => (keys.getD i none).isNone)

/-- VSORT: a tile writes its part of its rows. The keys are binary32 (R279). DESIGN CHOICE (log 119): what it stores is the element itself,
converted once from its exact value (R75). -/
def Ev.vsort (e : Ev) : TileOut :=
  let x := e.req 20
  let d := e.req 8
  let n := x.d.size 0
  let key (idx : List Nat) : Option Word :=
    let w := (x.leaf e.mem d.d.clip idx).1
    if x.active e.mem idx && !(e.m.mode 1 1 = 1 && isNaN32 w) then some w else none
  let rows := (e.p.rows e.pl).map (fun r =>
    let row := (r.set 0 0).take 6
    (row, sortRow (e.m.mode 0 1 = 1) ((List.range n).map (fun i => key (row.set 0 i)))))
  let source (i : List Nat) : List Nat := match rows.find? (fun q => q.1 == i.set 0 0) with
    | some q => i.set 0 (q.2.getD (at6 i 0) 0)
    | none => i
  let item (ix : Bool) (t : Tensor) (i : List Nat) : Item :=
    let j := source i
    let ov := (x.leaf e.mem d.d.clip j).2
    let act := (key j).isSome && t.active e.mem i
    { x := if ix then XVal.ofInt (BitVec.ofNat 32 (at6 j 0)).toInt else x.exact e.mem j
      act := if ix then t.active e.mem i else act, index := t.d.linear i % 2 ^ 64
      evs := if ov && act && !ix then [(2, 8)] else []
      bad := if x.ring.isSome then none else x.pageFail e.mem act j }
  let main := e.put 8 d e.pos (item false d) 9
  let idx := match e.tens 107 with
    | some t => e.stage t e.pos (item true t) 9
    | none => {}
  let o := main.append idx
  { o with events := oncePer 0 o.events }

end Sys2Proof.Machine
end

