-- ==== Sys2Proof/Machine/EvalSmx.lean ====
section
/-! DEFINITION. Masks, VSMX, and the shared softmax arithmetic (11_softmax_and_attention.md R300 to R324). -/

namespace Sys2Proof.Machine

/-! ## Masked positions (R300, R306, R307) -/

/-- The generated mask allows a position. -/
def maskAllows (kind : Nat) (q k : Int) (window block : Nat) : Bool :=
  match kind with
  | 1 => k ≤ q
  | 2 => q - window < k && k ≤ q
  | 3 => q.fdiv block = k.fdiv block
  | 4 => k.fdiv block ≤ q.fdiv block
  | _ => true

/-- Is the key of a row allowed by the block: its mask, and the row's key length? `row` is the row's index with D0 = 0; `query`
and `key` its indices. -/
def MacroRun.smxAllows (m : MacroRun) (mem : Memory) (row : List Nat) (query key : Nat) : Bool :=
  let off (o : Nat) : Int := (m.blockWord o).toInt
  let q : Int := match m.blockTens 24 with
    | some t => t.int mem (row.set 0 0)
    | none => (query : Int) + off 8
  let len : Bool := match m.blockTens 26 with
    | some t => decide ((key : Int) < t.int mem (row.set 0 0))
    | none => true
  len && maskAllows m.maskKind q ((key : Int) + off 12) (m.blockField 16 4) (m.blockField 20 4)

/-- Is a scaled score above the mask floor? A NaN is. -/
def aboveFloor (z : Word) : Bool := isNaN32 z || XVal.lt false (val32 maskFloor) (val32 z)

/-! ## VSMX FWD (R310 to R314) -/

/-- A scaled score: its word, the events of its arithmetic, and whether it is active. -/
structure Score where
  z : Word
  kinds : List Nat
  conv : Bool
  act : Bool

/-- The score at an index of VSMX FWD. -/
def Ev.score (e : Ev) (idx : List Nat) : Score :=
  let d := e.req 8
  let x := e.req 20
  let b := e.tens 32
  let scale := e.m.blockWord 4
  let (w, _, ov) := x.word e.mem d.d.clip idx
  let (z, k, ov') := match b with
    | none => let r := (mulX w scale).round; (r.w, r.kinds, false)
    | some t =>
      let (v, _, o) := t.word e.mem d.d.clip idx
      let r := (fmaX w scale v).round
      (r.w, r.kinds, o)
  let masks := ([some x, b, some d].filterMap id).all (fun t => t.active e.mem (t.d.bcast idx))
  ⟨z, k, ov || ov', masks && e.m.smxAllows e.mem idx (at6 idx 1) (at6 idx 0) && aboveFloor z⟩

/-- The pairs of a row. -/
def Ev.smxRow (e : Ev) (row : List Nat) : RowRed SmxPair :=
  let d := e.req 8
  rowReduce (at6 e.p.sizes 0) e.p.b 0 smxNode (fun i =>
    let idx := row.set 0 i |>.take 6
    let s := e.score idx
    if s.act then (some (⟨s.z, one32⟩, d.d.linear idx % 2 ^ 64), []) else (none, []))

/-- The value that closes a row of VSMX FWD. -/
def Ev.smxClose (e : Ev) (row : List Nat) : Option ViaVal :=
  (e.smxRow row).root.map (fun q => ⟨0, q.1.m, q.1.l, isNaN32 q.1.m || isNaN32 q.1.l⟩)

/-- The words of a closed pair: presence, m, l. -/
def pairWords : Option ViaVal → List Word
  | none => [0, 0, 0]
  | some v => [1, v.u, v.v]

def pairOf (w : List Word) : Option SmxPair := if w.getD 0 0 = 0 then none else some ⟨w.getD 1 0, w.getD 2 0⟩

/-- The status byte of a softmax row (R276, R312). -/
def smxStatus (present nan : Bool) : XVal := XVal.ofInt ((3 * b2n (!present) + 4 * b2n nan : Nat) : Int)

/-- A per-row output of a macro's rows: the value of each row. -/
def Ev.perRowOut (e : Ev) (t : Option Tensor) (rows : List (List Nat)) (f : List Nat → Item) : TileOut :=
  match t with
  | none => {}
  | some t => e.stage t (rows.map (fun r => r.set 0 0)) (fun i => { f i with act := t.active e.mem i }) 9

/-- VSMX FWD. -/
def Ev.vsmxFwd (e : Ev) : TileOut :=
  let d := e.req 8
  let rows := (e.p.rows e.pl).map (fun r => r.take 6)
  let reds := rows.map (fun r => (r, e.smxRow r))
  let root (r : List Nat) : Option SmxPair :=
    if e.m.via = some 0 then ((reds.find? (fun q => q.1.set 0 0 == r.set 0 0)).bind (fun q => q.2.root)).map Prod.fst
    else pairOf (e.closed r)
  let logout := e.m.logOut
  let item (i : List Nat) : Item :=
    let s := e.score i
    let act := s.act
    let at_ := d.d.linear i % 2 ^ 64
    let bad : Option Fail := ([e.tens 20, e.tens 32].filterMap id).findSome? (fun t =>
      if t.ring.isSome then none else t.pageFail e.mem act i)
    match root i with
    | some p =>
      if !act then { x := if logout then val32 maskFloor else .zero false, act := false, index := at_ }
      else
        let (dz, k) := note (subX s.z p.m).round s.kinds
        let conv : List (Nat × Nat) := if s.conv then [(2, 8)] else []
        if logout then
          let g := (sfnX .log p.l).round.w
          let r := subX dz g
          { x := r.x, act := true, index := at_, evs := conv ++ (k ++ r.kinds).map (fun q => (q, 0)), bad := bad }
        else
          let (ex, k) := note (sfnX .exp dz).round k
          let r := divX ex p.l
          { x := r.x, act := true, index := at_, evs := conv ++ (k ++ r.kinds).map (fun q => (q, 0)), bad := bad }
    | none => { x := if logout then val32 maskFloor else .zero false, act := false, index := at_ }
  let rowEvents (q : List Nat × RowRed SmxPair) : List Event :=
    let more : List Event := match root q.1, q.2.root with
      | some p, some (_, low) => nodeEvents 0 low (if e.m.lseEn || logout then (logSumExp p).2 else [])
      | _, _ => []
    q.2.eventsIn e.block e.lastBlock more
  let main := e.put 8 d e.pos item 9
  let last : TileOut :=
    if !e.lastBlock then {}
    else
      let lse := e.perRowOut (if e.m.lseEn then e.m.blockTens 28 else none) rows (fun i => match root i with
        | some p => { x := val32 (logSumExp p).1 }
        | none => { x := val32 negInf32 })
      let st := e.perRowOut (e.m.blockTens 30) rows (fun i =>
        { x := smxStatus (root i).isSome (match root i with | some p => isNaN32 p.m || isNaN32 p.l | none => false) })
      let none_ := (rows.filter (fun r => (root r).isNone)).map e.rowNo
      { lse.append st with empties := none_, fmasks := none_ }
  let o := main.append last
  { o with events := oncePer 0 (reds.flatMap rowEvents ++ o.events) }

/-! ## VSMX COMBINE (R322, R323) -/

/-- A partial triple at one output element. -/
structure Triple where
  m : Word
  l : Word
  o : Word
  deriving DecidableEq, Repr

/-- combine_node of R322: the triple, the events of m and l, and the events of o. -/
def combineNode (a b : Triple) : Triple × List Nat × List Nat :=
  if leftWins true a.m b.m then
    if isNaN32 a.m then (⟨a.m, a.m, a.m⟩, [], [])
    else
      let (c, k) := expDiff b.m a.m []
      let (l, k) := note (fmaX b.l c a.l).round k
      let (o, j) := note (fmaX b.o c a.o).round []
      (⟨a.m, l, o⟩, k, j)
  else
    if isNaN32 b.m then (⟨b.m, b.m, b.m⟩, [], [])
    else
      let (c, k) := expDiff a.m b.m []
      let (l, k) := note (fmaX a.l c b.l).round k
      let (o, j) := note (fmaX a.o c b.o).round []
      (⟨b.m, l, o⟩, k, j)

/-- Does chunk c take part in an output element: the masks of SRC0 and SRC1 leave it and its l is not 0 (R112, R115, R322)? With `row`, in the
row's m and l, which SRC0's mask does not concern. -/
def Ev.chunkIn (e : Ev) (i : List Nat) (row : Bool) (c : Nat) : Bool :=
  let x := e.req 20
  let y := e.req 32
  let at0 (k : Nat) : List Nat := (i.set 1 c).set 0 k
  (y.word e.mem false (at0 1)).1 ≠ 0 && y.active e.mem (at0 0) && y.active e.mem (at0 1) && (row || x.active e.mem (x.d.bcast (i.set 1 c)))

/-- The chunks of an output element combined in truss order; the events of its own arithmetic, or with `row` those of m and l. -/
def Ev.combineRoot (e : Ev) (i : List Nat) (row : Bool) : Option (Triple × Nat) × List Event :=
  let x := e.req 20
  let y := e.req 32
  let d := e.req 8
  truss 0 (fun a b => let (t, k, j) := combineNode a b; (t, if row then k else j))
    ((List.range (x.d.size 1)).map (fun c =>
      let at0 (k : Nat) : List Nat := (i.set 1 c).set 0 k
      let m := (y.word e.mem false (at0 0)).1
      let l := (y.word e.mem false (at0 1)).1
      if !e.chunkIn i row c then none
      else some (⟨m, l, (x.word e.mem false (i.set 1 c)).1⟩, d.d.linear i % 2 ^ 64)))

/-- VSMX COMBINE. -/
def Ev.vsmxCombine (e : Ev) : TileOut :=
  let d := e.req 8
  let x := e.req 20
  let rows := (e.p.rows e.pl).map (fun r => r.take 6)
  let item (i : List Nat) : Item :=
    let (r, ev) := e.combineRoot i false
    let at_ := d.d.linear i % 2 ^ 64
    let bad := if x.ring.isSome then none else
      (List.range (x.d.size 1)).findSome? (fun c => x.pageFail e.mem (d.active e.mem i && e.chunkIn i false c) (i.set 1 c))
    match r with
    | none => { x := .zero false, act := false, index := at_, bad := bad }
    | some (t, _) =>
      let q := divX t.o t.l
      { x := q.x, act := d.active e.mem i, index := at_, bad := bad
        evs := (ev.map (fun v => (v.kind, 0))) ++ q.kinds.map (fun k => (k, 0)) }
  let main := e.put 8 d e.pos item 9
  let last : TileOut :=
    if !e.lastBlock then {}
    else
      let pair (i : List Nat) : Option SmxPair := ((e.combineRoot (i.set 0 0) true).1.map Prod.fst).map (fun t => ⟨t.m, t.l⟩)
      let lse := e.perRowOut (if e.m.lseEn then e.m.blockTens 28 else none) rows (fun i => match pair i with
        | some p => { x := val32 (logSumExp p).1 }
        | none => { x := val32 negInf32 })
      let st := e.perRowOut (e.m.blockTens 30) rows (fun i =>
        { x := smxStatus (pair i).isSome (match pair i with | some p => isNaN32 p.m || isNaN32 p.l | none => false) })
      let none_ := (rows.filter (fun r => (pair r).isNone)).map e.rowNo
      let ev := rows.flatMap (fun r =>
        let first := r.set 0 0
        (e.combineRoot first true).2 ++ (match pair r with
          | some p => if e.m.lseEn then nodeEvents 0 (d.d.linear first % 2 ^ 64) (logSumExp p).2 else []
          | none => []))
      { lse.append st with empties := none_, fmasks := none_, events := ev }
  let o := main.append last
  { o with events := oncePer 0 o.events }

/-! ## VSMX BWD (R324) -/

/-- The output of the backward pass: the exact product p × t × scale (R324), as an item without its index. -/
def bwdItem (p dp d : Word) (scale : XVal) : Item :=
  let (t, k) := note (subX dp d).round []
  let r := mulX p t
  let (x, inv) := fuse r.x scale none
  { x := x, invalid := inv, evs := (k ++ r.kinds).map (fun q => (q, 0)) }

/-- Is a position of VSMX BWD active? -/
def Ev.bwdActive (e : Ev) (i : List Nat) : Bool :=
  ([e.tens 20, e.tens 32, e.tens 44, e.tens 8].filterMap id).all (fun t => t.active e.mem (t.d.bcast i))

/-- The dot product of a row. -/
def Ev.bwdRow (e : Ev) (row : List Nat) : RowRed Word :=
  let d := e.req 8
  let x := e.req 20
  let y := e.req 32
  rowReduce (at6 e.p.sizes 0) e.p.b 0 (arith addX) (fun i =>
    let idx := row.set 0 i |>.take 6
    let at_ := d.d.linear idx % 2 ^ 64
    if !e.bwdActive idx then (none, [])
    else
      let r := (mulX (x.word e.mem d.d.clip idx).1 (y.word e.mem d.d.clip idx).1).round
      (some (r.w, at_), nodeEvents 0 at_ r.kinds))

/-- The value that closes a row of VSMX BWD. Over a channel, which is of KIND SMX (R390), the sum goes as the l of a pair whose m is +0:
the node of R310 then adds the sums, as R270 does. DEDUCED (log 43). -/
def Ev.bwdClose (e : Ev) (row : List Nat) : Option ViaVal := (e.bwdRow row).root.map (fun q => ⟨0, 0, q.1, isNaN32 q.1⟩)

/-- VSMX BWD. DEDUCED (log 116): with d given no sum is taken, and NAN_SEEN is that of the row's inputs. -/
def Ev.vsmxBwd (e : Ev) : TileOut :=
  let d := e.req 8
  let x := e.req 20
  let y := e.req 32
  let given := e.tens 44
  let rows := (e.p.rows e.pl).map (fun r => r.take 6)
  let reds := if given.isSome then [] else rows.map (fun r => (r, e.bwdRow r))
  -- the row's sum, of the whole row where a channel combines it; none of a row with no active position
  let sum (i : List Nat) : Option Word :=
    if e.m.via = some 0 then ((reds.find? (fun q => q.1.set 0 0 == i.set 0 0)).bind (fun q => q.2.root)).map Prod.fst
    else if (e.closed i).getD 0 0 = 0 then none
    else some ((e.closed i).getD 1 0)
  let dot (i : List Nat) : Word := match given with
    | some t => (t.word e.mem d.d.clip i).1
    | none => (sum i).getD 0
  let scale := val32 (e.m.blockWord 4)
  let any (r : List Nat) : Bool := (List.range (at6 e.p.sizes 0)).any (fun k => e.bwdActive (r.set 0 k))
  let item (i : List Nat) : Item :=
    let act := e.bwdActive i
    let (p, _, o) := x.word e.mem d.d.clip i
    let (g, _, o') := y.word e.mem d.d.clip i
    let at_ := d.d.linear i % 2 ^ 64
    if !act then { x := .zero false, act := false, index := at_ }
    else
      let it := bwdItem p g (dot i) scale
      let od : Bool := match given with | some t => (t.word e.mem d.d.clip i).2.2 | none => false
      { it with index := at_, evs := (if o || o' || od then [(2, 8)] else []) ++ it.evs
                bad := ([x, y].findSome? (fun t => if t.ring.isSome then none else t.pageFail e.mem act i)) }
  let main := e.put 8 d e.pos item 9
  let last : TileOut :=
    if !e.lastBlock then {}
    else
      -- a NaN leaf, or one that a node makes, stands at the root of the sum
      let nan (r : List Nat) : Bool :=
        if given.isSome then (List.range (at6 e.p.sizes 0)).any (fun k =>
          let i := r.set 0 k
          e.bwdActive i && (isNaN32 (x.word e.mem d.d.clip i).1 || isNaN32 (y.word e.mem d.d.clip i).1))
        else match sum r with | some w => isNaN32 w | none => false
      let there (r : List Nat) : Bool := if given.isSome then any r else (sum r).isSome
      let st := e.perRowOut (e.m.blockTens 30) rows (fun i => { x := smxStatus (there i) (nan i) })
      let none_ := (rows.filter (fun r => !there r)).map e.rowNo
      { st with empties := none_, fmasks := none_ }
  let o := main.append last
  { o with events := oncePer 0 (reds.flatMap (fun q => q.2.eventsIn e.block e.lastBlock []) ++ o.events) }

end Sys2Proof.Machine
end

