-- ==== Sys2Proof/Machine/EvalRoute.lean ====
section
/-! DEFINITION. What a tile of VGATH, VSCAT, VTOPK and VSAMP stages, the rotary embedding and the random generator
(13_permutation_routing_sampling.md). -/

namespace Sys2Proof.Machine

/-! ## Index rows (R366, R367) -/

/-- An index row of an index tensor, named by an index with D0 = 0: is it active, and its entries. -/
def indexRow (ix : Tensor) (mem : Memory) (row : List Nat) : Bool × List Int :=
  let at0 (k : Nat) : List Nat := row.set 0 k
  let n := ix.d.size 0
  ((List.range n).all (fun k => ix.active mem (at0 k)), (List.range n).map (fun k => ix.int mem (at0 k)))

/-- INDEX_RANGE of an entry of an active row (R367); `minus`: a row whose entry 0 is −1 passes whole (R372). -/
def indexFail (ix : Tensor) (table : Flat) (row : Bool × List Int) (minus : Bool) : Option Fail :=
  if !row.1 || (minus && row.2.headD 0 = -1) then none
  else (((List.range row.2.length).zip row.2).find? (fun q =>
    (q.2 < 0 || q.2 ≥ ((table.size (1 + q.1) : Nat) : Int)))).map
      (fun q => ⟨0x0205, detail2 ix.d.handle 0 (signed64 q.2)⟩)

/-- The table index that an index row names, with D0 = 0. -/
def namedRow (entries : List Int) (row : List Nat) : List Nat :=
  let at1 := (entries.headD 0).toNat
  let r := (row.set 0 0).set 1 at1
  match entries with
  | [_, b] => r.set 2 b.toNat
  | _ => r

/-! ## VGATH (R368, R372) -/

/-- VGATH GATHER. -/
def Ev.vgathGather (e : Ev) : TileOut :=
  let d := e.req 8
  let x := e.req 20
  let ix := e.req 32
  let keep := e.m.mode 1 1 = 1
  let item (i : List Nat) : Item :=
    let row := indexRow ix e.mem (ix.d.bcast (i.set 0 0))
    let j := (namedRow row.2 i).set 0 (at6 i 0)
    let at_ := d.d.linear i % 2 ^ 64
    let range := indexFail ix x.d row false
    if !row.1 then { x := .zero false, act := false, skip := keep, stored := true, index := at_ }
    else if range.isSome then { index := at_, bad := range, act := false }
    else
      let act := x.active e.mem (x.d.bcast j) && d.active e.mem i
      { x := x.exact e.mem j, act := act, index := at_, bad := x.pageFail e.mem act j }
  e.put 8 d e.pos item 9

/-- The leaves of an element of VGATH COMBINE over the index tensor's D1 (R372). -/
def Ev.gathLeaves (e : Ev) (i : List Nat) : List (Option (Word × Nat) × List Event × Option Fail) :=
  let d := e.req 8
  let x := e.req 20
  let ix := e.req 32
  let w := e.req 44
  let at_ := d.d.linear i % 2 ^ 64
  (List.range (ix.d.size 1)).map (fun j =>
    let r := (i.set 1 j).set 0 0
    let row := indexRow ix e.mem r
    match indexFail ix x.d row true with
    | some f => (none, [], some f)
    | none =>
      let src := (namedRow row.2 r).set 0 (at6 i 0)
      if !row.1 || row.2.headD 0 = -1 || !w.active e.mem r then (none, [], none)
      else
        let bad := x.pageFail e.mem (x.active e.mem (x.d.bcast src)) src
        if !x.active e.mem (x.d.bcast src) then (none, [], bad)
        else
          let (v, ov) := x.leaf e.mem d.d.clip src
          let q := (mulX (w.word e.mem false r).1 v).round
          (some (q.w, at_), (if ov then [⟨2, at_, 8⟩] else []) ++ nodeEvents 0 at_ q.kinds, bad))

/-- VGATH COMBINE. -/
def Ev.vgathCombine (e : Ev) : TileOut :=
  let d := e.req 8
  let item (i : List Nat) : Item :=
    let ls := e.gathLeaves i
    let (r, ev) := trussSum 0 (ls.map (fun q => q.1))
    let at_ := d.d.linear i % 2 ^ 64
    { x := match r with | some (w, _) => val32 w | none => .zero false
      act := d.active e.mem i, index := at_
      evs := (ls.flatMap (fun q => q.2.1) ++ ev).map (fun v => (v.kind, v.at_))
      bad := ls.findSome? (fun q => q.2.2) }
  let o := e.put 8 d e.pos item 9
  { o with events := oncePer 0 o.events }

/-! ## Rotary embedding (R374, R375) -/

/-- The cosine or the sine of an exact angle p × θ, with the events of its evaluation (R261): 0 × ∞ is invalid. -/
def angleFn (f : Fn) (p : Int) (theta : Word) : Word × List Nat :=
  match XVal.mul (XVal.ofInt p) (val32 theta) with
  | some a => let r := (sfnAt f a).round; (r.w, r.kinds)
  | none => (qnan false, [0])

/-- Element d of a row of a head at position p, rotated: the exact value it passes on and the events of its arithmetic. -/
def MacroRun.rotate (m : MacroRun) (mem : Memory) (p : Int) (get : Nat → Word × XVal) (d : Nat) : XVal × List Nat :=
  let r := m.blockField 2 2
  if d ≥ r then ((get d).2, [])
  else
    let half : Bool := m.blockField 0 1 = 1
    let i := if half then d % (r / 2) else d / 2
    let (lo, hi) := if half then (i, i + r / 2) else (2 * i, 2 * i + 1)
    let theta := match m.blockTens 4 with | some t => (t.word mem false [i, 0, 0, 0, 0, 0]).1 | none => 0
    let (c, kc) := angleFn .cos p theta
    let (s, ks) := angleFn .sin p theta
    let x0 := (get lo).1
    let x1 := (get hi).1
    if d = lo then
      let (a, k) := note (mulX x1 s).round (kc ++ ks)
      let (y, k) := note (fmaX x0 c (neg32 a)).round k
      (val32 y, k)
    else
      let (b, k) := note (mulX x1 c).round (kc ++ ks)
      let (y, k) := note (fmaX x0 s b).round k
      (val32 y, k)

/-- The power-of-two scale of a cache write (R358): the advice that the macro latched. -/
def MacroRun.cacheScale (m : MacroRun) : XVal := .fin false 1 m.advice.toInt false

/-! ## VSCAT (R369 to R371) -/

/-- The index rows of the macro in dealing order: each is claimed by the tile of its first block (R370). -/
def Ev.scatRows (e : Ev) : List (List Nat) :=
  (List.range e.p.tiles).flatMap (fun t =>
    let pl := e.m.place e.p t
    if at6 pl.start 0 = 0 then (e.p.rows pl).map (fun r => (r.set 0 0).take 6) else [])

/-- Is a source row active: some element of it (R373)? -/
def Ev.scatOn (e : Ev) (row : List Nat) : Bool :=
  let x := e.req 20
  x.mask.isNone || (List.range (x.d.size 0)).any (fun k => x.active e.mem (x.d.bcast (row.set 0 k)))

/-- The destination row of an index row, with D0 = 0; none where the row is inactive or out of range, or where its source row is
inactive, which writes nothing whatever the index row holds (R373). -/
def Ev.scatDest (e : Ev) (row : List Nat) : Option (List Nat) :=
  let ix := e.req 32
  let q := indexRow ix e.mem (ix.d.bcast row)
  if e.scatOn row && q.1 && (indexFail ix (e.req 8).d q false).isNone then some (namedRow q.2 row) else none

/-- The number of a destination row: the pool row for PAGED (R370). -/
def destNo (d : Tensor) (mem : Memory) (r : List Nat) : Nat :=
  if d.d.paged then
    ([d.d.size 3, d.d.size 4, d.d.size 5].zip [at6 r 3, at6 r 4, at6 r 5]).foldr (fun q acc => q.2 + q.1 * acc) 0 *
      (d.d.pool * d.d.rows) + d.poolRow mem r
  else ((d.d.sizes.drop 1).zip (r.drop 1)).foldr (fun q acc => q.2 + q.1 * acc) 0

/-- The source element of an iteration index: word, exact value, activity. -/
def Ev.scatSource (e : Ev) (i : List Nat) : Word × XVal × Bool × Bool :=
  let x := e.req 20
  let j := x.d.bcast i
  let (w, ov) := x.leaf e.mem (e.req 8).d.clip i
  (w, x.exact e.mem i, x.active e.mem j, ov)

/-- INDEX_RANGE and SCATTER_DUP of a tile's rows (R367, R370). -/
def Ev.scatFail (e : Ev) : Option Fail :=
  let ix := e.req 32
  let d := e.req 8
  let rows := (e.p.rows e.pl).map (fun r => (r.set 0 0).take 6)
  let all := e.scatRows
  let dup (r : List Nat) : Option Fail :=
    match e.scatDest r with
    | none => none
    | some q =>
      let before := all.takeWhile (fun o => o != r)
      if at6 e.pl.start 0 = 0 && before.any (fun o => match e.scatDest o with
          | some z => destNo d e.mem z = destNo d e.mem q
          | none => false) then
        some ⟨0x020B, detail2 d.d.handle 0 (destNo d e.mem q)⟩
      else none
  rows.findSome? (fun r => if !e.scatOn r then none
    else (indexFail ix d.d (indexRow ix e.mem (ix.d.bcast r)) false).or (if e.m.sop = 0 then dup r else none))

/-- The checks of the first deal of a scatter that adds: the page entries of a tile's index rows, and their entries (R109, R367, R371). -/
def Ev.sortFail (e : Ev) : Option (Nat × Nat) :=
  let ix := e.req 32
  let rows := (e.p.rows e.pl).map (fun r => (r.set 0 0).take 6)
  ((rows.findSome? (fun r => ix.pageFail e.mem ((List.range (ix.d.size 0)).any (fun k => ix.active e.mem (ix.d.bcast (r.set 0 k)))) r)).or
    e.scatFail).map (fun f => (f.code, f.detail))

/-- VSCAT STORE. -/
def Ev.vscatStore (e : Ev) : TileOut :=
  let d := e.req 8
  let x := e.req 20
  let rotary := e.m.block.isSome
  let rows := (e.p.rows e.pl).filterMap (fun r =>
    let row := (r.set 0 0).take 6
    (e.scatDest row).map (fun q => (q, row)))
  let pos := rows.flatMap (fun q => (e.p.cols e.pl).map (fun k => q.1.set 0 k))
  let item (i : List Nat) : Item :=
    match rows.find? (fun q => q.1 == i.set 0 0) with
    | none => { skip := true }
    | some (_, row) =>
      if !(e.p.cols e.pl).contains (at6 i 0) then { skip := true }
      else
        let src := row.set 0 (at6 i 0)
        let (_, v, on, ov) := e.scatSource src
        let act := on && d.active e.mem i
        let at_ := d.d.linear i % 2 ^ 64
        let bad := if x.ring.isSome then none else x.pageFail e.mem act src
        -- only an element that the rotary embedding takes is converted on its way in
        let conv : List (Nat × Nat) := if ov && at6 i 0 < e.m.blockField 2 2 then [(2, 8)] else []
        if !rotary then { x := v, act := act, index := at_, bad := bad }
        else
          let p : Int := match e.m.blockTens 6 with
            | some t => t.int e.mem row
            | none => (at6 i 1 : Nat)
          let (y, k) := e.m.rotate e.mem p (fun j => let s := e.scatSource (row.set 0 j); (s.1, s.2.1)) (at6 i 0)
          let (z, inv) := fuse y e.m.cacheScale none
          { x := z, act := act, invalid := inv, index := at_, evs := conv ++ k.map (fun q => (q, 0)), bad := bad }
  let o := (e.put 8 d pos item 9).append { e.held (e.maskedBin d pos.length) with fail := e.scatFail.map (fun f => (f.code, f.detail)) }
  { o with events := oncePer 0 o.events }

/-- VSCAT ADD: each named element is staged by the last tile to run of those whose rows name it. -/
def Ev.vscatAdd (e : Ev) : TileOut :=
  let d := e.req 8
  let x := e.req 20
  let all := e.scatRows
  let dests := all.filterMap (fun r => (e.scatDest r).map (fun q => (q, r)))
  let tileOf (row : List Nat) : List Nat :=
    (List.range e.p.tiles).filter (fun t =>
      let pl := e.m.place e.p t
      at6 pl.start 0 = at6 e.pl.start 0 && (e.p.rows pl).any (fun r => (r.set 0 0).take 6 == row))
  let rows := ((e.p.rows e.pl).filterMap (fun r =>
    match e.scatDest ((r.set 0 0).take 6) with
    | none => none
    | some q =>
      let others := ((dests.filter (fun z => z.1 == q)).flatMap (fun z => tileOf z.2)).filter (· ≠ e.t)
      if others.all e.done.contains then some q else none)).eraseDups
  let order := sortBy (fun a b => a.2 < b.2) (dests.map (fun z => (z, e.rowNo z.2)))
  let n := ((e.p.sizes.drop 1).take 5).foldl (· * ·) 1
  let item (i : List Nat) : Item :=
    if !rows.contains (i.set 0 0) || !(e.p.cols e.pl).contains (at6 i 0) then { skip := true }
    else
      let at_ := d.d.linear i % 2 ^ 64
      let mine := order.filter (fun z => z.1.1 == i.set 0 0)
      let leaf (k : Nat) : Option (Word × Nat) × List Nat :=
        match mine.find? (fun z => z.2 = k) with
        | none => (none, [])
        | some z =>
          let (w, _, on, ov) := e.scatSource (z.1.2.set 0 (at6 i 0))
          if on then (some (w, at_), if ov then [2] else []) else (none, [])
      let ls := (List.range n).map leaf
      let (r, ev) := trussSum 0 (ls.map Prod.fst)
      let s : XVal := match r with | some (w, _) => val32 w | none => .zero false
      let (y, inv) := fuse s .one (some (d.exact e.mem i))
      { x := y, act := d.active e.mem i && r.isSome, skip := r.isNone, invalid := inv, index := at_
        evs := (ls.flatMap Prod.snd).map (fun k => (k, 8)) ++ ev.map (fun v => (v.kind, 0))
        bad := if x.ring.isSome then none else mine.findSome? (fun z =>
          let src := z.1.2.set 0 (at6 i 0)
          x.pageFail e.mem (x.active e.mem (x.d.bcast src)) src) }
  let named := ((e.p.rows e.pl).filter (fun r => (e.scatDest ((r.set 0 0).take 6)).isSome)).length
  let o := (e.put 8 d (rows.flatMap (fun q => (e.p.cols e.pl).map (fun k => q.set 0 k))) item 9).append
    { e.held (e.maskedBin d (named * (e.p.cols e.pl).length)) with fail := e.scatFail.map (fun f => (f.code, f.detail)) }
  { o with events := oncePer 0 o.events }

/-! ## Top-k (R295, R296, R378) -/

/-- The active keys of a row as candidates. -/
def Ev.keysOf (e : Ev) (x : Tensor) (nanign : Bool) (row : List Nat) : List Cand :=
  (List.range (x.d.size 0)).filterMap (fun i =>
    let idx := row.set 0 i
    let w := (x.leaf e.mem (e.req (if e.m.slot = 3 then 32 else 8)).d.clip idx).1
    if x.active e.mem idx && !(nanign && isNaN32 w) then some ⟨w, i⟩ else none)

/-- PAGE_RANGE in the rows of a source. -/
def Ev.sourceFail (e : Ev) (x : Tensor) : Option (Nat × Nat) :=
  if x.ring.isSome then none
  else (e.pos.findSome? (fun i => if x.holds i then x.pageFail e.mem (x.active e.mem i) i else none)).map (fun f => (f.code, f.detail))

/-- The input conversions of a source that overflow, each at its own element. DESIGN CHOICE (log 46): its index is that over the source. -/
def Ev.sourceConv (e : Ev) (x : Tensor) : List Event :=
  e.pos.flatMap (fun i =>
    if x.holds i && x.active e.mem i && (x.leaf e.mem (e.req 8).d.clip i).2 then ([⟨2, x.d.linear i % 2 ^ 64, 8⟩] : List Event) else [])

/-- An index as the INT32 element it stores. -/
def indexValue (n : Nat) : XVal := XVal.ofInt (BitVec.ofNat 32 n).toInt

/-- VTOPK TOPK. -/
def Ev.vtopk (e : Ev) : TileOut :=
  let x := e.req 20
  let d := e.req 8
  let k := e.m.mode 0 9
  let rows := (e.p.rows e.pl).map (fun r =>
    let row := (r.set 0 0).take 6
    (row, topOf k (e.keysOf x (e.m.mode 9 1 = 1) row)))
  let pick (i : List Nat) : Option Cand := ((rows.find? (fun q => q.1 == i.set 0 0)).map (fun q => q.2[at6 i 0]?)).getD none
  let pos := rows.flatMap (fun q => (List.range k).map (fun j => q.1.set 0 j))
  let last : TileOut :=
    if !e.lastBlock then {}
    else
      let main := e.put 8 d pos (fun i =>
        { x := indexValue (match pick i with | some c => c.index | none => 0xFFFFFFFF), act := d.active e.mem i
          index := d.d.linear i % 2 ^ 64 }) 9
      let vals := match e.tens 44 with
        | some t => e.put 44 t pos (fun i =>
            { x := val32 (match pick i with | some c => c.key | none => negInf32), act := t.active e.mem i
              index := t.d.linear i % 2 ^ 64 }) 9
        | none => {}
      main.append vals
  let o := last.append { fail := e.sourceFail x, events := e.sourceConv x }
  { o with events := oncePer 0 o.events }

/-! ## Expert gating (R379, R380) -/

/-- A token: its row, its choices in rank order, its weights with their events, and whether a NaN was seen. -/
structure Token where
  row : List Nat
  choices : List Cand
  weights : List (XVal × List Nat)
  nan : Bool

/-- The weights of a token's choices (R379), and whether their root is a NaN. `all`: the score of each expert, none where it is absent:
SOFTMAX_ALL takes its root over the experts by their index. -/
def gateWeights (wnorm : Nat) (all : List (Option Word)) (chosen : List (Word × Nat)) : List (XVal × List Nat) × Bool :=
  let pair (z : Word) : SmxPair × Nat := (⟨z, one32⟩, 0)
  if wnorm = 2 then
    let sg := chosen.map (fun z => (sfnX .sigmoid z.1).round)
    let (t, ev) := trussSum 0 (sg.map (fun r => some (r.w, 0)))
    let tw : Word := match t with | some (w, _) => w | none => 0
    (sg.map (fun r => let q := divX r.w tw; (q.x, r.kinds ++ q.kinds ++ ev.map (fun v => v.kind))), isNaN32 tw)
  else
    let (r, ev) := truss 0 smxNode (if wnorm = 0 then all.map (Option.map pair) else chosen.map (fun z => some (pair z.1)))
    match r with
    | none => (chosen.map (fun _ => (.zero false, [])), false)
    | some (p, _) => (chosen.map (fun z =>
        let (ex, k) := expDiff z.1 p.m []
        let q := divX ex p.l
        (q.x, ev.map (fun v => v.kind) ++ k ++ q.kinds)), isNaN32 p.m || isNaN32 p.l)

/-- One token of a GATE. -/
def Ev.token (e : Ev) (row : List Nat) : Token :=
  let x := e.req 20
  let b := e.tens 32
  let k := e.m.mode 0 9
  let z := e.keysOf x false row
  let sel := z.filterMap (fun c =>
    let bias : Word := match b with | some t => (t.word e.mem (e.req 8).d.clip [c.index, 0, 0, 0, 0, 0]).1 | none => 0
    let s := add32 c.key bias
    if e.m.mode 9 1 = 1 && isNaN32 s then none else some (⟨s, c.index⟩ : Cand))
  let chosen := topOf k sel
  let zOf (c : Cand) : Word := ((z.find? (fun q => q.index = c.index)).map (fun q => q.key)).getD 0
  let live := z.filter (fun q => sel.any (fun s => s.index = q.index))
  let all := (List.range (x.d.size 0)).map (fun i => (live.find? (fun q => q.index = i)).map (fun q => q.key))
  let (ws, bad) := gateWeights (e.m.mode 11 2) all (chosen.map (fun c => (zOf c, c.index)))
  { row := row, choices := chosen, weights := ws, nan := bad || live.any (fun q => isNaN32 q.key) }

/-- The slots of R380: rank by rank, tokens ascending; for each (rank, token) the slot, −1 where the expert is full. -/
def gateSlots (cap : Option Nat) (k : Nat) (tokens : List (Nat × List Cand)) : List ((Nat × Nat) × Int) :=
  ((List.range k).foldl (fun (acc : Table Nat × List ((Nat × Nat) × Int)) r =>
    tokens.foldl (fun acc t =>
      match t.2[r]? with
      | none => acc
      | some c =>
        let n := acc.1.get c.index 0
        if cap = some n then (acc.1, acc.2 ++ [((r, t.1), -1)])
        else (acc.1.set c.index (n + 1), acc.2 ++ [((r, t.1), (n : Int))])) acc) ([], [])).2

/-- Every token row of the macro, in ascending order. -/
def Ev.tokenRows (e : Ev) : List (List Nat) :=
  let above := (e.req 20).d.sizes.tail
  (List.range (above.foldl (· * ·) 1)).map (fun n => 0 :: digits n above)

/-- VTOPK GATE: slots depend on every token, so the last tile to run stages the results (R380). -/
def Ev.vtopkGate (e : Ev) : TileOut :=
  let x := e.req 20
  let d := e.req 8
  let k := e.m.mode 0 9
  let tokens := e.tokenRows.map e.token
  let cap : Option Nat := (e.tens 68).map (fun t => (t.int e.mem [0, 0, 0, 0, 0, 0]).toNat)
  let slots := gateSlots cap k (tokens.map (fun t => (e.rowNo t.row, t.choices)))
  let rows := e.tokenRows
  let tok (row : List Nat) : Option Token := tokens.find? (fun t => t.row == row)
  let slot (r : Nat) (row : List Nat) : Int := ((slots.find? (fun s => s.1 = (r, e.rowNo row))).map Prod.snd).getD (-1)
  let choice (r : Nat) (row : List Nat) : Option Cand := (tok row).bind (fun t => t.choices[r]?)
  let last : TileOut :=
    if !e.lastTile then {}
    else
      -- DST index: D0 entry, D1 rank, above the token's
      let rowOf (i : List Nat) : List Nat := 0 :: ((i.drop 2) ++ [0])
      let main := e.put 8 d (rows.flatMap (fun r => (List.range k).flatMap (fun q => (List.range 2).map (fun j =>
          (j :: q :: r.tail).take 6)))) (fun i =>
        let row := rowOf i
        { x := match choice (at6 i 1) row with
            | some c => if at6 i 0 = 0 then XVal.ofInt (slot (at6 i 1) row) else indexValue c.index
            | none => if at6 i 0 = 0 then XVal.ofInt (-1) else indexValue 0xFFFFFFFF
          act := d.active e.mem i, index := d.d.linear i % 2 ^ 64 }) 9
      let vals := match e.tens 44 with
        | some t => e.put 44 t (rows.flatMap (fun r => (List.range k).map (fun q => r.set 0 q))) (fun i =>
            let row := i.set 0 0
            let dropped := (choice (at6 i 0) row).isSome && slot (at6 i 0) row = -1
            match (tok row).bind (fun q => q.weights[at6 i 0]?) with
            | some w => { x := if dropped then .zero false else w.1, act := t.active e.mem i
                          index := d.d.linear (0 :: at6 i 0 :: row.tail |>.take 6) % 2 ^ 64, evs := w.2.map (fun v => (v, 0)) }
            | none => { x := .zero false, act := t.active e.mem i }) 9
        | none => {}
      let st := e.perRowOut (e.tens 56) rows (fun i => match tok i with
        | some t => { x := smxStatus (t.choices ≠ []) t.nan }
        | none => { skip := true })
      let none_ := (rows.filter (fun r => (match tok r with | some t => t.choices = [] | none => true))).map e.rowNo
      let drops := (rows.flatMap (fun r => (List.range k).filter (fun q => (choice q r).isSome && slot q r = -1))).length
      { TileOut.joinAll [main, vals, st] with empties := none_, fmasks := none_, drops := drops }
  let o := last.append { fail := e.sourceFail x, events := e.sourceConv x }
  { o with events := oncePer 0 o.events }

/-! ## Sampling (R382, R383) -/

/-- One word of a round: hi and lo halves of the products (R383). -/
def rng (key : List Word) (c0 c1 c2 c3 : Word) : List Word :=
  let ms : List Nat := [0xCA5A8261, 0xB3D94E27, 0x9E6C63D1, 0xE817FB2D]
  let ws : List Word := [0x7F4A7C15, 0x5851F42D, 0x14057B7F, 0x94D049BB]
  (List.range 10).foldl (fun x r =>
    let kw (i : Nat) : Word := key.getD i 0 + BitVec.ofNat 32 r * ws.getD i 0
    let p (i : Nat) : Nat := (x.getD i 0).toNat * ms.getD i 0
    let hi (i : Nat) : Word := BitVec.ofNat 32 (p i / 2 ^ 32)
    let lo (i : Nat) : Word := BitVec.ofNat 32 (p i)
    [hi 1 ^^^ lo 2 ^^^ kw 0, hi 2 ^^^ lo 3 ^^^ kw 1, hi 3 ^^^ lo 0 ^^^ kw 2, hi 0 ^^^ lo 1 ^^^ kw 3]) [c0, c1, c2, c3]

/-- A sampled row: the index, the probability, the events. -/
structure Sampled where
  index : Nat
  prob : XVal
  kinds : List Nat

/-- At least, on finite words. -/
def wordGe (a b : Word) : Bool := !isNaN32 a && !isNaN32 b && !XVal.lt false (val32 a) (val32 b)
def wordGt (a b : Word) : Bool := XVal.lt false (val32 b) (val32 a)

/-- Sample one row from its candidates (R382). -/
def MacroRun.sample (m : MacroRun) (cands : List Cand) (row : Nat) : Sampled :=
  match cands with
  | [] => ⟨0xFFFFFFFF, .zero false, []⟩
  | c0 :: _ =>
    if m.blockField 2 1 / 2 % 2 = 1 then ⟨c0.index, .one, []⟩
    else
      let es := cands.map (fun c =>
        let (a, k) := note (subX c.key c0.key).round []
        let (b, k) := note (divX a (m.blockWord 4)).round k
        note (sfnX .exp b).round k)
      let leaves : List ScanVal := es.map (fun q => some ((q.1, 0), 0))
      let pre (r : Nat) : Word × List Nat :=
        let ps := scanPieces 0 leaves (r + 1)
        let (v, ev) := scanFold 0 (ps.map Prod.fst)
        (match v with | some ((w, _), _) => w | none => 0, (ps.flatMap Prod.snd ++ ev).map (fun v => v.kind))
      let n := es.length
      let cs := (List.range n).map pre
      let c (r : Nat) : Word := (cs.getD r (0, [])).1
      let (lim, k) := note (mulX (m.blockWord 8) (c (n - 1))).round []
      let topp := m.blockField 2 1 % 2 = 1
      let kept := if topp then ((List.range n).find? (fun r => wordGe (c r) lim)).getD (n - 1) else n - 1
      let u := (rng (m.key.take 4) (BitVec.ofNat 32 row) 0x00010000 (m.key.getD 4 0) (m.blockWord 12)).getD 0 0
      let uw := word32 (.fin false (u.toNat / 256) (-24) false)
      let (tgt, k') := note (mulX uw (c kept)).round []
      let q := ((List.range (kept + 1)).find? (fun r => wordGt (c r) tgt)).getD kept
      let p := divX ((es.getD q (0, [])).1) (c kept)
      ⟨(cands.getD q c0).index, p.x,
        es.flatMap Prod.snd ++ cs.flatMap Prod.snd ++ (if topp then k else []) ++ k' ++ p.kinds⟩

/-- Candidates in a closed row: their keys and indices. -/
def candsOf (w : List Word) : List Cand :=
  (List.range (w.length / 2)).map (fun i => ⟨w.getD (2 * i) 0, (w.getD (2 * i + 1) 0).toNat⟩)

def candList (l : List Cand) : List Word := l.flatMap (fun c => [c.key, BitVec.ofNat 32 c.index])

/-- What the sampling of some rows stages: the index into `d`, PROB_H, CAND_H. -/
def Ev.sampleOut (e : Ev) (at_ : Nat) (d : Tensor) (rows : List (List Nat × List Cand)) : TileOut :=
  let got := rows.map (fun q => (q.1, q.2, e.m.sample q.2 (e.rowNo q.1)))
  let row? (i : List Nat) := got.find? (fun q => q.1 == i.set 0 0)
  let pos := rows.map Prod.fst
  let main := e.put at_ d pos (fun i => match row? i with
    | some q => { x := indexValue q.2.2.index, act := d.active e.mem i, index := d.d.linear i % 2 ^ 64
                  evs := q.2.2.kinds.map (fun k => (k, 0)) }
    | none => { skip := true }) 9
  let prob := match e.m.blockTens 16 with
    | some t => e.stage t pos (fun i => match row? i with
        | some q => { x := q.2.2.prob, act := t.active e.mem i, index := d.d.linear i % 2 ^ 64 }
        | none => { skip := true }) 9
    | none => {}
  let cand := match e.m.blockTens 18 with
    | some t => e.stage t (pos.flatMap (fun r => (List.range e.m.topK).map (fun j => r.set 0 j))) (fun i => match row? i with
        | some q => { x := indexValue (match q.2.1[at6 i 0]? with | some c => c.index | none => 0xFFFFFFFF), act := t.active e.mem i }
        | none => { skip := true }) 9
    | none => {}
  let none_ := (rows.filter (fun q => q.2 = [])).map (fun q => e.rowNo q.1)
  { TileOut.joinAll [main, prob, cand] with empties := none_, fmasks := none_ }

/-- The candidates of a row of VSAMP in this block. -/
def Ev.sampCands (e : Ev) (row : List Nat) : List Cand := topOf e.m.topK (e.keysOf (e.req 20) false row)

/-- VSAMP. -/
def Ev.vsamp (e : Ev) : TileOut :=
  let x := e.req 20
  let d := e.req 8
  let rows := (e.p.rows e.pl).map (fun r =>
    let row := (r.set 0 0).take 6
    (row, if e.m.via = some 0 then e.sampCands row else candsOf (e.closed row)))
  let o := (if e.lastBlock then e.sampleOut 8 d rows else {}).append
    { fail := e.sourceFail x, events := e.sourceConv x }
  { o with events := oncePer 0 o.events }

end Sys2Proof.Machine
end

