-- ==== Sys2Proof/Machine/EvalRig.lean ====
section
/-! DEFINITION. What a rig tile stages (12_matrix_coupling_and_rigs.md R326 to R362, 11 R315 to R321, 03 R84 to R88). The product of
two operands is the matrix engine's: a free function of the element codes (log 8). -/

namespace Sys2Proof.Machine

/-- The code of a format (R66). -/
def Format.number (f : Format) : Nat := ((List.range 64).find? (fun c => Format.ofCode c = some f)).getD 0

/-- The accumulator that a matrix engine leaves: operands as codes along K, `acc` what the bank held before (R326). -/
def meProduct (fa fb : Format) (codes : List (Nat × Nat)) (acc : Word) : Word :=
  Config.product fa.number fb.number codes acc

/-- The code of a tensor element, broadcast; +0 where its page entry is bad (R109). -/
def Tensor.codeAt (t : Tensor) (mem : Memory) (i : List Nat) : Nat :=
  if t.ring.isNone && t.badPage mem (t.d.bcast i) then 0 else (t.code mem (t.d.bcast i)).1

/-- The accumulator element [n, m, above] of A × B for plain operands (R336). -/
def plainAcc (mem : Memory) (a b : Tensor) (i : List Nat) : Word :=
  meProduct a.d.fmt b.d.fmt ((List.range (a.d.size 0)).map (fun k =>
    (a.codeAt mem (i.set 0 k), b.codeAt mem ((i.set 0 k).set 1 (at6 i 0))))) 0

/-! ## Dequantised weights (R84 to R88) -/

/-- A group's scale and zero point (R84). DESIGN CHOICE (log 82): the parameter tensor holds the groups along D1 and the weight's D1 to D4 along
D2 to D5; a weight's D5 has no place in its six dimensions. -/
def groupParams (b : Tensor) (mem : Memory) (group : Nat) (i : List Nat) : XVal × XVal :=
  match b.scale with
  | none => (.one, .zero false)
  | some sc =>
    let at0 (w : Nat) : List Nat := ([w, at6 i 0 / group] ++ (i.drop 1).take 4)
    let t : Tensor := { d := sc }
    (t.exact mem (at0 0), if sc.size 0 = 2 then t.exact mem (at0 1) else .zero false)

/-- The integer that a value is; none for a NaN, an infinity or a fraction. -/
def XVal.int? : XVal → Option Int
  | .fin n m e _ =>
    let k := shiftI m e
    if e < 0 && k * 2 ^ e.natAbs ≠ m then none else some (if n then -(k : Int) else k)
  | _ => none

/-- The range of an integer weight format. -/
def weightRange : Format → Int × Int
  | .int4 => (-8, 7)
  | .uint4 => (0, 15)
  | .int8 => (-128, 127)
  | _ => (0, 255)

/-- A weight expanded into the operand format with clip on, and DEQ_PARAM of its group (R85 to R87, R89); a masked weight raises no event and no
fault (R112, R117). -/
def expandWeight (b : Tensor) (mem : Memory) (group : Nat) (opf : Format) (i : List Nat) : Cvt × Option Fail :=
  let j := b.d.bcast i
  let v := b.exact mem j
  let on := b.active mem j
  let convert (x : XVal) : Cvt := let q := convert opf true x; if on then q else .plain q.code
  if b.d.fmt.isLut then (convert v, none)
  else
    let (s, z) := groupParams b mem group j
    let bad : Option Fail := if on then some ⟨0x0203, detail2 b.d.scaleH 0 0⟩ else none
    match s, z.int?, v.int? with
    | .fin .., some zi, some q =>
      let (lo, hi) := weightRange b.d.fmt
      if zi < lo || hi < zi then (.plain 0, bad)
      else match XVal.mul (XVal.ofInt (q - zi)) s with
        | some x => (convert x, none)
        | none => (.plain 0, none)
    | _, _, _ => (.plain 0, bad)

/-- The accumulator of A × expanded B, its failing group, whether a weight of the column overflows, and how many saturate. -/
def Ev.deqAcc (e : Ev) (a b : Tensor) (i : List Nat) : Word × Option Fail × Bool × Nat :=
  let group := 32 * 2 ^ e.m.rigMode 3 2
  let opf := pfmt (e.m.rigMode 5 2)
  let ws := (List.range (a.d.size 0)).map (fun k => expandWeight b e.mem group opf ((i.set 0 k).set 1 (at6 i 0)))
  (meProduct a.d.fmt opf (((List.range (a.d.size 0)).map (fun k => a.codeAt e.mem (i.set 0 k))).zip (ws.map (fun w => w.1.code))) 0,
   ws.findSome? Prod.snd, ws.any (fun w => w.1.overflow), ws.countP (fun w => w.1.clipped))

/-! ## Rigs 0, 1, 8 and 9 (R339) -/

/-- A rig tile of rows and columns of its accumulator. DESIGN CHOICE (log 81): a weight of rig 8 that overflows in its expansion is reported at
its column's element in the first row of the product tile, as an input conversion, and one that saturates counts once in N_CLIP for each
product tile. -/
def Ev.mmulDirect (e : Ev) : TileOut :=
  let a := e.req 8
  let b := e.req 20
  let out := e.req 32
  let res := e.tens 44
  let k : ChainAt := { prog := e.m.chain, mem := e.mem, clip := out.d.clip, input := fun _ _ => (0, false, false), bound := []
                       row := none, col := none, osc := e.m.blockTens 76, bias := e.m.blockTens 78, tap := none
                       active := fun _ => true, bad := fun _ => none }
  let item (i : List Nat) : Item :=
    let (acc, bad, ow, _) := if e.m.rig = 8 then e.deqAcc a b i else (plainAcc e.mem a b i, none, false, 0)
    let r : Option (Word × Bool × Bool) := res.map (fun t => t.word e.mem out.d.clip i)
    let rx : Option XVal := r.map (fun q => if q.2.1 then XVal.ofInt q.1.toInt else val32 q.1)
    let act := out.active e.mem i && (match res with | some t => t.active e.mem (t.d.bcast i) | none => true)
    let (x, inv) := fuse3 (val32 acc) (k.scale i) rx (k.biasAt i)
    let page : Option Fail := if act then (res.bind (fun t => t.pageFail e.mem true i)).or (k.vecBad i) else none
    { x := x, act := act, invalid := inv, index := out.d.linear i % 2 ^ 64, bad := bad.or page
      evs := if (ow && at6 i e.p.outer % 64 = 0) || (match r with | some (_, _, true) => true | _ => false) then [(2, 8)] else [] }
  let o := e.put 32 out e.pos item 9
  { o with events := oncePer 0 o.events, clips := o.clips + (if e.m.rig = 8 then
      (e.pos.filter (fun i => at6 i e.p.outer % 64 = 0 && out.active e.mem i)).foldl (fun n i => n + (e.deqAcc a b i).2.2.2) 0 else 0) }

/-! ## Rigs 2 to 4 (R348, R349) -/

/-- The chain of a rig over its accumulators: `in1` is AUX0 as an operand of a product in rigs 4 and 5. -/
def Ev.rigChain (e : Ev) (out : Tensor) : ChainAt :=
  let a := e.req 8
  let b := e.req 20
  let x1 := e.tens 44
  let x2 := if e.m.rig = 5 then none else e.tens 56
  let up : Bool := e.m.rig = 4 || e.m.rig = 5
  let there := (if up then [] else x1.toList) ++ x2.toList
  { prog := e.m.chain, mem := e.mem, clip := out.d.clip
    input := fun k i => match k with
      | 0 => (plainAcc e.mem a b i, false, false)
      | 1 => (match x1 with
        | some t => if up then (plainAcc e.mem a t i, false, false) else t.word e.mem out.d.clip i
        | none => (0, false, false))
      | 2 => (match x2 with | some t => t.word e.mem out.d.clip i | none => (0, false, false))
      | _ => (0, false, false)
    bound := [0, 1, 2].filter (fun k => k = 0 || (k = 1 && x1.isSome) || (k = 2 && x2.isSome))
    row := e.m.blockTens 72, col := e.m.blockTens 74, osc := e.m.blockTens 76, bias := e.m.blockTens 78, tap := e.m.blockTens 80
    active := fun i => (if e.m.rig = 5 then there else out :: there).all (fun t => t.active e.mem (t.d.bcast i))
    bad := fun i => there.findSome? (fun t => t.pageFail e.mem true i) }

/-- Rigs 2, 3 and 4. -/
def Ev.mmulChained (e : Ev) : TileOut :=
  let out := e.req 32
  e.chainOut (e.rigChain out) out 32 false

/-! ## Rig 5 (R350, R351) -/

/-- The intermediate at [f, m, above]. -/
def Ev.interItem (e : Ev) (k : ChainAt) (f : Nat) (i : List Nat) : Item :=
  let sizes := f :: e.p.sizes.tail
  let linear (j : List Nat) : Nat := (sizes.zip j).foldr (fun p acc => p.2 + p.1 * acc) 0 % 2 ^ 64
  k.item (e.closed i) linear i

/-- The words of INTER_BAY that the rows of a tile fill: element f of row r of the M-tile at place r × F + f, packed (R9). -/
def interWords (bytes f : Nat) (rows : List (Nat × List Nat)) : List (Nat × Word) :=
  let cell (w : Nat) : Word :=
    let per := 4 / bytes
    (List.range per).foldl (fun acc j =>
      let n := w * per + j
      match rows.find? (fun q => q.1 = n / f) with
      | some q => acc ||| BitVec.ofNat 32 (q.2.getD (n % f) 0 * 2 ^ (8 * bytes * j))
      | none => acc) 0
  let lo := (rows.map Prod.fst).foldl min ((rows.map Prod.fst).headD 0)
  let hi := (rows.map Prod.fst).foldl max 0 + 1
  let per := 4 / bytes
  ((List.range (ceilDiv (hi * f) per)).drop (lo * f / per)).map (fun w => (w, cell w))

/-- The tap of rig 5: of the whole intermediate of a tile's rows. -/
def Ev.interTap (e : Ev) (k : ChainAt) : TileOut :=
  let f := (e.req 20).d.size 1
  let rows := (e.p.rows e.pl).map (fun r => r.take 6)
  e.tapOut k (rows.flatMap (fun r => (List.range f).map (fun j => r.set 0 j)))
    (fun i => ((f :: e.p.sizes.tail).zip i).foldr (fun p acc => p.2 + p.1 * acc) 0 % 2 ^ 64)

/-- Rig 5: the tile of the first N-tile reports the intermediate of its rows and fills the bay. -/
def Ev.mmulDown (e : Ev) : TileOut :=
  let out := e.req 32
  let b := e.req 20
  let down := (e.tens 56).getD b
  let f := b.d.size 1
  let ifmt := pfmt (e.m.rigMode 11 2)
  let k := e.rigChain out
  let rows := (e.p.rows e.pl).map (fun r => r.take 6)
  let items := rows.map (fun r => (r, (List.range f).map (fun j => e.interItem k f (r.set 0 j))))
  let codes := items.map (fun q => (q.1, q.2.map (fun it => convert ifmt true it.x)))
  let code (i : List Nat) : List Cvt :=
    ((codes.find? (fun (q : List Nat × List Cvt) => q.1.set 0 0 == i.set 0 0)).map Prod.snd).getD []
  let item (i : List Nat) : Item :=
    let pairs := ((List.range f).zip (code i)).map (fun q => (q.2.code, down.codeAt e.mem ((i.set 0 q.1).set 1 (at6 i 0))))
    let (x, inv) := fuse (val32 (meProduct ifmt down.d.fmt pairs 0)) (val32 (k.prog.const 7)) (some (out.exact e.mem i))
    { x := x, act := out.active e.mem i, invalid := inv, index := out.d.linear i % 2 ^ 64 }
  let main := e.put 32 out e.pos item 9
  let first : TileOut :=
    if at6 e.pl.start 0 ≠ 0 then {}
    else
      let index (i : List Nat) : Nat := ((f :: e.p.sizes.tail).zip i).foldr (fun p acc => p.2 + p.1 * acc) 0 % 2 ^ 64
      let evs := (items.zip codes).flatMap (fun q => (q.1.2.zip q.2.2).flatMap (fun v =>
        if v.1.act then
          (v.1.evs ++ (if v.2.overflow then [(2, 9)] else []) ++ (if v.2.invalid || v.1.invalid then [(0, 9)] else [])).map
            (fun (w : Nat × Nat) => (⟨w.1, v.1.index, w.2⟩ : Event))
        else []))
      let clips := (codes.flatMap Prod.snd).countP (fun c => c.clipped)
      let stats : List Event := if k.prog.hold then
          rows.flatMap (fun r =>
            let s := chainStat k false f 64 index r
            s.blocks.flatMap Prod.snd ++ s.top ++ deriveEvents false k.prog.eps k.prog.hs (e.closed r) (s.root.map Prod.snd))
        else []
      let bay := e.x.bay (e.m.rigMode 3 8)
      let words := interWords (ifmt.bits / 8) f (codes.map (fun (q : List Nat × List Cvt) => (at6 q.1 1 % 64, q.2.map Cvt.code)))
      (e.interTap k).append {
        events := evs ++ stats
        clips := clips
        fail := (items.findSome? (fun q => q.2.findSome? (fun it => it.bad))).map (fun f => (f.code, f.detail))
        empties := if k.prog.hold then (rows.filter (fun r => (e.closed r).getD 8 0 = 0)).map e.rowNo else []
        stores := words.map (fun (w : Nat × Word) => .oc 0x100 (bay.base + w.1 / 64) (w.1 % 64) w.2) }
  let o := main.append first
  { o with events := oncePer k.prog.ts o.events }

/-! ## Attention: rigs 6 and 7 (R315 to R321, R352 to R354) -/

/-- A gathered row's code beside its partner's format (R327), and the format it is pushed in. -/
def gatheredCode (t : Tensor) (partner : Format) (mem : Memory) (i : List Nat) : Nat :=
  if partner = .bfloat16 && t.d.fmt.isFp8 then (convert .bfloat16 true (t.exact mem i)).code else t.codeAt mem i

def gatheredFormat (t : Tensor) (partner : Format) : Format := if partner = .bfloat16 && t.d.fmt.isFp8 then .bfloat16 else t.d.fmt

/-- The query index [0, query, above] of a row of the iteration tensor, and its chunk. -/
def Ev.queryOf (e : Ev) (row : List Nat) : List Nat × Nat :=
  if e.m.rigMode 2 1 = 1 then ([0, at6 row 2, at6 row 3, at6 row 4, at6 row 5, 0], at6 row 1) else (row.set 0 0, 0)

/-- A query row at the start of its query tile (R315). -/
def attnStart (d : Nat) : AttnRow :=
  { m := maskFloor, o := (List.range d).map (fun _ => 0), okinds := (List.range d).map (fun _ => []) }

/-- The correction of key tile [lo, hi) on one query row: the state, the output accumulators rescaled where the maximum rose, and the P
codes for the product (R316). -/
def Ev.attnCorrect (e : Ev) (q k : Tensor) (query : List Nat) (st : AttnRow) (lo hi : Nat) : AttnRow :=
  let d := q.d.size 0
  let pf := pfmt (e.m.rigMode 0 2)
  let scale := e.m.blockWord 4
  let mk := e.tens 68
  let keys := (List.range hi).drop lo
  let score (j : Nat) : Word × List Nat :=
    let s := meProduct q.d.fmt (gatheredFormat k q.d.fmt) ((List.range d).map (fun x =>
      (q.codeAt e.mem (query.set 0 x), gatheredCode k q.d.fmt e.mem ((query.set 0 x).set 1 j)))) 0
    note (mulX s scale).round []
  let zs := keys.map (fun j => (j, score j))
  let act (j : Nat) (z : Word) : Bool :=
    (match mk with | some t => !(t.exact e.mem (query.set 0 j)).isZero | none => true) &&
    e.m.smxAllows e.mem query (at6 query 1) j && aboveFloor z
  let live := zs.filter (fun z => act z.1 z.2.1)
  let tm := (truss 0 (fun a b => (if leftWins true a b then a else b, ([] : List Nat))) (zs.map (fun z =>
    if act z.1 z.2.1 then some (z.2.1, 0) else none))).1.map Prod.fst
  match tm with
  | none => { st with p := keys.map (fun j => (j, 0)), rises := st.rises ++ [false] }
  | some tm =>
    let rise : Bool := st.seen && !leftWins true st.m tm
    let mNew := if !st.seen then tm else if rise then tm else st.m
    let ps := zs.map (fun z =>
      if act z.1 z.2.1 then
        let (a, k) := note (subX z.2.1 mNew).round z.2.2
        let r := sfnX .exp a
        let c := convert pf true r.x
        (z.1, c.code, k ++ r.kinds ++ (if c.overflow then [2] else []))
      else (z.1, 0, []))
    let (lt, ev) := trussSum 0 (ps.map (fun p =>
      if live.any (fun z => z.1 = p.1) then some (word32 (decodeCode pf p.2.1), 0) else none))
    let ltw : Word := match lt with | some (w, _) => w | none => 0
    let (c, ck) := if rise then expDiff st.m mNew [] else (one32, [])
    let os := if rise then st.o.map (fun w => note (mulX w c).round []) else st.o.map (fun w => (w, []))
    let (l, lk) := if rise then note (fmaX st.l c ltw).round ck else note (addX st.l ltw).round []
    { m := mNew, seen := true, l := l, o := os.map Prod.fst
      kinds := st.kinds ++ ps.flatMap (fun p => p.2.2) ++ ev.map (fun v => v.kind) ++ lk
      okinds := (st.okinds.zip os).map (fun q => q.1 ++ q.2.2)
      rises := st.rises ++ [rise], p := ps.map (fun p => (p.1, p.2.1)) }

/-- The product P_jV_j accumulates into the output accumulators of a row (R316, R326). -/
def Ev.attnProduct (e : Ev) (q v : Tensor) (query : List Nat) (st : AttnRow) : AttnRow :=
  let pf := pfmt (e.m.rigMode 0 2)
  { st with
    o := ((List.range (q.d.size 0)).zip st.o).map (fun x => meProduct pf (gatheredFormat v pf) (st.p.map (fun c =>
      (c.2, gatheredCode v pf e.mem ((query.set 0 x.1).set 1 c.1)))) x.2)
    p := [] }

/-- Keys of a chunk (R353); all of them without SPLIT. -/
def Ev.keyWidth (e : Ev) : Nat := if e.m.rigMode 2 1 = 1 then 64 * 2 ^ e.m.rigMode 3 4 else (e.req 20).d.size 1

/-- The keys [lo, hi) of key tile j of a chunk (R316, R353). -/
def Ev.keyRange (e : Ev) (chunk j : Nat) : Nat × Nat :=
  let n := (e.req 20).d.size 1
  let width := e.keyWidth
  let lo := chunk * width
  (lo + 64 * j, min (min n (lo + width)) (lo + 64 * j + 64))

/-- The rows [0, query, above] of a query tile: the two halves of its M-tile that lie in the tensor. -/
def Ev.queryRows (e : Ev) : List (List Nat) :=
  let o := at6 e.pl.start e.p.outer / 64 * 64
  ((List.range 64).filter (fun r => o + r < at6 e.p.sizes e.p.outer)).map (fun r => ((e.pl.start.set e.p.outer (o + r)).set 0 0).take 6)

/-- A step of the chain on every row of its query tile: key tile j is corrected (R316). -/
def Ev.attnStep (e : Ev) (a : AttnRun) : AttnRun :=
  let q := e.req 8
  let rows := if a.rows = [] then e.queryRows.map (fun _ => attnStart (q.d.size 0)) else a.rows
  { a with next := a.next + 1, product := true, staged := none, fails := 0, failedCore := 0xFFFF
           rows := (e.queryRows.zip rows).map (fun r =>
             let (query, chunk) := e.queryOf r.1
             let (lo, hi) := e.keyRange chunk a.next
             e.attnCorrect q (e.req 20) query r.2 lo hi) }

/-- The product of the chain's last corrected key tile has finished. -/
def Ev.attnAccumulate (e : Ev) (a : AttnRun) : AttnRun :=
  { a with product := false
           rows := (e.queryRows.zip a.rows).map (fun r =>
             e.attnProduct (e.req 8) ((e.tens 44).getD (e.req 20)) (e.queryOf r.1).1 r.2) }

/-- A query row over the key tiles of its chunk, as the chain computes it. -/
def Ev.attnRow (e : Ev) (row : List Nat) : AttnRow :=
  let q := e.req 8
  let (query, chunk) := e.queryOf row
  let n := (e.req 20).d.size 1
  let width := if e.m.rigMode 2 1 = 1 then 64 * 2 ^ e.m.rigMode 3 4 else n
  (List.range (ceilDiv (min n (chunk * width + width) - chunk * width) 64)).foldl (fun st j =>
    let (lo, hi) := e.keyRange chunk j
    e.attnProduct q ((e.tens 44).getD (e.req 20)) query (e.attnCorrect q (e.req 20) query st lo hi)) (attnStart (q.d.size 0))

/-- The state of a row of the tile's query tile, as its chain has left it (R315). -/
def Ev.attnState (e : Ev) (low : Nat) (row : List Nat) : AttnRow :=
  let a := e.m.attn.get low {}
  match (e.queryRows.zip a.rows).find? (fun q => q.1 == row.set 0 0) with
  | some q => q.2
  | none => attnStart ((e.req 8).d.size 0)

/-- PAGE_RANGE of the K and V rows that a query tile uses (R109, R354): those of the keys that some query row of the tile does not
mask, by its score mask, its key length, its generated mask or the masks of K and V (R115). -/
def Ev.attnFail (e : Ev) (rows : List (List Nat)) : Option Fail :=
  let k := e.req 20
  let v := (e.tens 44).getD k
  if !k.d.paged && !v.d.paged then none
  else rows.findSome? (fun r =>
    let (query, chunk) := e.queryOf r
    let n := k.d.size 1
    let width := if e.m.rigMode 2 1 = 1 then 64 * 2 ^ e.m.rigMode 3 4 else n
    ((List.range (min n (chunk * width + width))).drop (chunk * width)).findSome? (fun j =>
      let there : Bool := (match e.tens 68 with | some t => !(t.exact e.mem (query.set 0 j)).isZero | none => true) &&
        e.m.smxAllows e.mem query (at6 query 1) j
      let act (t : Tensor) : Bool := there && (List.range (t.d.size 0)).any (fun x => t.active e.mem ((query.set 0 x).set 1 j))
      (k.pageFail e.mem (act k) (query.set 1 j)).or (v.pageFail e.mem (act v) (query.set 1 j))))

/-- The lowest tile of the query tile of a tile of rigs 6 and 7: the number of its chain. -/
def Ev.chainNo (e : Ev) : Nat :=
  let same (u : Nat) : Bool := (e.m.place e.p u).coord == e.pl.coord
  ((List.range e.p.tiles).find? same).getD e.t

/-- Rigs 6 and 7: the outputs of a query tile whose chain has ended (R317). -/
def Ev.mmulAttention (e : Ev) : TileOut :=
  let out := e.req 32
  let split := e.m.rigMode 2 1 = 1
  let rows := (e.p.rows e.pl).map (fun r => (r.set 0 0).take 6)
  let low := e.chainNo
  let states := rows.map (fun r => (r, e.attnState low r))
  let stOf (i : List Nat) : Option AttnRow := (states.find? (fun q => q.1 == i.set 0 0)).map Prod.snd
  let item (i : List Nat) : Item :=
    let at_ := out.d.linear i % 2 ^ 64
    match stOf i with
    | none => { skip := true }
    | some s =>
      let o := s.o.getD (at6 i 0) 0
      let evs := (s.okinds.getD (at6 i 0) []).map (fun k => (k, (0 : Nat)))
      if !s.seen then { x := .zero false, act := false, index := at_ }
      else if split then { x := val32 o, act := out.active e.mem i, index := at_, evs := evs }
      else
        let r := divX o s.l
        { x := r.x, act := out.active e.mem i, index := at_, evs := evs ++ r.kinds.map (fun k => (k, 0)) }
  let main := e.put 32 out e.pos item 9
  let last : TileOut :=
    if !e.lastBlock then {}
    else
      let lse : TileOut := match (if e.m.lseEn then e.m.blockTens 28 else none) with
        | none => {}
        | some t =>
          if split then
            e.stage t (rows.flatMap (fun r => [r, r.set 0 1])) (fun i => match stOf i with
              | some s => { x := val32 (if at6 i 0 = 0 then s.m else s.l), act := t.active e.mem i }
              | none => { skip := true }) 9
          else e.perRowOut (some t) rows (fun i => match stOf i with
            | some s => { x := val32 (if s.seen then (logSumExp ⟨s.m, s.l⟩).1 else negInf32) }
            | none => { skip := true })
      let sees (r : List Nat) : Bool × Bool := match stOf r with | some s => (s.seen, isNaN32 s.m || isNaN32 s.l) | none => (false, false)
      let st := if split then
          -- one byte for each query row, by the tile of chunk 0 over all chunks
          let mine := rows.filter (fun r => at6 r 1 = 0)
          e.perRowOut (e.m.blockTens 30) (mine.map (fun r => (e.queryOf r).1)) (fun i =>
            let all := (List.range (out.d.size 1)).map (fun k =>
              e.attnRow [0, k, at6 i 1, at6 i 2, at6 i 3, at6 i 4])
            { x := smxStatus (all.any (fun s => s.seen)) (all.any (fun s => isNaN32 s.m || isNaN32 s.l)) })
        else e.perRowOut (e.m.blockTens 30) rows (fun i => { x := smxStatus (sees i).1 (sees i).2 })
      let none_ := (rows.filter (fun r => !(sees r).1)).map e.rowNo
      let evs := states.flatMap (fun q =>
        let at_ := out.d.linear q.1 % 2 ^ 64
        nodeEvents 0 at_ (q.2.kinds ++ (if e.m.lseEn && !split && q.2.seen then (logSumExp ⟨q.2.m, q.2.l⟩).2 else [])))
      { lse.append st with empties := none_, fmasks := none_, events := evs }
  let o := (main.append last).append { fail := (e.attnFail rows).map (fun f => (f.code, f.detail)) }
  { o with events := oncePer 0 o.events }

/-! ## Rig 10 (R357, R358) -/

/-- Where row [_, m, above] of the accumulator goes: sequence and logical row; else the failing index, or none for a row whose index
is masked, which stores nothing and raises no fault (R112). -/
def Ev.kvPlace (e : Ev) (out : Tensor) (row : List Nat) : Except (Option Fail) (Nat × Nat) :=
  let pick (at_ : Nat) : Tensor := e.req at_
  let p := (pick 44).int e.mem (row.set 0 0)
  let q := (pick 56).int e.mem (row.set 0 0)
  let seen (at_ : Nat) : Bool := (pick at_).active e.mem ((pick at_).d.bcast (row.set 0 0))
  if !seen 44 || !seen 56 then .error none
  else if p < 0 || p ≥ (out.d.size 1 : Nat) then .error (some ⟨0x0205, detail2 (pick 44).d.handle 0 (signed64 p)⟩)
  else if q < 0 || q ≥ (out.d.size 2 : Nat) then .error (some ⟨0x0205, detail2 (pick 56).d.handle 0 (signed64 q)⟩)
  else .ok (p.toNat, q.toNat)

/-- The elements of OUT that a tile of rig 10 writes. -/
def Ev.kvPositions (e : Ev) (out : Tensor) : List (List Nat) :=
  let h := max 1 (out.d.size 0)
  ((e.p.rows e.pl).map (fun r => (r.set 0 0).take 6)).flatMap (fun r => match e.kvPlace out r with
    | .ok z => (e.p.cols e.pl).map (fun c => [c % h, z.1, z.2, c / h, 0, 0])
    | .error _ => [])

/-- Rig 10. -/
def Ev.mmulKv (e : Ev) : TileOut :=
  let out := e.req 32
  let a := e.req 8
  let b := e.req 20
  let h := max 1 (out.d.size 0)
  let rows := (e.p.rows e.pl).map (fun r => (r.set 0 0).take 6)
  let placed := rows.filterMap (fun r => match e.kvPlace out r with | .ok z => some (r, z) | .error _ => none)
  let cols := e.p.cols e.pl
  let dest (r : List Nat × Nat × Nat) (c : Nat) : List Nat := [c % h, r.2.1, r.2.2, c / h, 0, 0]
  let pos := placed.flatMap (fun r => cols.map (dest r))
  let item (i : List Nat) : Item :=
    match placed.find? (fun r => r.2.1 = at6 i 1 && r.2.2 = at6 i 2) with
    | none => { skip := true }
    | some (row, lr, _) =>
      let acc (j : Nat) : Word × XVal :=
        let w := plainAcc e.mem a b (row.set 0 (at6 i 3 * h + j))
        (w, val32 w)
      let at_ := out.d.linear i % 2 ^ 64
      let (x, k) := if e.m.block.isSome then
          let p : Int := match e.m.blockTens 6 with | some t => t.int e.mem (row.set 0 0) | none => (lr : Nat)
          e.m.rotate e.mem p acc (at6 i 0)
        else ((acc (at6 i 0)).2, [])
      let (y, inv) := fuse x e.m.cacheScale none
      { x := y, act := out.active e.mem i, invalid := inv, index := at_, evs := k.map (fun q => (q, 0)) }
  let fail := rows.findSome? (fun r => match e.kvPlace out r with | .error f => f | .ok _ => none)
  let o := (e.put 32 out pos item 9).append { e.held (e.maskedBin out pos.length) with fail := fail.map (fun f => (f.code, f.detail)) }
  { o with events := oncePer 0 o.events }

/-! ## Rig 11 (R359) -/

/-- The scores of a row: word of each vocabulary index. -/
def Ev.logitRow (e : Ev) (row : List Nat) : List Word :=
  (List.range (at6 e.p.sizes 0)).map (fun n => plainAcc e.mem (e.req 8) (e.req 20) (row.set 0 n))

/-- The pair of a row in truss order, each leaf at its index over the iteration tensor (R408). -/
def Ev.logitRed (e : Ev) (ws : List Word) (row : List Nat) : RowRed SmxPair :=
  rowReduce ws.length e.p.b 0 smxNode (fun n => (some (⟨ws.getD n 0, one32⟩,
    ((e.p.sizes.take 6).zip (row.set 0 n)).foldr (fun q acc => q.2 + q.1 * acc) 0 % 2 ^ 64), []))

/-- The value that closes a row of rig 11, and its candidates. -/
def Ev.logitClose (e : Ev) (row : List Nat) : Option ViaVal × List Cand :=
  let ws := e.logitRow row
  ((e.logitRed ws row).root.map (fun q => ⟨0, q.1.m, q.1.l, isNaN32 q.1.m || isNaN32 q.1.l⟩),
   topOf e.m.topK (((List.range ws.length).zip ws).map (fun q => (⟨q.2, q.1⟩ : Cand))))

/-- Rig 11. -/
def Ev.mmulVocabulary (e : Ev) : TileOut :=
  let out := e.req 32
  let rows := (e.p.rows e.pl).map (fun r => (r.set 0 0).take 6)
  let reds := rows.map (fun r => let ws := e.logitRow r; (r, ws, e.logitRed ws r))
  let score (i : List Nat) : Word :=
    match reds.find? (fun q => q.1 == i.set 0 0) with
    | some q => q.2.1.getD (at6 i 0) 0
    | none => 0
  let logits := match e.tens 44 with
    | some t => e.stage t e.pos (fun i => { x := val32 (score i), act := t.active e.mem i, index := t.d.linear i % 2 ^ 64 }) 9
    | none => {}
  let closed (q : List Nat × List Word × RowRed SmxPair) : Option SmxPair × List Cand :=
    if e.m.via = some 0 then (q.2.2.root.map Prod.fst,
      topOf e.m.topK (((List.range q.2.1.length).zip q.2.1).map (fun v => (⟨v.2, v.1⟩ : Cand))))
    else (pairOf (e.closed q.1), candsOf ((e.closed q.1).drop 3))
  let last : TileOut :=
    if !e.lastBlock then {}
    else
      let done := reds.map (fun q => (q.1, closed q))
      let lse := e.perRowOut (e.tens 56) rows (fun i => match (done.find? (fun q => q.1 == i.set 0 0)).bind (fun q => q.2.1) with
        | some p => { x := val32 (logSumExp p).1 }
        | none => { x := val32 negInf32 })
      lse.append (e.sampleOut 32 out (done.map (fun q => (q.1, q.2.2))))
  let rowEvents (q : List Nat × List Word × RowRed SmxPair) : List Event :=
    let more : List Event := match (closed q).1, q.2.2.root, e.tens 56 with
      | some p, some (_, low), some _ => nodeEvents 0 low (logSumExp p).2
      | _, _, _ => []
    q.2.2.eventsIn e.block e.lastBlock more
  let o := logits.append last
  { o with events := oncePer 0 (reds.flatMap rowEvents ++ o.events) }

/-! ## Rigs 12 and 13 (R360 to R362) -/

/-- gy and gx of an element of rig 12, with the events of each, and whether it is active. -/
def Ev.normTerms (e : Ev) (i : List Nat) : (Word × List Nat) × (Word × List Nat) × Bool × Bool :=
  let out := e.req 32
  let dy := plainAcc e.mem (e.req 8) (e.req 20) i
  let xh := e.req 44
  let (x, _, ov) := xh.word e.mem out.d.clip i
  let (g, _, og) := (e.req 68).word e.mem out.d.clip (rowIdx i)
  let gy := note (mulX g dy).round []
  (gy, note (mulX gy.1 x).round [], out.active e.mem i && xh.active e.mem (xh.d.bcast i), ov || og)

/-- The sums of a row of rig 12. -/
def Ev.normRow (e : Ev) (row : List Nat) : RowRed Stat :=
  let out := e.req 32
  rowReduce (at6 e.p.sizes 0) e.p.b 0 (Stat.node false) (fun n =>
    let i := row.set 0 n |>.take 6
    let (gy, gx, act, _) := e.normTerms i
    if act then (some (⟨1, gy.1, gx.1⟩, out.d.linear i % 2 ^ 64), nodeEvents 0 (out.d.linear i % 2 ^ 64) (gy.2 ++ gx.2)) else (none, []))

/-- The value that closes a row of rig 12. -/
def Ev.normClose (e : Ev) (row : List Nat) : Option ViaVal :=
  (e.normRow row).root.map (fun q => ⟨q.1.n, q.1.u, q.1.v, isNaN32 q.1.u || isNaN32 q.1.v⟩)

/-- What a closed row of rig 12 holds: s1, s2, n. -/
def normWords : Option ViaVal → List Word
  | none => [0, 0, 0]
  | some v => [v.u, v.v, BitVec.ofNat 32 v.n]

/-- m1, m2 and their events (R360). -/
def normMeans (nkind : Nat) (w : List Word) : Word × Word × List Nat :=
  let n := (w.getD 2 0).toNat
  if n = 0 then (0, 0, [])
  else
    let nf := natTo32 n
    let (m1, k) := if nkind = 1 then note (divX (w.getD 0 0) nf).round [] else (0, [])
    let (m2, k) := note (divX (w.getD 1 0) nf).round k
    (m1, m2, k)

/-- Rig 12. -/
def Ev.mmulNorm (e : Ev) : TileOut :=
  let out := e.req 32
  let xh := e.req 44
  let rec_ := e.req 56
  let nkind := e.m.rigMode 7 1
  let accum := e.m.rigMode 8 1 = 1
  let rows := (e.p.rows e.pl).map (fun r => (r.set 0 0).take 6)
  let reds := rows.map (fun r => (r, e.normRow r))
  let item (i : List Nat) : Item :=
    let at_ := out.d.linear i % 2 ^ 64
    let (gy, _, act, ov) := e.normTerms i
    if !act then { skip := true, act := false, index := at_ }
    else
      let (m1, m2, _) := normMeans nkind (e.closed i)
      let x := (xh.word e.mem out.d.clip i).1
      let (a, k) := note (subX gy.1 m1).round []
      let (t, k) := note (fmaX (neg32 x) m2 a).round k
      let r := (rec_.word e.mem out.d.clip (i.set 0 (if nkind = 1 then 4 else 5))).1
      let (y, inv) := fuse (val32 t) (val32 r) (if accum then some (out.exact e.mem i) else none)
      { x := y, act := true, invalid := inv, index := at_, evs := (if ov then [(2, 8)] else []) ++ k.map (fun q => (q, 0)) }
  let main := e.put 32 out e.pos item 9
  let evs := reds.flatMap (fun q =>
    let more : List Event := match q.2.root with
      | some (_, low) => nodeEvents 0 low (normMeans nkind (e.closed q.1)).2.2
      | none => []
    q.2.eventsIn e.block e.lastBlock more)
  let none_ := if e.lastBlock then (rows.filter (fun r => (e.closed r).getD 2 0 = 0)).map e.rowNo else []
  { main with events := oncePer 0 (evs ++ main.events), empties := none_ }

/-- Rig 13. -/
def Ev.mmulSmxBwd (e : Ev) : TileOut :=
  let out := e.req 32
  let p := e.req 44
  let dd := e.req 56
  let scale := val32 (e.m.blockWord 4)
  let act (i : List Nat) : Bool :=
    out.active e.mem i && p.active e.mem (p.d.bcast i) && dd.active e.mem (dd.d.bcast i)
  let item (i : List Nat) : Item :=
    let at_ := out.d.linear i % 2 ^ 64
    if !act i then { x := .zero false, act := false, index := at_ }
    else
      let (w, _, ov) := p.word e.mem out.d.clip i
      let (g, _, od) := dd.word e.mem out.d.clip i
      let it := bwdItem w (plainAcc e.mem (e.req 8) (e.req 20) i) g scale
      { it with index := at_, evs := (if ov || od then [(2, 8)] else []) ++ it.evs }
  let rows := (e.p.rows e.pl).map (fun r => (r.set 0 0).take 6)
  let main := e.put 32 out e.pos item 9
  let last : TileOut :=
    if !e.lastBlock then {}
    else
      let n := at6 e.p.sizes 0
      let any (r : List Nat) : Bool := (List.range n).any (fun k => act (r.set 0 k))
      let nan (r : List Nat) : Bool := (List.range n).any (fun k =>
        act (r.set 0 k) && (isNaN32 (p.word e.mem out.d.clip (r.set 0 k)).1 ||
          isNaN32 (plainAcc e.mem (e.req 8) (e.req 20) (r.set 0 k))))
      let none_ := (rows.filter (fun r => !any r)).map e.rowNo
      { e.perRowOut (e.m.blockTens 30) rows (fun i => { x := smxStatus (any i) (nan i) }) with empties := none_, fmasks := none_ }
  let o := main.append last
  { o with events := oncePer 0 o.events }

/-! ## Pages of operands that no element of an output reads one for one (R109) -/

/-- The elements of PAGED operands that a tile uses by row, by column of a product, or by index row. -/
def Ev.pagedUses (e : Ev) : List (Tensor × List Nat) :=
  let rows := (e.p.rows e.pl).map (fun r => (r.set 0 0).take 6)
  let columns := rows.flatMap (fun r => (e.p.cols e.pl).map (fun c => r.set 1 c))
  let uses (t : Option Tensor) (l : List (List Nat)) : List (Tensor × List Nat) := match t with
    | some t => if t.d.paged && t.ring.isNone then l.map (fun i => (t, i)) else []
    | none => []
  let along (l : List (List Nat)) (n : Nat) : List (List Nat) := l.flatMap (fun r => (List.range n).map (fun k => r.set 1 k))
  let size1 (at_ : Nat) : Nat := match e.tens at_ with | some t => t.d.size 1 | none => 0
  if e.m.slot = 2 then
    if e.m.isVec 0x06 then
      uses (e.m.blockTens 24) rows ++ uses (e.m.blockTens 26) rows ++
        (if e.m.sop = 1 then uses (e.tens 32) (along rows (size1 20)) else if e.m.sop = 2 then uses (e.tens 44) rows else [])
    else if e.m.isVec 0x09 then
      let index := if e.m.sop = 1 then along rows (size1 32) else rows
      uses (e.tens 32) index ++ (if e.m.sop = 1 then uses (e.tens 44) index else [])
    else if e.m.isVec 0x0A then uses (e.tens 32) rows ++ uses (e.m.blockTens 6) rows
    else []
  else if e.m.slot = 3 then
    if e.m.isRig [6, 7] then
      let query := rows.map (fun r => (e.queryOf r).1)
      uses (e.tens 8) query ++ uses (e.m.blockTens 24) query ++ uses (e.m.blockTens 26) query
    else
      uses (e.tens 8) rows ++ uses (e.tens 20) (if e.m.isRig [5] then along rows (size1 20) else columns) ++
        (match e.m.rig with
         | 4 => uses (e.tens 44) columns
         | 5 => uses (e.tens 44) (along rows (size1 44)) ++ uses (e.tens 56) columns
         | 10 => uses (e.tens 44) rows ++ uses (e.tens 56) rows ++ uses (e.m.blockTens 6) rows
         | 12 => uses (e.tens 44) e.pos ++ uses (e.tens 56) rows
         | 13 => uses (e.tens 44) e.pos ++ uses (e.tens 56) rows
         | _ => [])
  else []

/-- PAGE_RANGE of those uses, where some element of the row is unmasked. -/
def Ev.pagedFail (e : Ev) : Option (Nat × Nat) :=
  (e.pagedUses.findSome? (fun q =>
    q.1.pageFail e.mem ((List.range (q.1.d.size 0)).any (fun k => q.1.active e.mem (q.1.d.bcast (q.2.set 0 k)))) q.2)).map
    (fun f => (f.code, f.detail))

end Sys2Proof.Machine
end

