-- ==== Sys2Proof/Machine/Lines.lean ====
section
/-! DEFINITION. Ready stamps, the reads and results of short operations and the landing of their lines (06 R173, R180, R182 to R190,
15 R408). -/

namespace Sys2Proof.Machine

/-! ## Times (R186) -/

namespace Short

/-- Does a sub-operation run at 64 elements in a beat? -/
def slow (v : BitVec 128) : Bool := sop v = 0x06 || sop v = 0x0E

/-- Latency L. -/
def latency (v : BitVec 128) : Nat := match sop v with | 0x05 => 5 | 0x06 => 12 | 0x0E => 20 | _ => 4

def occupancy (v : BitVec 128) : Nat := if slow v then ceilDiv (count v) 64 else ceilDiv (count v) 256

/-- Beat, from the start, at which source line j is read. -/
def readAt (v : BitVec 128) (j : Nat) : Nat := if slow v then j else j / 4

/-- Beat, from the start, at which destination line j lands. -/
def landAt (v : BitVec 128) (j : Nat) : Nat := if folds v then occupancy v + 8 else latency v + readAt v j

/-- The bay operands read, each with its start line: A, then B and C where they are no constants. -/
def sources (v : BitVec 128) : List (Nat × Nat) :=
  (aBay v, aOff v) :: (if usesB v && !bk v then [(bBay v, bOff v)] else []) ++ (if usesC v && !ck v then [(cBay v, cOff v)] else [])

end Short

/-! ## Line states (R187) -/

/-- The ready stamp of a line; one that has none of its own has that of its zeroisation (R173). -/
def Crew.stampOf (k : Crew) (line : Nat) : BitVec 32 := k.stamps.get line k.stampBase

/-- Has a stamp not passed at a span beat? -/
def stampAhead (stamp : BitVec 32) (beat : Nat) : Bool := decide ((BitVec.ofNat 32 beat - stamp).toNat ≥ 2 ^ 31)

/-- Is a line pending at a span beat (R187)? -/
def Crew.pending (k : Crew) (line beat : Nat) : Bool := k.marked.get line false || stampAhead (k.stampOf line) beat

/-- DETAIL of a class 0x04 record (R481). -/
def lineDetail (crew bay line stamp beat : Nat) : Nat :=
  pack [(0, 2, crew), (2, 1, bay), (4, 2, line), (8, 4, stamp), (12, 4, beat)]

/-! ## Results (R182 to R184) -/

/-- Has a VSHORT read every source line? -/
def ShortRun.allRead (r : ShortRun) : Bool := r.got.length ≥ Short.lines r.bits

/-- The word of operand o that element w of a VSHORT reads: as read, or a constant. -/
def ShortRun.operand (r : ShortRun) (o w : Nat) : Word := ((r.got.getD (w / 64) []).getD o []).getD (w % 64) 0

/-- An element of an element-wise sub-operation: its word, its type, its events. -/
def ShortRun.element (r : ShortRun) (w : Nat) : Word × Bool × List Nat :=
  (stageOp (Short.sop r.bits) (Short.fn r.bits) false false (r.operand 0 w) (r.operand 1 w) (r.operand 2 w)).finish

/-- RSUM or RMAX over the elements of A: its word, and its events by word of A. -/
def ShortRun.fold (r : ShortRun) : Word × List (Nat × Nat) :=
  let leaves := (List.range (Short.count r.bits)).map (fun w => some (r.operand 0 w, w))
  let (root, ev) := if Short.sop r.bits = 0x20 then trussSum 0 leaves else truss 0 (fun p q => (extreme true false p q, [])) leaves
  (match root with | some (w, _) => w | none => 0, ev.map (fun e => (e.kind, e.index)))

/-- The result words of destination line j: only the words that the VSHORT writes (R184). -/
def ShortRun.lineWords (r : ShortRun) (j : Nat) : List Word :=
  if Short.folds r.bits then [r.fold.1]
  else (List.range (min 64 (Short.count r.bits - 64 * j))).map (fun w => (r.element (64 * j + w)).1)

/-- The events of a VSHORT on its crew, as kind and word index (R408). -/
def ShortRun.events (r : ShortRun) : List (Nat × Nat) :=
  if Short.folds r.bits then r.fold.2
  else (List.range (Short.count r.bits)).flatMap (fun w => (r.element w).2.2.map (fun kind => (kind, w)))

/-! ## Reads (R186, R188, R190) -/

/-- The macro of a VSHORT. -/
def State.shortRun (s : State) (c : Fin 4) (index : Nat) : Option (Nat × MacroRun) :=
  (s.ctxOf c).exec.firstRun (fun m => m.isShort && m.index = index)

/-- Word w of a pool line as a read at a beat sees it: with the lines of VSHORTs that have landed by then, its own too. -/
def Crew.wordAt (k : Crew) (line w beat : Nat) : Word :=
  let landed := k.started.flatMap (fun r => (r.landing.filter (fun l => l.1 = line && l.2 ≤ beat)).filterMap (fun l =>
    ((r.lineWords (line - r.dest))[w]?).map (fun v => (l.2, v))))
  match landed.foldl (fun (best : Option (Nat × Word)) e => match best with
      | none => some e
      | some b => if b.1 ≤ e.1 then some e else some b) none with
  | some e => e.2
  | none => k.oc.get (64 * line + w) 0#32

/-- Source line j of every operand as a VSHORT reads it: A, B, C; a constant operand is its constant in every word. -/
def ShortRun.capture (r : ShortRun) (x : Ctx) (k : Crew) (j : Nat) : List (List Word) :=
  let v := r.bits
  let line (bay off : Nat) : List Word :=
    (List.range 64).map (fun w => k.wordAt ((x.bay bay).base + off + j) w (r.start + Short.readAt v j))
  let const (i : Nat) : List Word := List.replicate 64 (x.shortK.get (i % 8) 0)
  [line (Short.aBay v) (Short.aOff v),
   if !Short.usesB v then [] else if Short.bk v then const (Short.bBay v) else line (Short.bBay v) (Short.bOff v),
   if !Short.usesC v then [] else if Short.ck v then const (Short.cBay v) else line (Short.cBay v) (Short.cOff v)]

/-- The source lines, not read yet, that a VSHORT reads in beat b from its start. -/
def ShortRun.linesAt (r : ShortRun) (b : Nat) : List Nat :=
  (List.range (Short.lines r.bits)).filter (fun j => j ≥ r.got.length && Short.readAt r.bits j = b)

/-- A line that is pending when a VSHORT reads it in beat b from its start: the bay and the line within it. -/
def ShortRun.earlyAt (r : ShortRun) (x : Ctx) (k : Crew) (b : Nat) : Option (Nat × Nat) :=
  ((Short.sources r.bits).flatMap (fun q => (r.linesAt b).map (fun j => (q.1, q.2 + j)))).find? (fun q =>
    k.pending ((x.bay q.1).base + q.2) (r.start + b))

/-- The events of a VSHORT join its macro's counts, once its row has come and it has read every line: element 4,096 × context crew index +
word (R408). -/
def State.countShort (s : State) (crew i : Nat) : State :=
  let k := s.crewOf crew
  match k.started[i]? with
  | none => s
  | some r =>
    if !r.evaluated || r.counted || !r.allRead then s
    else
      let c := ctxNo r.ctx
      let s := s.setCrew crew { k with started := k.started.set i { r with counted := true } }
      match s.shortRun c r.index with
      | none => s
      | some (n, m) =>
        let events := r.events.map (fun e => (⟨e.1, 4096 * r.place + e.2, 0⟩ : Event))
        s.setRun c true n { m with counts := m.counts.addCounts 0 { events := events } }

/-- A VSHORT makes no read and lands no line after a span beat. -/
def ShortRun.endBy (r : ShortRun) (last : Nat) : ShortRun :=
  let last := match r.endAt with | some b => min b last | none => last
  { r with endAt := some last, landing := r.landing.filter (fun l => l.2 ≤ last) }

/-- A violation of a control beat ends a VSHORT on every crew of its context: no later line of it is written (R190). -/
def State.endShort (s : State) (c : Fin 4) (index beat : Nat) : State :=
  let mine (r : ShortRun) : Bool := r.ctx = c.val && r.index = index
  { s with crews := s.crews.map (fun e =>
      if e.2.started.any mine then
        let last := (s.spanOf (crewSpan e.1)).beatAt beat
        (e.1, { e.2 with started := e.2.started.map (fun r => if mine r then r.endBy last else r) })
      else e) }

/-- A VSHORT reads its lines of beat b from its start. An early read halts its context at that beat and ends it (R188, R190). -/
def State.readBeat (s : State) (crew i b : Nat) : State :=
  let k := s.crewOf crew
  match k.started[i]? with
  | none => s
  | some r =>
    let c := ctxNo r.ctx
    let x := s.ctxOf c
    if r.linesAt b = [] || r.endAt.any (· < r.start + b) then s
    else match r.earlyAt x k b with
      | some q =>
        let stamp := (k.stampOf ((x.bay q.1).base + q.2)).toNat
        let at_ := (s.spanOf (crewSpan crew)).controlAt (r.start + b) s.time.beat
        let s := s.setCrew crew { k with started := k.started.set i (r.endBy (r.start + b)) }
        let s := s.endShort c r.index at_
        match s.shortRun c r.index with
        | some (_, m) => s.raiseAt c { m.cause 0x0401 with detail := lineDetail crew q.1 q.2 stamp ((r.start + b) % 2 ^ 32) } at_
        | none => s
      | none => s.setCrew crew { k with started := k.started.set i { r with got := r.got ++ (r.linesAt b).map (r.capture x k) } }

/-- Every VSHORT of a crew makes its reads of the span beats before `upto`, in order. -/
def State.readsDue (s : State) (crew upto : Nat) : State :=
  (List.range (s.crewOf crew).started.length).foldl (fun s i =>
    match (s.crewOf crew).started[i]? with
    | none => s
    | some r => ((List.range (min 64 (upto - r.start))).foldl (fun s b => s.readBeat crew i b) s).countShort crew i) s

/-- The reads that are due by now on the crews of a context, in ascending order of crew (R190). -/
def State.readsNow (s : State) (c : Fin 4) : State :=
  ((crewsOf (s.adminOf c).owned).filter (fun k => !(s.crewOf k).started.isEmpty)).foldl (fun s k =>
    s.readsDue k (s.spanBeat (crewSpan k) + 1)) s

/-! ## Landing (R186, R189, R190) -/

/-- The next line to land on a crew: the earliest beat; in one beat the later VSHORT first, so that it meets the earlier one's line. -/
def Crew.nextLanding (k : Crew) : Option (Nat × ShortRun × Nat × Nat) :=
  (((List.range k.started.length).zip k.started).flatMap (fun e => e.2.landing.map (fun l => (e.1, e.2, l.1, l.2)))).foldl
    (fun best q => match best with
      | none => some q
      | some b => if q.2.2.2 < b.2.2.2 || (q.2.2.2 = b.2.2.2 && q.1 > b.1) then some q else some b) none

/-- A VSHORT whose lines have all landed, or been withheld, leaves the crew. -/
def Crew.tidy (k : Crew) : Crew := { k with started := k.started.filter (fun r => !r.landing.isEmpty || !(r.evaluated || r.endAt.isSome)) }

/-- Does a VSHORT of a crew wait for its row? -/
def Crew.awaits (k : Crew) : Bool := k.started.any (fun r => !r.evaluated && r.endAt.isNone)

/-- The stamp of the write that a landing meets (R189): of an earlier VSHORT that is still on its way to the line or lands in the same beat, of
an LD tile that committed in the same beat, or of a line whose LD has not committed. -/
def Crew.conflict (k : Crew) (at_ line due : Nat) : Option Nat :=
  match (k.started.take at_).findSome? (fun q => (q.landing.find? (fun l => l.1 = line && l.2 ≥ due)).map Prod.snd) with
  | some t => some (t % 2 ^ 32)
  | none =>
    if k.marked.get line false then some (k.stampOf line).toNat
    else if k.loads.find line = some due then some (due % 2 ^ 32)
    else none

/-- The first landing of a crew due before a beat is written, unless a write conflict withholds it and the lines after it (R189, R190). -/
def State.landOne (s : State) (crew upto : Nat) : State :=
  let k := s.crewOf crew
  match k.nextLanding with
  | none => s.setCrew crew k.tidy
  | some (at_, r, line, due) =>
    if due ≥ upto then s
    else
      let c := ctxNo r.ctx
      match k.conflict at_ line due with
      | some stamp =>
        let bay := Short.dBay r.bits
        let place := line - ((s.ctxOf c).bay bay).base
        let beat := (s.spanOf (crewSpan crew)).controlAt due s.time.beat
        let s := s.setCrew crew { k with started := k.started.set at_ { r with landing := [] } }
        let s := s.endShort c r.index beat
        let s := s.setCrew crew (s.crewOf crew).tidy
        match s.shortRun c r.index with
        | some (_, m) => s.raiseAt c { m.cause 0x0402 with detail := lineDetail crew bay place stamp (due % 2 ^ 32) } beat
        | none => s
      | none =>
        let words := r.lineWords (line - r.dest)
        let oc := ((List.range words.length).zip words).foldl (fun t e => Table.set (64 * line + e.1) e.2 t) k.oc
        s.setCrew crew ({ k with oc := oc, started := k.started.set at_ { r with landing := r.landing.filter (fun l => l != (line, due)) } } : Crew).tidy

/-- The reads and the landings of a context's crews that come before a change of their lines: those due before the beat `more` beats from
now. -/
def State.settleLines (s : State) (c : Fin 4) (more : Nat) : State :=
  (crewsOf (s.adminOf c).owned).foldl (fun s k =>
    let upto := s.spanBeat (crewSpan k) + more
    let s := s.readsDue k upto
    (List.range (((s.crewOf k).started.map (fun r => r.landing.length)).sum)).foldl (fun s _ =>
      if (s.crewOf k).awaits then s else s.landOne k upto) s) s

end Sys2Proof.Machine
end

