-- ==== Sys2Proof/Machine/Macro.lean ====
section
/-! DEFINITION. Running the macros: the rows whose statistic closes (08 R243, R244, 10 R287, 14 R393, R398), and the row of every
opcode and rig, which computes what the executing tiles of its macro stage (log 12). -/

namespace Sys2Proof.Machine

/-! ## Rows -/

/-- The index, with D0 = 0, of a row. -/
def Plan.rowIdx (p : Plan) (row : Nat) : List Nat := 0 :: digits row ((p.sizes.drop 1).take 5)

/-- The number of a row. -/
def Plan.rowNo (p : Plan) (idx : List Nat) : Nat :=
  (((p.sizes.drop 1).take 5).zip (idx.drop 1)).foldr (fun q acc => q.2 + q.1 * acc) 0

/-- Rows of a tile. -/
def MacroRun.tileRows (m : MacroRun) (p : Plan) (t : Nat) : List Nat := (p.rows (m.place p t)).map p.rowNo

/-- The tiles that hold a part of a row. -/
def MacroRun.tilesOf (m : MacroRun) (p : Plan) (row : Nat) : List Nat :=
  (List.range p.tiles).filter (fun t => (m.tileRows p t).contains row)

def MacroRun.tileAt (m : MacroRun) (t : Nat) : TileRun := m.tiles.get t {}

/-- Has the tile run: are its outputs staged, or has it left? -/
def TileRun.ran (r : TileRun) : Bool := r.out.isSome || r.status = .committed || r.status = .dropped

/-- The tiles of a macro that have run. -/
def MacroRun.ranTiles (m : MacroRun) : List Nat := (m.tiles.filter (fun e => e.2.ran)).map Prod.fst

/-- The statistic of a row as the viaduct carries it: the kind and this block's value (R390, R393). -/
def Ev.rowValue (e : Ev) (row : List Nat) : Option (Nat × Option ViaVal) :=
  let m := e.m
  let n := at6 e.p.sizes 0
  if m.isVec 0x01 then some (b2n m.tclass, chainClose (e.chainAt (e.req 8)) m.tclass n e.p.b row)
  else if m.isVec 0x04 then some (b2n m.tclass, e.vstatClose row)
  else if m.isVec 0x06 then some (2, if m.sop = 2 then e.bwdClose row else e.smxClose row)
  else if m.isRig [2, 3, 4] then some (0, chainClose (e.rigChain (e.req 32)) false n e.p.b row)
  else if m.isRig [5] then some (0, chainClose (e.rigChain (e.req 32)) false ((e.req 20).d.size 1) 64 row)
  else if m.isRig [11] then some (2, (e.logitClose row).1)
  else if m.isRig [12] then some (3, e.normClose row)
  else none

/-- The candidates of a row. -/
def Ev.rowCands (e : Ev) (row : List Nat) : List Cand :=
  if e.m.isVec 0x0D then e.sampCands row else if e.m.isRig [11] then (e.logitClose row).2 else []

/-- What a closed row holds. -/
def Ev.closedOf (e : Ev) (v : Option ViaVal) (cands : List Cand) : List Word :=
  let m := e.m
  if m.isVec 0x01 then closedStat m.tclass m.chain.eps v
  else if m.isVec 0x04 then closedStat m.tclass (statEps m e.mem) v
  else if m.isRig [2, 3, 4, 5] then closedStat false m.chain.eps v
  else if m.isVec 0x06 && m.sop = 2 then (match v with | some q => [1, q.v] | none => [0, 0])
  else if m.isVec 0x06 then pairWords v
  else if m.isVec 0x0D then candList cands
  else if m.isRig [11] then pairWords v ++ candList cands
  else normWords v

/-- This block's partial of a row: messages of a kind word and four words; candidate indices are global (R393). -/
def Ev.rowMessages (e : Ev) (start : Nat) (row : List Nat) : List (List Word) :=
  let value := match e.rowValue row with
    | some (k, v) => [BitVec.ofNat 32 k :: viaWords k v]
    | none => []
  let cands := (e.rowCands row).map (fun q => ({ q with index := (q.index + start) % 2 ^ 32 } : Cand))
  let sent : List (List Word) := if e.m.isVec 0x0D || e.m.isRig [11] then
      (match cands with
       | [] => [4 :: candWords none]
       | l => l.map (fun q => 4 :: candWords (some q)))
    else []
  value ++ sent

/-- The value and the candidates that a round's messages bring back. -/
def messagesBack (msgs : List (List Word)) : Option ViaVal × List Cand :=
  (match msgs.find? (fun w => w.headD 0 ≠ 4) with
   | some w => viaValue (w.headD 0).toNat w.tail
   | none => none,
   (msgs.filter (fun w => w.headD 0 = 4)).filterMap (fun w => candValue w.tail))

/-- The view of a tile of a macro. -/
def State.evAt (s : State) (c : Fin 4) (m : MacroRun) (p : Plan) (t : Nat) (r : TileRun) : Ev :=
  { st := s, c := c, m := m, p := p, t := t, pl := m.place p t, run := r, done := m.ranTiles }

/-- Does a macro close rows: a hold point, or a channel? -/
def MacroRun.closesRows (m : MacroRun) (p : Plan) : Bool := p.hold || m.via ≠ some 0

/-- Is the row's partial complete: every one of its tiles has parked, or made its first pass, or started (R287, R313, R393)? -/
def MacroRun.rowReady (m : MacroRun) (p : Plan) (row : Nat) : Bool :=
  let ts := m.tilesOf p row
  !ts.isEmpty && ts.all (fun t =>
    let r := m.tileAt t
    match r.status with
    | .parked | .executing | .committed | .dropped => !p.hold || r.status = .parked
    | _ => false)

/-- The oldest macro of the execute stream for which `p` holds, with its plan. -/
def Ctx.execRun (x : Ctx) (q : MacroRun → Plan → Bool) : Option (Nat × MacroRun × Plan) :=
  match x.exec.firstRun (fun m => match m.plan with | some p => q m p | none => false) with
  | some (i, m) => m.plan.map (fun p => (i, m, p))
  | none => none

/-- The result of a row on its channel: one that a down frame brought is used from the beat after, since an ABORT of the frame's own beat
takes effect first (R404). -/
def Ctx.viaResult (x : Ctx) (m : MacroRun) (row beat : Nat) : Option (List (List Word)) :=
  match m.via with
  | some (v + 1) => ((x.channel v).rowOf m.round row).bind (fun r => if r.downAt = some beat then none else r.result)
  | _ => none

/-- Carries through the carry relay for a row of a rig with a hold point: the partial of each of its tiles on another crew than that of
its lowest-index tile, and the STAT sources back to each such crew (R220, R343, log 79). -/
def MacroRun.rowRelays (m : MacroRun) (p : Plan) (row : Nat) : Nat :=
  if !(p.hold && p.meBound) then 0
  else
    let crews := (m.tilesOf p row).map (fun t => coreCrew (m.tileAt t).core)
    let away := crews.filter (· ≠ crews.headD 0)
    away.length + away.eraseDups.length

/-- ROW_STAT_CLOSE (R244, R287): the row's root is complete, locally or by the viaduct, and its parked tiles may resume. -/
def State.closeRow (s : State) (c : Fin 4) (row : Nat) : State :=
  let x := s.ctxOf c
  match x.execRun (fun m p => m.closesRows p && (m.closed.find row).isNone && m.rowReady p row &&
      (m.via = some 0 || (x.viaResult m row s.time.beat).isSome)) with
  | none => s
  | some (i, m, p) =>
    if !s.inBeat c then s
    else
      let idx := p.rowIdx row
      let t := (m.tilesOf p row).headD 0
      let e := s.evAt c m p t (m.tileAt t)
      let w : List Word :=
        if m.via = some 0 then e.closedOf ((e.rowValue idx).bind Prod.snd) (e.rowCands idx)
        else
          let (v, cs) := messagesBack ((x.viaResult m row s.time.beat).getD [])
          e.closedOf v cs
      let s := s.setCtx c { x with carryRelay := satAdd x.carryRelay (m.rowRelays p row) }
      s.setRun c true i { m with closed := m.closed.set row w }

/-- VIADUCT_UP_SEND (R393): this block's partial of a row is complete and goes up the tree. -/
def State.upSend (s : State) (c : Fin 4) (ch row : Nat) : State :=
  let x := s.ctxOf c
  match x.execRun (fun m p => m.via = some (ch + 1) && m.rowReady p row &&
      (match (x.channel ch).rowOf m.round row with | some r => !r.ownReady | none => true)) with
  | none => s
  | some (_, m, p) =>
    if !s.inBeat c then s
    else
      let t := (m.tilesOf p row).headD 0
      let e := s.evAt c m p t (m.tileAt t)
      s.viaOwn c ch m.round row (e.rowMessages (x.channel ch).regs.sliceStart (p.rowIdx row))

/-! ## The evaluator of each macro -/

/-- What a tile stages, by opcode and rig. -/
def MacroRun.evalOf (m : MacroRun) : Ev → TileOut :=
  if m.slot = 2 then
    match m.op with
    | 0x01 => Ev.vew
    | 0x03 => Ev.vred
    | 0x04 => Ev.vstat
    | 0x05 => Ev.vscan
    | 0x06 => if m.sop = 0 then Ev.vsmxFwd else if m.sop = 1 then Ev.vsmxCombine else Ev.vsmxBwd
    | 0x07 => Ev.vcvt
    | 0x08 => Ev.vperm
    | 0x09 => if m.sop = 1 then Ev.vgathCombine else Ev.vgathGather
    | 0x0A => if m.sop = 1 then Ev.vscatAdd else Ev.vscatStore
    | 0x0B => if m.mode 10 1 = 1 then Ev.vtopkGate else Ev.vtopk
    | 0x0C => Ev.vsort
    | 0x0D => Ev.vsamp
    | _ => fun _ => {}
  else if m.slot = 3 then
    match m.rig with
    | 0 | 1 | 8 | 9 => Ev.mmulDirect
    | 2 | 3 | 4 => Ev.mmulChained
    | 5 => Ev.mmulDown
    | 6 | 7 => Ev.mmulAttention
    | 10 => Ev.mmulKv
    | 11 => Ev.mmulVocabulary
    | 12 => Ev.mmulNorm
    | 13 => Ev.mmulSmxBwd
    | _ => fun _ => {}
  else if m.slot = 4 then
    if m.target = 0 then Ev.ldQueue else if m.target = 1 then Ev.ldBay else Ev.ldDescriptor
  else if m.target = 1 then Ev.stBay else Ev.stQueue

/-- The clip flag of a macro: that of its destination (R238). The clip of rig 8's weights is its own (R86). -/
def MacroRun.clipOn (m : MacroRun) : Bool :=
  !m.isRig [8] && (match m.tens (if m.slot = 2 then 8 else if m.slot = 3 then 32 else 10) with | some t => t.d.clip | none => false)

/-- May an executing tile run now: its rows are closed where its outputs need them, a scan has its carry, and a macro that needs
whole rows of a queue has them. -/
def MacroRun.tileMayRun (m : MacroRun) (p : Plan) (t : Nat) (r : TileRun) : Bool :=
  let closed : Bool := (m.tileRows p t).all (fun q => (m.closed.find q).isSome)
  let mates := (m.rowTiles p (m.place p t)).filter (· ≠ t)
  let last := mates.all m.ranTiles.contains
  let needs : Bool := m.closesRows p && (p.hold || last)
  let whole : Bool := !m.queuesIn.isEmpty && (m.isVec 0x06 || m.isVec 0x0C)
  r.status = .executing && r.out.isNone && (!needs || closed) && (!m.isVec 0x05 || r.carry.isSome) &&
    (!whole || mates.all (fun k => (m.tileAt k).status ≠ .undealt))

/-- Run the executing tiles of a macro, in ascending order. -/
def State.runTiles (s : State) (c : Fin 4) (p : Plan) (f : Ev → TileOut) (m : MacroRun) : MacroRun :=
  (m.tiles.map Prod.fst).foldl (fun m t =>
    let r := m.tileAt t
    if m.tileMayRun p t r then
      { m with tiles := m.tiles.set t { r with out := some ((f (s.evAt c m p t r)).inputClips m.clipOn) } }
    else m) m

/-- FIRST_CORE of a record of a tile's attempt (R481): the core of the first attempt that failed; `else_` where none has failed before. -/
def TileRun.firstOr (r : TileRun) (else_ : Nat) : Nat := if r.fails = 0 then else_ else r.firstCore

/-- COORD of a tile: the linear index of its first element (R480). -/
def MacroRun.coordOf (m : MacroRun) (p : Plan) (t : Nat) : Nat :=
  (p.sizes.zip (m.place p t).start).foldr (fun q acc => q.2 + q.1 * acc) 0 % 2 ^ 64

/-- TAP_STAGE of a macro with a chain. -/
def MacroRun.tapStage (m : MacroRun) : Nat := if m.isVec 0x01 || m.isRig [2, 3, 4, 5] then m.chain.ts else 0

/-- Is it a scatter that adds, which deals its tiles twice: first a sort of the index rows, then the sums (R371)? -/
def MacroRun.sorts (m : MacroRun) : Bool := m.isVec 0x0A && m.sop = 1
def MacroRun.allSorted (m : MacroRun) (p : Plan) : Bool := (List.range p.tiles).all m.sorted.contains
/-- Is a tile in the first of those deals? -/
def MacroRun.sorting (m : MacroRun) (t : Nat) : Bool := m.sorts && !m.sorted.contains t

/-- Does a tile of the macro wait to run? -/
def MacroRun.mayRun (m : MacroRun) (p : Plan) : Bool := m.tiles.any (fun e => m.tileMayRun p e.1 e.2)

/-- The number of a macro in a core's list: 8 × bundle index + slot. -/
def MacroRun.id (m : MacroRun) : Nat := 8 * m.index + m.slot

/-- Does a tile store to the shared cache, with no event that its macro traps? -/
def MacroRun.sends (m : MacroRun) (o : TileOut) : Bool :=
  o.stores.any (fun st => match st with | .mem .. => true | _ => false) && !o.events.any (fun e => bit m.trap e.kind)

/-- The aligned 512 B blocks of the shared cache that stores touch, ascending by first use: one write for each (R45). -/
def storeBlocks (l : List Store) : List Nat :=
  (l.foldl (fun acc st => match st with
    | .mem at_ width _ =>
      let b := at_ / 4096
      let acc := if acc.contains b then acc else b :: acc
      let b' := (at_ + width - 1) / 4096
      if b' = b || acc.contains b' then acc else b' :: acc
    | _ => acc) ([] : List Nat)).reverse

/-- DOMAIN_VIOLATION of the bytes that a tile stores, against the windows in force: each lies in the extent of the part of an output that it is
of (R106, R442). -/
def State.storeDomainFail (s : State) (c : Fin 4) (d : Draft) (l : List Store) : Option Fail :=
  (d.outs.flatMap (fun q => q.2.writeParts)).findSome? (fun w => match w.2.extent with
    | none => none
    | some (lo, hi) => l.findSome? (fun st => match st with
      | .mem at_ bits _ =>
        let a : Int := (at_ / 8 : Nat)
        let b : Int := ((at_ + bits - 1) / 8 : Nat)
        if lo ≤ a && b ≤ hi then s.extentFail c w.2.window a b true else none
      | _ => none))

/-- What a tile stages of its tap before its hold point: the whole tap, where TAP_STAGE is at most HOLD_STAGE (R244, R248). -/
def Ev.earlyTap (e : Ev) : TileOut :=
  let k := if e.m.isVec 0x01 then e.chainAt (e.req 8) else e.rigChain (e.req 32)
  if !(e.m.isVec 0x01 || e.m.isRig [2, 3, 4, 5]) || !(e.m.chain.hold && e.m.chain.ts ≤ e.m.chain.hs) then {}
  else if e.m.isRig [5] then (if at6 e.pl.start 0 = 0 then e.interTap k else {})
  else e.tapOut k e.pos (fun i => (e.req (if e.m.slot = 3 then 32 else 8)).d.linear i % 2 ^ 64)

/-- The stores of a staged tile that have yet to go to the pier: all but those of a tap that has gone before (R244). -/
def State.toSend (s : State) (c : Fin 4) (m : MacroRun) (p : Plan) (t : Nat) (r : TileRun) (o : TileOut) : List Store :=
  if r.tapSent then
    let tap := (s.evAt c m p t r).earlyTap.stores
    o.stores.filter (fun st => !tap.contains st)
  else o.stores

/-- The macro of a number. -/
def Stream.byId (t : Stream) (n : Nat) : Option (Nat × MacroRun) := t.firstRun (fun m => m.id = n)

/-- A macro with one tile's run replaced. -/
def MacroRun.setTile (m : MacroRun) (t : Nat) (r : TileRun) : MacroRun := { m with tiles := m.tiles.set t r }

/-- Stores of a tile go to the pier, each address checked as it is issued (R48, R106, R210); a failure halts and unstages the tile. -/
def State.sendStores (s : State) (c : Fin 4) (execute : Bool) (m : MacroRun) (p : Plan) (t : Nat) (r : TileRun) (l : List Store) : State :=
  match s.storeDomainFail c (s.draft c m) l with
  | some f =>
    let s := match ((s.ctxOf c).stream execute).firstRun (fun q => q.id = m.id) with
      | some (i, q) => s.setRun c execute i (q.setTile t { q.tileAt t with out := none })
      | none => s
    s.raise c { m.cause f.code with coord := m.coordOf p t, core := r.core, detail := f.detail }
  | none =>
    let span := coreSpan r.core
    let beat := s.spanBeat span
    s.setSpan span ((s.spanOf span).addWrites
      ((storeBlocks l).map (fun b =>
        ({ ctx := some c.val, execute := execute, index := m.id, tile := t, block := b, sent := false, beat := beat, retried := false
           seq := 0 } : PierWrite))) beat)

/-- The outputs that have just been staged go to the pier. -/
def State.sendWrites (s : State) (c : Fin 4) (execute : Bool) (p : Plan) (m m' : MacroRun) : State :=
  m'.tiles.foldl (fun s e =>
    match e.2.out with
    | some o =>
      if (m.tileAt e.1).out.isNone && m.sends o then s.sendStores c execute m' p e.1 e.2 (s.toSend c m' p e.1 e.2 o) else s
    | none => s) s

/-- The row of a macro kind: the oldest such macro of the stream with tiles that may run. -/
def State.runKind (s : State) (c : Fin 4) (execute : Bool) (is : MacroRun → Bool) (f : Ev → TileOut) : State :=
  if !s.inBeat c then s
  else
    match ((s.ctxOf c).stream execute).firstRun (fun m => is m && (match m.plan with | some p => m.mayRun p | none => false)) with
    | none => s
    | some (i, m) =>
      match m.plan with
      | none => s
      | some p =>
        let m' := s.runTiles c p f m
        (s.setRun c execute i m').sendWrites c execute p m m'

/-! ## The access stream -/

/-- LD into a queue. -/
def execLdQueue (c : Fin 4) (s : State) : Host.Outcome State Fault Refusal :=
  .next (s.runKind c false (fun m => m.slot = 4 && m.op = 1 && m.target = 0) Ev.ldQueue)
/-- LD into a LINEAR bay. -/
def execLdBay (c : Fin 4) (s : State) : Host.Outcome State Fault Refusal :=
  .next (s.runKind c false (fun m => m.slot = 4 && m.op = 1 && m.target = 1) Ev.ldBay)
/-- LD into the descriptor store. -/
def execLdDescriptor (c : Fin 4) (s : State) : Host.Outcome State Fault Refusal :=
  .next (s.runKind c false (fun m => m.slot = 4 && m.op = 1 && m.target ≥ 2) Ev.ldDescriptor)
/-- LDA, into a queue or a bay. -/
def execLda (c : Fin 4) (s : State) : Host.Outcome State Fault Refusal :=
  .next (s.runKind c false MacroRun.isLda (fun e => if e.m.target = 1 then e.ldBay else e.ldQueue))
/-- ST from a queue. -/
def execStQueue (c : Fin 4) (s : State) : Host.Outcome State Fault Refusal :=
  .next (s.runKind c false (fun m => m.slot = 5 && m.target = 0) Ev.stQueue)

/-- The pending lines that an ST's tile reads, as (crew, line within the bay, stamp, span beat) (R180, R188). -/
def Ev.stEarly (e : Ev) : List (Nat × Nat × Nat × Nat) :=
  let bay := e.x.bay e.m.bay
  let read := (e.pos.map (fun i => let (k, n) := e.stPlace i; (k, n / 64))).eraseDups
  (read.filter (fun q => (e.st.crewOf q.1).pending (bay.base + q.2) (e.st.spanBeat (crewSpan q.1)))).map (fun q =>
    (q.1, q.2, ((e.st.crewOf q.1).stampOf (bay.base + q.2)).toNat, e.st.spanBeat (crewSpan q.1) % 2 ^ 32))

/-- Of early reads, the one that the record names: the lowest crew, then the lowest line (R190). -/
def lowestRead (l : List (Nat × Nat × Nat × Nat)) : Option (Nat × Nat × Nat × Nat) :=
  l.foldl (fun o q => match o with
    | none => some q
    | some b => if q.1 < b.1 || (q.1 = b.1 && q.2.1 < b.2.1) then some q else o) none

/-- A tile of an ST from a LINEAR bay is issued: it reads its words (R180). -/
def State.issueSt (s : State) (c : Fin 4) (m : MacroRun) (p : Plan) (t : Nat) (r : TileRun) : TileRun :=
  if m.slot = 5 && m.target = 1 then { r with words := (s.evAt c m p t r).stWords } else r

/-- A line that is pending then halts the context in that beat (R188, R190). -/
def State.checkSt (s : State) (c : Fin 4) (m : MacroRun) (p : Plan) (t : Nat) : State :=
  if m.slot = 5 && m.target = 1 then
    match lowestRead (s.evAt c m p t (m.tileAt t)).stEarly with
    | none => s
    | some (crew, line, stamp, beat) =>
      s.raise c { m.cause 0x0401 with coord := m.coordOf p t, detail := lineDetail crew m.bay line stamp beat }
  else s

/-- ST from a LINEAR bay. -/
def execStBay (c : Fin 4) (s : State) : Host.Outcome State Fault Refusal :=
  .next (s.runKind c false (fun m => m.slot = 5 && m.target = 1) Ev.stBay)

/-! ## Vector macros -/

/-- VEW. -/
def execVew (c : Fin 4) (s : State) : Host.Outcome State Fault Refusal := .next (s.runKind c true (fun m => m.isVec 0x01) Ev.vew)
/-- VCVT. -/
def execVcvt (c : Fin 4) (s : State) : Host.Outcome State Fault Refusal := .next (s.runKind c true (fun m => m.isVec 0x07) Ev.vcvt)
/-- VSTAT. -/
def execVstat (c : Fin 4) (s : State) : Host.Outcome State Fault Refusal := .next (s.runKind c true (fun m => m.isVec 0x04) Ev.vstat)
/-- VRED SUM. -/
def execVredSum (c : Fin 4) (s : State) : Host.Outcome State Fault Refusal :=
  .next (s.runKind c true (fun m => m.isVec 0x03 && m.sop = 0) Ev.vred)
/-- VRED SUMSQ. -/
def execVredSumsq (c : Fin 4) (s : State) : Host.Outcome State Fault Refusal :=
  .next (s.runKind c true (fun m => m.isVec 0x03 && m.sop = 1) Ev.vred)
/-- VRED DOT. -/
def execVredDot (c : Fin 4) (s : State) : Host.Outcome State Fault Refusal :=
  .next (s.runKind c true (fun m => m.isVec 0x03 && m.sop = 2) Ev.vred)
/-- VRED PROD. -/
def execVredProd (c : Fin 4) (s : State) : Host.Outcome State Fault Refusal :=
  .next (s.runKind c true (fun m => m.isVec 0x03 && m.sop = 3) Ev.vred)
/-- VRED MAX. -/
def execVredMax (c : Fin 4) (s : State) : Host.Outcome State Fault Refusal :=
  .next (s.runKind c true (fun m => m.isVec 0x03 && m.sop = 4) Ev.vred)
/-- VRED MIN. -/
def execVredMin (c : Fin 4) (s : State) : Host.Outcome State Fault Refusal :=
  .next (s.runKind c true (fun m => m.isVec 0x03 && m.sop = 5) Ev.vred)
/-- VRED COUNT. -/
def execVredCount (c : Fin 4) (s : State) : Host.Outcome State Fault Refusal :=
  .next (s.runKind c true (fun m => m.isVec 0x03 && m.sop = 6) Ev.vred)
/-- VSCAN SUM. -/
def execVscanSum (c : Fin 4) (s : State) : Host.Outcome State Fault Refusal :=
  .next (s.runKind c true (fun m => m.isVec 0x05 && m.sop = 0) Ev.vscan)
/-- VSCAN MAX. -/
def execVscanMax (c : Fin 4) (s : State) : Host.Outcome State Fault Refusal :=
  .next (s.runKind c true (fun m => m.isVec 0x05 && m.sop = 1) Ev.vscan)
/-- VSCAN MIN. -/
def execVscanMin (c : Fin 4) (s : State) : Host.Outcome State Fault Refusal :=
  .next (s.runKind c true (fun m => m.isVec 0x05 && m.sop = 2) Ev.vscan)
/-- VSCAN PROD. -/
def execVscanProd (c : Fin 4) (s : State) : Host.Outcome State Fault Refusal :=
  .next (s.runKind c true (fun m => m.isVec 0x05 && m.sop = 3) Ev.vscan)
/-- VSCAN LINREC. -/
def execVscanLinrec (c : Fin 4) (s : State) : Host.Outcome State Fault Refusal :=
  .next (s.runKind c true (fun m => m.isVec 0x05 && m.sop = 4) Ev.vscan)
/-- VSORT. -/
def execVsort (c : Fin 4) (s : State) : Host.Outcome State Fault Refusal := .next (s.runKind c true (fun m => m.isVec 0x0C) Ev.vsort)
/-- VSMX FWD. -/
def execVsmxFwd (c : Fin 4) (s : State) : Host.Outcome State Fault Refusal :=
  .next (s.runKind c true (fun m => m.isVec 0x06 && m.sop = 0) Ev.vsmxFwd)
/-- VSMX COMBINE. -/
def execVsmxCombine (c : Fin 4) (s : State) : Host.Outcome State Fault Refusal :=
  .next (s.runKind c true (fun m => m.isVec 0x06 && m.sop = 1) Ev.vsmxCombine)
/-- VSMX BWD. -/
def execVsmxBwd (c : Fin 4) (s : State) : Host.Outcome State Fault Refusal :=
  .next (s.runKind c true (fun m => m.isVec 0x06 && m.sop = 2) Ev.vsmxBwd)
/-- VPERM. -/
def execVperm (c : Fin 4) (s : State) : Host.Outcome State Fault Refusal := .next (s.runKind c true (fun m => m.isVec 0x08) Ev.vperm)
/-- VGATH GATHER. -/
def execVgathGather (c : Fin 4) (s : State) : Host.Outcome State Fault Refusal :=
  .next (s.runKind c true (fun m => m.isVec 0x09 && m.sop = 0) Ev.vgathGather)
/-- VGATH COMBINE. -/
def execVgathCombine (c : Fin 4) (s : State) : Host.Outcome State Fault Refusal :=
  .next (s.runKind c true (fun m => m.isVec 0x09 && m.sop = 1) Ev.vgathCombine)
/-- VSCAT STORE. -/
def execVscatStore (c : Fin 4) (s : State) : Host.Outcome State Fault Refusal :=
  .next (s.runKind c true (fun m => m.isVec 0x0A && m.sop = 0) Ev.vscatStore)
/-- VSCAT ADD. -/
def execVscatAdd (c : Fin 4) (s : State) : Host.Outcome State Fault Refusal :=
  .next (s.runKind c true (fun m => m.isVec 0x0A && m.sop = 1) Ev.vscatAdd)
/-- VTOPK TOPK. -/
def execVtopkTopk (c : Fin 4) (s : State) : Host.Outcome State Fault Refusal :=
  .next (s.runKind c true (fun m => m.isVec 0x0B && m.mode 10 1 = 0) Ev.vtopk)
/-- VTOPK GATE. -/
def execVtopkGate (c : Fin 4) (s : State) : Host.Outcome State Fault Refusal :=
  .next (s.runKind c true (fun m => m.isVec 0x0B && m.mode 10 1 = 1) Ev.vtopkGate)
/-- VSAMP. -/
def execVsamp (c : Fin 4) (s : State) : Host.Outcome State Fault Refusal := .next (s.runKind c true (fun m => m.isVec 0x0D) Ev.vsamp)

/-! ## Rigs -/

/-- Rig 0. -/
def execMmulPlain (c : Fin 4) (s : State) : Host.Outcome State Fault Refusal := .next (s.runKind c true (fun m => m.isRig [0]) Ev.mmulDirect)
/-- Rig 1. -/
def execMmulResid (c : Fin 4) (s : State) : Host.Outcome State Fault Refusal := .next (s.runKind c true (fun m => m.isRig [1]) Ev.mmulDirect)
/-- Rig 2. -/
def execMmulChain (c : Fin 4) (s : State) : Host.Outcome State Fault Refusal := .next (s.runKind c true (fun m => m.isRig [2]) Ev.mmulChained)
/-- Rig 3. -/
def execMmulNormNext (c : Fin 4) (s : State) : Host.Outcome State Fault Refusal :=
  .next (s.runKind c true (fun m => m.isRig [3]) Ev.mmulChained)
/-- Rig 4. -/
def execMmulGated (c : Fin 4) (s : State) : Host.Outcome State Fault Refusal := .next (s.runKind c true (fun m => m.isRig [4]) Ev.mmulChained)
/-- Rig 5. -/
def execMmulGatedDown (c : Fin 4) (s : State) : Host.Outcome State Fault Refusal :=
  .next (s.runKind c true (fun m => m.isRig [5]) Ev.mmulDown)
/-- Rig 8. -/
def execMmulDeq (c : Fin 4) (s : State) : Host.Outcome State Fault Refusal := .next (s.runKind c true (fun m => m.isRig [8]) Ev.mmulDirect)
/-- Rig 9. -/
def execMmulArrive (c : Fin 4) (s : State) : Host.Outcome State Fault Refusal := .next (s.runKind c true (fun m => m.isRig [9]) Ev.mmulDirect)
/-- Rig 10. -/
def execMmulKvAppend (c : Fin 4) (s : State) : Host.Outcome State Fault Refusal := .next (s.runKind c true (fun m => m.isRig [10]) Ev.mmulKv)
/-- Rig 11. -/
def execMmulLogits (c : Fin 4) (s : State) : Host.Outcome State Fault Refusal :=
  .next (s.runKind c true (fun m => m.isRig [11]) Ev.mmulVocabulary)
/-- Rig 12. -/
def execMmulNormBwd (c : Fin 4) (s : State) : Host.Outcome State Fault Refusal := .next (s.runKind c true (fun m => m.isRig [12]) Ev.mmulNorm)
/-- Rig 13. -/
def execMmulSoftmaxBwd (c : Fin 4) (s : State) : Host.Outcome State Fault Refusal :=
  .next (s.runKind c true (fun m => m.isRig [13]) Ev.mmulSmxBwd)

/-- ROW_STAT_CLOSE. -/
def execRowStatClose (c : Fin 4) (row : Nat) (s : State) : Host.Outcome State Fault Refusal := .next (s.closeRow c row)
/-- VIADUCT_UP_SEND. -/
def execViaductUpSend (c : Fin 4) (ch : Fin 8) (row : Nat) (s : State) : Host.Outcome State Fault Refusal :=
  .next (s.upSend c ch.val row)

end Sys2Proof.Machine
end

