-- ==== Sys2Proof/Machine/Reads.lean ====
section
/-! DEFINITION. The addresses that a tile uses (04 R98, R106, R107, 16 R442): the parts of its operands, with the bytes of each that it reads,
and the reads that it asks the pier for (02 R45, 07 R205, 11 R549). -/

namespace Sys2Proof.Machine

/-- First and last index on each dimension of the part of an operand that a tile uses; all of it where its shape is not the
iteration tensor's. -/
def Flat.box (d : Flat) (p : Plan) (pl : Place) : List (Nat × Nat) :=
  (List.range 6).map (fun k =>
    let n := d.size k
    let lo := at6 pl.start k
    let len := if k = p.inner then p.b else if k = p.outer then p.a else 1
    if n ≤ 1 then (0, 0)
    else if n = at6 p.sizes k && p.inner < 6 then (min lo (n - 1), min (lo + len) n - 1)
    else (0, n - 1))

/-- The bytes of a box of a STRIDED descriptor. -/
def Flat.boxExtent (d : Flat) (box : List (Nat × Nat)) : Option (Int × Int) :=
  if d.isEmpty then none
  else
    let ends := (d.strides.zip box).map (fun q => (q.1 * (q.2.1 : Int), q.1 * (q.2.2 : Int)))
    let lo := (ends.map (fun e => min e.1 e.2)).foldl (· + ·) 0
    let hi := (ends.map (fun e => max e.1 e.2)).foldl (· + ·) 0
    let w : Int := d.fmt.bits
    some ((d.base * 8 + lo * w) / 8, (d.base * 8 + hi * w + w - 1) / 8)

/-- A box of given first index and length on each dimension, cut at the sizes; a size of 1 broadcasts. -/
def Flat.boxOf (d : Flat) (ranges : List (Nat × Nat)) : List (Nat × Nat) :=
  (List.range 6).map (fun k =>
    let n := d.size k
    let (lo, len) := ranges.getD k (0, 1)
    if n ≤ 1 then (0, 0) else (min lo (n - 1), min (lo + len) n - 1))

/-- The indices of a box. -/
def boxIdxs (box : List (Nat × Nat)) : List (List Nat) :=
  box.foldr (fun q acc => ((List.range (q.2 + 1)).drop q.1).flatMap (fun i => acc.map (i :: ·))) [[]]

/-- From the lowest to the highest byte of some elements, by the bit address of each. -/
def spanBytes (bits : Nat) (l : List Nat) : Option (Int × Int) :=
  match l with
  | [] => none
  | a :: t => some ((t.foldl min a / 8 : Nat), ((t.foldl max a + bits - 1) / 8 : Nat))

/-- What a tile uses of an operand: a box of it, or some of its elements. -/
inductive Uses where
  | box (b : List (Nat × Nat))
  | idxs (l : List (List Nat))

/-- Elements used, at most those of a tile. -/
def Uses.count (cap : Nat) : Uses → Nat
  | .box b => min cap ((b.map (fun q => q.2 - q.1 + 1)).foldl (· * ·) 1)
  | .idxs l => min cap l.length

/-- The bytes of each part of an operand that some elements take (R98, R107, R110): the elements, the scale bytes of their MX blocks or all of a
table of values, their mask bits, their page entries. -/
def Tensor.bytesOf (t : Tensor) (mem : Memory) (u : Uses) : List (Nat × Flat) → List (Nat × Flat × Option (Int × Int)) :=
  List.map (fun q =>
    let f := q.2
    let all (g : List Nat → List Nat) (l : List (List Nat)) : Option (Int × Int) := spanBytes f.fmt.bits (l.map (fun i => f.bitAt (g i)))
    (q.1, f, match u, q.1 with
      | .box b, 0 => f.boxExtent b
      | .box b, 1 =>
        if t.d.fmt.isMx then f.boxExtent (b.set 0 (((b.getD 0 (0, 0)).1 / 32), (b.getD 0 (0, 0)).2 / 32))
        else if t.d.fmt.isInt then f.boxExtent ([(0, f.size 0 - 1), (0, f.size 1 - 1)] ++ (b.drop 1).take 4)
        else f.extent
      | .box b, 2 => f.boxExtent ((f.sizes.zip b).map (fun q => if q.1 ≤ 1 then (0, 0) else q.2))
      | .idxs l, 0 => spanBytes f.fmt.bits ((l.filter (fun i => !t.badPage mem i)).map (t.bitAt mem))
      | .idxs l, 1 => if t.d.fmt.isMx then all (fun i => i.set 0 (at6 i 0 / 32)) l else f.extent
      | .idxs l, 2 => all f.bcast l
      | .idxs l, 3 => all (fun i => [at6 i 1 / t.d.rows, at6 i 2, 0, 0, 0, 0]) l
      | _, _ => f.extent))

/-- The operands that a tile reads through the pier: not those that the ME reads itself (R329). -/
def MacroRun.pierInputs (m : MacroRun) (d : Draft) : List (Nat × Tensor) :=
  let me : List Nat := match m.rig with
    | 4 => [8, 20, 44]
    | 5 => [8, 20, 44, 56]
    | 6 => [8, 20, 44]
    | 7 => [8]
    | 8 => [8]
    | _ => [8, 20]
  if m.slot = 5 then [] else d.ins.filter (fun q => !(m.slot = 3 && me.contains q.1))

/-- Is an operand's data taken from a queue? -/
def MacroRun.fromQueue (m : MacroRun) (at_ : Nat) : Bool := m.slot ≠ 3 && at_ < 1000 && m.bound at_

/-- The parts that a tile reads through the pier: its operands, of one bound to a queue its mask alone, and the masks and page tables of its
outputs (R106, R109, R112). In the sorting pass of a scatter that adds, the index rows alone (R371). -/
def MacroRun.readList (m : MacroRun) (d : Draft) (sorting : Bool) : List (Nat × Tensor × List (Nat × Flat)) :=
  if sorting then ((m.pierInputs d).filter (fun q => q.1 = 32 && !m.fromQueue 32)).map (fun q => (q.1, q.2, q.2.readParts))
  else
    (m.pierInputs d).map (fun q => (q.1, q.2, if m.fromQueue q.1 then q.2.mask.toList.map (fun f => (2, f)) else q.2.readParts)) ++
      d.outs.map (fun q => (q.1, q.2, q.2.sideParts))

/-- The table rows that index rows name, which a tile reads or writes; those of inactive rows and of entries out of range are not (R367). -/
def Ev.namedRows (e : Ev) : List (List Nat) :=
  let rows := (e.p.rows e.pl).map (fun r => (r.set 0 0).take 6)
  let ix := e.req 32
  let read (r : List Nat) : Option (List Nat) :=
    let q := indexRow ix e.mem (ix.d.bcast r)
    if q.1 && (indexFail ix (e.req 20).d q true).isNone && q.2.headD 0 ≠ -1 then some (namedRow q.2 r) else none
  if e.m.sop = 1 then (rows.flatMap (fun r => (List.range (ix.d.size 1)).map (fun j => r.set 1 j))).filterMap read else rows.filterMap read

/-- What a tile uses of the operand at a place, in the order in which it stages it: VSMX COMBINE takes its chunks one at a time, in ascending
order (R549). Where the operand's shape is that of the iteration tensor, the elements at the tile's positions; the rows that a permutation, an
index row, a query or a placement names; else its whole size on the axes in which it differs. -/
def Ev.usesOf (e : Ev) (at_ : Nat) (x : Tensor) : List Uses :=
  let m := e.m
  let rows := (e.p.rows e.pl).map (fun r => (r.set 0 0).take 6)
  let box := x.d.box e.p e.pl
  let along (l : List (List Nat)) (ks : List Nat) : Uses := .idxs (l.flatMap (fun r => ks.map (fun k => r.set 0 k)))
  let whole : List Nat := List.range (x.d.size 0)
  let same : Bool := (List.range 6).all (fun k => x.d.size k = 1 || x.d.size k = at6 e.p.sizes k)
  if m.isVec 0x08 && at_ = 20 then [.idxs (e.pos.map (permIndex m))]
  else if m.isVec 0x09 && at_ = 20 then [along e.namedRows (e.p.cols e.pl)]
  else if m.isVec 0x0A && at_ = 8 then [along (rows.filterMap e.scatDest) (e.p.cols e.pl)]
  else if m.isRig [10] && at_ = 32 then [.idxs (e.kvPositions x)]
  else if m.isRig [7] && (at_ = 20 || at_ = 44) then
    let keys (r : List Nat) : List (List Nat) :=
      let (query, chunk) := e.queryOf r
      let (lo, hi) := (chunk * (e.keyWidth), min (x.d.size 1) (chunk * e.keyWidth + e.keyWidth))
      ((List.range hi).drop lo).map (fun j => query.set 1 j)
    [along ((rows.flatMap keys).map x.d.bcast).eraseDups whole]
  else if m.isRig [8] && at_ = 20 then
    [.box (x.d.boxOf ((0, x.d.size 0) :: (at6 e.pl.start e.p.inner, e.p.b) :: (List.range 4).map (fun k => (at6 e.pl.start (k + 2), 1))))]
  else if m.isVec 0x06 && m.sop = 1 && at_ = 20 then
    (List.range (x.d.size 1)).map (fun k => if x.d.paged then .idxs (boxIdxs (box.set 1 (k, k))) else .box (box.set 1 (k, k)))
  else if same && (x.d.paged || e.p.inner = 6) then [.idxs ((e.pos.map x.d.bcast).eraseDups)]
  else if x.d.paged then [.idxs (boxIdxs box)]
  else if m.isVec 0x0B && at_ ≠ 20 then [.box (x.d.boxOf ((List.range 6).map (fun k => (0, x.d.size k))))]
  else [.box box]

/-- Every part that a tile reads through the pier, with the elements read and their bytes, in the order of its staging. -/
def Ev.readParts (e : Ev) (d : Draft) (sorting : Bool) : List (Nat × Flat × Option (Int × Int)) :=
  let one (o : Nat × Tensor × List (Nat × Flat)) : List (Nat × Flat × Option (Int × Int)) :=
    (e.usesOf o.1 o.2.1).flatMap (fun u => (o.2.1.bytesOf e.mem u o.2.2).map (fun q => (u.count (e.p.a * e.p.b), q.2)))
  let chunked (o : Nat × Tensor × List (Nat × Flat)) : Bool := e.m.isVec 0x06 && e.m.sop = 1 && o.1 = 20
  let l := e.m.readList d sorting
  (l.filter (fun o => !chunked o) ++ l.filter chunked).flatMap one

/-- The pier reads of a tile, each of up to 512 B, by the byte range of the part that it reads (R45, log 11). -/
def Ev.pierReads (e : Ev) (d : Draft) (sorting : Bool) : List (Int × Int) :=
  (e.readParts d sorting).flatMap (fun f => match f.2.2 with
    | none => []
    | some ext => List.replicate (max 1 (ceilDiv (f.1 * f.2.1.fmt.bits) 4096)) ext)

/-- Of the reads that wait, those that may go out now: of a macro that stages chunks one at a time, those of the next part alone, once those of
the parts before it have been answered (R549). -/
def MacroRun.nextReads (m : MacroRun) (todo : List (Int × Int)) (out : List (Int × Int)) : List (Int × Int) :=
  if !(m.isVec 0x06 && m.sop = 1) then todo
  else match todo with
    | [] => []
    | q :: _ => if out.all (· == q) then todo.takeWhile (· == q) else []

/-- DOMAIN_VIOLATION of a tile's reads against the windows in force (R106, R442). -/
def State.readDomainFail (s : State) (c : Fin 4) (l : List (Nat × Flat × Option (Int × Int))) : Option Fail :=
  l.findSome? (fun f => match f.2.2 with
    | none => none
    | some (lo, hi) => s.extentFail c f.2.1.window lo hi false)

end Sys2Proof.Machine
end

