-- ==== Sys2Proof/Machine/Deal.lean ====
section
/-! DEFINITION. Dealing, stealing and the inputs of tiles (07_tile_walker.md R202 to R209, R222, 02 R44 to R48, 12 R341, R345, 10 R286,
06 R174, R175). -/

namespace Sys2Proof.Machine

/-! ## Places and bindings -/


/-- Is a macro dealt as a halo macro (R218, R292)? -/
def MacroRun.chained (m : MacroRun) (p : Plan) : Bool := m.isVec 0x05 || p.halo ≠ 0

/-- Do the tiles of a row group, or of a resident group, go to one crew (R204, R298, R341)? DESIGN CHOICE (log 127): those of a VSMX with REREAD,
no tile of which parks (R313), need not. -/
def MacroRun.grouped (m : MacroRun) (p : Plan) : Bool := (p.hold && !m.rereads) || p.meBound || (m.isVec 0x0C && at6 p.sizes 0 > p.b)

/-- Is a tile bound to a crew (R204)? -/
def MacroRun.crewBound (m : MacroRun) (p : Plan) : Bool := m.grouped p || m.chained p || !m.queuesIn.isEmpty

/-- The group of a tile: its coordinates but for the reduced axis; of a rig tile, its resident group. -/
def MacroRun.groupOf (m : MacroRun) (p : Plan) (t : Nat) : List Nat :=
  let pl := m.place p t
  if p.meBound then pl.coord else pl.start.set p.inner 0

/-- The crew that a group has been dealt to. -/
def MacroRun.groupCrew (m : MacroRun) (p : Plan) (t : Nat) : Option Nat :=
  (m.tiles.find? (fun e => e.2.crew.isSome && m.groupOf p e.1 == m.groupOf p t)).bind (fun e => e.2.crew)

/-- The crew that a tile must go to; `ring`: that of the ring tile it consumes (R175, R204, R218). DESIGN CHOICE (log 128): a tile of a scan that
consumes a ring tile goes to the ring's crew, whatever its own number. -/
def MacroRun.mustCrew (m : MacroRun) (p : Plan) (t : Nat) (ring : Option Nat) : Option Nat :=
  match (m.tileAt t).crew, ring with
  | some k, _ => some k
  | none, some k => some k
  | none, none =>
    if m.chained p then
      let crews := crewsOf p.spans
      some (crews.getD (t % max 1 crews.length) 0)
    else if m.grouped p then m.groupCrew p t else none

/-- The span that deals a tile (R196, R218). -/
def MacroRun.dealSpan (m : MacroRun) (p : Plan) (t : Nat) : Nat :=
  if m.chained p then
    let crews := crewsOf p.spans
    crewSpan (crews.getD (t % max 1 crews.length) 0)
  else p.spanOf (m.place p t)

/-! ## Choosing a core (R203) -/

/-- Tiles that the cores of a crew hold. -/
def State.crewHeld (s : State) (crew : Nat) : Nat := ((List.range 8).map (fun k => (s.coreOf (8 * crew + k)).held.length)).sum

/-- The core for a tile among some cores: unfenced, with fewer than two tiles; none held first, then the crew that holds the
fewest, then the lowest number. -/
def State.pickCore (s : State) (cores : List Nat) : Option Nat :=
  let open_ := cores.filter (fun k => !s.isFenced k && (s.coreOf k).held.length < 2)
  let key (k : Nat) : Nat := ((s.coreOf k).held.length * 1024 + s.crewHeld (coreCrew k)) * 2048 + k
  open_.foldl (fun (best : Option Nat) k => match best with
    | none => some k
    | some j => if key k < key j then some k else some j) none

/-- The cores of a span, and of a crew. -/
def spanCores (span : Nat) : List Nat := (List.range 128).map (128 * span + ·)
def crewCores (crew : Nat) : List Nat := (List.range 8).map (8 * crew + ·)

/-! ## Resources of a crew -/

/-- Lines of a slot of a ring whose producer has this format, and the credits of its bay (R174). -/
def slotLines (f : Format) : Nat := ceilDiv (2048 * f.bits) (8 * 256)
def Bay.credits (b : Bay) (f : Format) : Nat := b.lines / max 1 (slotLines f)

/-- Free credits of a queue in a crew. -/
def Ctx.freeCredits (x : Ctx) (q crew : Nat) (f : Format) : Nat :=
  (match x.ringBay q with | some b => b.credits f | none => 0) - x.slots.get (256 * q + crew) 0

/-- The format of the producer's tensor of an output queue. -/
def MacroRun.queueFormat (m : MacroRun) (at_ : Nat) : Format := match m.tens at_ with | some t => t.d.fmt | none => .uint8

/-- Banks that a group takes at its first product (R341, R345): those that accumulate, and for the rigs whose group holds every
product of its tile, all that the rig table gives. -/
def MacroRun.takeBanks (m : MacroRun) (d : Nat) : Nat :=
  match m.rig with
  | 4 => 2 * m.nres
  | 5 => 4 * m.nres + 2
  | 6 | 7 => 2 + ceilDiv d 64
  | _ => m.nres

/-- Is a bank of a crew allocated? -/
def Crew.bankFree (k : Crew) (n : Nat) : Bool := (k.banks.find n).isNone

def Crew.freeBanks (k : Crew) : List Nat := (List.range 16).filter k.bankFree

/-- Banks held by macros other than one, and by that one. -/
def Crew.otherBanks (k : Crew) (c : Fin 4) (id : Nat) : Nat :=
  (k.banks.filter (fun e => !(e.2.ctx = c.val && e.2.index = id))).length
def Crew.ownBanks (k : Crew) (c : Fin 4) (id : Nat) : Nat :=
  (k.banks.filter (fun e => e.2.ctx = c.val && e.2.index = id)).length

/-- The key of a product: the lowest tile that it feeds, its step, and its code (R410). The step numbers what a product of the rig has several
of: in rig 5 the 64 columns of F, in attention the score bank, or the 64 columns of the output. -/
def prodKey (low step code : Nat) : Nat := 16 * (low + 2 ^ 32 * step) + code
def keyCode (key : Nat) : Nat := key % 16
def keyTile (key : Nat) : Nat := key / 16 % 2 ^ 32
def keyStep (key : Nat) : Nat := key / 16 / 2 ^ 32

/-- The blocks of 64 columns of the intermediate width F of rig 5 (R350, R351). -/
def MacroRun.interBlocks (m : MacroRun) : Nat := match m.tens 20 with | some t => ceilDiv (t.d.size 1) 64 | none => 0

/-- The lowest tile of a tile's group, and of the product tile that it belongs to. -/
def MacroRun.lowGroup (m : MacroRun) (p : Plan) (t : Nat) : Nat :=
  ((List.range p.tiles).find? (fun u => m.groupOf p u == m.groupOf p t)).getD t
def MacroRun.lowPair (m : MacroRun) (p : Plan) (t : Nat) : Nat :=
  ((List.range p.tiles).find? (fun u => m.groupOf p u == m.groupOf p t &&
    at6 (m.place p u).start p.inner = at6 (m.place p t).start p.inner)).getD t

/-- The products of the first phase of a rig 5 group: A × B and A × AUX0 for each block of F (R350). -/
def MacroRun.gateKeys (m : MacroRun) (p : Plan) (t : Nat) : List Nat :=
  (List.range m.interBlocks).flatMap (fun f => [prodKey (m.lowGroup p t) f 0, prodKey (m.lowGroup p t) f 1])

/-- The products that a rig tile needs, by their keys: of attention, those of the chain of its query tile, whose head dimension is that of the
plan's D0. -/
def MacroRun.productKeys (m : MacroRun) (p : Plan) (t : Nat) : List Nat :=
  match m.rig with
  | 4 => [prodKey (m.lowPair p t) 0 0, prodKey (m.lowPair p t) 0 1]
  | 5 => m.gateKeys p t ++ [prodKey (m.lowPair p t) 0 2]
  | 6 | 7 =>
    let low := m.lowGroup p t
    [prodKey low 0 3, prodKey low 1 3] ++ (List.range (ceilDiv (at6 p.sizes 0) 64)).map (fun j => prodKey low j 4)
  | _ => [prodKey (m.lowPair p t) 0 0]

/-- The products of a group. -/
def MacroRun.groupProducts (m : MacroRun) (p : Plan) (t : Nat) : List Nat :=
  (((List.range p.tiles).filter (fun u => m.groupOf p u == m.groupOf p t)).flatMap (m.productKeys p)).eraseDups

/-- The products of a rig 5 group's second phase: one for each N-tile of OUT (R350). -/
def MacroRun.downKeys (m : MacroRun) (p : Plan) (t : Nat) : List Nat := (m.groupProducts p t).filter (fun key => keyCode key = 2)

/-- The products of the banks that a group takes, in turn. Rig 5: those of its first blocks of F, then two for the down products; a bank with
no product has code 15. -/
def MacroRun.bankProducts (m : MacroRun) (p : Plan) (t n : Nat) : List Nat :=
  match m.rig with
  | 5 =>
    let spare (j : Nat) : Nat := prodKey (m.lowGroup p t) j 15
    (List.range (n - 2)).map (fun j => (m.gateKeys p t).getD j (spare j)) ++
      (List.range 2).map (fun j => (m.downKeys p t).getD j (spare (n - 2 + j)))
  | _ => (m.groupProducts p t).take n

/-- A group's banks: those of the products `asked` for accumulate for the ME; the output banks of attention are the crew's until the first
P_jV_j command (R319). -/
def allocBanks (k : Crew) (c : Fin 4) (id : Nat) (products asked : List Nat) : Crew :=
  { k with banks := (products.zip k.freeBanks).foldl (fun t q =>
      t.set q.2 { ctx := c.val, index := id, product := q.1, accumulating := asked.contains q.1, crewOwns := keyCode q.1 = 4 }) k.banks }

/-! ## What the matrix engine reads -/

/-- The operands that the ME reads itself for a product, with the bytes of each: rows of A, columns of B, AUX0 or AUX1 (R328, R329); for
attention Q against the key tile, then V of the key tile. -/
def MacroRun.meParts (m : MacroRun) (p : Plan) (mem : Memory) (cmd : MeCmd) : List (Flat × Option (Int × Int)) :=
  let pl := m.place p (keyTile cmd.key)
  let col := 64 * keyStep cmd.key
  let up := (List.range 4).map (fun k => (at6 pl.start (k + 2), 1))
  let row0 := at6 pl.start p.outer / 64 * 64
  let split : Bool := m.isRig [6, 7] && m.rigMode 2 1 = 1
  let upQ := if split then (List.range 4).map (fun k => if k < 3 then (at6 pl.start (k + 3), 1) else (0, 1)) else up
  let flat (at_ : Nat) (r : List (Nat × Nat)) : List (Flat × Option (Int × Int)) :=
    match m.tens at_ with
    | some t =>
      let box := t.d.boxOf r
      (t.bytesOf mem (if t.d.paged then .idxs (boxIdxs box) else .box box) t.readParts).map Prod.snd
    | none => []
  let all (at_ : Nat) : Nat × Nat := (0, match m.tens at_ with | some t => t.d.size 0 | none => 0)
  let chunk := if split then at6 pl.start 1 * 64 * 2 ^ m.rigMode 3 4 else 0
  let n := if m.isRig [5] then col else at6 pl.start p.inner
  match keyCode cmd.key with
  | 0 => flat 8 (all 8 :: (row0, 64) :: up) ++ (if m.isRig [8] then [] else flat 20 (all 20 :: (n, 64) :: up))
  | 1 => flat 8 (all 8 :: (row0, 64) :: up) ++ flat 44 (all 44 :: (n, 64) :: up)
  | 2 => flat 56 (all 56 :: (at6 pl.start p.inner, 64) :: up)
  | 3 => flat 8 (all 8 :: (row0, 64) :: upQ) ++
      (if m.isRig [7] then [] else flat 20 (all 20 :: (chunk + 64 * cmd.step, 64) :: upQ))
  | _ => if m.isRig [7] then [] else flat 44 ((col, 64) :: (chunk + 64 * cmd.step, 64) :: upQ)

/-- DOMAIN_VIOLATION of the addresses of a matrix command, before it is sent (R328). -/
def State.commandFail (s : State) (c : Fin 4) (m : MacroRun) (p : Plan) (cmd : MeCmd) : Option Fail :=
  (m.meParts p s.mem cmd).findSome? (fun q => match q.2 with
    | none => none
    | some (lo, hi) => s.extentFail c q.1.window lo hi false)

/-- Operand rows of 1 KiB that the crew feeds for a product (R329): the intermediate of rig 5, P once for the output banks, the gathered K and
V of rig 7 in the formats of their partners Q and P (R327), the expanded weights of rig 8. -/
def MacroRun.feedRows (m : MacroRun) (cmd : MeCmd) : Nat :=
  let bytes (f : Format) : Nat := f.bits / 8
  let k (at_ : Nat) : Nat := match m.tens at_ with | some t => t.d.size 0 | none => 0
  let gathered (at_ : Nat) (partner : Format) : Nat := match m.tens at_ with | some t => bytes (gatheredFormat t partner) | none => 0
  let q : Format := match m.tens 8 with | some t => t.d.fmt | none => .bfloat16
  let pf := pfmt (m.rigMode 0 2)
  let once := if keyStep cmd.key = 0 then 64 * 64 * bytes pf else 0
  match m.rig, keyCode cmd.key with
  | 5, 2 => ceilDiv (64 * k 56 * bytes (pfmt (m.rigMode 11 2))) 1024
  | 6, 4 => ceilDiv once 1024
  | 7, 3 => ceilDiv (64 * k 8 * gathered 20 q) 1024
  | 7, 4 => ceilDiv (once + 64 * 64 * gathered 44 pf) 1024
  | 8, _ => ceilDiv (64 * k 8 * bytes (pfmt (m.rigMode 5 2))) 1024
  | _, _ => 0

/-- Push operand rows in order while the 16 credits last; a row that finds none waits for one from now (R38, R52). -/
def Crew.pushFeed (k : Crew) (beat : Nat) : Crew :=
  { k with feed := (k.feed.foldl (fun (acc : List FeedRun × Nat) f =>
      let n := min (f.rows - f.pushed) (16 - acc.2)
      let f' : FeedRun := { f with pushed := f.pushed + n
                                   since := if f.pushed + n = f.rows then none else if n = 0 && f.since.isSome then f.since else some beat }
      (acc.1 ++ [f'], acc.2 + n)) ([], (k.feed.map FeedRun.pushed).sum)).1 }

/-- The bank of a macro's product on a crew. -/
def Crew.bankOf (k : Crew) (c : Fin 4) (id key : Nat) : Option (Nat × Bank) :=
  k.banks.find? (fun e => e.2.ctx = c.val && e.2.index = id && e.2.product = key)

/-- The command of a product has been sent: its bank may now be acted on by the ME (R328). -/
def Crew.ask (k : Crew) (c : Fin 4) (cmd : MeCmd) : Crew :=
  match k.bankOf c cmd.index cmd.key with
  | some (n, b) => { k with banks := k.banks.set n { b with asked := true } }
  | none => k

/-- Send the matrix commands that wait, of whichever macro, while fewer than 4 are unaccepted (R38): each after the check of its addresses
(R328). -/
def State.sendCmds (s : State) (c : Fin 4) (crew : Nat) : State :=
  let beat := s.spanBeat (crewSpan crew)
  (List.range 4).foldl (fun s _ =>
    let k := s.crewOf crew
    match k.cmds with
    | [] => s
    | cmd :: rest =>
      if k.sent.length ≥ 4 || !s.runs c then s
      else match ((s.ctxOf c).exec.byId cmd.index).bind (fun q => q.2.plan.map (fun p => (q.2, p))) with
      | none => s.setCrew crew { k with cmds := rest }
      | some (m, p) => match s.commandFail c m p cmd with
        | some f => s.raise c { m.cause f.code with coord := m.coordOf p (keyTile cmd.key), detail := f.detail }
        | none =>
          let rows := m.feedRows cmd
          let k := { k.ask c cmd with cmds := rest, sent := k.sent ++ [(cmd, beat)]
                                      ftqSince := if (s.ctxOf c).cplMode then k.ftqSince else k.ftqSince.or (some beat)
                                      feed := if rows = 0 then k.feed else k.feed ++ [({ cmd := cmd, pushed := 0, rows := rows, since := none } : FeedRun)] }
          s.setCrew crew (k.pushFeed beat)) s

/-- 64 B pieces of the bytes that some parts of a tile take. -/
def MacroRun.pieces (m : MacroRun) (p : Plan) (t : Nat) (ops : List (Nat × Tensor)) : Nat :=
  (ops.map (fun q => ((q.2.d.box p (m.place p t)).map (fun b => b.2 - b.1 + 1)).foldl (· * ·) 1 * q.2.d.fmt.bits)).foldl
    (fun n bits => n + ceilDiv bits 512) 0

/-! ## The next tile of a macro for a span -/

/-- What the walker may deal next. -/
inductive Next where
  | tile (t : Nat) (rings : List (Nat × RingTile)) (crew : Option Nat)
  /-- nothing is left for the span -/
  | done
  /-- it waits for a ring tile (3) or an arrival (6) -/
  | wait (kind : Nat)
  | fail (f : Fail)

/-- Has an arrival-table entry reached SEQ (R222, R356)? -/
def Ctx.arrived (x : Ctx) (m : MacroRun) (k : Nat) : Bool :=
  reached (x.arrivals.get (k + (if m.slot = 3 then field m.bits 56 12 else m.aux)) 0#16) m.seq

/-- The crew of the ring tiles that a tile holds (R175). -/
def MacroRun.ringCrew (m : MacroRun) (t : Nat) : Option Nat := ((m.tileAt t).rings.head?).map (fun q => q.2.crew)

/-- DQ_MISMATCH of an input queue (R163). -/
def MacroRun.mismatch (m : MacroRun) (at_ : Nat) : Fail :=
  let off := if m.slot ≠ 2 then 6 else if at_ = 8 then 80 else 85 + 5 * ((at_ - 20) / 12)
  ⟨0x0106, detail1 (field m.bits at_ 12) off 0xFF m.depth⟩

/-- Is a ring tile that which a tile consumes: of its coordinates, its shape and its axes; for VPERM, of those that the permutation gives its
source (R163, R364)? -/
def MacroRun.ringFits (m : MacroRun) (p : Plan) (t : Nat) (r : RingTile) : Bool :=
  let start := (m.place p t).start
  if m.isVec 0x08 then
    let axis (k : Nat) : Nat := m.mode (3 * k) 3
    let w := Tensor.ringWidth r
    let h := Tensor.ringHeight r
    r.coord.take 6 == permIndex m (start.take 6) &&
      ((r.inner = axis p.inner && r.outer = axis p.outer && w = p.b && h = p.a) ||
        (r.inner = axis p.outer && r.outer = axis p.inner && w = p.a && h = p.b))
  else start == r.coord && r.shape = p.shape && r.inner = p.inner && r.outer = p.outer

/-- Has a tile been dealt, or, in the sorting pass of a scatter that adds, sorted (R371)? -/
def MacroRun.taken (m : MacroRun) (p : Plan) (t : Nat) : Bool :=
  (m.tileAt t).status ≠ .undealt || (m.sorts && !m.allSorted p && m.sorted.contains t)

/-- The next tile of a macro that takes its tiles from queues: the oldest entry of the span's crews in the first queue names it. DESIGN
CHOICE (log 77): a ring tile whose coordinates, shape or axes are those of no undealt tile of the consumer, or that differ between two of
its input queues, halts with DQ_MISMATCH; R163 gives that code for a differing handle and for a direction only. -/
def Ctx.nextFromRing (x : Ctx) (m : MacroRun) (p : Plan) (span : Nat) : Next :=
  let head (q crew : Nat) : Option RingTile := (x.queues.get q []).find? (fun r => r.crew = crew)
  match m.queuesIn with
  | [] => .done
  | (q0, at0) :: rest =>
    match (x.queues.get q0 []).find? (fun r => crewSpan r.crew = span && (head q0 r.crew) = some r && r.data ≠ []) with
    | none =>
      if (List.range p.tiles).all (m.taken p) then .done else .wait 3
    | some r =>
      let others := rest.map (fun q => (q, head q.1 r.crew))
      if field m.bits at0 12 ≠ r.handle then .fail (m.mismatch at0)
      else match others.find? (fun o => match o.2 with | some h => h.data ≠ [] && h.handle ≠ field m.bits o.1.2 12 | none => false) with
        | some o => .fail (m.mismatch o.1.2)
        | none =>
          if others.any (fun o => match o.2 with | some h => h.data = [] | none => true) then .wait 3
          else
            match (List.range p.tiles).find? (fun t => m.ringFits p t r) with
            | none => .fail (m.mismatch at0)
            | some t =>
              if others.any (fun o => match o.2 with | some h => h.coord != r.coord || h.shape ≠ p.shape | none => true) then
                .fail (m.mismatch (rest.headD (0, at0)).2)
              else if m.taken p t then .fail (m.mismatch at0)
              else .tile t ((at0, r) :: others.filterMap (fun o => o.2.map (fun h => (o.1.2, h)))) (some r.crew)

/-- The span whose walker deals a tile again: that of its crew, or that of the core that failed. -/
def MacroRun.spanAgain (m : MacroRun) (p : Plan) (t : Nat) : Nat :=
  match (m.tileAt t).crew with
  | some k => crewSpan k
  | none => if (m.tileAt t).fails > 0 then coreSpan (m.tileAt t).core else m.dealSpan p t

/-- A tile of a macro that waits for its replay on a span (R211). -/
def MacroRun.nextReplay (m : MacroRun) (p : Plan) (span : Nat) : Next :=
  match m.replay.find? (fun t => m.spanAgain p t = span) with
  | some t => .tile t (m.tileAt t).rings none
  | none => .done

/-- The lowest parked tile of a macro whose rows have closed and whose crew has room for it (R287). -/
def MacroRun.nextResume (m : MacroRun) (p : Plan) (span : Nat) (room : Nat → Bool) : Next :=
  match (List.range p.tiles).find? (fun t => (m.tileAt t).status = .parked && !m.replay.contains t && m.spanAgain p t = span &&
      (m.tileRows p t).all (fun r => (m.closed.find r).isSome) &&
      (match (m.tileAt t).crew with | some k => room k | none => true)) with
  | some t => .tile t (m.tileAt t).rings none
  | none => .done

/-- An undealt tile of a macro for a span, in dealing order (R203, R222). -/
def Ctx.nextFresh (x : Ctx) (m : MacroRun) (p : Plan) (span : Nat) : Next :=
  -- of a scatter that adds, the first deal takes the ring tiles where its index rows come by a queue, else the second
  if !m.queuesIn.isEmpty && (!m.sorts || m.bound 32 != m.allSorted p) then x.nextFromRing m p span
  else
    let left := (List.range p.tiles).filter (fun t => !m.taken p t && m.dealSpan p t = span && !m.replay.contains t)
    match left with
    | [] => .done
    | t0 :: _ =>
      if m.isLda || m.isRig [9] then
        let index (t : Nat) : Nat := if m.isLda then t else at6 (m.place p t).coord 1
        match left.find? (fun t => x.arrived m (index t)) with
        | some t => .tile t [] none
        | none => .wait 6
      else .tile t0 (m.tileAt t0).rings (m.ringCrew t0)

/-- The classes of tiles in dealing order, over every macro that deals: replays, then parked tiles whose rows have closed, then undealt
tiles (R203, R211, R287). -/
inductive DealClass where
  | replay
  | resume
  | fresh
  deriving DecidableEq, Repr

/-- The next tile of a class; `room`: the crews with a core that could take one. -/
def Ctx.nextTile (x : Ctx) (k : DealClass) (m : MacroRun) (p : Plan) (span : Nat) (room : Nat → Bool) : Next :=
  match k with
  | .replay => m.nextReplay p span
  | .resume => m.nextResume p span room
  | .fresh => x.nextFresh m p span

/-- Has every tile of a macro been dealt? -/
def MacroRun.allDealt (m : MacroRun) (p : Plan) : Bool :=
  m.replay.isEmpty && (!m.sorts || m.allSorted p) && (List.range p.tiles).all (fun t => (m.tileAt t).status ≠ .undealt)

/-- The macros of a stream that may deal: the oldest, and behind it one that overlaps it (R148, R149, R198). -/
def Stream.dealing (t : Stream) : List (Nat × MacroRun × Plan) :=
  match t.inflight with
  | [] => []
  | m :: rest =>
    let first : List (Nat × MacroRun × Plan) := match m.plan with
      | some p => if m.isShort then [] else [(0, m, p)]
      | none => []
    let dealt : Bool := m.isShort || (match m.plan with | some p => m.allDealt p | none => false)
    match rest with
    | n :: _ => (match n.plan with
      | some q => if n.overlapped && dealt then first ++ [(1, n, q)] else first
      | none => first)
    | [] => first

/-! ## Dealing one tile -/

/-- How one attempt to deal ends. -/
inductive Dealt where
  | dealt (s : State)
  | stop (s : State)

/-- The row group of a tile as the park counts it (R285): the tiles of its rows, within one resident group for a rig (R343). -/
def MacroRun.parkGroup (m : MacroRun) (p : Plan) (t : Nat) : List Nat :=
  let pl := m.place p t
  let rows := pl.start.set p.inner 0
  if p.meBound then at6 pl.coord 0 :: rows else rows

/-- Has no tile of a row group been dealt yet? -/
def MacroRun.parkFresh (m : MacroRun) (p : Plan) (t : Nat) : Bool :=
  p.hold && !m.rereads && !m.tiles.any (fun e => e.2.crew.isSome && m.parkGroup p e.1 == m.parkGroup p t)

/-- Lines that a parked tile takes (R285), and the volume of a tile's row group. -/
def MacroRun.parkLines (p : Plan) (d : Draft) : Nat := d.park p.a p.b
def MacroRun.parkVolume (m : MacroRun) (p : Plan) (d : Draft) (t : Nat) : Nat :=
  ((List.range p.tiles).filter (fun u => m.parkGroup p u == m.parkGroup p t)).length * parkLines p d

/-- Lines of the context's park. -/
def State.parkSize (s : State) (c : Fin 4) : Nat := match (s.ctxOf c).parkBay with | some b => b.lines | none => 0

/-- A crew takes a new row group: its park lines are reserved where they fit the park at all (R286). -/
def State.openPark (s : State) (c : Fin 4) (m : MacroRun) (p : Plan) (d : Draft) (t crew : Nat) : State :=
  let k := s.crewOf crew
  let vol := m.parkVolume p d t
  if vol ≤ s.parkSize c then s.setCrew crew { k with parked := k.parked + vol } else s

/-- The key tiles of the chain of a query tile (R316, R353). -/
def MacroRun.keyTiles (m : MacroRun) (p : Plan) (t : Nat) : Nat :=
  let n := match m.tens 20 with | some k => k.d.size 1 | none => 0
  let width := if m.rigMode 2 1 = 1 then 64 * 2 ^ m.rigMode 3 4 else n
  let lo := if m.rigMode 2 1 = 1 then at6 (m.place p t).start 1 * width else 0
  ceilDiv (min n (lo + width) - lo) 64

/-- The matrix commands that a group opens with, given the products of its banks: for attention the scores of the first two key tiles (R318);
in rig 5, those of the first phase (R350). -/
def MacroRun.openCmds (m : MacroRun) (p : Plan) (t : Nat) (products : List Nat) : List MeCmd :=
  match m.rig with
  | 6 | 7 => (List.range (min 2 (m.keyTiles p t))).map (fun j => ⟨m.id, prodKey (m.lowGroup p t) j 3, j⟩)
  | _ => (products.filter (fun key => keyCode key < 2)).map (fun key => ⟨m.id, key, 0⟩)

/-- A crew takes a new resident group: its banks are allocated (R345), its commands are sent as credits allow, and in Queued mode an
entry of the finished-tile queue is expected from now (R52). -/
def State.openBanks (s : State) (c : Fin 4) (m : MacroRun) (p : Plan) (t crew : Nat) : State :=
  let products := m.bankProducts p t (m.takeBanks (at6 p.sizes 0))
  let cmds := m.openCmds p t products
  let k := allocBanks (s.crewOf crew) c m.id products (cmds.map (fun q => q.key))
  let k := { k with cmds := k.cmds ++ cmds
                    ftqSince := if (s.ctxOf c).cplMode || k.ftqSince.isSome then k.ftqSince else some (s.spanBeat (crewSpan crew)) }
  (s.setCrew crew k).sendCmds c crew

/-- Has a crew park room for a new row group now (R286)? -/
def State.parkFits (s : State) (c : Fin 4) (m : MacroRun) (p : Plan) (d : Draft) (t crew : Nat) : Bool :=
  let vol := m.parkVolume p d t
  let lines := s.parkSize c
  let k := s.crewOf crew
  if vol ≤ lines then decide (k.parked + vol ≤ lines) else decide (k.parked = 0)

/-- Has a crew banks for a new resident group now, within those that the rig table gives the macro (R345, R346)? -/
def State.banksFit (s : State) (c : Fin 4) (m : MacroRun) (p : Plan) (crew : Nat) : Bool :=
  let k := s.crewOf crew
  let take := m.takeBanks (at6 p.sizes 0)
  decide (k.freeBanks.length ≥ take) && decide (k.ownBanks c m.id + take ≤ rigBanks m.rig m.nres (at6 p.sizes 0))

/-- Groups of a macro in flight on a crew, and those of every macro of the execute stream (R341). -/
def MacroRun.groupsOn (m : MacroRun) (p : Plan) (crew : Nat) : Nat :=
  (((m.tiles.filter (fun e => e.2.crew = some crew && e.2.status ≠ .committed && e.2.status ≠ .dropped)).map
    (fun e => m.groupOf p e.1)).eraseDups).length
def Ctx.groupsOn (x : Ctx) (crew : Nat) : Nat :=
  (x.exec.inflight.map (fun m => match m.plan with | some p => if p.meBound then m.groupsOn p crew else 0 | none => 0)).sum

/-- Put a tile on a core. -/
def State.place (s : State) (c : Fin 4) (execute : Bool) (i : Nat) (m : MacroRun) (p : Plan) (d : Draft) (t core : Nat)
    (rings : List (Nat × RingTile)) : State :=
  let old := m.tileAt t
  let resumed : Bool := old.status = .parked
  let keeps : Bool := (resumed && !m.rereads) || old.checkpoint
  let reads := if keeps then 0 else ((s.evAt c m p t old).pierReads d (m.sorting t)).length
  let crew := coreCrew core
  let scan := m.chained p && p.halo ≠ 0
  let r : TileRun := { old with
    status := if reads = 0 then .waiting else .loading
    core := core, crew := if m.crewBound p || old.crew.isSome then some crew else none, staged := s.spanBeat (coreSpan core), reads := 0, begun := false
    todo := [], seen := if keeps then old.seen else if reads = 0 then some s.mem else none
    halo := !scan || t % max 1 ((p.order.headD (0, 1)).2) = 0, rings := rings, out := none
    slotCrew := if old.slotCrew.isSome || m.queuesOut.isEmpty then old.slotCrew else some crew }
  let m' := { m with tiles := m.tiles.set t r, replay := m.replay.filter (· ≠ t), dealtAny := true
                     overlapped := m.overlapped && (m.dealtAny || i > 0)
                     start := if m.dealtAny then m.start else BitVec.ofNat 64 s.now }
  let x := s.ctxOf c
  -- consumed ring tiles leave their queues; their credits stay taken until the commit (R212)
  let fresh : Bool := old.status = .undealt && !m.replay.contains t
  let queues := if !fresh || old.rings ≠ [] then x.queues else
    (m.queuesIn.filter (fun q => rings.any (fun r => r.1 = q.2))).foldl (fun qs q =>
      match rings.find? (fun r => r.1 = q.2) with
      | some r => qs.set q.1 ((Table.get qs q.1 []).erase r.2)
      | none => qs) x.queues
  -- a producer takes a credit and a place in the ring's order (R162)
  let (queues, slots) := if !fresh || old.slotCrew.isSome then (queues, x.slots) else
    m.queuesOut.foldl (fun (acc : Table (List RingTile) × Table Nat) q =>
      let entry : RingTile := { handle := field m.bits q.2 12, coord := (m.place p t).start, shape := p.shape, inner := p.inner,
                                outer := p.outer, crew := crew, data := [] }
      (acc.1.set q.1 (Table.get acc.1 q.1 [] ++ [entry]), acc.2.set (256 * q.1 + crew) (Table.get acc.2 (256 * q.1 + crew) 0 + 1)))
      (queues, x.slots)
  let arrive : Bool := m.isRig [9] && (m.groupCrew p t).isNone
  let x := { x with queues := queues, slots := slots, arriveStarts := if arrive then satAdd x.arriveStarts 1 else x.arriveStarts }
  let x := if old.status = .undealt && old.fails = 0 then x.setStream execute ((x.stream execute).unblockDeal m.id) else x
  let s := (s.setCtx c x).setRun c execute i m'
  let q := s.coreOf core
  let beat := s.spanBeat (coreSpan core)
  let s := s.setCore core { q with held := q.held ++ [(c.val, execute, m.id, t)], dealtAt := some beat
                                   first := if q.stolenAt = some beat then q.held.head? else q.first }
  let span := coreSpan core
  let s := s.loads span (s.spanBeat span)
  -- an LD marks at its first deal every line that it will write, on the crews of its plan (R180)
  if m.slot = 4 && m.target = 1 && !m.dealtAny then
    let bay := x.bay m.bay
    let n := ceilDiv (((m.tens 10).map (fun t => (sliceWords t.d))).getD 0) 64
    let s := s.settleLines c 0
    { s with crews := (crewsOf p.spans).foldl (fun t k =>
        let q := Table.get t k ({} : Crew)
        t.set k { q with marked := (List.range n).foldl (fun mk l => mk.set (bay.base + l) true) q.marked }) s.crews }
  else s

/-- Deal one tile of a macro to a core of a span. -/
def State.dealTile (s : State) (c : Fin 4) (execute : Bool) (i span : Nat) (m : MacroRun) (p : Plan) (t : Nat)
    (rings : List (Nat × RingTile)) (ring : Option Nat) : Dealt :=
  let x := s.ctxOf c
  let d := s.draft c m
  let old := m.tileAt t
  let replay := m.replay.contains t
  let resumed : Bool := old.status = .parked
  let must := m.mustCrew p t ring
  let newGroup : Bool := m.grouped p && old.crew.isNone && (m.groupCrew p t).isNone
  let lost : Bool := match must with | some k => (crewCores k).all s.isFenced | none => false
  -- a replay that has no other unfenced core of its crew left (R211)
  let spent : Bool := replay && old.fails ≠ 0 && (match must with
    | some k => (crewCores k).all (fun j => j = old.core || s.isFenced j)
    | none => false)
  if spent then
    .stop (s.raise c { m.cause 0x0A01 with coord := m.coordOf p t, core := old.core, detail := hwDetail 10 span old.firstCore 0 0 })
  else if lost then
    .stop (s.raise c { m.cause 0x0A08 with coord := m.coordOf p t, detail := hwDetail 10 span 0xFFFF 0 0 })
  else
    let queueOk (crew : Nat) : Bool := replay || resumed || old.slotCrew.isSome || m.queuesOut.all (fun q => x.freeCredits q.1 crew (m.queueFormat q.2) > 0)
    let none_ : Option (Nat × Nat) := (m.queuesOut.find? (fun q => match x.ringBay q.1 with
      | some b => b.credits (m.queueFormat q.2) = 0
      | none => true))
    match none_ with
    | some q =>
      let have_ := match x.ringBay q.1 with | some b => b.lines | none => 0
      .stop (s.raise c { m.cause 0x0301 with coord := m.coordOf p t
                                             detail := detail3 have_ (slotLines (m.queueFormat q.2)) 0xFF })
    | none =>
      let crews : List Nat := match must with
        | some k => [k]
        | none => (List.range 16).map (16 * span + ·)
      let newPark := m.parkFresh p t
      let newBanks : Bool := newGroup && p.meBound
      let least (l : List Nat) : List Nat :=
        let n := (l.map x.groupsOn).foldl min ((l.map x.groupsOn).headD 0)
        l.filter (fun k => x.groupsOn k = n)
      let open_ := crews.filter (fun k => queueOk k && (!newPark || s.parkFits c m p d t k) && (!newBanks || s.banksFit c m p k))
      let open_ := if newBanks then least open_ else open_
      let cores := (open_.flatMap crewCores).filter (fun k => !(replay && k = old.core))
      let banks := rigBanks m.rig m.nres (at6 p.sizes 0)
      let short : Option Nat := if newBanks then
          ((least crews).head?).filter (fun k => 16 - (s.crewOf k).otherBanks c m.id < banks)
        else none
      match short with
      | some k =>
        .stop (s.raise c { m.cause 0x0302 with coord := m.coordOf p t
                                               detail := detail3 (16 - (s.crewOf k).otherBanks c m.id) banks (if m.isRig [6, 7] then 1 else 0) })
      | none =>
        match s.pickCore cores with
        | none =>
          .stop (s.setCtx c (x.setStream execute (
            if !m.queuesOut.isEmpty && !crews.any queueOk then (x.stream execute).blockDeal 3 m.id s.time.beat
            else if replay || resumed then x.stream execute else (x.stream execute).unblockDeal m.id)))
        | some core =>
          let r : TileRun := { old with rings := rings }
          -- value-dependent checks (R117)
          let bad := if resumed || replay then none
            else
              let e := s.evAt c m p t r
              if m.sorting t then e.sortFail else e.pagedFail.or (m.evalOf e).fail
          match bad with
          | some f => .stop (s.raise c { m.cause f.1 with coord := m.coordOf p t, detail := f.2 })
          | none =>
            let s := if newPark then s.openPark c m p d t (coreCrew core) else s
            let s := if newBanks then s.openBanks c m p t (coreCrew core) else s
            .dealt (s.place c execute i m p d t core rings)

/-- One deal of a span's walker: replays of either stream first, then parked tiles whose rows have closed, then undealt tiles of the
access stream and of the execute stream (R203, R211, R287, log 51). -/
def State.dealOne (s : State) (span : Nat) : Dealt :=
  match s.owner span with
  | none => .stop s
  | some c =>
    if !s.runs c || !s.mayLoad span then .stop s
    else
      let x := s.ctxOf c
      let offers := [DealClass.replay, .resume, .fresh].flatMap (fun k =>
        [false, true].flatMap (fun e => (x.stream e).dealing.map (fun q => (k, e, q))))
      offers.foldl (fun (acc : Dealt) o =>
        match acc with
        | .dealt s => .dealt s
        | .stop s =>
          if !s.runs c then .stop s
          else
            let (k, e, i, m, p) := o
            match (s.ctxOf c).nextTile k m p span (fun crew => (s.pickCore (crewCores crew)).isSome) with
            | .done => .stop s
            | .wait k =>
              let y := s.ctxOf c
              .stop (s.setCtx c (y.setStream e ((y.stream e).blockDeal k m.id s.time.beat)))
            | .fail f => .stop (s.raise c { m.cause f.code with detail := f.detail })
            | .tile t rings crew => s.dealTile c e i span m p t rings crew) (.stop s)

/-- TILE_DEAL: up to two tiles in a span beat (R203). -/
def State.dealBeat (s : State) (span : Nat) : State :=
  match s.dealOne span with
  | .stop s => s
  | .dealt s => match s.dealOne span with
    | .stop s => s
    | .dealt s => s

/-! ## Reading inputs (R44, R45, R205) -/

/-- The macro and the tile of an entry of a core. -/
def State.heldTile (s : State) (h : Nat × Bool × Nat × Nat) : Option (Fin 4 × Nat × MacroRun × Plan × TileRun) :=
  let c := ctxNo h.1
  match ((s.ctxOf c).stream h.2.1).byId h.2.2.1 with
  | none => none
  | some (i, m) => m.plan.map (fun p => (c, i, m, p, m.tileAt h.2.2.2))

/-- TILE_INPUT_READ: the core's oldest loading tile asks the pier for its operands, in reads of up to 512 B, as far as tags are free;
every address is checked against the windows in force (R106, R442). -/
def State.readInputs (s : State) (core : Nat) : State :=
  let q := s.coreOf core
  match q.held.find? (fun h => match s.heldTile h with
      | some (_, _, _, _, r) => r.status = .loading && (!r.begun || r.todo ≠ [])
      | none => false) with
  | none => s
  | some h =>
    match s.heldTile h with
    | none => s
    | some (c, i, m, p, r) =>
      if !s.inBeat c then s
      else
        let t := h.2.2.2
        let d := s.draft c m
        let e := s.evAt c m p t r
        match s.readDomainFail c (e.readParts d (m.sorting t)) with
        | some f => s.raise c { m.cause f.code with coord := m.coordOf p t, core := core, detail := f.detail }
        | none =>
          let span := coreSpan core
          let sp := s.spanOf span
          let beat := s.spanBeat span
          let todo := if r.begun then r.todo else e.pierReads d (m.sorting t)
          let mine := (sp.reads.filter (fun q => q.2.ctx = c.val && q.2.tile = some (h.2.1, h.2.2.1, t))).map (fun q => (q.2.lo, q.2.hi))
          let next := m.nextReads todo mine
          let n := min next.length sp.freeTags.length
          let sp := if r.begun then sp else sp.perf 0x06 (m.pieces p t (m.pierInputs d))
          let s := s.setSpan span (sp.sendReads c.val (h.2.1, h.2.2.1, t) beat r.attempt next)
          s.setRun c h.2.1 i (m.setTile t { r with
            begun := true, reads := r.reads + n, todo := todo.drop n
            status := if todo.isEmpty then .waiting else .loading
            seen := if r.seen.isSome then r.seen else some s.mem, staged := beat })

/-! ## Tiles handed to replay (R211) -/

/-- A core whose last tile has gone asks for one (R206); a lane swap that waited for its executing tile is applied (R18). -/
def State.leaveCore (s : State) (core : Nat) (h : Nat × Bool × Nat × Nat) : State :=
  let q := s.coreOf core
  let held := q.held.filter (· != h)
  ((s.setCore core { q with held := held, asking := q.asking || held.isEmpty, first := if q.first = some h then none else q.first }).busyNow
    (coreSpan core)).swapDue core

/-- Segments of 16 passes of a VSORT row (R298, R299). -/
def MacroRun.sortSegments (p : Plan) : Nat :=
  let k := max 5 (log2Up (at6 p.sizes 0))
  ceilDiv (k * (k + 1) / 2) 16

/-- A tile goes to the head of the dealing order, off its core (R211, R213); one that had parked is replayed from its parked lines
(R288), and a VSORT row from its latest checkpoint (R299). DESIGN CHOICE (log 125): of two tiles of a macro that wait, the one handed back first
is dealt first. The responses of its earlier reads are no longer its own (R47). `counts`: as a replay. -/
def State.handBack (s : State) (c : Fin 4) (execute : Bool) (i : Nat) (m : MacroRun) (t : Nat) (counts : Bool) : State :=
  let r := m.tileAt t
  let r' := { r with status := if r.hasParked then .parked else .undealt, out := none, reads := 0, begun := false, todo := []
                     attempt := r.attempt + 1, seen := if r.hasParked || r.checkpoint then r.seen else none }
  let s := s.setRun c execute i { m with tiles := m.tiles.set t r', replay := m.replay ++ [t], replayed := m.replayed || counts }
  let s := s.leaveCore r.core (c.val, execute, m.id, t)
  let s := s.setCtx c { s.ctxOf c with crossSince := some s.time.beat }
  if counts then
    let x := s.ctxOf c
    let span := coreSpan r.core
    let sp := s.spanOf span
    (s.setCtx c { x with replays := satAdd x.replays 1 }).setSpan span { sp.perf 0x0C 1 with replays := sp.replays + 1 }
  else s

/-- A tile fails a check: replayed once, a second failure halts with 0x0A01, as does a tile that must stay in its crew with no other unfenced
core there (R47, R211). A VSORT row stays in its crew; which of its segments failed is a free value, and past the first a checkpoint
stands (R299, log 80). `unit`, `syndrome`, `address`: of the record. -/
def State.failTile (s : State) (c : Fin 4) (execute : Bool) (i : Nat) (m : MacroRun) (p : Plan) (t lane unit syndrome address : Nat) : State :=
  let r := m.tileAt t
  let first := if r.fails = 0 then r.core else r.firstCore
  let sort : Bool := m.isVec 0x0C && (r.status = .waiting || r.status = .executing)
  let (seg, s) := if sort && MacroRun.sortSegments p > 1 then s.takeFree else (0, s)
  let m := m.setTile t { r with fails := r.fails + 1, firstCore := first, crew := if sort then some (coreCrew r.core) else r.crew
                                checkpoint := r.checkpoint || seg.toNat % MacroRun.sortSegments p ≠ 0 }
  let s := s.setRun c execute i m
  let alone : Bool := (m.crewBound p || sort) && (crewCores (coreCrew r.core)).all (fun k => k = r.core || s.isFenced k)
  if r.fails ≥ 1 || alone then
    s.raise c { m.cause 0x0A01 with coord := m.coordOf p t, core := r.core, lane := lane
                                    detail := hwDetail unit (coreSpan r.core) first syndrome address }
  else s.handBack c execute i m t true

/-- A read of a parameter block has failed: it is tried once more, and a second failure halts the context, as that of an instruction fetch does
(R39, R47; DEDUCED, log 113). -/
def State.blockFails (s : State) (c : Fin 4) (execute : Bool) (i : Nat) (m : MacroRun) (span tag : Nat) (rd : PierRead) : State :=
  let unit := hwDetail 7 span 0xFFFF 0 rd.lo.toNat
  if rd.attempt = 0 then
    (s.setSpan span ((s.spanOf span).sendRead tag { rd with attempt := 1, beat := s.spanBeat span })).absorb c.val
      { m.cause 0x0A84 with detail := unit }
  else (s.setRun c execute i { m with blockRead := none }).raise c { m.cause 0x0A02 with detail := unit }

/-- A read of a tile, of the fetch, or of the cox has failed (R39, R47). A read of an earlier attempt has no further effect. -/
def State.readFails (s : State) (span tag : Nat) (rd : PierRead) : State :=
  let c := ctxNo rd.ctx
  if rd.ctx = 7 then
    (s.setSpan span { s.spanOf span with reads := (s.spanOf span).reads.erase tag }).coxTakes ((rd.tile.map (·.2.1)).getD 0) rd false
  else
  match rd.tile with
  | none =>
    if (s.ctxOf c).fetches span tag then s.fetchFails c
    else s.setSpan span { s.spanOf span with reads := (s.spanOf span).reads.erase tag }
  | some (e, id, t) =>
    let sp := s.spanOf span
    let s := s.setSpan span { sp with reads := sp.reads.erase tag }
    match ((s.ctxOf c).stream e).byId id with
    | none => s
    | some (i, m) =>
      if t = blockTile then s.blockFails c e i m span tag rd else
      let r := m.tileAt t
      match m.plan with
      | none => s
      | some p =>
        if r.status ≠ .loading || !r.begun || rd.attempt ≠ r.attempt then s
        else
          let s := s.absorb c.val { m.cause 0x0A84 with coord := m.coordOf p t, core := r.core
                                                        detail := hwDetail 7 span (r.firstOr r.core) 0 rd.lo.toNat }
          s.failTile c e i m p t 0xFF 7 0 rd.lo.toNat

/-- PIER_READ_RESPONSE: the data of a read, or a poisoned response (R45, R47). No response comes before an older access of the pier to
one of its lines has completed (R46). -/
def State.readResponse (s : State) (span tag : Nat) (poison : Bool) : State :=
  let sp := s.spanOf span
  match sp.reads.find tag with
  | none => s
  | some rd =>
    if sp.ordered rd.seq rd.lo rd.hi true true (fun _ => false) then s
    else if poison then s.readFails span tag rd
    else
      let c := ctxNo rd.ctx
      let s := s.setSpan span { sp with reads := sp.reads.erase tag }
      if rd.ctx = 7 then s.coxTakes ((rd.tile.map (·.2.1)).getD 0) rd true
      else
      match rd.tile with
      | none => if (s.ctxOf c).fetches span tag then s.setCtx c ((s.ctxOf c).takeFetch s.mem) else s
      | some (e, id, t) =>
        match ((s.ctxOf c).stream e).byId id with
        | none => s
        | some (i, m) =>
          if t = blockTile then s.setRun c e i { m with blockRead := m.blockRead.map (fun b =>
            { b with out := b.out - 1, seen := Memory.overlay rd.lo rd.hi s.mem b.seen }) }
          else
          let r := m.tileAt t
          if r.status ≠ .loading || !r.begun || rd.attempt ≠ r.attempt then s
          else
            s.setRun c e i (m.setTile t { r with
              reads := r.reads - 1, staged := s.spanBeat span, seen := some (Memory.overlay rd.lo rd.hi s.mem (r.seen.getD []))
              status := if r.reads ≤ 1 && r.todo = [] then .waiting else .loading })

/-- PIER_READ_TIMEOUT: no answer for 65,536 beats of the span (R4, R47). -/
def State.readTimeout (s : State) (span tag : Nat) : State :=
  match (s.spanOf span).reads.find tag with
  | none => s
  | some rd => if s.spanBeat span ≥ rd.beat + 65536 then s.readFails span tag rd else s

/-! ## Stealing (R206 to R209) -/

/-- The predicted end of the tile that a core executes (R207): its start and the mean of the last 16 durations of its span. DESIGN CHOICE
(log 126): of a core that executes none it is 0. -/
def State.predictedEnd (s : State) (core : Nat) : Nat :=
  let ds := (s.spanOf (coreSpan core)).durations
  let mean := if ds.isEmpty then 0 else ds.sum / ds.length
  ((s.coreOf core).held.findSome? (fun h => match s.heldTile h with
    | some (_, _, _, _, r) => if r.status = .executing then some (r.started + mean) else none
    | none => none)).getD 0

/-- A tile of a core that a thief may take: dealt, not started; from another crew, not crew-bound and with no pier read begun. DESIGN CHOICE
(log 121): a tile that has parked and is dealt again has not started while it waits, so a core of its crew may take it. -/
def State.prey (s : State) (core : Nat) (other : Bool) : Option (Nat × Bool × Nat × Nat) :=
  (s.coreOf core).held.find? (fun h => match s.heldTile h with
    | some (c, _, m, p, r) =>
      s.runs c && (r.status = .loading || r.status = .waiting) && (!other || (!m.crewBound p && r.crew.isNone && !r.begun))
    | none => false)

/-- Order victims: by round robin after the last one until the span has committed 16 tiles, by core within the thief's crew and by
crew beyond it, there the lowest core of the crew (DESIGN CHOICE, log 126); then by the latest predicted end, ties to the nearest in ascending
order from the thief (R36, R207). -/
def State.victim (s : State) (thief last : Nat) (other : Bool) (l : List Nat) : Option Nat :=
  let sp := s.spanOf (coreSpan thief)
  let after (from_ k : Nat) : Nat := (k + 4096 - from_ - 1) % 2048
  let round (k : Nat) : Nat :=
    if other then ((coreCrew k + 511 - coreCrew last) % 256) * 8 + k % 8 else after last k
  let better (a b : Nat) : Bool :=
    if sp.committed < 16 then round a < round b
    else
      let x := s.predictedEnd a
      let y := s.predictedEnd b
      x > y || (x = y && after thief a < after thief b)
  l.foldl (fun (best : Option Nat) k => match best with
    | none => some k
    | some j => if better k j then some k else some j) none

/-- May a core be granted a tile: it has asked, and holds none, or only one that the walker has dealt it in this beat (R206, R209)? -/
def State.mayTake (s : State) (core : Nat) : Bool :=
  let q := s.coreOf core
  q.asking && !s.isFenced core &&
    (q.held.isEmpty || (q.held.length = 1 && q.dealtAt = some (s.spanBeat (coreSpan core)) && !s.executes core))

/-- The tile that a core claims: its victim, whether in another crew, and the tile (R206, R207). -/
def State.claim (s : State) (core : Nat) : Option (Nat × Bool × (Nat × Bool × Nat × Nat)) :=
  let span := coreSpan core
  let last := (s.spanOf span).lastVictim.get (core % 128) core
  let near := (crewCores (coreCrew core)).filter (fun k => k ≠ core && (s.prey k false).isSome)
  let far := (spanCores span).filter (fun k => coreCrew k ≠ coreCrew core && (s.prey k true).isSome)
  match s.victim core last false near with
  | some k => (s.prey k false).map (fun h => (k, false, h))
  | none => (s.victim core last true far).bind (fun k => (s.prey k true).map (fun h => (k, true, h)))

/-- Does a core of a lower number claim the same tile (R35)? -/
def State.outbid (s : State) (core : Nat) (h : Nat × Bool × Nat × Nat) : Bool :=
  (spanCores (coreSpan core)).any (fun k => k < core && s.mayTake k && (match s.claim k with | some q => q.2.2 == h | none => false))

/-- STEAL_GRANT: the crew sequencer of an idle core that has asked grants it a tile (R206 to R208). Where a lower-numbered core claims
the same tile, this one goes on to its next victim in the following beat (R35). -/
def State.steal (s : State) (core : Nat) : State :=
  let q := s.coreOf core
  if !s.mayTake core then s
  else
    let span := coreSpan core
    let sp := s.spanOf span
    match s.claim core with
    | none => s
    | some (v, other, h) =>
      if s.outbid core h then s.setSpan span { sp with lastVictim := sp.lastVictim.set (core % 128) v }
      else
        match s.heldTile h with
        | none => s
        | some (c, i, m, _, r) =>
          let w := s.coreOf v
          let left := w.held.erase h
          let s := s.setCore v { w with held := left, asking := w.asking || left.isEmpty, first := if w.first = some h then none else w.first }
          let s := s.setCore core { q with held := h :: q.held, asking := false, stolenAt := some (s.spanBeat span)
                                           first := if q.held.isEmpty then none else some h }
          let s := s.setRun c h.2.1 i (m.setTile h.2.2.2 { r with core := core })
          let s := s.setSpan span { (s.spanOf span).perf (if other then 0x0B else 0x0A) 1 with
            lastVictim := sp.lastVictim.set (core % 128) v, steals := sp.steals + 1 }
          if other then
            let x := s.ctxOf c
            s.setCtx c { x with stealsSpan := satAdd x.stealsSpan 1 }
          else s

/-! ## Meanings -/

/-- TILE_DEAL. -/
def execTileDeal (span : Fin 16) (s : State) : Host.Outcome State Fault Refusal := .next (s.dealBeat span.val)
/-- TILE_INPUT_READ. -/
def execTileInputRead (core : Fin 2048) (s : State) : Host.Outcome State Fault Refusal := .next (s.readInputs core.val)
/-- PIER_READ_RESPONSE. -/
def execPierReadResponse (span : Fin 16) (tag : Fin 64) (poison : Bool) (s : State) : Host.Outcome State Fault Refusal :=
  .next (s.readResponse span.val tag.val poison)
/-- PIER_READ_TIMEOUT. -/
def execPierReadTimeout (span : Fin 16) (tag : Fin 64) (beat : Nat) (s : State) : Host.Outcome State Fault Refusal :=
  .next ((s.advanceTo beat).readTimeout span.val tag.val)
/-- STEAL_GRANT. -/
def execStealGrant (core : Fin 2048) (s : State) : Host.Outcome State Fault Refusal := .next (s.steal core.val)

end Sys2Proof.Machine
end

