-- ==== Sys2Proof/Machine/Commit.lean ====
section
/-! DEFINITION. Starting, checking, parking and committing tiles, halos and carries, and the completion of macros (07 R205, R210 to R221,
10 R284 to R288, R292 to R294, 05 R147, 15 R409, R412 to R420, 18 R487 to R492). -/

namespace Sys2Proof.Machine

/-! ## Checks on a tile (R487 to R492) -/

/-- The rescale of a query tile's banks fails a check on a core: another core of the crew replays it, from banks and a state that are
unchanged; a second failure, or no other unfenced core, halts (R211, R320). -/
def State.failCorrection (s : State) (c : Fin 4) (i : Nat) (m : MacroRun) (p : Plan) (low core lane unit syndrome address : Nat) : State :=
  let a := m.attn.get low {}
  let first := if a.fails = 0 then core else a.failedCore
  let alone : Bool := (crewCores (coreCrew core)).all (fun k => k = core || s.isFenced k)
  let a' : AttnRun := { a with staged := none, fails := a.fails + 1, failedCore := core }
  let s := (s.setRun c true i { m with attn := m.attn.set low a', replayed := true }).swapDue core
  if a.fails ≥ 1 || alone then
    s.raise c { m.cause 0x0A01 with coord := m.coordOf p low, core := core, lane := lane
                                    detail := hwDetail unit (coreSpan core) first syndrome address }
  else
    let x := s.ctxOf c
    let span := coreSpan core
    let sp := s.spanOf span
    (s.setCtx c { x with replays := satAdd x.replays 1 }).setSpan span { sp.perf 0x0C 1 with replays := sp.replays + 1 }

/-- The correction that a core holds staged: the macro's place, the macro, its plan, and the lowest tile of the query tile. -/
def State.correctionOn (s : State) (core : Nat) : Option (Fin 4 × Nat × MacroRun × Plan × Nat) :=
  match s.owner (coreSpan core) with
  | none => none
  | some c => ((s.ctxOf c).execRun (fun m _ => m.attn.any (fun e => e.2.staged = some core))).bind (fun q =>
      (q.2.1.attn.find? (fun e => e.2.staged = some core)).map (fun e => (c, q.1, q.2.1, q.2.2, e.1)))

/-- A core is fenced: its executing tile goes to replay, its other tiles are dealt again (R213). A tile whose outputs have been sent
finishes its commit. -/
def State.fenceCore (s : State) (core : Nat) : State :=
  let s := s.markFence core
  let s := match s.correctionOn core with
    | some (c, i, m, p, low) => s.failCorrection c i m p low core 0xFF 0 0 0
    | none => s
  (s.coreOf core).held.foldl (fun s h =>
    match s.heldTile h with
    | none => s
    | some (c, i, m, p, r) =>
      if r.out.isSome then s
      else if r.status = .executing then s.failTile c h.2.1 i m p h.2.2.2 0xFF 0 0 0
      else s.handBack c h.2.1 i m h.2.2.2 false) s

/-- A check failure is attributed to a core: the lane's swap is scheduled while a spare is free; three failures within 1 s, or a lane
with no spare left, fence the core (R491, R492). `lane` 0xFF: the failure names no lane. -/
def State.attribute (s : State) (core lane : Nat) : State :=
  let q := s.coreOf core
  let failures := q.failures.filter (fun t => decide (t + 1000000000 > s.now)) ++ [s.now]
  let named : Bool := q.scheduled.contains lane || q.dueSwaps.contains lane
  let spent : Bool := lane ≠ 0xFF && !named && q.swapped.length + q.dueSwaps.length + q.scheduled.length ≥ 2
  let scheduled := if lane = 0xFF || named || spent then q.scheduled else q.scheduled ++ [lane]
  let s := s.setCore core { q with failures := failures, scheduled := scheduled }
  if (failures.length ≥ 3 || spent) && !s.isFenced core then s.fenceCore core else s

/-- How the checks of a tile end. The CHECK operand: 0 they pass; 1 residue or duplicated evaluation, naming a lane; 2 parity of an
operand bus, repeated and failed again; 3 residue in the SFU, 8 in the CU; 4 a double-bit error in a staged input; 5 one in the only copy
of data, 13 in a data-queue slot; 6 a single-bit error, corrected, 12 in a data-queue slot; 7 parity, repeated once and good; 9 parity of the bank
read, repeated and good, 10 failed again (R489); any other value as 0, as are those of a bank read or a data queue where the tile has none.
`failed`: what a failed check does, given the lane and UNIT, SYNDROME and ADDRESS. The spec gives neither a syndrome nor which of a tile's lines
it is: free values (log 106). `first`: the core of the first failed attempt. -/
inductive Checked where
  | pass (s : State)
  | stop (s : State)

def State.checkTile (s : State) (c : Fin 4) (m : MacroRun) (p : Plan) (t core check lane first : Nat) (bank queue : Bool)
    (failed : State → Nat → Nat → Nat → Nat → State) : Checked :=
  let span := coreSpan core
  let (syn, s) := if check = 0 then (0, s) else s.takeFree
  let (at_, s) := if check = 0 then (0, s) else s.takeFree
  let sp := s.spanOf span
  let line := at_.toNat % 2048
  let q : Cause := { m.cause 0x0A82 with coord := m.coordOf p t, core := core }
  let mine := if first = 0xFFFF then core else first
  let fails (s : State) (lane unit address : Nat) : Checked := .stop ((failed s lane unit syn.toNat address).attribute core lane)
  let residue (lane unit : Nat) : Checked :=
    let s := s.setSpan span { sp with residue := satAdd sp.residue 1 }
    fails (s.absorb c.val { q with lane := lane, detail := hwDetail unit span mine syn.toNat 0 }) lane unit 0
  let parity (n unit : Nat) : State :=
    (s.setSpan span { sp with parity := satAdd sp.parity n }).absorb c.val
      { q with code := 0x0A83, lane := lane, detail := hwDetail unit span (if n = 2 then mine else first) syn.toNat 0 }
  let lost (unit : Nat) : Checked :=
    let s := s.setSpan span { sp with uncorr := satAdd sp.uncorr 1 }
    .stop (s.raise c { q with code := 0x0A05, detail := hwDetail unit span mine syn.toNat line })
  match check with
  | 1 => residue lane 0
  | 2 => fails (parity 2 0) lane 0 0
  | 3 => residue 0xFF 1
  | 4 => fails (s.setSpan span { sp with uncorr := satAdd sp.uncorr 1 }) 0xFF 3 line
  | 5 => lost 3
  | 6 => .pass (s.noteCorrected span c.val 3 core syn.toNat line)
  | 7 => .pass (parity 1 0)
  | 8 => residue 0xFF 2
  | 9 => .pass (if bank then parity 1 8 else s)
  | 10 => if bank then fails (parity 2 8) lane 8 0 else .pass s
  | 12 => .pass (if queue then s.noteCorrected span c.val 5 core syn.toNat line else s)
  | 13 => if queue then lost 5 else .pass s
  | _ => .pass s

/-! ## Carries (R220, R221, R292 to R294) -/

/-- The entry that the twin sends the higher block across the die seam, one for each channel of a tile: free words (R294). -/
def Ev.twinCarry (e : Ev) (use : Nat) : List Word :=
  let low := (e.req 8).d.linear e.pl.start % 2 ^ 64
  packCarry ((List.range (e.p.cols e.pl).length).map (fun j =>
    [if Config.seamCarry use j 2 = 0#32 then none else some ((Config.seamCarry use j 0, Config.seamCarry use j 1), low)]))

/-- The carry into a scan tile, where it has come: an empty stack into the first tile along D1, but for the higher block of a seam;
else what the tile before has sent. -/
def State.carryIn (s : State) (c : Fin 4) (m : MacroRun) (p : Plan) (t : Nat) : Option (List Word) × State :=
  match m.carries.find t with
  | some w => (some w, s)
  | none =>
    if at6 (m.place p t).start 1 ≠ 0 then (none, s)
    else if m.mode 6 1 = 1 then
      if !s.seamOpen false then (none, s) else
      (some ((s.evAt c m p t (m.tileAt t)).twinCarry s.free), { s with free := s.free + 1 })
    else (some [], s)

/-- Is the trestle link between two crews open (R22, R502)? -/
def State.trestleOpen (s : State) (c : Fin 4) (a b : Nat) : Bool :=
  (a + 1 = b || b + 1 = a) && !s.start.closedLinks.contains (min a b) && s.start.linksUp &&
    bit (s.adminOf c).owned (crewSpan a) && bit (s.adminOf c).owned (crewSpan b)

/-- The crew that holds, or will hold, a tile of a chained macro. -/
def MacroRun.crewFor (m : MacroRun) (p : Plan) (t : Nat) : Nat := (m.mustCrew p t none).getD (coreCrew (m.tileAt t).core)

/-- Is there a tile after `t` along the outer axis? -/
def MacroRun.nextAlong (m : MacroRun) (p : Plan) (t : Nat) : Option Nat :=
  if t + 1 < p.tiles && (m.place p (t + 1)).start.set p.outer 0 == (m.place p t).start.set p.outer 0 then some (t + 1) else none

/-- A tile's carry goes to the next tile, by trestle or by the carry relay, which is counted (R220). The last tile along D1 of the lower
block of a seam sends its stack, the subtree of the whole scan, to the twin, once, while the link carries for joined contexts (R221, R294, R443). -/
def State.passCarry (s : State) (c : Fin 4) (i : Nat) (m : MacroRun) (p : Plan) (t : Nat) : State :=
  let r := m.tileAt t
  if !m.isVec 0x05 || r.carry.isNone then s
  else
    match m.nextAlong p t with
    | none =>
      if p.seam && m.mode 6 1 = 0 && !m.seamSent.contains t && s.seamOpen true then
        let s := s.setGlob { s.glob with seamOut := s.glob.seamOut ++ [(c.val, (s.evAt c m p t r).carryOut)] }
        s.setRun c true i { m with seamSent := m.seamSent ++ [t] }
      else s
    | some n =>
      if (m.carries.find n).isSome then s
      else
        let relay : Bool := coreCrew r.core ≠ m.crewFor p n && !s.trestleOpen c (coreCrew r.core) (m.crewFor p n)
        let x := s.ctxOf c
        let s := s.setCtx c { x with carryRelay := if relay then satAdd x.carryRelay 1 else x.carryRelay }
        s.setRun c true i { m with carries := m.carries.set n (s.evAt c m p t r).carryOut }

/-- A transfer over a trestle link or the carry relay fails its parity: it is repeated, and counts as often as it failed (R487). -/
def State.linkParity (s : State) (c : Fin 4) (m : MacroRun) (p : Plan) (t core n : Nat) : State :=
  let span := coreSpan core
  let sp := s.spanOf span
  if n = 0 then s
  else
    let (syn, s) := s.takeFree
    (s.setSpan span { sp with parity := satAdd sp.parity n }).absorb c.val
      { m.cause 0x0A83 with coord := m.coordOf p t, core := core, detail := hwDetail 9 span 0xFFFF syn.toNat 0 }

/-- CARRY_SEND: the core's tile whose carry is complete (R293: as soon as its own stack has arrived and its total is complete). `errors`: how
often the transfer has failed its parity; twice fails the tile that sends, or, where its outputs have been sent, leaves the carry to a later row
(DESIGN CHOICE, log 111). -/
def State.carrySend (s : State) (core : Nat) (errors : Fin 3) : State :=
  match (s.coreOf core).held.findSome? (fun h => match s.heldTile h with
      | some (c, i, m, p, r) =>
        if m.isVec 0x05 && r.status = .executing && s.runs c then some (c, i, m, p, h.2.2.2) else none
      | none => none) with
  | none => s
  | some (c, i, m, p, t) =>
    if (m.tileAt t).carry.isNone then s
    else
      let s := s.linkParity c m p t core errors.val
      if errors = 2 then (if (m.tileAt t).out.isSome then s else s.failTile c true i m p t 0xFF 9 0 0)
      else s.passCarry c i m p t

/-! ## Halos (R217 to R219) -/

/-- The halo of tile `n` arrives; `reload`: through the pier, and counted. -/
def State.haloArrives (s : State) (c : Fin 4) (execute : Bool) (i : Nat) (m : MacroRun) (n span : Nat) (reload : Bool) : State :=
  let s := s.setRun c execute i (m.setTile n { m.tileAt n with halo := true })
  if reload then
    let x := s.ctxOf c
    (s.setCtx c { x with haloReload := satAdd x.haloReload 1 }).perf span 0x14 1
  else s

/-- HALO_SEND: the core's tile with staged inputs sends its last h positions to the holder of the next tile (R219). `errors`: how often the
transfer has failed its parity; twice fails the tile that it feeds (R487; DESIGN CHOICE, log 111). -/
def State.haloSend (s : State) (core : Nat) (errors : Fin 3) : State :=
  match (s.coreOf core).held.findSome? (fun h => match s.heldTile h with
      | some (c, i, m, p, r) =>
        if p.halo ≠ 0 && (r.status = .waiting || r.status = .executing) && s.runs c then
          (m.nextAlong p h.2.2.2).bind (fun n =>
            let q := m.tileAt n
            if (q.status = .loading || q.status = .waiting) && !q.halo then some (c, h.2.1, i, m, p, r, n, q) else none)
        else none
      | none => none) with
  | none => s
  | some (c, e, i, m, p, r, n, q) =>
    let s := s.linkParity c m p n core errors.val
    if errors = 2 then s.failTile c e i m p n 0xFF 9 0 0
    else
    let near : Bool := coreCrew r.core = coreCrew q.core || s.trestleOpen c (coreCrew r.core) (coreCrew q.core)
    s.haloArrives c e i m n (coreSpan q.core) (!near)

/-- HALO_TIMEOUT: a halo that has not come 65,536 beats after its tile's inputs are staged is reloaded (R219). -/
def State.haloTimeout (s : State) (core : Nat) : State :=
  match (s.coreOf core).held.findSome? (fun h => match s.heldTile h with
      | some (c, i, m, p, r) =>
        if p.halo ≠ 0 && r.status = .waiting && !r.halo && s.spanBeat (coreSpan core) ≥ r.staged + 65536 && s.runs c then
          some (c, h.2.1, i, m, h.2.2.2)
        else none
      | none => none) with
  | none => s
  | some (c, e, i, m, t) => s.haloArrives c e i m t (coreSpan core) true

/-! ## Banks of a rig tile (R331, R332, R344) -/

/-- Are the products of a rig tile the crew's: handed over by a push or by a granted claim (R331, R332)? In attention, has the chain of
its query tile ended (R317)? -/
def MacroRun.productsReady (m : MacroRun) (p : Plan) (t : Nat) : Bool :=
  if m.isRig [6, 7] then
    let a := m.attn.get (m.lowGroup p t) {}
    !a.product && a.next ≥ m.keyTiles p t
  else (m.tileAt t).copied || (m.productKeys p t).all (fun key => (m.finished.find key).isSome)

/-- Has a tile copied its accumulator elements into staging, or ended (R344, R489)? -/
def TileRun.hasRead (r : TileRun) : Bool := r.copied || r.status = .committed || r.status = .dropped

/-- Give back the banks of a macro on a crew for which `done` holds of their product. -/
def State.freeBanks (s : State) (c : Fin 4) (m : MacroRun) (crew : Nat) (done : Nat → Bool) : State :=
  let k := s.crewOf crew
  let banks := k.banks.filter (fun e => !(e.2.ctx = c.val && e.2.index = m.id && done e.2.product))
  let owes : Bool := banks.any (fun e => e.2.accumulating && !e.2.finished)
  s.setCrew crew { k with banks := banks, ftqSince := if owes then k.ftqSince else none }

/-- A bank of a rig 5 macro turns to another product, or is free where none is left. -/
def Crew.turnBank (k : Crew) (n : Nat) (b : Bank) (next : Option Nat) : Crew :=
  match next with
  | none => { k with banks := k.banks.erase n }
  | some key => { k with banks := k.banks.set n { ctx := b.ctx, index := b.index, product := key, accumulating := true }
                         cmds := k.cmds ++ [⟨b.index, key, 0⟩] }

/-- A product of a macro that has not finished and has no bank. -/
def MacroRun.unopened (m : MacroRun) (k : Crew) (c : Fin 4) (key : Nat) : Bool :=
  (m.finished.find key).isNone && (k.bankOf c m.id key).isNone

/-- The first phase of rig 5 on a crew (R350): where both products of a block of F are the crew's, it runs the chain on them and releases the two
banks, which turn to the next block. Once every block is in the bay, the down products are commanded. -/
def State.turnGate (s : State) (c : Fin 4) (m : MacroRun) (p : Plan) (crew key : Nat) : State :=
  let t := keyTile key
  let k := s.crewOf crew
  let pair := [prodKey t (keyStep key) 0, prodKey t (keyStep key) 1]
  if !pair.all (fun q => (m.finished.find q).isSome) then s
  else
    let gates := m.gateKeys p t
    let free := gates.filter (m.unopened k c)
    let k := (pair.zip [free[0]?, free[1]?]).foldl (fun k q => match k.bankOf c m.id q.1 with
      | some (n, b) => k.turnBank n b q.2
      | none => k) k
    let k := if gates.all (fun q => (m.finished.find q).isSome) then
        (m.downKeys p t).foldl (fun k q => match k.bankOf c m.id q with
          | some (n, b) => if b.accumulating || b.finished then k else k.turnBank n b (some q)
          | none => k) k
      else k
    (s.setCrew crew k).sendCmds c crew

/-- The banks whose tiles have all read them (R344): a down bank of rig 5 turns to the product of another N-tile of its group (R350); those of
an attention group go once all its tiles have left (R342). -/
def State.releaseBanks (s : State) (c : Fin 4) (m : MacroRun) (p : Plan) (t : Nat) : State :=
  if !p.meBound then s
  else
    let crew := coreCrew (m.tileAt t).core
    let group := (List.range p.tiles).filter (fun u => m.groupOf p u == m.groupOf p t)
    let mine (key : Nat) : Bool := m.groupOf p (keyTile key) == m.groupOf p t
    if m.isRig [6, 7] then
      if group.all (fun u => match (m.tileAt u).status with | .committed | .dropped => true | _ => false) then s.freeBanks c m crew mine
      else s
    else if m.isRig [5] then
      if group.all (fun u => (m.tileAt u).hasRead) then s.freeBanks c m crew mine
      else
        let key := prodKey (m.lowPair p t) 0 2
        let k := s.crewOf crew
        match k.bankOf c m.id key with
        | some (n, b) =>
          if (group.filter (fun u => m.lowPair p u = m.lowPair p t)).all (fun u => (m.tileAt u).hasRead) then
            (s.setCrew crew (k.turnBank n b ((m.downKeys p t).find? (m.unopened k c)))).sendCmds c crew
          else s
        | none => s
    else
      s.freeBanks c m crew (fun key =>
        let users := group.filter (fun u => (m.productKeys p u).contains key)
        !users.isEmpty && users.all (fun u => (m.tileAt u).hasRead))

/-! ## TILE_EXECUTE (R205, R211, R284) -/

/-- A tile at its hold point parks (R284 to R286). -/
def State.parkTile (s : State) (c : Fin 4) (execute : Bool) (i : Nat) (m : MacroRun) (p : Plan) (t core : Nat) : State :=
  let d := s.draft c m
  let crew := coreCrew core
  let k := s.crewOf crew
  let lines := s.parkSize c
  let vol := m.parkVolume p d t
  let exceeds : Bool := vol > lines
  if exceeds && k.parked + MacroRun.parkLines p d > lines then
    s.raise c { m.cause 0x0303 with coord := m.coordOf p t, core := core, detail := detail3 lines vol 0xFF }
  else
    let s := if exceeds then s.setCrew crew { k with parked := k.parked + MacroRun.parkLines p d } else s
    let r := m.tileAt t
    let tap := (s.evAt c m p t r).earlyTap
    let taps : Bool := !r.tapSent && m.sends tap
    let m := m.setTile t { r with status := .parked, hasParked := true, started := s.spanBeat (coreSpan core), tapSent := r.tapSent || taps }
    let s := (s.setRun c execute i m).leaveCore core (c.val, execute, m.id, t)
    if taps then s.sendStores c execute m p t r tap.stores else s

/-- The first deal of a tile of a scatter that adds ends: its index rows are sorted, and it is dealt again for its sums (R371). -/
def State.sortTile (s : State) (c : Fin 4) (execute : Bool) (i : Nat) (m : MacroRun) (t core : Nat) : State :=
  let r := m.tileAt t
  let m := { m.setTile t { r with status := .undealt, seen := none, begun := false, attempt := r.attempt + 1 } with sorted := t :: m.sorted }
  (s.setRun c execute i m).leaveCore core (c.val, execute, m.id, t)

/-- The bank that holds S_j of a chain: its two score banks alternate (R318). -/
def Crew.scoreBank (k : Crew) (c : Fin 4) (id low j : Nat) : Option (Nat × Bank) := k.bankOf c id (prodKey low (j % 2) 3)

/-- A chain of a crew that waits for its next correction: P_jV_j of the key tile before has finished and released the output banks, and
the crew holds the finished scores (R318, R319). -/
def State.chainDue (s : State) (c : Fin 4) (crew : Nat) : Option (Nat × MacroRun × Plan × Nat) :=
  let k := s.crewOf crew
  k.banks.findSome? (fun e =>
    if e.2.ctx ≠ c.val || keyCode e.2.product ≠ 3 then none
    else match (s.ctxOf c).exec.byId e.2.index with
      | none => none
      | some (i, m) =>
        let low := keyTile e.2.product
        let a := m.attn.get low {}
        match m.plan, k.scoreBank c m.id low a.next with
        | some p, some (_, b) =>
          if m.isRig [6, 7] && !a.product && a.staged.isNone && a.next < m.keyTiles p low && b.crewOwns && b.finished then
            some (i, m, p, low)
          else none
        | _, _ => none)

/-- A core of the crew takes the correction that its chain waits for, as a tile with checks of its own (R320). -/
def State.stageCorrection (s : State) (core check lane : Nat) : Option State :=
  match s.owner (coreSpan core) with
  | none => none
  | some c =>
    match s.chainDue c (coreCrew core) with
    | none => none
    | some (i, m, p, low) =>
      let a := m.attn.get low {}
      if !s.inBeat c || s.isFenced core || (a.fails > 0 && a.failedCore = core) then none
      else match s.checkTile c m p low core check lane a.failedCore true false (fun s lane unit syn at_ =>
        s.failCorrection c i m p low core lane unit syn at_) with
        | .stop s => some s
        | .pass s => some (s.setRun c true i { m with attn := m.attn.set low { a with staged := some core } })

/-- May a tile start: its context runs, its inputs, its halo and its carry are staged, and its products are the crew's (R205)? -/
def State.mayStart (s : State) (c : Fin 4) (m : MacroRun) (p : Plan) (t : Nat) (r : TileRun) : Bool :=
  s.inBeat c && r.status = .waiting && r.halo && (!p.meBound || m.productsReady p t) && (!m.isVec 0x05 || (s.carryIn c m p t).1.isSome)

/-- TILE_EXECUTE: a correction of a live accumulator that its crew waits for comes first, then the oldest tile of the core that may start; a
tile dealt in the beat of a steal waits behind the stolen one (R209). -/
def State.executeTile (s : State) (core check lane : Nat) : State :=
  let q := s.coreOf core
  let busy : Bool := (s.correctionOn core).isSome || q.held.any (fun h => match s.heldTile h with
    | some (_, _, _, _, r) => r.status = .executing && r.out.isNone
    | none => false)
  match (if busy then none else s.stageCorrection core check lane) with
  | some s => s
  | none =>
    let next := (q.held.filter (fun h => q.first.isNone || q.first = some h)).findSome? (fun h => match s.heldTile h with
      | some (c, i, m, p, r) => if s.mayStart c m p h.2.2.2 r then some (c, h.2.1, i, m, p, h.2.2.2, r) else none
      | none => none)
    match next with
    | none => s
    | some (c, e, i, m, p, t, r) =>
      if busy then s
      else
        let s := s.setCore core { q with first := none }
        let (carry, s) := if m.isVec 0x05 then s.carryIn c m p t else (none, s)
        if m.isVec 0x05 && carry.isNone then s
        else
          let m := match carry with
            | some w => { m.setTile t { r with carry := some w } with carries := m.carries.set t w }
            | none => m
          -- the bank read passes its parity, and the tile's elements lie in the staged copy, whatever the other checks find (R489)
          let copies : Bool := p.meBound && !(m.tileAt t).copied && check ≠ 10
          let m := if copies then m.setTile t { m.tileAt t with copied := true } else m
          let s := s.setRun c e i m
          let s := if copies then s.releaseBanks c m p t else s
          match s.checkTile c m p t core check lane r.firstCore (p.meBound && !r.copied) (!r.rings.isEmpty) (fun s lane unit syn at_ =>
            s.failTile c e i m p t lane unit syn at_) with
          | .stop s => s
          | .pass s =>
            let open_ : Bool := p.hold && !(m.tileRows p t).all (fun row => (m.closed.find row).isSome)
            if open_ then s.parkTile c e i m p t core
            else if m.sorting t then s.sortTile c e i m t core
            else
              let s := if m.slot = 5 && m.target = 1 then s.settleLines c 1 else s
              let r := s.issueSt c m p t { m.tileAt t with status := .executing, started := s.spanBeat (coreSpan core) }
              let s := (s.checkSt c m p t).works (coreSpan core) m.index t r.attempt
              let m := m.setTile t r
              s.setRun c e i m

/-! ## Commit (R210, R212, R214, R413, R415 to R420) -/

/-- Does a tile raise an event that the macro's trap mask enables (R413)? A product tile's sticky bit counts for the tiles it feeds. -/
def MacroRun.traps (m : MacroRun) (p : Plan) (t : Nat) (o : TileOut) : Bool :=
  o.events.any (fun e => bit m.trap e.kind) ||
    (bit m.trap 3 && p.meBound && (m.productKeys p t).any (fun k => m.finished.get k false))

/-- The counts of a tile, in the slots that the context holds (R419). -/
def State.countHist (s : State) (c : Fin 4) (l : List HistAdd) : State :=
  { s with hists := l.foldl (fun t a =>
      let h := Table.get t a.slot ({} : Hist)
      if h.owner.toNat = c.val then t.set a.slot (h.countAt s.time.beat a) else t) s.hists }

/-- One staged store becomes visible; descriptors wait for the whole LD (R95). `crew`: the committing crew. -/
def State.applyStore (s : State) (crew : Nat) (st : Store) : State :=
  match st with
  | .mem at_ w v => s.setMem (Memory.writeBits at_ w v s.mem)
  | .oc k line word v =>
    let k := if k = 0x100 then crew else k
    let q := s.crewOf k
    s.setCrew k { q with oc := q.oc.set (64 * line + word) v }
  | .desc _ _ => s

/-- The lines of an LD's bay that a tile wrote take the span beat of its commit as their stamp (R180). DESIGN CHOICE (log 72): a line that two
tiles write takes the first commit's stamp, then the second's, and is unmarked from the first on: the rule speaks of one tile for each line. -/
def State.stampLines (s : State) (l : List Store) : State :=
  l.foldl (fun s st => match st with
    | .oc k line _ _ =>
      let q := s.crewOf k
      let beat := s.spanBeat (crewSpan k)
      s.setCrew k { q with marked := q.marked.erase line, stamps := q.stamps.set line (BitVec.ofNat 32 beat), loads := q.loads.set line beat }
    | _ => s) s

/-- A ring tile that a producer's tile fills, in the place it took at its deal, which bears the tile's own coordinates (R162). -/
def fillRing (l : List RingTile) (coord : List Nat) (crew : Nat) (rs : List RingTile) : List RingTile :=
  match l.findIdx? (fun e => some e.handle = (rs.head?).map RingTile.handle && e.coord == coord && e.crew = crew && e.data.isEmpty) with
  | some k => l.take k ++ rs ++ l.drop (k + 1)
  | none => l

/-- The ring tiles that a tile has staged enter their queues; those beyond the first of a queue take a slot each (log 120). -/
def Ctx.enterRings (x : Ctx) (coord : List Nat) (ring : Nat) (rings : List (Nat × RingTile)) : Ctx :=
  ((rings.map Prod.fst).eraseDups).foldl (fun x q =>
    let rs := (rings.filter (fun e => e.1 = q)).map (fun e => { e.2 with crew := ring })
    { x with queues := x.queues.set q (fillRing (x.queues.get q []) coord ring rs)
             slots := if rs.length > 1 then x.slots.set (256 * q + ring) (x.slots.get (256 * q + ring) 0 + (rs.length - 1)) else x.slots }) x

/-- A producer's tile that stages nothing for a queue, as a tile of a row whose result another tile stages, leaves no entry there: the
place that it took at its deal goes, and its credit returns (log 78). -/
def Ctx.dropSlots (x : Ctx) (m : MacroRun) (coord : List Nat) (ring : Nat) (rings : List (Nat × RingTile)) : Ctx :=
  (m.queuesOut.filter (fun q => !rings.any (fun e => e.1 = q.1))).foldl (fun x q =>
    match (x.queues.get q.1 []).find? (fun e => e.coord == coord && e.crew = ring && e.data.isEmpty) with
    | some e => { x with queues := x.queues.set q.1 ((x.queues.get q.1 []).erase e)
                         slots := x.slots.set (256 * q.1 + ring) (x.slots.get (256 * q.1 + ring) 0 - 1) }
    | none => x) x

/-- The credits of consumed ring tiles return (R212). -/
def MacroRun.returnSlots (m : MacroRun) (r : TileRun) (slots : Table Nat) : Table Nat :=
  r.rings.foldl (fun t e => match m.queuesIn.find? (fun q => q.2 = e.1) with
    | some q => t.set (256 * q.1 + e.2.crew) (t.get (256 * q.1 + e.2.crew) 0 - 1)
    | none => t) slots

/-- The descriptors that an LD replaces (R95, R136). -/
def Ctx.loadDescs (x : Ctx) (beat : Nat) (l : List Store) : Ctx :=
  let y := x.changeDescs beat (l.foldl (fun t st => match st with | .desc h v => Table.set h v t | _ => t) x.descs)
  { y with descLoaded := l.foldl (fun t st => match st with | .desc h _ => h :: t | _ => t) y.descLoaded }

/-- The last tile of an LD into the descriptor store replaces its descriptors, whole (R95). -/
def State.endLoad (s : State) (c : Fin 4) (execute : Bool) (i : Nat) (m : MacroRun) (p : Plan) : State :=
  if !m.counts.stores.isEmpty && (List.range p.tiles).all (fun t => (m.tileAt t).status = .committed) then
    (s.setCtx c ((s.ctxOf c).loadDescs s.time.beat m.counts.stores)).setRun c execute i { m with counts := { m.counts with stores := [] } }
  else s

/-- Does a VRED tile hold a part of a row whose lowest-index tile another span deals? Its partial then takes the carry relay (R279). -/
def MacroRun.redRelays (m : MacroRun) (p : Plan) (t : Nat) : Bool :=
  m.isVec 0x03 && (m.tileRows p t).any (fun row => p.spanOf (m.place p ((m.tilesOf p row).headD t)) ≠ p.spanOf (m.place p t))

/-- A finished tile leaves: its core, its park lines, the credits of what it consumed, the span's figures. -/
def State.finishTile (s : State) (c : Fin 4) (execute : Bool) (i : Nat) (m : MacroRun) (p : Plan) (t core : Nat) (o : TileOut)
    (dropped : Bool) : State :=
  let r := m.tileAt t
  let span := coreSpan core
  let beat := s.spanBeat span
  let m' := { m.setTile t { r with status := if dropped then .dropped else .committed, out := none } with
    counts := m.counts.addCounts m.tapStage (if dropped then { o with stores := [] } else o), trapped := m.trapped || dropped }
  let x := s.ctxOf c
  let s := s.setCtx c { x with slots := m.returnSlots r x.slots, crossSince := some s.time.beat
                               carryRelay := satAdd x.carryRelay (b2n (!dropped && m.redRelays p t)) }
  let s := s.setRun c execute i m'
  let k := s.crewOf (coreCrew core)
  let s := if p.hold then s.setCrew (coreCrew core) { k with parked := k.parked - MacroRun.parkLines p (s.draft c m) } else s
  let sp := s.spanOf span
  let sp := { sp with writes := sp.writes.filter (fun w => !(w.ctx = some c.val && w.execute == execute && w.index = m.id && w.tile = t)) }
  let sp := sp.useCredits beat
  let sp := if dropped then sp
    else { sp.perf 0x09 1 with committed := sp.committed + 1, durations := (sp.durations ++ [beat - r.started]).drop (sp.durations.length - 15) }
  let s := s.setSpan span sp
  ((s.leaveCore core (c.val, execute, m.id, t)).releaseBanks c m' p t).endLoad c execute i m' p

/-- A tile commits: its stores become visible, its ring tiles enter the slots that it holds since its first deal, in whichever crew it
ran (R162, R175), its histogram counts land. -/
def State.applyTile (s : State) (c : Fin 4) (m : MacroRun) (p : Plan) (t core : Nat) (o : TileOut) : State :=
  let crew := coreCrew core
  let ring := (m.tileAt t).slotCrew.getD crew
  let s := if m.slot = 4 && m.target = 1 then s.settleLines c 0 else s
  let s := o.stores.foldl (fun s st => s.applyStore crew st) s
  let s := if m.slot = 4 then s.stampLines o.stores else s
  let s := s.countHist c o.hist
  let x := s.ctxOf c
  let x := (x.enterRings (m.place p t).start ring o.rings).dropSlots m (m.place p t).start ring o.rings
  let s := s.setCtx c { x with routeDropped := satAdd x.routeDropped o.drops, rescales := satAdd x.rescales o.rescales }
  let span := coreSpan core
  s.perf span 0x07 (if o.stores.any (fun st => match st with | .mem .. => true | _ => false) then m.pieces p t ((s.draft c m).outs) else 0)

/-- Is a write that of a tile? -/
def PierWrite.isOf (w : PierWrite) (c : Fin 4) (execute : Bool) (id t : Nat) : Bool :=
  w.ctx = some c.val && w.execute == execute && w.index = id && w.tile = t

/-- Has a tile sent any output for commit (R475): a write of it has left for the pier, or its outputs go to rings, bays or the descriptor
store alone? One that raised a trapped event sends nothing (R413). -/
def State.hasSent (s : State) (c : Fin 4) (execute : Bool) (m : MacroRun) (t : Nat) : Bool :=
  let r := m.tileAt t
  match r.out with
  | none => false
  | some o =>
    let left := (s.spanOf (coreSpan r.core)).writes.filter (fun w => w.isOf c execute m.id t)
    !(m.plan.map (fun p => m.traps p t o)).getD false &&
      (!m.sends o || left.any (·.sent) || decide (left.length < (storeBlocks o.stores).length))

/-- The receiver accepts the tap that a tile parked from a core has sent (R244). -/
def State.acceptTap (s : State) (core : Nat) : State :=
  let span := coreSpan core
  let parked (w : PierWrite) : Bool := w.sent && w.tile < recordTile && (match w.ctx with
    | some k => (match s.heldTile (k, w.execute, w.index, w.tile) with
      | some (_, _, _, _, r) => r.tapSent && r.out.isNone && r.core = core
      | none => false)
    | none => false)
  match (s.spanOf span).writes.find? parked with
  | some w =>
    let mine (v : PierWrite) : Bool := v.ctx = w.ctx && v.execute == w.execute && v.index = w.index && v.tile = w.tile
    if (s.spanOf span).held mine then s else s.acceptWrites span mine
  | none => s

/-- TILE_COMMIT: the oldest tile of the core whose outputs are staged; where none is, the receiver accepts the tap of a tile that has parked
from it. The addresses of writes that go out only now are checked against the windows in force (R106, R442); a tile that raised a trapped
event is dropped (R413). The receiver accepts what has been sent, unless an older access of the pier to the same line comes first (R46);
where writes of the tile waited for credits, they go out now and the tile commits later (R45, R210). A halting context finishes the tiles
that have sent outputs (R475). -/
def State.commitTile (s : State) (core : Nat) : State :=
  match (s.coreOf core).held.findSome? (fun h => match s.heldTile h with
      | some (c, i, m, p, r) => r.out.bind (fun o =>
          if (s.adminOf c).state = .live then some (c, h.2.1, i, m, p, h.2.2.2, o) else none)
      | none => none) with
  | none => s.acceptTap core
  | some (c, e, _, m, p, t, o) =>
    let s := match (s.heldTile (c.val, e, m.id, t)) with
      | some (_, i, m, _, _) => s.passCarry c i m p t
      | none => s
    match s.heldTile (c.val, e, m.id, t) with
    | none => s
    | some (_, i, m, _, r) =>
      if m.traps p t o then s.finishTile c e i m p t core o true
      else
        let late := ((s.spanOf (coreSpan core)).writes.filter (fun w => w.isOf c e m.id t && !w.sent)).map PierWrite.block
        match s.storeDomainFail c (s.draft c m) (o.stores.filter (fun st => (storeBlocks [st]).any late.contains)) with
        | some f =>
          ((s.setRun c e i (m.setTile t { r with out := none })).dropWrites (fun w => w.isOf c e m.id t)).raise c
            { m.cause f.code with coord := m.coordOf p t, core := core, detail := f.detail }
        | none =>
          let span := coreSpan core
          let mine (w : PierWrite) : Bool := w.isOf c e m.id t
          if (s.spanOf span).held mine then s
          else
            let waits : Bool := (s.spanOf span).writes.any (fun w => mine w && !w.sent)
            let s := s.acceptWrites span mine
            if waits then s else (s.applyTile c m p t core o).finishTile c e i m p t core o false

/-! ## PIER_WRITE_TIMEOUT (R48) -/

/-- The stores of a tile whose write of a block timed out twice: each aligned 64 B piece of that block holds its old or its new bytes, by
a free value; everything else is written. -/
def piecesOf (use block : Nat) (l : List Store) : List Store :=
  l.filter (fun st => match st with
    | .mem at_ _ _ => at_ / 4096 ≠ block || Config.pieceWritten use (at_ / 512)
    | _ => true)

/-- A completion record or a part of the trace has timed out twice: each aligned 64 B piece of it is written or not, and its context halts
(R48). -/
def State.ownTimeout (s : State) (span : Nat) (c : Fin 4) (w : PierWrite) : State :=
  let mem := ((List.range w.bytes.length).zip w.bytes).foldl (fun m q =>
    if Config.pieceWritten s.free ((w.at_ + q.1) / 64) then Memory.write (w.at_ + q.1) q.2 m else m) s.mem
  let sp := s.spanOf span
  let s := (({ s with free := s.free + 1 } : State).setMem mem).setSpan span
    (({ sp with writes := sp.writes.erase w }).useCredits (s.spanBeat span))
  let q : Cause := { code := 0x0A02, detail := hwDetail 7 span 0xFFFF 0 w.at_ }
  match ((s.ctxOf c).stream w.execute).byId w.index with
  | some (_, m) => if w.tile = recordTile then s.raise c { q with slot := m.slot, tag := m.tag, addr := m.addr } else s.raiseBare c q
  | none => s.raiseBare c q

/-- PIER_WRITE_TIMEOUT: a write that has not been accepted, or has not found a credit, for 65,536 beats of its span is tried again; a
second timeout halts its context with 0x0A02, and its tile counts as committed; a telemetry record is dropped (R48, R49). -/
def State.writeTimeout (s : State) (span index : Nat) : State :=
  let sp := s.spanOf span
  match sp.writes[index]? with
  | none => s
  | some w =>
    let beat := s.spanBeat span
    if beat < w.beat + 65536 then s
    else if !w.retried then
      s.setSpan span { sp with writes := sp.writes.set index { w with beat := beat, retried := true } }
    else
      match w.ctx with
      | none =>
        let s := s.setSpan span (({ sp with writes := sp.writes.filter (fun v => v.ctx.isSome || v.index ≠ w.index) }).useCredits beat)
        (s.setGlob { s.glob with telem := s.glob.telem.filter (fun t => t.id ≠ w.index) }).absorb 7 { code := 0x0A8B, detail := hwDetail 7 span 0xFFFF 0 0 }
      | some k =>
        let c := ctxNo k
        if w.tile ≥ recordTile then s.ownTimeout span c w else
        match s.heldTile (k, w.execute, w.index, w.tile) with
        | none => s.setSpan span (({ sp with writes := sp.writes.eraseIdx index }).useCredits beat)
        | some (_, i, m, p, r) =>
          match r.out.or (if r.tapSent then some (s.evAt c m p w.tile r).earlyTap else none) with
          | none => s.setSpan span (({ sp with writes := sp.writes.eraseIdx index }).useCredits beat)
          | some o =>
            let o := { o with stores := piecesOf s.free w.block o.stores }
            let s := { s with free := s.free + 1 }
            let s := (s.applyTile c m p w.tile r.core o).finishTile c w.execute i m p w.tile r.core o false
            let sp := s.spanOf span
            let s := s.setSpan span (sp.useCredits beat)
            s.raise c { m.cause 0x0A02 with coord := m.coordOf p w.tile, core := r.core, detail := hwDetail 7 span 0xFFFF 0 (512 * w.block) }

/-! ## MACRO_COMPLETE (R147, R406, R413, R414) -/

/-- Has a macro finished? A VSHORT, once its lines have landed on every crew (R186). -/
def State.macroDone (s : State) (c : Fin 4) (m : MacroRun) : Bool :=
  if m.isShort then !s.crews.any (fun e => (e.2.waiting ++ e.2.started).any (fun r => r.ctx = c.val && r.index = m.index))
  else match m.plan with
    | none => false
    | some p => (List.range p.tiles).all (fun t => match (m.tileAt t).status with | .committed | .dropped => true | _ => false)

/-- DETAIL of NUMERIC_TRAP (R481): the lowest event code that the mask enables. -/
def MacroRun.trapDetail (m : MacroRun) : Nat :=
  match ([0, 1, 2, 3].find? (fun k => bit m.trap k && (m.counts.first k).1 ≠ 0)) with
  | some k => pack [(0, 1, k), (1, 1, (m.counts.first k).2.2), (8, 8, (m.counts.first k).2.1)]
  | none => 0

/-- A macro leaves its stream: its trace entry, its round, what its completion lets go, its trap (R147, R413, R426). -/
def State.retire (s : State) (c : Fin 4) (execute : Bool) (m : MacroRun) (trapped : Bool) : State :=
  let x := s.ctxOf c
  let t := x.stream execute
  let s := s.setCtx c { x.setStream execute { t.unblockDeal m.id with inflight := t.inflight.tail } with crossSince := some s.time.beat }
  let s := if m.ended.isSome then s.trace c m false else s
  let s := match m.via with
    | some (v + 1) => s.closeRound c v m.round
    | _ => s
  let s := s.serveIdle c
  if trapped then s.raise c { m.cause 0x0601 with detail := m.trapDetail } else s

/-- MACRO_COMPLETE: the oldest macro of the stream, once its tiles have committed. Its completion record, where the ring is enabled, goes through
the pier, one record of the context at a time, and the macro completes once the shared cache has accepted it (R48, R147; log 112). -/
def State.completeMacro (s : State) (c : Fin 4) (execute : Bool) : State :=
  let s := s.acceptTrace c
  let x := s.ctxOf c
  match (x.stream execute).inflight with
  | [] => s
  | m :: _ =>
    if !s.inBeat c || !s.macroDone c m then s
    else
      let trapped : Bool := m.trapped || (m.isShort && m.counts.events.any (fun e => bit m.trap e.kind))
      match s.ownWrites c recordTile with
      | [] =>
        let m := { m with start := if m.start = 0 then BitVec.ofNat 64 s.now else m.start, ended := some s.now }
        let s := s.setRun c execute 0 m
        if x.doneEn then s.sendRecord c execute m m.id trapped else s.retire c execute m trapped
      | q :: _ =>
        if q.2.execute != execute || q.2.index ≠ m.id then s
        else match s.acceptOwn q.1 q.2 with
          | none => s
          | some s => (s.setCtx c (s.ctxOf c).recorded).retire c execute m trapped

/-! ## Meanings -/

/-- TILE_EXECUTE. -/
def execTileExecute (core : Fin 2048) (check : BitVec 4) (lane : BitVec 6) (s : State) : Host.Outcome State Fault Refusal :=
  .next (s.executeTile core.val check.toNat lane.toNat)
/-- TILE_COMMIT. -/
def execTileCommit (core : Fin 2048) (s : State) : Host.Outcome State Fault Refusal := .next (s.commitTile core.val)
/-- PIER_WRITE_TIMEOUT. -/
def execPierWriteTimeout (span : Fin 16) (index beat : Nat) (s : State) : Host.Outcome State Fault Refusal :=
  .next ((s.advanceTo beat).writeTimeout span.val index)
/-- HALO_SEND. -/
def execHaloSend (sends : LinkSend) (s : State) : Host.Outcome State Fault Refusal := .next (s.haloSend sends.core.val sends.errors)
/-- HALO_TIMEOUT. -/
def execHaloTimeout (core : Fin 2048) (beat : Nat) (s : State) : Host.Outcome State Fault Refusal :=
  .next ((s.advanceTo beat).haloTimeout core.val)
/-- CARRY_SEND. -/
def execCarrySend (sends : LinkSend) (s : State) : Host.Outcome State Fault Refusal := .next (s.carrySend sends.core.val sends.errors)
/-- MACRO_COMPLETE. -/
def execMacroComplete (c : Fin 4) (execute : Bool) (s : State) : Host.Outcome State Fault Refusal :=
  .next (s.completeMacro c execute)

end Sys2Proof.Machine
end

