-- ==== Sys2Proof/Machine/Ports.lean ====
section
/-! DEFINITION. The matrix-engine port of a crew: finished-tile entries, finish signals, claims and timeouts (02 R50 to R52, 12 R318, R331 to
R333, 15 R410). -/

namespace Sys2Proof.Machine

/-- DETAIL of a class 0x07 record (R481). -/
def couplingDetail (bank expected received rig crew : Nat) : Nat :=
  pack [(0, 1, bank), (1, 1, expected), (2, 1, received), (3, 1, rig), (4, 2, crew)]

/-- The execute-stream macro that holds a bank. -/
def State.bankRun (s : State) (c : Fin 4) (b : Bank) : Option (Nat × MacroRun × Plan) :=
  match (s.ctxOf c).exec.byId b.index with
  | some (i, m) => m.plan.map (fun p => (i, m, p))
  | none => none

/-- The element index of a product tile's invalid sticky bit: the lowest-index element of OUT that it feeds (R410). A score product, and a
product of the first phase of rig 5, feed whole rows of OUT; a P_jV_j product the 64 columns of its output bank. -/
def State.minvIndex (s : State) (c : Fin 4) (m : MacroRun) (p : Plan) (key : Nat) : Nat :=
  let low := keyTile key
  let e := s.evAt c m p low {}
  let out := e.req 32
  if m.isRig [10] then
    let fed := (List.range p.tiles).filter (fun t => (m.productKeys p t).contains key)
    match fed.flatMap (fun t => ((s.evAt c m p t {}).kvPositions out).map (fun i => out.d.linear i % 2 ^ 64)) with
    | [] => 0
    | n :: l => l.foldl min n
  else
    let start := (m.place p low).start
    let start := if m.isRig [6, 7] && keyCode key = 4 then start.set 0 (64 * keyStep key) else start
    out.d.linear (out.d.bcast start) % 2 ^ 64

/-- The crew has a finished product: its tiles may take it (R331, R332), and a sticky bit is an event of the macro (R333, R410); in rig 5 its
first phase goes on (R350). -/
def State.productDone (s : State) (c : Fin 4) (crew : Nat) (b : Bank) : State :=
  match s.bankRun c b with
  | none => s
  | some (i, m, p) =>
    let counts := if b.invalid then
        { m.counts with events := m.counts.events ++ [⟨3, s.minvIndex c m p b.product, keyCode b.product⟩] }
      else m.counts
    let m := { m with finished := m.finished.set b.product (b.invalid || m.finished.get b.product false), counts := counts
                      trapped := m.trapped || (b.invalid && bit m.trap 3) }
    let s := s.setRun c true i m
    if m.isRig [5] && keyCode b.product < 2 then s.turnGate c m p crew b.product else s

/-- The ME has finished a product: its command, and those sent before it, have been accepted (R38); its operand rows have been taken,
so that others go out; the next entry is expected from now on while the ME owes one (R52). -/
def Crew.answered (k : Crew) (b : Bank) (beat : Nat) : Crew :=
  let owes : Bool := k.banks.any (fun e => e.2.accumulating && !e.2.finished)
  let mine (cmd : MeCmd) : Bool := cmd.index = b.index && cmd.key = b.product
  let sent := match k.sent.findIdx? (fun q => mine q.1) with
    | some n => k.sent.drop (n + 1)
    | none => k.sent
  let feed := match k.feed.findIdx? (fun f => mine f.cmd) with
    | some n => k.feed.eraseIdx n
    | none => k.feed
  { k with sent := sent, feed := feed, ftqSince := if owes && k.ftqSince.isSome then some beat else none }.pushFeed beat

/-- BANK_PROTOCOL: the ME acted on a bank that it did not own (R473). -/
def State.bankProtocol (s : State) (c : Fin 4) (crew bank rig : Nat) : State :=
  s.raiseBare c { code := 0x0702, detail := couplingDetail bank 0 0 rig crew }

def State.rigOf (s : State) (c : Fin 4) (b : Option Bank) : Nat :=
  match b.bind (s.bankRun c) with | some (_, m, _) => m.rig | none => 0

/-- A product has finished in a bank: the port's credits move on, and the commands that waited go out. -/
def State.afterProduct (s : State) (c : Fin 4) (crew : Nat) (b : Bank) : State :=
  (s.setCrew crew ((s.crewOf crew).answered b (s.spanBeat (crewSpan crew)))).sendCmds c crew

/-- Does a bank hold a product that still accumulates (R50, R331)? -/
def Bank.byMe (b : Bank) : Bool := b.accumulating && !b.finished && !b.crewOwns

/-- May the ME finish or push the product of a bank: it owns the bank, and the command of the product has been sent (R328, R473)? -/
def Bank.mayFinish (b : Bank) : Bool := b.byMe && b.asked

/-- FTQ_ENTRY, in Queued mode (R51, R331): refused for its parity or its sequence number; else the bank becomes the crew's. No entry
comes while the crew holds 8. -/
def State.ftqEntry (s : State) (crew bank : Nat) (seq : BitVec 8) (parityOk invalid : Bool) : State :=
  match s.owner (crewSpan crew) with
  | none => s
  | some c =>
    let k := s.crewOf crew
    let x := s.ctxOf c
    if !s.judges c || x.cplMode || (k.banks.filter (fun e => e.2.finished)).length ≥ 8 then s
    else
      let b := k.banks.find bank
      if !parityOk || seq ≠ k.ftqSeq + 1 then
        let s := s.setCtx c { x with ftqRetry := satAdd x.ftqRetry 1 }
        if k.ftqRefused then
          s.raiseBare c { code := 0x0701, detail := couplingDetail bank (k.ftqSeq + 1).toNat seq.toNat (s.rigOf c b) crew }
        else s.setCrew crew { k with ftqRefused := true }
      else
        let k := { k with ftqSeq := seq, ftqRefused := false }
        match b with
        | some q =>
          if q.mayFinish then
            let q := { q with finished := true, asked := false, accumulating := false, crewOwns := true, invalid := invalid }
            ((s.setCrew crew { k with banks := k.banks.set bank q }).afterProduct c crew q).productDone c crew q
          else (s.setCrew crew k).bankProtocol c crew bank (s.rigOf c b)
        | none => (s.setCrew crew k).bankProtocol c crew bank 0

/-- ME_FINISH_SIGNAL, in Direct mode (R332): the product is finished, and the crew's claim is outstanding, since it was first made (R321). -/
def State.finishSignal (s : State) (crew bank : Nat) (invalid : Bool) : State :=
  match s.owner (crewSpan crew) with
  | none => s
  | some c =>
    let k := s.crewOf crew
    if !s.judges c || !(s.ctxOf c).cplMode then s
    else
      match k.banks.find bank with
      | some q =>
        if q.mayFinish then
          let q := { q with finished := true, asked := false, accumulating := false, invalid := invalid, claimed := true
                            claimedAt := if q.claimed then q.claimedAt else s.spanBeat (crewSpan crew) }
          (s.setCrew crew { k with banks := k.banks.set bank q }).afterProduct c crew q
        else s.bankProtocol c crew bank (s.rigOf c (some q))
      | none => s.bankProtocol c crew bank 0

/-- The chain that a bank of attention belongs to: the macro's place, the macro, its plan, the lowest tile of the query tile. -/
def State.chainOf (s : State) (c : Fin 4) (b : Bank) : Option (Nat × MacroRun × Plan × Nat) :=
  match s.bankRun c b with
  | some (i, m, p) => if m.isRig [6, 7] then some (i, m, p, keyTile b.product) else none
  | none => none

/-- The output banks of a chain that the ME has not given back. -/
def Crew.outBanks (k : Crew) (c : Fin 4) (id low : Nat) : List (Nat × Bank) :=
  k.banks.filter (fun e => e.2.ctx = c.val && e.2.index = id && keyCode e.2.product = 4 && keyTile e.2.product = low)

/-- A granted claim: the bank is the crew's, and its product done. When the last output bank of a chain has come back, P_jV_j has
accumulated (R319); the sticky bit of each bank is an event (R410). -/
def State.toCrew (s : State) (c : Fin 4) (crew bank : Nat) (b : Bank) : State :=
  let k := s.crewOf crew
  let b' := { b with crewOwns := true, claimed := false, accumulating := false }
  let s := s.setCrew crew { k with banks := k.banks.set bank b' }
  if !b.finished || b.crewOwns then s
  else
    let s := s.productDone c crew b
    match s.chainOf c b with
    | some (i, m, p, low) =>
      let all := (s.crewOf crew).outBanks c m.id low
      if keyCode b.product = 4 && all.all (fun e => e.2.crewOwns && e.2.finished) then
        let k := s.crewOf crew
        let s := s.setCrew crew { k with banks := all.foldl (fun t e => t.set e.1 { e.2 with finished := false }) k.banks }
        let a := m.attn.get low {}
        let e := s.evAt c m p low (m.tileAt low)
        s.setRun c true i { m with attn := m.attn.set low (e.attnAccumulate a) }
      else s
    | none => s

/-- May the ME be granted a bank: not one that the crew holds, and an output bank only under a P_jV_j command (R319, R332)? -/
def State.meMay (s : State) (c : Fin 4) (b : Bank) : Bool :=
  match s.chainOf c b with
  | some (_, m, _, low) =>
    if keyCode b.product = 4 then (m.attn.get low {}).product && b.asked && !b.finished && !b.claimed else !b.crewOwns
  | none => !b.crewOwns

/-- The ME is granted a bank. -/
def Crew.toMe (k : Crew) (bank : Nat) : Crew :=
  { k with banks := k.banks.set bank { k.banks.get bank {} with crewOwns := false, accumulating := true, meSince := none } }

/-- The ME waits for a bank that it was not granted, from its first request on (R321). -/
def State.meWaits (s : State) (c : Fin 4) (crew bank : Nat) : State :=
  let x := s.ctxOf c
  let k := s.crewOf crew
  let b := k.banks.get bank {}
  (s.setCtx c { x with meWaits := satAdd x.meWaits 1 }).setCrew crew
    { k with banks := k.banks.set bank { b with meSince := b.meSince.or (some (s.spanBeat (crewSpan crew))) } }

/-- The crew's claim of a bank stands, from its first beat on (R321). -/
def Crew.keepClaim (k : Crew) (bank beat : Nat) : Crew :=
  let b := k.banks.get bank {}
  { k with banks := k.banks.set bank { b with claimed := true, claimedAt := if b.claimed then b.claimedAt else beat } }

/-- The ME releases a bank (R473): one that it does not own, an allocated bank of the crew or no bank at all, is against the protocol; an
outstanding claim of the crew is granted. -/
def State.meRelease (s : State) (c : Fin 4) (crew bank : Nat) : State :=
  match (s.crewOf crew).banks.find bank with
  | none => s.bankProtocol c crew bank 0
  | some b =>
    if b.crewOwns || !(b.accumulating || b.finished) then s.bankProtocol c crew bank (s.rigOf c (some b))
    else
      let b := { b with accumulating := false }
      if b.claimed then s.toCrew c crew bank b
      else let k := s.crewOf crew; s.setCrew crew { k with banks := k.banks.set bank b }

/-- BANK_CLAIM_GRANT (R50, R332): a bank with a product still accumulating goes to the ME where it asks, and the crew's claim stands; else the
crew is granted what it claims. The ME waits on a bank that the crew holds, and its wait is timed (R321). DESIGN CHOICE (log 103): a claim
or a request of a bank that no macro has taken is granted and given back in its beat. -/
def State.claimGrant (s : State) (crew bank : Nat) (meRequests crewClaims meReleases : Bool) : State :=
  match s.owner (crewSpan crew) with
  | none => s
  | some c =>
    if !s.judges c then s
    else
      let s := if meReleases then s.meRelease c crew bank else s
      let k := s.crewOf crew
      match k.banks.find bank with
      | none => s
      | some b =>
        let kept := if crewClaims then k.keepClaim bank (s.spanBeat (crewSpan crew)) else k
        if meRequests && b.byMe then s.setCrew crew (kept.toMe bank)
        else if crewClaims then
          if b.byMe then s.setCrew crew kept
          else
            let s := if meRequests then s.meWaits c crew bank else s
            s.toCrew c crew bank ((s.crewOf crew).banks.get bank {})
        else if meRequests then (if s.meMay c b && !b.finished then s.setCrew crew (k.toMe bank) else s.meWaits c crew bank)
        else s

/-- ME_PORT_TIMEOUT (R52, R321), in beats of the crew's span: channel 0, a claim of a bank by the crew or by the ME that has not been
granted; 1, an expected entry of the finished-tile queue; 2, a credit of the operand feed; 3, the acceptance of a matrix command. The bank
concerned, where the wait has lasted. -/
def Crew.timedOut (k : Crew) (c : Fin 4) (channel beat : Nat) : Option Nat :=
  let of (cmd : MeCmd) : Nat := ((k.bankOf c cmd.index cmd.key).map Prod.fst).getD 0
  match channel with
  | 0 => (k.banks.find? (fun e => (e.2.claimed && beat ≥ e.2.claimedAt + 16384) ||
      (match e.2.meSince with | some t => beat ≥ t + 16384 | none => false))).map Prod.fst
  | 1 => match k.ftqSince with
    | some t => if beat ≥ t + 65536 then some (((k.banks.find? (fun e => e.2.byMe)).map Prod.fst).getD 0) else none
    | none => none
  | 2 => (k.feed.find? (fun f => match f.since with | some t => beat ≥ t + 16384 | none => false)).map (fun f => of f.cmd)
  | _ => (k.sent.find? (fun q => beat ≥ q.2 + 16384)).map (fun q => of q.1)

/-- The context halts; the record names the bank concerned (R481). -/
def State.portTimeout (s : State) (crew channel : Nat) : State :=
  match s.owner (crewSpan crew) with
  | some c =>
    if s.judges c then match (s.crewOf crew).timedOut c channel (s.spanBeat (crewSpan crew)) with
      | some bank => s.raiseBare c { code := 0x0A02, detail := hwDetail 8 bank 0xFFFF 0 0 }
      | none => s
    else s
  | none => s

/-! ## The corrections of live accumulators (R316 to R320) -/

/-- The staged correction of a key tile commits: the state of its rows and the rescaled output accumulators take effect, the score bank is
released, and the commands of P_jV_j and of S_(j+2) are issued (R318 to R320). Each output bank counts as a rescale where a row's maximum
rose. -/
def State.correctChain (s : State) (c : Fin 4) (i : Nat) (m : MacroRun) (p : Plan) (low core : Nat) : State :=
  let a := m.attn.get low {}
  let crew := coreCrew core
  let a' := (s.evAt c m p low (m.tileAt low)).attnStep a
  let rose : Bool := a'.rows.any (fun r => r.rises.getLastD false)
  let more : Bool := decide (a.next + 2 < m.keyTiles p low)
  let k := s.crewOf crew
  let banks := match k.scoreBank c m.id low a.next with
    | some (n, b) => k.banks.set n { b with crewOwns := false, finished := false, claimed := false, meSince := none, accumulating := more }
    | none => k.banks
  let pv : List MeCmd := (k.outBanks c m.id low).map (fun e => ⟨m.id, e.2.product, a.next⟩)
  let cmds := pv ++ (if more then [(⟨m.id, prodKey low (a.next % 2) 3, a.next + 2⟩ : MeCmd)] else [])
  let s := s.setCrew crew { k with banks := banks, cmds := k.cmds ++ cmds }
  let x := s.ctxOf c
  let s := s.setCtx c { x with rescales := if rose then satAdd x.rescales (ceilDiv (at6 p.sizes 0) 64) else x.rescales }
  let m' := { m with attn := m.attn.set low a' }
  ((s.setRun c true i m').sendCmds c crew).swapDue core

/-- The staged corrections of a rig's macros commit. -/
def State.corrections (s : State) (c : Fin 4) (rig : Nat) : State :=
  if !s.inBeat c then s
  else
    let due := (s.ctxOf c).exec.inflight.flatMap (fun m => if m.isRig [rig] then
      m.attn.filterMap (fun e => e.2.staged.map (fun core => (m.id, e.1, core))) else [])
    due.foldl (fun s d => match (s.ctxOf c).exec.byId d.1 with
      | some (i, m) => (match m.plan with
        | some p => if s.inBeat c then s.correctChain c i m p d.2.1 d.2.2 else s
        | none => s)
      | none => s) s

/-! ## Meanings -/

/-- Rig 6: the staged corrections commit, and the tiles whose chains have ended stage their outputs. -/
def execMmulAttn (c : Fin 4) (s : State) : Host.Outcome State Fault Refusal :=
  .next ((s.corrections c 6).runKind c true (fun m => m.isRig [6]) Ev.mmulAttention)
/-- Rig 7, likewise. -/
def execMmulAttnPaged (c : Fin 4) (s : State) : Host.Outcome State Fault Refusal :=
  .next ((s.corrections c 7).runKind c true (fun m => m.isRig [7]) Ev.mmulAttention)

/-- FTQ_ENTRY. -/
def execFtqEntry (crew : Fin 256) (bank : Fin 16) (seq : BitVec 8) (parityOk invalid : Bool) (s : State) :
    Host.Outcome State Fault Refusal := .next (s.ftqEntry crew.val bank.val seq parityOk invalid)
/-- ME_FINISH_SIGNAL. -/
def execMeFinishSignal (crew : Fin 256) (bank : Fin 16) (invalid : Bool) (s : State) : Host.Outcome State Fault Refusal :=
  .next (s.finishSignal crew.val bank.val invalid)
/-- BANK_CLAIM_GRANT. -/
def execBankClaimGrant (crew : Fin 256) (bank : Fin 16) (me : MeAsk) (crewClaims : Bool) (s : State) :
    Host.Outcome State Fault Refusal := .next (s.claimGrant crew.val bank.val me.requests crewClaims me.releases)
/-- ME_PORT_TIMEOUT. -/
def execMePortTimeout (crew : Fin 256) (channel : Fin 4) (beat : Nat) (s : State) : Host.Outcome State Fault Refusal :=
  .next ((s.advanceTo beat).portTimeout crew.val channel.val)

end Sys2Proof.Machine
end

