-- ==== Sys2Proof/Machine/Short.lean ====
section
/-! DEFINITION. Beat-scheduled short operations: their start, their rows and the landing of their lines (06 R182 to R190). -/

namespace Sys2Proof.Machine

/-! ## VSHORT_START (R185, R186) -/

/-- VSHORT_START: the crew's oldest waiting VSHORT, at the first beat that its spacing, the occupancy of the one before and the surge
governor allow (R469). Its destination lines take their ready stamps, by which its own reads are judged too (R188, log 87). -/
def State.startShort (s : State) (crew : Nat) : State :=
  let k := s.crewOf crew
  let beat := s.spanBeat (crewSpan crew)
  match k.waiting with
  | [] => s
  | w :: rest =>
    let c := ctxNo w.ctx
    let ready : Bool := match k.lastStart with
      | some (t, occupancy) => decide (t + occupancy ≤ beat) && decide (t + w.gap ≤ beat)
      | none => true
    if !s.runs c || !ready || k.awaits || !s.mayLoad (crewSpan crew) then s
    else
      let s := s.readsDue crew beat
      if !s.runs c then s
      else
      let k := s.crewOf crew
      let v := w.bits
      let dest := ((s.ctxOf c).bay (Short.dBay v)).base + Short.dOff v
      let landing := (List.range (Short.dstLines v)).map (fun j => (dest + j, beat + Short.landAt v j))
      let run : ShortRun := { w with start := beat, dest := dest, landing := landing }
      let s := s.setCrew crew { k with waiting := rest, started := k.started ++ [run]
                                       stamps := landing.foldl (fun t l => Table.set l.1 (BitVec.ofNat 32 l.2) t) k.stamps
                                       lastStart := some (beat, Short.occupancy v) }
      let s := s.loads (crewSpan crew) ((landing.map Prod.snd).foldl max beat)
      let s := s.works (crewSpan crew) w.index crew beat
      match s.shortRun c w.index with
      | none => s
      | some (i, m) => s.setRun c true i { m with start := if m.start = 0 then BitVec.ofNat 64 s.now else m.start }

/-! ## The sub-operations (R182 to R184) -/

/-- The row of a sub-operation on a crew: the oldest started VSHORT with that code whose row has not come. It runs: it makes the reads that
are due, and reads on as its beats come. -/
def State.runShort (s : State) (crew code : Nat) : State :=
  let k := s.crewOf crew
  match ((List.range k.started.length).zip k.started).find? (fun e => !e.2.evaluated && Short.sop e.2.bits = code) with
  | none => s
  | some (at_, r) =>
    (s.setCrew crew { k with started := k.started.set at_ { r with evaluated := true } }).readsNow (ctxNo r.ctx)

/-! ## VSHORT_LINE_LAND (R186, R189, R190) -/

/-- VSHORT_LINE_LAND: one destination line, due by now, is written, unless a write conflict withholds it and the lines after it. -/
def State.landLine (s : State) (crew : Nat) : State :=
  let k := s.crewOf crew
  if k.awaits then s
  else match k.nextLanding with
    | none => s.landOne crew 0
    | some (_, r, _, due) =>
      if due > s.spanBeat (crewSpan crew) then s
      else (s.readsNow (ctxNo r.ctx)).landOne crew (s.spanBeat (crewSpan crew) + 1)

/-! ## Meanings -/

/-- VSHORT_START. -/
def execVshortStart (crew : Fin 256) (beat : Nat) (s : State) : Host.Outcome State Fault Refusal :=
  .next ((s.advanceTo beat).startShort crew.val)
/-- VSHORT_LINE_LAND. -/
def execVshortLineLand (crew : Fin 256) (beat : Nat) (s : State) : Host.Outcome State Fault Refusal :=
  .next ((s.advanceTo beat).landLine crew.val)
/-- VSHORT_COPY: d = a. -/
def execVshortCopy (crew : Fin 256) (s : State) : Host.Outcome State Fault Refusal := .next (s.runShort crew.val 0x01)
/-- VSHORT_ADD: d = a + b. -/
def execVshortAdd (crew : Fin 256) (s : State) : Host.Outcome State Fault Refusal := .next (s.runShort crew.val 0x02)
/-- VSHORT_SUB: d = a − b. -/
def execVshortSub (crew : Fin 256) (s : State) : Host.Outcome State Fault Refusal := .next (s.runShort crew.val 0x03)
/-- VSHORT_MUL: d = a × b. -/
def execVshortMul (crew : Fin 256) (s : State) : Host.Outcome State Fault Refusal := .next (s.runShort crew.val 0x04)
/-- VSHORT_FMA: d = a × b + c, one rounding. -/
def execVshortFma (crew : Fin 256) (s : State) : Host.Outcome State Fault Refusal := .next (s.runShort crew.val 0x05)
/-- VSHORT_DIV: d = a / b. -/
def execVshortDiv (crew : Fin 256) (s : State) : Host.Outcome State Fault Refusal := .next (s.runShort crew.val 0x06)
/-- VSHORT_MIN: d = min(a, b). -/
def execVshortMin (crew : Fin 256) (s : State) : Host.Outcome State Fault Refusal := .next (s.runShort crew.val 0x07)
/-- VSHORT_MAX: d = max(a, b). -/
def execVshortMax (crew : Fin 256) (s : State) : Host.Outcome State Fault Refusal := .next (s.runShort crew.val 0x08)
/-- VSHORT_ABS: the sign bit cleared. -/
def execVshortAbs (crew : Fin 256) (s : State) : Host.Outcome State Fault Refusal := .next (s.runShort crew.val 0x09)
/-- VSHORT_NEG: the sign bit inverted. -/
def execVshortNeg (crew : Fin 256) (s : State) : Host.Outcome State Fault Refusal := .next (s.runShort crew.val 0x0A)
/-- VSHORT_CLAMP: d = min(max(a, b), c). -/
def execVshortClamp (crew : Fin 256) (s : State) : Host.Outcome State Fault Refusal := .next (s.runShort crew.val 0x0B)
/-- VSHORT_CMPM: a mask word of a FN b. -/
def execVshortCmpm (crew : Fin 256) (s : State) : Host.Outcome State Fault Refusal := .next (s.runShort crew.val 0x0C)
/-- VSHORT_SEL: a where the word c is non-zero, else b. -/
def execVshortSel (crew : Fin 256) (s : State) : Host.Outcome State Fault Refusal := .next (s.runShort crew.val 0x0D)
/-- VSHORT_SFN: d = FN(a). -/
def execVshortSfn (crew : Fin 256) (s : State) : Host.Outcome State Fault Refusal := .next (s.runShort crew.val 0x0E)
/-- VSHORT_IADD: INT32 sum. -/
def execVshortIadd (crew : Fin 256) (s : State) : Host.Outcome State Fault Refusal := .next (s.runShort crew.val 0x10)
/-- VSHORT_ISUB: INT32 difference. -/
def execVshortIsub (crew : Fin 256) (s : State) : Host.Outcome State Fault Refusal := .next (s.runShort crew.val 0x11)
/-- VSHORT_AND: bitwise. -/
def execVshortAnd (crew : Fin 256) (s : State) : Host.Outcome State Fault Refusal := .next (s.runShort crew.val 0x12)
/-- VSHORT_OR: bitwise. -/
def execVshortOr (crew : Fin 256) (s : State) : Host.Outcome State Fault Refusal := .next (s.runShort crew.val 0x13)
/-- VSHORT_XOR: bitwise. -/
def execVshortXor (crew : Fin 256) (s : State) : Host.Outcome State Fault Refusal := .next (s.runShort crew.val 0x14)
/-- VSHORT_SHL: shift left by b[4:0]. -/
def execVshortShl (crew : Fin 256) (s : State) : Host.Outcome State Fault Refusal := .next (s.runShort crew.val 0x15)
/-- VSHORT_SHRL: logical shift right. -/
def execVshortShrl (crew : Fin 256) (s : State) : Host.Outcome State Fault Refusal := .next (s.runShort crew.val 0x16)
/-- VSHORT_SHRA: arithmetic shift right. -/
def execVshortShra (crew : Fin 256) (s : State) : Host.Outcome State Fault Refusal := .next (s.runShort crew.val 0x17)
/-- VSHORT_I2F: INT32 to binary32. -/
def execVshortI2f (crew : Fin 256) (s : State) : Host.Outcome State Fault Refusal := .next (s.runShort crew.val 0x18)
/-- VSHORT_F2I: binary32 to INT32, saturating. -/
def execVshortF2i (crew : Fin 256) (s : State) : Host.Outcome State Fault Refusal := .next (s.runShort crew.val 0x19)
/-- VSHORT_RSUM: truss-order sum into word 0. -/
def execVshortRsum (crew : Fin 256) (s : State) : Host.Outcome State Fault Refusal := .next (s.runShort crew.val 0x20)
/-- VSHORT_RMAX: maximum into word 0. -/
def execVshortRmax (crew : Fin 256) (s : State) : Host.Outcome State Fault Refusal := .next (s.runShort crew.val 0x21)

end Sys2Proof.Machine
end

