-- ==== Sys2Proof/Machine/Halts.lean ====
section
/-! DEFINITION. Settling a halt (18 R474 to R479, 15 R427), the drain (16 R438), and the checks that belong to no tile: scrubbing, the cox
pair, the walker pairs (17 R457, 18 R484, R494, R495, 01 R29). -/

namespace Sys2Proof.Machine

/-! ## CONTEXT_HALT (R475) -/

/-- A macro at a halt: the tiles that have sent outputs stay to commit; every other tile is discarded. -/
def MacroRun.settle (m : MacroRun) (sent : Nat → Bool) : MacroRun :=
  { m with replay := [], attn := []
           tiles := m.tiles.map (fun e => match e.2.status with
             | .committed | .dropped => e
             | _ => if sent e.1 then e else (e.1, { e.2 with status := .dropped, out := none })) }

def Stream.settle (t : Stream) (sent : MacroRun → Nat → Bool) : Stream :=
  { t with inflight := t.inflight.map (fun m => m.settle (sent m)), blocked := [], deal := [] }

/-- A crew at a halt of its context: waiting VSHORTs never start; parks are empty; every bank token is released (R475). -/
def Crew.settle (k : Crew) (c : Fin 4) : Crew :=
  { k with waiting := k.waiting.filter (fun r => r.ctx ≠ c.val), parked := 0
           banks := k.banks.filter (fun e => e.2.ctx ≠ c.val), ftqSince := none, cmds := [], sent := [], feed := [] }

/-- The tiles that a core keeps: those of other contexts, and those that have sent outputs. -/
def State.settleCore (s : State) (c : Fin 4) (q : Core) : Core :=
  { q with held := q.held.filter (fun h => h.1 ≠ c.val || (match s.heldTile h with
      | some (c, _, m, _, _) => s.hasSent c h.2.1 m h.2.2.2
      | none => false)) }

/-- An LD into the descriptor table whose commit has begun takes effect whole (R475): what it has committed or staged, and what its other tiles
would load. One whose tiles have all sent their outputs ends by their commits. -/
def State.finishLoad (s : State) (c : Fin 4) (m : MacroRun) : State :=
  match m.plan with
  | none => s
  | some p =>
    let done (t : Nat) : Bool := (m.tileAt t).status = .committed || s.hasSent c false m t
    let tiles := List.range p.tiles
    if !(m.slot = 4 && m.op = 1 && m.target ≥ 2) || !tiles.any done || tiles.all done then s
    else
      let rest := (tiles.filter (fun t => (m.tileAt t).status ≠ .committed)).flatMap (fun t =>
        (((m.tileAt t).out.getD (s.evAt c m p t (m.tileAt t)).ldDescriptor)).stores)
      s.setCtx c ((s.ctxOf c).loadDescs s.time.beat (m.counts.stores ++ rest))

/-- CONTEXT_HALT: the work in flight is settled, the macros in flight write their trace entries (R427), the live rounds abort (R404). -/
def State.settleHalt (s : State) (c : Fin 4) : State :=
  match (s.ctxOf c).halt with
  | none => s
  | some h =>
    if h.settled || (s.adminOf c).state ≠ .live then s
    else
      let s := (s.ctxOf c).access.inflight.foldl (fun s m => s.finishLoad c m) s
      let cores : Table Core := s.cores.map (fun e => (e.1, s.settleCore c e.2))
      let sent (execute : Bool) (m : MacroRun) (t : Nat) : Bool := s.hasSent c execute m t
      let commits (w : PierWrite) : Bool := w.tile = traceTile || match s.heldTile (c.val, w.execute, w.index, w.tile) with
        | some (_, _, m, _, _) => s.hasSent c w.execute m w.tile
        | none => false
      let s : State := ({ (s.wasBusy c) with cores := cores } : State).dropWrites (fun w => w.ctx = some c.val && !commits w)
      let s := ((cores.filter (fun e => e.2.dueSwaps ≠ [])).map Prod.fst).foldl State.swapDue s
      let s : State := { s with crews := (crewsOf (s.adminOf c).owned).foldl (fun t k =>
        Table.set k ((Table.get t k ({} : Crew)).settle c) t) s.crews }
      let x := s.ctxOf c
      let runs := x.access.inflight ++ x.exec.inflight
      let s := s.setCtx c { x with access := x.access.settle (sent false), exec := x.exec.settle (sent true), halt := some { h with settled := true } }
      let s := (runs.foldl (fun s m => s.trace c m true) s).flushTrace c
      s.abortRounds c h.code none

/-! ## CONTEXT_HALTED (R477) -/

/-- Has every commit, every line of a started VSHORT, and the trace, finished? -/
def State.settledAll (s : State) (c : Fin 4) : Bool :=
  !s.cores.any (fun e => e.2.held.any (fun h => h.1 = c.val)) &&
    !s.crews.any (fun e => e.2.tidy.started.any (fun r => r.ctx = c.val)) && (s.ownWrites c traceTile).isEmpty

/-- CONTEXT_HALTED: the halt record goes to the ring and to CTX_HALT_REC, and CTX_HALT is raised. -/
def State.enterHalted (s : State) (c : Fin 4) : State :=
  let s := s.acceptTrace c
  match (s.ctxOf c).halt with
  | none => s
  | some h =>
    if !h.settled || (s.adminOf c).state ≠ .live || !s.settledAll c then s
    else
      let r := withSeq h.record s.ring.seq
      let s := s.ringWrite h.record
      let x := s.ctxOf c
      let s := s.setCtx c { x with
        halt := none, haltCode := BitVec.ofNat 16 h.code, haltRec := r
        access := { x.access with inflight := [] }, exec := { x.exec with inflight := [] }
        channels := x.channels.map (fun e => (e.1, { e.2 with live := [], rows := [] })) }
      let s : State := { s with crews := s.crews.map (fun e => (e.1, { e.2 with started := e.2.started.filter (fun r => r.ctx ≠ c.val) })) }
      let s := ((s.setAdmin c { s.adminOf c with state := .halted }).writeCaps).serveVia c
      (s.setGlob { s.glob with halted := putBit s.glob.halted c.val true }).setsBit (8 + c.val)

/-- DRAIN_HALT (R438): a drained context halts once its macros in flight have completed. -/
def State.drainHalt (s : State) (c : Fin 4) : State :=
  if s.inBeat c && (s.adminOf c).drain && (s.ctxOf c).quiet then s.raiseBare c { code := 0x0902 } else s

/-! ## Scrubbing (R457, R484, R487, R488) -/

/-- Does a pool line lie in an enabled bay of a context? -/
def Ctx.inBay (x : Ctx) (line : Nat) : Bool :=
  x.bays.any (fun e => e.2.on && e.2.base ≤ line && line < e.2.base + e.2.lines)

/-- Does the profile of the span's phase predict 20 µs with no tile held (R457)? Its windows are 4 µs long and end after 64 µs; past them it
predicts nothing (DEDUCED, log 102). -/
def Span.predictsIdle (x : Span) (beat : Nat) : Bool :=
  let p := x.profiles.get x.phase.toNat {}
  let t := beat - x.marker
  p.strokes ≠ 0 && (List.range 6).all (fun k => p.busy.getD ((t + min (4 * k * usBeats) (20 * usBeats - 1)) / (4 * usBeats)) 1 = 0)

/-- Has a line of the crew not been scrubbed within 60 s (R457)? -/
def State.scrubDue (s : State) (crew : Nat) : Bool :=
  (List.range 2048).any (fun l => decide (s.time.beat ≥ (s.crewOf crew).scrubbed.get l 0 + 60000000 * usBeats))

/-- May a scrub start on the crew: in phase IDLE, where 20 µs with no tile are predicted, or, with a line that is due, one in 256 beats? -/
def State.mayScrub (s : State) (crew : Nat) : Bool :=
  let n := crewSpan crew
  let x := s.spanOf n
  let spaced := match (s.crewOf crew).scrubAt with | none => true | some b => decide (s.spanBeat n ≥ b + 256)
  !s.glob.coxFailed && (x.phase = 4 || x.predictsIdle s.time.beat || (spaced && s.scrubDue crew))

/-- A line has been scrubbed. -/
def State.noteScrub (s : State) (crew line : Nat) : State :=
  let w := s.crewOf crew
  s.setCrew crew { w with scrubbed := w.scrubbed.set line s.time.beat, scrubAt := some (s.spanBeat (crewSpan crew)) }

/-- SCRUB_LINE: a single-bit error is corrected and written back; a double-bit error in a line of a bay, a park or a ring has no second
copy and halts the context. In the tile area it is found again when a tile reads the line (TILE_EXECUTE). -/
def State.scrub (s : State) (crew line errors syndrome : Nat) : State :=
  let span := crewSpan crew
  let core := 8 * crew + line % 8
  let owner := s.owner span
  if !s.mayScrub crew then s else
  let s := s.noteScrub crew line
  match errors with
  | 0 => s
  | 1 => s.noteCorrected span (match owner with | some c => c.val | none => 7) 3 core syndrome line
  | _ =>
    let sp := s.spanOf span
    let s := s.setSpan span { sp with uncorr := satAdd sp.uncorr 1 }
    match owner with
    | some c =>
      if (s.ctxOf c).inBay line then
        s.raiseBare c { code := 0x0A05, core := core, detail := hwDetail 3 span 0xFFFF syndrome line }
      else s
    | none => s

/-! ## Lockstep (R29, R494, R495) -/

/-- 5 µs, within which a repeated control step ends (R29), in control beats. -/
def coxStepBeats : Nat := 9000

/-- COX_LOCKSTEP_MISMATCH: the step is repeated from its checkpoint, which leaves every other part of the state; a third mismatch of one
step is a failure of the cox. -/
def State.coxMismatchStep (s : State) : State :=
  if s.glob.coxFailed then s
  else
    let n := if s.time.beat < s.glob.coxUntil then s.glob.coxMismatch + 1 else 1
    let s := s.setGlob { s.glob with coxMismatch := n, coxUntil := s.time.beat + coxStepBeats }
    let q : Cause := { code := 0x0A87, detail := hwDetail 11 0 0xFFFF 0 0 }
    if n < 3 then s.absorb 7 q
    else
      let s := s.raiseAll (fun _ => true) { q with code := 0x0A07 }
      (s.setGlob { s.glob with coxFailed := true }).alert 7 none none

/-- WALKER_RETRY: the beat's decisions are discarded and the beat repeated, 16 beats later; a third mismatch of one beat halts the context
that deals on the span. -/
def State.walkerMismatch (s : State) (span : Nat) : State :=
  let sp := s.spanOf span
  let beat := s.spanBeat span
  let n := if beat ≤ sp.walkerBeat + 16 && sp.walkerRetries ≠ 0 then sp.walkerRetries + 1 else 1
  let s := s.setSpan span { sp with walkerRetries := if n ≥ 3 then 0 else n, walkerBeat := beat }
  let q : Cause := { code := 0x0A88, detail := hwDetail 10 span 0xFFFF 0 0 }
  match s.owner span with
  | none => s.absorb 7 q
  | some c => if n < 3 then s.absorb c.val q else s.raiseBare c { q with code := 0x0A07 }

/-! ## Meanings -/

/-- CONTEXT_HALT. -/
def execContextHalt (c : Fin 4) (s : State) : Host.Outcome State Fault Refusal := .next (s.settleHalt c)
/-- CONTEXT_HALTED. -/
def execContextHalted (c : Fin 4) (s : State) : Host.Outcome State Fault Refusal := .next (s.enterHalted c)
/-- DRAIN_HALT. -/
def execDrainHalt (c : Fin 4) (s : State) : Host.Outcome State Fault Refusal := .next (s.drainHalt c)
/-- SCRUB_LINE. -/
def execScrubLine (crew : Fin 256) (line : Fin 2048) (errors : Fin 3) (syndrome : BitVec 32) (s : State) :
    Host.Outcome State Fault Refusal := .next (s.scrub crew.val line.val errors.val syndrome.toNat)
/-- COX_LOCKSTEP_MISMATCH. -/
def execCoxLockstepMismatch (s : State) : Host.Outcome State Fault Refusal := .next s.coxMismatchStep
/-- WALKER_RETRY. -/
def execWalkerRetry (span : Fin 16) (s : State) : Host.Outcome State Fault Refusal := .next (s.walkerMismatch span.val)

end Sys2Proof.Machine
end

