-- ==== Sys2Proof/Machine/Window.lean ====
section
/-! DEFINITION. The register window (21_register_map.md; 00 R10, R11): the map, what a read returns, what a write does, and the
descriptor store window (R538 to R540, 04 R95). -/

namespace Sys2Proof.Machine

/-! ## The map -/

/-- What stands at an offset of the window, with page and index. -/
inductive Reg where
  | telemBase | telemCtl
  | ctxCtrl (c : Fin 4) | ctxSpans (c : Fin 4) | ctxQuota (c : Fin 4) | ctxPower (c : Fin 4) | ctxJoin (c : Fin 4)
  | ctxUsage (c : Fin 4) | ctxCap (c : Fin 4)
  | privStatus | histClaim
  | winBase (c : Fin 4) (w : Nat) | winLimit (c : Fin 4) (w : Nat)
  | timeNow | timeStatus | blockStroke | blockStrokeStart | pwrPolicy | startStatus | startForm | journalStatus | libStatus
  | blockInfo | irqCause | irqEnable | alertCause | arrivalDiscards | descWinSel
  | clBase (c : Fin 4) | doorbell (c : Fin 4) | waitTimeout (c : Fin 4) | streamStatus (c : Fin 4) | syncEvents (c : Fin 4)
  | walkEvents (c : Fin 4) | pred (c : Fin 4) | walkPlan (c : Fin 4) | counter (c : Fin 4) (n : Nat) | cpl (c : Fin 4)
  | cplEvents (c : Fin 4) | rngKey (c : Fin 4) (hi : Bool) | routeEvents (c : Fin 4) | trap (c : Fin 4) | doneBase (c : Fin 4)
  | doneCtl (c : Fin 4) | traceBase (c : Fin 4) | traceStatus (c : Fin 4) | ctxStatus (c : Fin 4) | strokeStart (c : Fin 4)
  | stroke (c : Fin 4) | pace (c : Fin 4) | halt (c : Fin 4) | haltRec (c : Fin 4) (k : Nat) | flag (c : Fin 4) (n : Nat)
  | flagHost (c : Fin 4) | shortK (c : Fin 4) (k : Nat) | bay (c : Fin 4) (n : Nat) | via (c : Fin 4) (ch k : Nat)
  | spanGov (p : Nat) | spanReg (p : Nat) | spanRas (p : Nat) | spanFence (p half : Nat) | perfSel (p n : Nat)
  | perfCnt (p n : Nat) | perfCtl (p : Nat)
  | histBin (slot n : Nat) | histCfg (slot : Nat) | histAdvice (slot : Nat) | histExp (slot : Nat)
  | faultRec (i k : Nat) | faultRing | desc (o : Nat)
  | mboxIn (slot k : Nat) | mboxOut (slot k : Nat) | mboxInCtl | mboxOutCtl
  | ledger (n k : Nat) | journalSel | journalRaw (o : Nat) | directory (r k : Nat)
  deriving DecidableEq, Repr

/-- The context whose page holds the register (R536). -/
def Reg.page : Reg → Option (Fin 4)
  | .clBase c | .doorbell c | .waitTimeout c | .streamStatus c | .syncEvents c | .walkEvents c | .pred c | .walkPlan c
  | .counter c _ | .cpl c | .cplEvents c | .rngKey c _ | .routeEvents c | .trap c | .doneBase c | .doneCtl c | .traceBase c
  | .traceStatus c | .ctxStatus c | .strokeStart c | .stroke c | .pace c | .halt c | .haltRec c _ | .flag c _ | .flagHost c
  | .shortK c _ | .bay c _ | .via c _ _ => some c
  | _ => none

/-- Registers of a context page, by their offset / 8. -/
def ctxReg (c : Fin 4) (k : Nat) : Option Reg :=
  if k < 0x20 then
    [some (.clBase c), some (.doorbell c), some (.waitTimeout c), some (.streamStatus c), some (.syncEvents c), some (.walkEvents c),
     some (.pred c), some (.walkPlan c), some (.counter c 0), some (.counter c 1), some (.counter c 2), some (.counter c 3),
     some (.counter c 4), some (.counter c 5), some (.counter c 6), some (.counter c 7), some (.cpl c), some (.cplEvents c),
     some (.rngKey c false), some (.rngKey c true), some (.routeEvents c), none, some (.trap c), some (.doneBase c),
     some (.doneCtl c), some (.traceBase c), some (.traceStatus c), some (.ctxStatus c), some (.strokeStart c), some (.stroke c),
     some (.pace c), some (.halt c)].getD k none
  else if k < 0x28 then some (.haltRec c (k - 0x20))
  else if 0x80 ≤ k && k < 0xC0 then some (.flag c (k - 0x80))
  else if k = 0xC0 then some (.flagHost c)
  else if 0xE0 ≤ k && k < 0xE8 then some (.shortK c (k - 0xE0))
  else if 0x100 ≤ k && k < 0x200 then some (.bay c (k - 0x100))
  else if 0x200 ≤ k && k < 0x280 then (if k % 16 = 7 then none else some (.via c ((k - 0x200) / 16) (k % 16)))
  else none

/-- Global registers of the privileged page and of 0x2000 to 0x2FFF, by their offset / 8. -/
def globalReg (k : Nat) : Option Reg :=
  if 0x40 ≤ k && k < 0x60 then
    let c := ctxNo ((k - 0x40) / 8)
    [some (.ctxCtrl c), some (.ctxSpans c), some (.ctxQuota c), some (.ctxPower c), some (.ctxJoin c), some (.ctxUsage c),
     some (.ctxCap c), none].getD (k % 8) none
  else if 0x200 ≤ k && k < 0x240 then
    let c := ctxNo ((k - 0x200) / 16)
    some (if k % 2 = 0 then .winBase c (k / 2 % 8) else .winLimit c (k / 2 % 8))
  else
    match k with
    | 0x20 => some .telemBase | 0x21 => some .telemCtl | 0x60 => some .privStatus | 0x62 => some .histClaim
    | 0x400 => some .timeNow | 0x401 => some .timeStatus | 0x402 => some .blockStroke | 0x403 => some .blockStrokeStart
    | 0x404 => some .pwrPolicy | 0x408 => some .startStatus | 0x409 => some .startForm | 0x40A => some .journalStatus
    | 0x40C => some .libStatus | 0x500 => some .blockInfo | 0x501 => some .irqCause | 0x502 => some .irqEnable
    | 0x503 => some .alertCause | 0x504 => some .arrivalDiscards | 0x505 => some .descWinSel
    | _ => none

/-- Registers of a span page. -/
def spanPageReg (p k : Nat) : Option Reg :=
  if 0x100 ≤ k && k < 0x140 then some (.perfSel p (k - 0x100))
  else if 0x140 ≤ k && k < 0x180 then some (.perfCnt p (k - 0x140))
  else
    match k with
    | 0 => some (.spanGov p) | 1 => some (.spanReg p) | 2 => some (.spanRas p)
    | 4 => some (.spanFence p 0) | 5 => some (.spanFence p 1) | 0x180 => some (.perfCtl p) | _ => none

/-- The register that holds the aligned 8 bytes of an offset (21, The window). A pair of histogram bins shares them. -/
def regAt (offset : Nat) : Option Reg :=
  let k := offset / 8
  if offset < 0x3000 then globalReg k
  else if 0x10000 ≤ offset && offset < 0x20000 then ctxReg (ctxNo (offset / 0x4000)) (offset % 0x4000 / 8)
  else if 0x20000 ≤ offset && offset < 0x30000 then spanPageReg (offset / 0x1000 % 16) (offset % 0x1000 / 8)
  else if 0x40000 ≤ offset && offset < 0x60000 then
    let slot := (offset - 0x40000) / 0x200
    let o := offset % 0x200 / 8
    if o < 0x20 then some (.histBin slot (2 * o))
    else match o with | 0x20 => some (.histCfg slot) | 0x21 => some (.histAdvice slot) | 0x22 => some (.histExp slot) | _ => none
  else if 0x60000 ≤ offset && offset < 0x64000 then some (.faultRec ((offset - 0x60000) / 64) (k % 8))
  else if k = 0xC800 then some .faultRing
  else if 0x80000 ≤ offset && offset < 0xC0000 then some (.desc (offset - 0x80000))
  else if 0xC0000 ≤ offset && offset < 0xC0200 then some (.mboxIn ((offset - 0xC0000) / 64) (k % 8))
  else if 0xC0200 ≤ offset && offset < 0xC0400 then some (.mboxOut ((offset - 0xC0200) / 64) (k % 8))
  else if k = 0x18080 then some .mboxInCtl
  else if k = 0x18081 then some .mboxOutCtl
  else if 0xC4000 ≤ offset && offset < 0xC40E0 then some (.ledger ((offset - 0xC4000) / 16) (k % 2))
  else if k = 0x18820 then some .journalSel
  else if 0xC8000 ≤ offset && offset < 0xD0000 then some (.journalRaw (offset - 0xC8000))
  else if 0xD0000 ≤ offset && offset < 0xE0000 then some (.directory ((offset - 0xD0000) / 64) (k % 8))
  else none

/-- A port sees the offset as mapped (R535). `mgmt`: the management port. -/
def portReaches (mgmt write : Bool) (offset : Nat) : Bool :=
  match regAt offset with
  | none => false
  | some r =>
    !mgmt || (match r with
      | .mboxIn _ _ | .mboxOut _ _ | .mboxInCtl | .mboxOutCtl | .alertCause => true
      | .ledger _ _ => !write
      | _ => !write && decide (0x2000 ≤ offset) && decide (offset < 0x3000))

/-- A legal access: 4 or 8 bytes, naturally aligned, mapped for its port (R531, R532). -/
def accessOk (mgmt write : Bool) (offset size : Nat) : Bool :=
  (size = 4 || size = 8) && offset % size = 0 && portReaches mgmt write offset

/-! ## Reads -/

/-- IRQ_CAUSE (21). -/
def State.irqCause (s : State) : BitVec 64 :=
  let g := s.glob
  packBits [(0, 1, b2n (decide (g.halted ≠ 0))), (1, 1, b2n g.strokeDone), (2, 1, b2n g.faultIrq),
    (3, 1, b2n (decide (s.mbox.outCount ≠ 0))), (4, 1, b2n (decide (g.alerts ≠ 0))), (5, 1, b2n g.testReq), (8, 4, g.halted.toNat)]

/-- Interrupt line n is asserted (R537). -/
def State.irqLine (s : State) (n : Fin 6) : Bool := bit s.irqCause n.val && bit s.glob.irqEnable n.val

def CtxState.code : CtxState → Nat
  | .free => 0 | .creating => 1 | .live => 2 | .halted => 3 | .resetting => 4 | .tearingDown => 5

/-- CTX_STATUS (16). -/
def State.ctxStatus (s : State) (c : Fin 4) : BitVec 64 :=
  let a := s.adminOf c
  let x := s.ctxOf c
  packBits [(0, 3, a.state.code), (3, 1, b2n (decide (x.bayLines > a.effBay))), (4, 1, b2n (decide (x.ringBays > a.effQueues))),
    (5, 1, b2n (decide (s.histUsed c.val > a.effHist))), (6, 1, b2n (decide (x.viaUsed > a.effVia))), (7, 1, b2n x.overPower),
    (8, 1, b2n a.drain), (9, 1, b2n x.spanPending.isSome)]

/-- A descriptor of a context as committed; descriptor 0 is zero (R94). -/
def Ctx.desc (x : Ctx) (h : Nat) : BitVec 1024 := if h = 0 then 0 else x.descs.get h 0

/-- The descriptor that a window offset names (R538). -/
def State.windowDesc (s : State) (o : Nat) : Nat := (if s.glob.selHalf then 2048 else 0) + o / 128

/-- The 8 bytes of a register (R536 is applied by `readReg`). -/
def State.regWord (s : State) : Reg → BitVec 64
  | .telemBase => packBits [(0, 1, b2n s.glob.telemEn), (12, 52, s.glob.telemBase.toNat)]
  | .telemCtl => packBits [(0, 4, s.glob.telemLog.toNat), (16, 8, s.glob.telemWr.toNat), (32, 32, s.glob.telemTotal.toNat)]
  | .ctxCtrl c => packBits [(8, 3, (s.adminOf c).state.code), (11, 1, b2n (s.adminOf c).refused)]
  | .ctxSpans c => packBits [(0, 16, (s.adminOf c).mask.toNat), (16, 16, (s.adminOf c).owned.toNat)]
  | .ctxQuota c =>
    let a := s.adminOf c
    packBits [(0, 12, a.quotaBay.toNat), (12, 5, a.quotaQueues.toNat), (17, 9, a.quotaHist.toNat), (26, 4, a.quotaVia.toNat)]
  | .ctxPower c => (s.adminOf c).watts.setWidth 64
  | .ctxJoin c => (s.adminOf c).joinId.setWidth 64
  | .ctxUsage c =>
    let x := s.ctxOf c
    packBits [(0, 12, x.bayLines), (12, 5, x.ringBays), (17, 9, s.histUsed c.val), (26, 4, x.viaUsed)]
  | .ctxCap c =>
    let a := s.adminOf c
    packBits [(0, 12, a.capBay.toNat), (12, 5, a.capQueues.toNat), (17, 9, a.capHist.toNat), (26, 4, a.capVia.toNat),
      (30, 9, a.capWatts.toNat), (39, 1, b2n a.drain)]
  | .privStatus => packBits [(0, 2, s.glob.lifecycle.toNat), (16, 16, s.glob.privRefused.toNat), (32, 32, s.glob.rollback.toNat)]
  | .histClaim => packBits [(11, 1, b2n (!s.glob.histClaims.isEmpty)), (12, 1, b2n s.glob.histRefused)]
  | .winBase c w => packBits [(12, 52, ((s.adminOf c).winBase.get w 0#52).toNat)]
  | .winLimit c w =>
    let a := s.adminOf c
    packBits [(0, 1, b2n (bit a.winEn w)), (1, 1, b2n (bit a.winWr w)), (12, 52, (a.winLimit.get w 0#52).toNat)]
  | .timeNow => s.time.now
  | .timeStatus =>
    let t := s.time
    packBits [(0, 1, b2n t.holdover), (1, 1, b2n t.lost), (2, 1, b2n t.resyncArmed), (16, 16, t.rejects.toNat), (32, 16, t.parity.toNat)]
  | .blockStroke => s.glob.blockStroke.setWidth 64
  | .blockStrokeStart => s.glob.blockStart
  | .pwrPolicy =>
    let g := s.glob
    packBits [(0, 1, b2n g.policy), (1, 1, b2n g.policyNext.isSome), (2, 9, g.sustainedW.toNat), (11, 9, g.peakW.toNat)]
  | .startStatus =>
    let t := s.start
    packBits [(0, 4, t.step.toNat), (4, 3, t.st.toNat), (8, 16, t.fencedSpans.toNat), (32, 32, t.attempt.toNat)]
  | .startForm => packBits [(0, 14, s.start.alt.toNat), (16, 14, s.start.skipped.toNat)]
  | .journalStatus =>
    let j := s.journal
    packBits [(0, 1, b2n j.active), (1, 1, b2n j.compacting), (2, 1, b2n j.lost), (3, 10, (j.fill + 1023) / 1024),
      (16, 16, j.dropped.toNat), (32, 32, j.epoch.toNat)]
  | .libStatus =>
    let l := s.lib
    packBits [(0, 16, l.romVer.toNat), (16, 3, l.images.toNat), (19, 1, b2n l.rejected), (20, 1, b2n l.romPartial), (32, 32, l.patchSvn.toNat)]
  | .blockInfo =>
    let g := s.glob
    packBits [(0, 1, b2n g.block), (8, 4, g.revision.toNat), (16, 16, 0x1A40), (48, 16, g.badAccess.toNat)]
  | .irqCause => s.irqCause
  | .irqEnable => s.glob.irqEnable.setWidth 64
  | .alertCause => packBits [(0, 9, s.glob.alerts.toNat), (16, 4, s.glob.alertStep.toNat), (20, 4, s.glob.alertSpan.toNat)]
  | .arrivalDiscards => packBits [(0, 32, s.glob.discardCount.toNat), (32, 2, s.glob.discardCtx.toNat), (34, 2, s.glob.discardCause.toNat)]
  | .descWinSel => packBits [(0, 2, s.glob.selCtx.toNat), (2, 1, b2n s.glob.selHalf), (3, 1, b2n s.glob.selDiscarded)]
  | .clBase c => packBits [(0, 3, (s.ctxOf c).clWindow.toNat), (6, 58, (s.ctxOf c).clBase.toNat)]
  | .doorbell c => packBits [(24, 4, (s.ctxOf c).lists.length), (28, 1, b2n (s.ctxOf c).dropped)]
  | .waitTimeout c => (s.ctxOf c).waitTimeout.setWidth 64
  | .streamStatus c =>
    let x := s.ctxOf c
    packBits [(0, 10, x.access.queue.length), (10, 10, x.exec.queue.length), (20, 3, x.access.kind), (23, 3, x.exec.kind),
      (26, 3, x.activeFrames), (32, 32, x.issued.toNat)]
  | .syncEvents c => packBits [(0, 16, (s.ctxOf c).overlapDenied.toNat), (16, 16, (s.ctxOf c).backset.toNat)]
  | .walkEvents c =>
    let x := s.ctxOf c
    packBits [(0, 16, x.haloReload.toNat), (16, 16, x.carryRelay.toNat), (32, 16, x.replays.toNat), (48, 16, x.stealsSpan.toNat)]
  | .pred c => (s.ctxOf c).preds.setWidth 64
  | .walkPlan c =>
    let x := s.ctxOf c
    packBits [(0, 3, x.planShape.toNat), (3, 1, b2n x.planStream), (8, 12, x.planFootprint.toNat), (20, 12, x.planArea.toNat),
      (32, 32, x.planTiles.toNat)]
  | .counter c n => ((s.ctxOf c).counter n).setWidth 64
  | .cpl c => packBits [(0, 1, b2n (s.ctxOf c).cplMode), (1, 1, b2n (s.ctxOf c).cplPending.isSome)]
  | .cplEvents c =>
    let x := s.ctxOf c
    packBits [(0, 16, x.ftqRetry.toNat), (16, 16, x.meWaits.toNat), (32, 16, x.rescales.toNat), (48, 16, x.arriveStarts.toNat)]
  | .rngKey _ _ => 0
  | .routeEvents c => (s.ctxOf c).routeDropped.setWidth 64
  | .trap c => (s.ctxOf c).trap.setWidth 64
  | .doneBase c => packBits [(0, 1, b2n (s.ctxOf c).doneEn), (1, 3, (s.ctxOf c).doneWindow.toNat), (7, 57, (s.ctxOf c).doneBase.toNat)]
  | .doneCtl c =>
    let x := s.ctxOf c
    packBits [(0, 4, x.doneLog.toNat), (4, 1, b2n x.doneRefused), (8, 12, x.doneWr.toNat), (32, 32, x.doneTotal.toNat)]
  | .traceBase c => packBits [(0, 1, b2n (s.ctxOf c).traceEn), (1, 3, (s.ctxOf c).traceWindow.toNat), (16, 48, (s.ctxOf c).traceBase.toNat)]
  | .traceStatus c =>
    let x := s.ctxOf c
    packBits [(0, 12, x.traceWr.toNat), (12, 1, b2n x.traceRefused), (32, 32, x.traceTotal.toNat)]
  | .ctxStatus c => s.ctxStatus c
  | .strokeStart c => (s.ctxOf c).strokeStart
  | .stroke c => packBits [(0, 48, (s.ctxOf c).stroke.toNat), (48, 1, b2n (s.ctxOf c).strokeRefused)]
  | .pace c => packBits [(0, 3, (s.ctxOf c).paceReq.toNat), (3, 24, (s.ctxOf c).deadline.toNat), (32, 16, (s.ctxOf c).paceIgnored.toNat)]
  | .halt c => packBits [(0, 16, (s.ctxOf c).haltCode.toNat), (16, 8, (s.ctxOf c).secondary.toNat)]
  | .haltRec c k => (s.ctxOf c).haltRec.extractLsb' (64 * k) 64
  | .flag c n => ((s.ctxOf c).flag n).setWidth 64
  | .flagHost c => (s.ctxOf c).flagHost
  | .shortK c k => ((s.ctxOf c).shortK.get k 0#32).setWidth 64
  | .bay c n =>
    let b := (s.ctxOf c).bay n
    packBits [(0, 30, b.cfg.toNat), (30, 1, b2n b.refused), (31, 1, b2n b.pending)]
  | .via c ch k =>
    let q := (s.ctxOf c).channel ch
    match k with
    | 0 => q.regs.cfgWord ||| packBits [(62, 1, b2n q.refused), (63, 1, b2n ((s.ctxOf c).viaWrites.any (fun w => w.1 = ch)))]
    | 5 => q.status
    | 6 => packBits [(0, 16, q.dups.toNat), (16, 16, q.busy.toNat), (32, 4, s.glob.portFailed.toNat)]
    | k => q.regs.word k
  | .spanGov p =>
    let x := s.spanOf p
    packBits [(0, 4, x.point.toNat), (4, 3, x.pace.toNat), (7, 4, x.stretch.toNat), (11, 4, x.lo.toNat), (15, 4, x.hi.toNat),
      (19, 3, x.phase.toNat), (22, 1, b2n x.throttle), (23, 1, b2n x.capped), (24, 1, b2n x.surgeWait), (32, 9, x.cap.toNat)]
  | .spanReg p =>
    let x := s.spanOf p
    packBits [(0, 10, x.vout.toNat), (10, 10, x.iout.toNat), (20, 11, x.vin.toNat), (32, 8, x.trim.toNat), (40, 1, b2n x.uv), (41, 1, b2n x.ov)]
  | .spanRas p =>
    let x := s.spanOf p
    packBits [(0, 16, x.corrected.toNat), (16, 16, x.residue.toNat), (32, 16, x.parity.toNat), (48, 16, x.uncorr.toNat)]
  | .spanFence p half => (s.spanOf p).fence.extractLsb' (64 * half) 64
  | .perfSel p n => ((s.spanOf p).perfSel.get n 0#6).setWidth 64
  | .perfCnt p n => (s.perfRead p n).setWidth 64
  | .perfCtl p => packBits [(0, 1, b2n (s.spanOf p).freeze)]
  | .histBin slot n =>
    let h := s.histOf slot
    packBits [(0, 32, (h.bins.get n 0#32).toNat), (32, 32, (h.bins.get (n + 1) 0#32).toNat)]
  | .histCfg slot =>
    let h := s.histOf slot
    packBits [(0, 8, h.base.toNat), (8, 8, h.target.toNat), (16, 4, h.headroom.toNat), (20, 1, b2n h.autoclr), (24, 3, h.owner.toNat)]
  | .histAdvice slot =>
    let h := s.histOf slot
    packBits [(0, 8, h.exp.toNat), (8, 1, b2n h.valid), (32, 32, h.stroke.toNat)]
  | .histExp slot => packBits [(0, 9, (s.histOf slot).maxExp.toNat), (9, 1, b2n (s.histOf slot).seen)]
  | .faultRec i k => (s.ring.records.get i 0).extractLsb' (64 * k) 64
  | .faultRing => packBits [(0, 8, s.ring.wr.toNat), (8, 8, s.ring.rd.toNat), (16, 9, s.ring.unread.toNat), (32, 16, s.ring.lost.toNat)]
  | .desc o =>
    let c := ctxNo s.glob.selCtx.toNat
    if s.pageOpen c then ((s.ctxOf c).desc (s.windowDesc o)).extractLsb' (64 * (o % 128 / 8)) 64 else 0
  | .mboxIn slot k => (s.mbox.inbound.get slot 0).extractLsb' (64 * k) 64
  | .mboxOut slot k => (s.mbox.outbound.get slot 0).extractLsb' (64 * k) 64
  | .mboxInCtl => packBits [(0, 3, s.mbox.inWr.toNat), (4, 4, s.mbox.inCount.toNat), (8, 1, b2n s.mbox.fullDrop)]
  | .mboxOutCtl => packBits [(0, 3, s.mbox.outRd.toNat), (4, 4, s.mbox.outCount.toNat)]
  | .ledger n k => (s.start.lastEnd.get n 0).extractLsb' (64 * k) 64
  | .journalSel => packBits [(0, 1, b2n s.glob.jvBank), (1, 4, s.glob.jvPage.toNat)]
  | .journalRaw o =>
    if (testAccess s.glob.lifecycle).debug = .closed then 0
    else
      let bank := if s.glob.jvBank then s.journal.bankB else s.journal.bankA
      BitVec.ofNat 64 (ofLe (bank.readBytes (s.glob.jvPage.toNat * 32768 + o / 8 * 8) 8))
  | .directory r k => (s.dirEntry r).bits.extractLsb' (64 * k) 64

/-- Reset values of the context page that are not zero (21). -/
def pageReset : Reg → BitVec 64
  | .waitTimeout _ => 0x01000000
  | .doneCtl _ => 8
  | .pace _ => 1
  | _ => 0

/-- A register as a read sees it: the page of a context that is FREE, CREATING or TEARING_DOWN shows reset values (R536), but for
CTX_STROKE. -/
def State.readReg (s : State) (r : Reg) : BitVec 64 :=
  match r.page with
  | some c => if s.pageOpen c then s.regWord r else match r with | .stroke _ => s.regWord r | _ => pageReset r
  | none => s.regWord r

/-- What a read of the window returns (R531, R532): the mailbox slots read as zero to the host (R535). -/
def State.readWindow (s : State) (mgmt : Bool) (offset size : Nat) : BitVec 64 :=
  if !accessOk mgmt false offset size then 0
  else
    match regAt offset with
    | none => 0
    | some r =>
      let w := if !mgmt && 0xC0000 ≤ offset && offset < 0xC0410 then 0 else s.readReg r
      if size = 8 then w else if offset % 8 = 0 then w &&& 0xFFFFFFFF#64 else w >>> 32

/-! ## The descriptor store window (R538 to R540) -/

/-- Put `n` bytes of a value at byte b of a descriptor. -/
def putDesc (d : BitVec 1024) (b n : Nat) (v : BitVec 64) : BitVec 1024 :=
  let mask := BitVec.ofNat 1024 ((256 ^ n - 1) * 256 ^ b)
  (d &&& ~~~mask) ||| BitVec.ofNat 1024 (v.toNat % 256 ^ n * 256 ^ b)

/-- Bits of bytes 120 to 127 that a write covers. -/
def tailBits (b n : Nat) : BitVec 8 := BitVec.ofNat 8 (((List.range 8).filter (fun i => b ≤ 120 + i && 120 + i < b + n)).map (2 ^ ·)).sum

/-- Is the staging discarded for another descriptor (R539)? -/
def State.discards (s : State) (c h : Nat) : Bool :=
  match s.glob.staged with
  | some (c', h', _, _) => decide ((c', h') ≠ (c, h))
  | none => false

/-- The staged descriptor of a write: as staged, or the committed one copied (R539). -/
def State.staging (s : State) (c : Fin 4) (h : Nat) : BitVec 1024 × BitVec 8 :=
  match s.glob.staged with
  | some (c', h', d, t) => if c' = c.val && h' = h then (d, t) else ((s.ctxOf c).desc h, 0)
  | none => ((s.ctxOf c).desc h, 0)

/-- A write of n bytes at window offset o (R95, R539): staged, and committed once bytes 120 to 127 have all been written; an LD's commit of
the same beat stands over it (R540). -/
def State.descWrite (s : State) (o n : Nat) (v : BitVec 64) : State :=
  let c := ctxNo s.glob.selCtx.toNat
  let h := s.windowDesc o
  if !s.pageOpen c || h = 0 then s
  else
    let (d, t) := s.staging c h
    let d := putDesc d (o % 128) n v
    let t := t ||| tailBits (o % 128) n
    let g := { s.glob with selDiscarded := s.glob.selDiscarded || s.discards c.val h }
    if t = BitVec.allOnes 8 then
      let x := s.ctxOf c
      let late : Bool := x.descBeat = some s.time.beat && x.descLoaded.contains h
      let s := s.setGlob { g with staged := none }
      if late then s else s.setCtx c (x.changeDescs s.time.beat (x.descs.set h d))
    else s.setGlob { g with staged := some (c.val, h, d, t) }

/-- A write of DESC_WIN_SEL: it discards an uncommitted staging (R539). -/
def State.descSel (s : State) (c : BitVec 2) (half : Bool) : State :=
  s.setGlob { s.glob with selCtx := c, selHalf := half, selDiscarded := s.glob.selDiscarded || s.glob.staged.isSome, staged := none }

/-! ## Writes -/

/-- A write as the register's 64 bits see it: value and written bits (R531). -/
structure Put where
  v : BitVec 64
  m : BitVec 64
  deriving DecidableEq, Repr

namespace Put
/-- The write of a 32-bit or 64-bit access. -/
def of (offset : Nat) (wide : Bool) (v : BitVec 64) : Put :=
  if wide then ⟨v, BitVec.allOnes 64⟩
  else if offset % 8 = 0 then ⟨v &&& 0xFFFFFFFF#64, 0xFFFFFFFF#64⟩
  else ⟨v <<< 32, 0xFFFFFFFF00000000#64⟩
/-- RW fields: the written half takes the value, the other half keeps what it holds. -/
def merge (w : Put) (old : BitVec 64) : BitVec 64 := (old &&& ~~~w.m) ||| (w.v &&& w.m)
/-- The half that holds bit n is written. -/
def acts (w : Put) (n : Nat) : Bool := bit w.m n
/-- Bit n is written as 1: W1C and WO bits. -/
def one (w : Put) (n : Nat) : Bool := bit w.m n && bit w.v n
end Put

/-- Clear the bits written as 1 (W1C). -/
def clearOnes {w : Nat} (old : BitVec w) (ones : BitVec w) : BitVec w := old &&& ~~~ones

/-- Writes of the privileged page by trusted firmware. -/
def State.putPriv (s : State) (r : Reg) (w : Put) : State :=
  let new := w.merge (s.regWord r)
  match r with
  | .telemBase => s.setGlob { s.glob with telemEn := bit new 0, telemBase := new.extractLsb' 12 52 }
  | .telemCtl => s.setGlob { s.glob with telemLog := BitVec.ofNat 4 (min 8 (field new 0 4)) }
  | .ctxCtrl c =>
    let s := if w.one 11 then s.setAdmin c { s.adminOf c with refused := false } else s
    if w.acts 0 then s.ctlCommand c (field w.v 0 3) else s
  | .ctxSpans c => if w.acts 0 then s.spanMaskWrite c (new.extractLsb' 0 16) else s
  | .ctxQuota c =>
    let a := s.adminOf c
    ((s.setAdmin c { a with quotaBay := BitVec.ofNat 12 (min 2048 (field new 0 12)), quotaQueues := new.extractLsb' 12 5
                            quotaHist := new.extractLsb' 17 9, quotaVia := new.extractLsb' 26 4 }).serveHist).serveVia c
  | .ctxPower c => (s.setAdmin c { s.adminOf c with watts := new.extractLsb' 0 9 }).writeCaps
  | .ctxJoin c => s.setAdmin c { s.adminOf c with joinId := new.extractLsb' 0 16 }
  | .histClaim =>
    let s := if w.one 12 then s.setGlob { s.glob with histRefused := false } else s
    if !w.acts 0 then s
    else if bit w.v 10 then s.histRelease (field w.v 0 8)
    else s.histClaim (field w.v 0 8) (field w.v 8 2)
  | .winBase c k => s.windowWrite c k false new
  | .winLimit c k => s.windowWrite c k true new
  | _ => s

/-- Writes of the global registers by the host. -/
def State.putGlobal (s : State) (r : Reg) (w : Put) : State :=
  let g := s.glob
  let new := w.merge (s.regWord r)
  match r with
  | .irqCause =>
    let w := { w with v := w.v &&& ~~~(s.freshBits 0) }
    s.setGlob { g with strokeDone := g.strokeDone && !w.one 1, faultIrq := g.faultIrq && !w.one 2, testReq := g.testReq && !w.one 5
                       halted := clearOnes g.halted ((w.v &&& w.m).extractLsb' 8 4) }
  | .irqEnable => s.setGlob { g with irqEnable := new.extractLsb' 0 6 }
  | .descWinSel =>
    let s := if w.one 3 then s.setGlob { g with selDiscarded := false } else s
    s.descSel (new.extractLsb' 0 2) (bit new 2)
  | .journalSel => s.setGlob { g with jvBank := bit new 0, jvPage := new.extractLsb' 1 4 }
  | .faultRing => if w.acts 8 then { s with ring := s.ring.setRd (w.v.extractLsb' 8 8) } else s
  | _ => s

/-- Writes of a context page that is open (R536). -/
def State.putCtx (s : State) (c : Fin 4) (r : Reg) (w : Put) : State :=
  let x := s.ctxOf c
  let new := w.merge (s.regWord r)
  match r with
  | .clBase _ => s.setCtx c { x with clWindow := new.extractLsb' 0 3, clBase := new.extractLsb' 6 58 }
  | .doorbell _ =>
    let s := if w.one 28 then s.setCtx c { x with dropped := false } else s
    if w.acts 0 then s.doorbell c (w.v.extractLsb' 0 24) else s
  | .waitTimeout _ => s.setCtx c { x with waitTimeout := BitVec.ofNat 32 (max 0x1000 (field new 0 32)) }
  | .cpl _ => if w.acts 0 then s.cplWrite c (bit w.v 0) else s
  | .rngKey _ hi => s.rngWrite c hi (w.merge (if hi then x.rngHi else x.rngLo))
  | .trap _ => s.setCtx c { x with trap := new.extractLsb' 0 4 }
  | .doneBase _ => s.ringBaseWrite c 0 new
  | .doneCtl _ => if w.acts 0 then s.ringBaseWrite c 1 w.v else s
  | .traceBase _ => s.ringBaseWrite c 2 new
  | .traceStatus _ => s.setCtx c { x with traceRefused := x.traceRefused && !w.one 12 }
  | .strokeStart _ => s.setCtx c { x with strokeStart := new }
  | .pace _ => if w.acts 0 then s.paceWrite c (new.extractLsb' 0 3) (new.extractLsb' 3 24) else s
  | .flag _ n => if w.acts 0 then s.flagHostWrite c n (w.v.extractLsb' 0 16) else s
  | .flagHost _ => s.setCtx c (x.setFlagHost new s.time.beat)
  | .shortK _ k => s.setCtx c { x with shortK := x.shortK.set k (new.extractLsb' 0 32) }
  | .bay _ n =>
    let s := if w.one 30 then s.setCtx c { x with bays := x.bays.set n { x.bay n with refused := false } } else s
    if w.acts 0 then s.bayWrite c n (w.v.extractLsb' 0 30) else s
  | .via _ ch k => s.viaWrite c ch k ((w.merge ((x.viaView ch).word k)) ||| (w.v &&& w.m &&& ~~~(viaFields k)))
  | _ => s

/-- Writes of CTX_STROKE, which act in every state of the context (R453, R536). -/
def State.putStroke (s : State) (c : Fin 4) (w : Put) : State :=
  let s := if w.one 48 then s.setCtx c { s.ctxOf c with strokeRefused := false } else s
  s.announce c ((w.merge ((s.ctxOf c).stroke.setWidth 64)).extractLsb' 0 48)

/-- Writes of span and histogram pages. -/
def State.putPage (s : State) (r : Reg) (w : Put) : State :=
  let new := w.merge (s.regWord r)
  match r with
  | .perfSel p n => if w.acts 0 then s.perfSelWrite p n (w.v.extractLsb' 0 6) else s
  | .perfCtl p =>
    if !w.acts 0 then s
    else
      let s := if w.one 1 then s.perfClear p else s
      s.perfFreeze p (bit w.v 0)
  | .histCfg slot =>
    let s := s.setHist slot { s.histOf slot with base := new.extractLsb' 0 8, target := new.extractLsb' 8 8
                                                 headroom := new.extractLsb' 16 4, autoclr := bit new 20 }
    if w.one 21 then s.histClear slot else s
  | .histAdvice slot => if w.acts 0 then s.histAdvice slot (w.v.extractLsb' 0 8) (bit w.v 8) else s
  | _ => s

/-- Writes of the management port (R535, R541). -/
def State.putMgmt (s : State) (r : Reg) (w : Put) : State :=
  let m := s.mbox
  match r with
  | .mboxIn slot k =>
    if slot = m.inWr.toNat && m.inCount.toNat < 8 then
      let old := m.inbound.get slot 0
      let word := w.merge (old.extractLsb' (64 * k) 64)
      let v := (old &&& ~~~(BitVec.ofNat 512 ((2 ^ 64 - 1) * 2 ^ (64 * k)))) ||| BitVec.ofNat 512 (word.toNat * 2 ^ (64 * k))
      { s with mbox := { m with inbound := m.inbound.set slot v } }
    else s
  | .mboxInCtl =>
    let s := if w.one 8 then { s with mbox := { m with fullDrop := false } } else s
    if w.one 3 then { s with mbox := s.mbox.post } else s
  | .mboxOutCtl => if w.one 3 then { s with mbox := s.mbox.ack } else s
  | .alertCause =>
    s.setGlob { s.glob with alerts := clearOnes s.glob.alerts ((w.v &&& w.m &&& ~~~(s.freshBits 64)).extractLsb' 0 9) }
  | _ => s

/-- Host writes of the regions that are not registers of one word. -/
def State.putRegion (s : State) (r : Reg) (wide : Bool) (v : BitVec 64) : State :=
  match r with
  | .desc o => s.descWrite o (if wide then 8 else 4) v
  | .journalRaw o => s.journalRaw o (writeBytesOf wide v)
  | _ => s

/-- Is a register of the privileged page? -/
def Reg.isPriv : Reg → Bool
  | .telemBase | .telemCtl | .ctxCtrl _ | .ctxSpans _ | .ctxQuota _ | .ctxPower _ | .ctxJoin _ | .ctxUsage _ | .ctxCap _
  | .privStatus | .histClaim | .winBase _ _ | .winLimit _ _ => true
  | _ => false

/-- A host write of a mapped register. -/
def State.hostPut (s : State) (r : Reg) (trusted : Bool) (offset : Nat) (wide : Bool) (v : BitVec 64) : State :=
  let w := Put.of offset wide v
  if r.isPriv then (if trusted then s.putPriv r w else s.refusePriv)
  else
    match r with
    | .desc _ | .journalRaw _ => s.putRegion r wide v
    | .stroke c => s.putStroke c w
    | .perfSel _ _ | .perfCtl _ | .histCfg _ | .histAdvice _ => s.putPage r w
    | _ =>
      match r.page with
      | some c => if s.pageOpen c then s.putCtx c r w else s
      | none => s.putGlobal r w

/-- REGISTER_WRITE: a write of the window, `mgmt` from the management port, else from the host, marked trusted or not. An untrusted
write of the privileged page is counted there (R429), and as a bad access too where it is one (R532). -/
def State.writeWindow (s : State) (mgmt trusted : Bool) (offset : Nat) (wide : Bool) (v : BitVec 64) : State :=
  if !mgmt && !trusted && offset < 0x2000 then
    let s := s.refusePriv
    if accessOk mgmt true offset (if wide then 8 else 4) then s else s.countBad
  else if !accessOk mgmt true offset (if wide then 8 else 4) then s.countBad
  else
    match regAt offset with
    | none => s.countBad
    | some r => if mgmt then s.putMgmt r (Put.of offset wide v) else s.hostPut r trusted offset wide v

/-- BAD_ACCESS: counted where the access is one of R532; another access is none of this row's. -/
def State.badAccess (s : State) (mgmt write : Bool) (offset size : Nat) : State :=
  if accessOk mgmt write offset size then s else s.countBad

/-! ## Meanings -/

/-- REGISTER_WRITE. -/
def execRegisterWrite (port : Bool) (trusted : Bool) (offset : Nat) (wide : Bool) (value : BitVec 64) (s : State) :
    Host.Outcome State Fault Refusal := .next (s.writeWindow port trusted offset wide value)
/-- BAD_ACCESS. -/
def execBadAccess (port : Bool) (write : Bool) (offset : Nat) (size : Nat) (s : State) : Host.Outcome State Fault Refusal :=
  .next (s.badAccess port write offset size)
/-- DESC_WINDOW_WRITE. -/
def execDescWindowWrite (offset : BitVec 18) (wide : Bool) (value : BitVec 64) (s : State) : Host.Outcome State Fault Refusal :=
  .next (if offset.toNat % (if wide then 8 else 4) = 0 then s.descWrite offset.toNat (if wide then 8 else 4) value else s.countBad)
/-- DESC_WIN_SEL_WRITE. -/
def execDescWinSelWrite (ctx : Fin 4) (half : Bool) (s : State) : Host.Outcome State Fault Refusal :=
  .next (s.descSel (BitVec.ofNat 2 ctx.val) half)

end Sys2Proof.Machine
end

