-- ==== Sys2Proof/Machine/Dispatch.lean ====
section
/-! DEFINITION. The dispatcher: one arm for each command. -/

namespace Sys2Proof.Machine

def exec (i : Instr) (s : State) : Host.Outcome State Fault Refusal :=
  match i with
  | .registerWrite port trusted offset wide value => Sys2Proof.Machine.execRegisterWrite port trusted offset wide value s
  | .badAccess port write offset size => Sys2Proof.Machine.execBadAccess port write offset size s
  | .doorbell c bundles => Sys2Proof.Machine.execDoorbell c bundles s
  | .commandListFetch c => Sys2Proof.Machine.execCommandListFetch c s
  | .bundleSplit read => Sys2Proof.Machine.execBundleSplit read s
  | .bundleIssue c execute errors => Sys2Proof.Machine.execBundleIssue c execute errors s
  | .notBeforeRelease c execute beat => Sys2Proof.Machine.execNotBeforeRelease c execute beat s
  | .cntLoad c d imm => Sys2Proof.Machine.execCntLoad c d imm s
  | .cntAdd c d imm => Sys2Proof.Machine.execCntAdd c d imm s
  | .cntCopy c d src => Sys2Proof.Machine.execCntCopy c d src s
  | .cntStroke c d => Sys2Proof.Machine.execCntStroke c d s
  | .cmp c p a useB b cond imm => Sys2Proof.Machine.execCmp c p a useB b cond imm s
  | .call c errors => Sys2Proof.Machine.execCall c errors s
  | .routineReturn c => Sys2Proof.Machine.execRoutineReturn c s
  | .syncSet c access execute flag epoch => Sys2Proof.Machine.execSyncSet c access execute flag epoch s
  | .setFlagWrite c => Sys2Proof.Machine.execSetFlagWrite c s
  | .syncWait c execute => Sys2Proof.Machine.execSyncWait c execute s
  | .waitSatisfied c execute => Sys2Proof.Machine.execWaitSatisfied c execute s
  | .syncFence c execute => Sys2Proof.Machine.execSyncFence c execute s
  | .fenceRelease c execute => Sys2Proof.Machine.execFenceRelease c execute s
  | .phase c p => Sys2Proof.Machine.execPhase c p s
  | .waitTimeout c execute beat => Sys2Proof.Machine.execWaitTimeout c execute beat s
  | .crossWait c beat => Sys2Proof.Machine.execCrossWait c beat s
  | .ldQueue c => Sys2Proof.Machine.execLdQueue c s
  | .ldBay c => Sys2Proof.Machine.execLdBay c s
  | .ldDescriptor c => Sys2Proof.Machine.execLdDescriptor c s
  | .lda c => Sys2Proof.Machine.execLda c s
  | .stQueue c => Sys2Proof.Machine.execStQueue c s
  | .stBay c => Sys2Proof.Machine.execStBay c s
  | .vew c => Sys2Proof.Machine.execVew c s
  | .vcvt c => Sys2Proof.Machine.execVcvt c s
  | .vstat c => Sys2Proof.Machine.execVstat c s
  | .vredSum c => Sys2Proof.Machine.execVredSum c s
  | .vredSumsq c => Sys2Proof.Machine.execVredSumsq c s
  | .vredDot c => Sys2Proof.Machine.execVredDot c s
  | .vredProd c => Sys2Proof.Machine.execVredProd c s
  | .vredMax c => Sys2Proof.Machine.execVredMax c s
  | .vredMin c => Sys2Proof.Machine.execVredMin c s
  | .vredCount c => Sys2Proof.Machine.execVredCount c s
  | .vscanSum c => Sys2Proof.Machine.execVscanSum c s
  | .vscanMax c => Sys2Proof.Machine.execVscanMax c s
  | .vscanMin c => Sys2Proof.Machine.execVscanMin c s
  | .vscanProd c => Sys2Proof.Machine.execVscanProd c s
  | .vscanLinrec c => Sys2Proof.Machine.execVscanLinrec c s
  | .vsort c => Sys2Proof.Machine.execVsort c s
  | .vsmxFwd c => Sys2Proof.Machine.execVsmxFwd c s
  | .vsmxCombine c => Sys2Proof.Machine.execVsmxCombine c s
  | .vsmxBwd c => Sys2Proof.Machine.execVsmxBwd c s
  | .vperm c => Sys2Proof.Machine.execVperm c s
  | .vgathGather c => Sys2Proof.Machine.execVgathGather c s
  | .vgathCombine c => Sys2Proof.Machine.execVgathCombine c s
  | .vscatStore c => Sys2Proof.Machine.execVscatStore c s
  | .vscatAdd c => Sys2Proof.Machine.execVscatAdd c s
  | .vtopkTopk c => Sys2Proof.Machine.execVtopkTopk c s
  | .vtopkGate c => Sys2Proof.Machine.execVtopkGate c s
  | .vsamp c => Sys2Proof.Machine.execVsamp c s
  | .vshortCopy crew => Sys2Proof.Machine.execVshortCopy crew s
  | .vshortAdd crew => Sys2Proof.Machine.execVshortAdd crew s
  | .vshortSub crew => Sys2Proof.Machine.execVshortSub crew s
  | .vshortMul crew => Sys2Proof.Machine.execVshortMul crew s
  | .vshortFma crew => Sys2Proof.Machine.execVshortFma crew s
  | .vshortDiv crew => Sys2Proof.Machine.execVshortDiv crew s
  | .vshortMin crew => Sys2Proof.Machine.execVshortMin crew s
  | .vshortMax crew => Sys2Proof.Machine.execVshortMax crew s
  | .vshortAbs crew => Sys2Proof.Machine.execVshortAbs crew s
  | .vshortNeg crew => Sys2Proof.Machine.execVshortNeg crew s
  | .vshortClamp crew => Sys2Proof.Machine.execVshortClamp crew s
  | .vshortCmpm crew => Sys2Proof.Machine.execVshortCmpm crew s
  | .vshortSel crew => Sys2Proof.Machine.execVshortSel crew s
  | .vshortSfn crew => Sys2Proof.Machine.execVshortSfn crew s
  | .vshortIadd crew => Sys2Proof.Machine.execVshortIadd crew s
  | .vshortIsub crew => Sys2Proof.Machine.execVshortIsub crew s
  | .vshortAnd crew => Sys2Proof.Machine.execVshortAnd crew s
  | .vshortOr crew => Sys2Proof.Machine.execVshortOr crew s
  | .vshortXor crew => Sys2Proof.Machine.execVshortXor crew s
  | .vshortShl crew => Sys2Proof.Machine.execVshortShl crew s
  | .vshortShrl crew => Sys2Proof.Machine.execVshortShrl crew s
  | .vshortShra crew => Sys2Proof.Machine.execVshortShra crew s
  | .vshortI2f crew => Sys2Proof.Machine.execVshortI2f crew s
  | .vshortF2i crew => Sys2Proof.Machine.execVshortF2i crew s
  | .vshortRsum crew => Sys2Proof.Machine.execVshortRsum crew s
  | .vshortRmax crew => Sys2Proof.Machine.execVshortRmax crew s
  | .vshortStart crew beat => Sys2Proof.Machine.execVshortStart crew beat s
  | .vshortLineLand crew beat => Sys2Proof.Machine.execVshortLineLand crew beat s
  | .mmulPlain c => Sys2Proof.Machine.execMmulPlain c s
  | .mmulResid c => Sys2Proof.Machine.execMmulResid c s
  | .mmulChain c => Sys2Proof.Machine.execMmulChain c s
  | .mmulNormNext c => Sys2Proof.Machine.execMmulNormNext c s
  | .mmulGated c => Sys2Proof.Machine.execMmulGated c s
  | .mmulGatedDown c => Sys2Proof.Machine.execMmulGatedDown c s
  | .mmulAttn c => Sys2Proof.Machine.execMmulAttn c s
  | .mmulAttnPaged c => Sys2Proof.Machine.execMmulAttnPaged c s
  | .mmulDeq c => Sys2Proof.Machine.execMmulDeq c s
  | .mmulArrive c => Sys2Proof.Machine.execMmulArrive c s
  | .mmulKvAppend c => Sys2Proof.Machine.execMmulKvAppend c s
  | .mmulLogits c => Sys2Proof.Machine.execMmulLogits c s
  | .mmulNormBwd c => Sys2Proof.Machine.execMmulNormBwd c s
  | .mmulSoftmaxBwd c => Sys2Proof.Machine.execMmulSoftmaxBwd c s
  | .descriptorSnapshot c read => Sys2Proof.Machine.execDescriptorSnapshot c read s
  | .walkerPlan c execute => Sys2Proof.Machine.execWalkerPlan c execute s
  | .tileDeal span => Sys2Proof.Machine.execTileDeal span s
  | .tileInputRead core => Sys2Proof.Machine.execTileInputRead core s
  | .pierReadResponse span tag poison => Sys2Proof.Machine.execPierReadResponse span tag poison s
  | .pierReadTimeout span tag beat => Sys2Proof.Machine.execPierReadTimeout span tag beat s
  | .pierWriteTimeout span index beat => Sys2Proof.Machine.execPierWriteTimeout span index beat s
  | .tileExecute core check lane => Sys2Proof.Machine.execTileExecute core check lane s
  | .rowStatClose c row => Sys2Proof.Machine.execRowStatClose c row s
  | .tileCommit core => Sys2Proof.Machine.execTileCommit core s
  | .stealGrant core => Sys2Proof.Machine.execStealGrant core s
  | .haloSend sends => Sys2Proof.Machine.execHaloSend sends s
  | .haloTimeout core beat => Sys2Proof.Machine.execHaloTimeout core beat s
  | .carrySend sends => Sys2Proof.Machine.execCarrySend sends s
  | .macroComplete c execute => Sys2Proof.Machine.execMacroComplete c execute s
  | .arrivalFlag c index seq parityOk => Sys2Proof.Machine.execArrivalFlag c index seq parityOk s
  | .ftqEntry crew bank seq parityOk invalid => Sys2Proof.Machine.execFtqEntry crew bank seq parityOk invalid s
  | .meFinishSignal crew bank invalid => Sys2Proof.Machine.execMeFinishSignal crew bank invalid s
  | .bankClaimGrant crew bank me crewClaims => Sys2Proof.Machine.execBankClaimGrant crew bank me crewClaims s
  | .mePortTimeout crew channel beat => Sys2Proof.Machine.execMePortTimeout crew channel beat s
  | .viaductUpSend c ch row => Sys2Proof.Machine.execViaductUpSend c ch row s
  | .viaductUpFrame c ch port frame beat => Sys2Proof.Machine.execViaductUpFrame c ch port frame beat s
  | .viaductDownFrame c ch port frame beat => Sys2Proof.Machine.execViaductDownFrame c ch port frame beat s
  | .resend c ch port frame beat => Sys2Proof.Machine.execResend c ch port frame beat s
  | .hold c ch port frame beat => Sys2Proof.Machine.execHold c ch port frame beat s
  | .abort c ch port frame beat => Sys2Proof.Machine.execAbort c ch port frame beat s
  | .viaductUpLate c ch round row child beat => Sys2Proof.Machine.execViaductUpLate c ch round row child beat s
  | .viaductUpResendTimer c ch round row child beat => Sys2Proof.Machine.execViaductUpResendTimer c ch round row child beat s
  | .viaductUpTimeout c ch round row child beat => Sys2Proof.Machine.execViaductUpTimeout c ch round row child beat s
  | .viaductDownLate c ch round row beat => Sys2Proof.Machine.execViaductDownLate c ch round row beat s
  | .viaductDownResendTimer c ch round row beat => Sys2Proof.Machine.execViaductDownResendTimer c ch round row beat s
  | .viaductDownTimeout c ch round row beat => Sys2Proof.Machine.execViaductDownTimeout c ch round row beat s
  | .timeSample sample parityOk beat => Sys2Proof.Machine.execTimeSample sample parityOk beat s
  | .timebaseLost beat => Sys2Proof.Machine.execTimebaseLost beat s
  | .strokeAnnounce c number => Sys2Proof.Machine.execStrokeAnnounce c number s
  | .spanRelease span => Sys2Proof.Machine.execSpanRelease span s
  | .telemetryRecordWrite => Sys2Proof.Machine.execTelemetryRecordWrite s
  | .envelopeDeliver span => Sys2Proof.Machine.execEnvelopeDeliver span s
  | .floorEntry span beat => Sys2Proof.Machine.execFloorEntry span beat s
  | .pacePointMove span => Sys2Proof.Machine.execPacePointMove span s
  | .surgeRequest span => Sys2Proof.Machine.execSurgeRequest span s
  | .surgeGrant beat => Sys2Proof.Machine.execSurgeGrant beat s
  | .thermalSample span sensor reading beat => Sys2Proof.Machine.execThermalSample span sensor reading beat s
  | .powerCapStep span milliwatts beat => Sys2Proof.Machine.execPowerCapStep span milliwatts beat s
  | .blockPeakStep milliwatts beat => Sys2Proof.Machine.execBlockPeakStep milliwatts beat s
  | .outputUndervoltage span millivolts nanoseconds => Sys2Proof.Machine.execOutputUndervoltage span millivolts nanoseconds s
  | .outputOvervoltage span millivolts nanoseconds => Sys2Proof.Machine.execOutputOvervoltage span millivolts nanoseconds s
  | .outputOvercurrent span deciamps => Sys2Proof.Machine.execOutputOvercurrent span deciamps s
  | .railFault span millivolts nanoseconds => Sys2Proof.Machine.execRailFault span millivolts nanoseconds s
  | .refclkLost nanoseconds => Sys2Proof.Machine.execRefclkLost nanoseconds s
  | .scrubLine crew line errors syndrome => Sys2Proof.Machine.execScrubLine crew line errors syndrome s
  | .coxLockstepMismatch => Sys2Proof.Machine.execCoxLockstepMismatch s
  | .walkerRetry span => Sys2Proof.Machine.execWalkerRetry span s
  | .contextHalt c => Sys2Proof.Machine.execContextHalt c s
  | .contextHalted c => Sys2Proof.Machine.execContextHalted c s
  | .drainHalt c => Sys2Proof.Machine.execDrainHalt c s
  | .create c => Sys2Proof.Machine.execCreate c s
  | .createComplete c => Sys2Proof.Machine.execCreateComplete c s
  | .teardown c => Sys2Proof.Machine.execTeardown c s
  | .teardownComplete c => Sys2Proof.Machine.execTeardownComplete c s
  | .contextReset c => Sys2Proof.Machine.execContextReset c s
  | .resetComplete c => Sys2Proof.Machine.execResetComplete c s
  | .spanMaskWrite c mask => Sys2Proof.Machine.execSpanMaskWrite c mask s
  | .bayWrite c bay value => Sys2Proof.Machine.execBayWrite c bay value s
  | .bayWriteApply c => Sys2Proof.Machine.execBayWriteApply c s
  | .cplWrite c mode => Sys2Proof.Machine.execCplWrite c mode s
  | .viaConfigWrite c ch register value => Sys2Proof.Machine.execViaConfigWrite c ch register value s
  | .histClaim slot c => Sys2Proof.Machine.execHistClaim slot c s
  | .histRelease slot => Sys2Proof.Machine.execHistRelease slot s
  | .histClear slot => Sys2Proof.Machine.execHistClear slot s
  | .histAdviceWrite slot exponent valid => Sys2Proof.Machine.execHistAdviceWrite slot exponent valid s
  | .windowWrite c w limit value => Sys2Proof.Machine.execWindowWrite c w limit value s
  | .descWindowWrite offset wide value => Sys2Proof.Machine.execDescWindowWrite offset wide value s
  | .descWinSelWrite ctx half => Sys2Proof.Machine.execDescWinSelWrite ctx half s
  | .flagHostWrite c flag epoch => Sys2Proof.Machine.execFlagHostWrite c flag epoch s
  | .ringBaseWrite c which value => Sys2Proof.Machine.execRingBaseWrite c which value s
  | .rngKeyWrite c hi value => Sys2Proof.Machine.execRngKeyWrite c hi value s
  | .paceReqWrite c req deadline => Sys2Proof.Machine.execPaceReqWrite c req deadline s
  | .perfSelWrite span n event => Sys2Proof.Machine.execPerfSelWrite span n event s
  | .perfClearAll span => Sys2Proof.Machine.execPerfClearAll span s
  | .faultRingRdWrite rd => Sys2Proof.Machine.execFaultRingRdWrite rd s
  | .journalRawWrite offset wide value => Sys2Proof.Machine.execJournalRawWrite offset wide value s
  | .mboxPost => Sys2Proof.Machine.execMboxPost s
  | .mboxAck => Sys2Proof.Machine.execMboxAck s
  | .setCap => Sys2Proof.Machine.execSetCap s
  | .drain => Sys2Proof.Machine.execDrain s
  | .setPolicy => Sys2Proof.Machine.execSetPolicy s
  | .timeResync => Sys2Proof.Machine.execTimeResync s
  | .commitSvn => Sys2Proof.Machine.execCommitSvn s
  | .svnRestore => Sys2Proof.Machine.execSvnRestore s
  | .enterReturn => Sys2Proof.Machine.execEnterReturn s
  | .unfence => Sys2Proof.Machine.execUnfence s
  | .ledgerClear => Sys2Proof.Machine.execLedgerClear s
  | .warmReset => Sys2Proof.Machine.execWarmReset s
  | .patchList => Sys2Proof.Machine.execPatchList s
  | .testReq => Sys2Proof.Machine.execTestReq s
  | .coldReset => Sys2Proof.Machine.execColdReset s
  | .startAttempt upTo failing badSpans faulty beat => Sys2Proof.Machine.execStartAttempt upTo failing badSpans faulty beat s
  | .startStepTimeout beat => Sys2Proof.Machine.execStartStepTimeout beat s
  | .startRetry beat => Sys2Proof.Machine.execStartRetry beat s
  | .journalAppend => Sys2Proof.Machine.execJournalAppend s
  | .journalCompaction => Sys2Proof.Machine.execJournalCompaction s
  | .joinIdExchange high twin => Sys2Proof.Machine.execJoinIdExchange high twin s
  | .outputUndervoltageClear span millivolts => Sys2Proof.Machine.execOutputUndervoltageClear span millivolts s

end Sys2Proof.Machine
end

