-- ==== Sys2Proof/Safety.lean ====
section
/-! DEFINITION. The terms of the claims: what every step keeps, and what a command may touch. -/

namespace Sys2Proof.Machine

/-! ## What every step keeps -/

/-- Spans that a context owns or requests. -/
def Admin.claims (a : Admin) : BitVec 16 := a.mask ||| a.owned

/-- No span is owned or requested by two contexts (R432, R434). -/
def State.Exclusive (s : State) : Prop := ∀ c d : Fin 4, c ≠ d → (s.adminOf c).claims &&& (s.adminOf d).claims = 0

/-- UNREAD counts the records between RD and WR, 256 at most (R483). -/
def FaultRing.Consistent (f : FaultRing) : Prop := f.unread.toNat ≤ 256 ∧ (f.rd.toNat + f.unread.toNat) % 256 = f.wr.toNat

/-- The shared cache is in its canonical form. -/
def State.MemoryCanonical (s : State) : Prop := s.mem.wf = true

/-! ## What a command may touch -/

/-- `t` differs from `s` in nothing but registers and program state of context `c`. -/
def State.OnlyCtx (s t : State) (c : Fin 4) : Prop := t = s.setCtx c (t.ctxOf c)

/-- `t` differs from `s` in nothing but the administration registers of context `c`. -/
def State.OnlyAdmin (s t : State) (c : Fin 4) : Prop := t = s.setAdmin c (t.adminOf c)

/-- `t` differs from `s` in nothing but span `n`. -/
def State.OnlySpan (s t : State) (n : Nat) : Prop := t = s.setSpan n (t.spanOf n)

/-- `t` differs from `s` in nothing but crew `n`. -/
def State.OnlyCrew (s t : State) (n : Nat) : Prop := t = s.setCrew n (t.crewOf n)

/-- `t` differs from `s` in nothing but histogram slot `n`. -/
def State.OnlyHist (s t : State) (n : Nat) : Prop := t = s.setHist n (t.histOf n)

/-- `t` differs from `s` in nothing but the global registers. -/
def State.OnlyGlob (s t : State) : Prop := t = s.setGlob t.glob

/-- `t` differs from `s` in nothing but the timebase. -/
def State.OnlyTime (s t : State) : Prop := t = { s with time := t.time }

/-- Every byte of the shared cache reads as it did. -/
def State.SameBytes (s t : State) : Prop := ∀ a : Nat, t.mem.read a = s.mem.read a

/-- The macro number `i` of a stream of a context. -/
def State.runAt (s : State) (c : Fin 4) (execute : Bool) (i : Nat) : Option MacroRun := ((s.ctxOf c).stream execute).inflight[i]?

/-- The halt of context `c` on cause `q` begins in this beat and nothing else changes (R474, R478). -/
def State.Halts (s t : State) (c : Fin 4) (q : Cause) : Prop :=
  t = s.setCtx c { s.ctxOf c with halt := some ⟨s.record c.val true q, q.code, s.time.beat, false⟩ }

/-! ## Groups of rows -/

/-- The rows that evaluate a macro's tiles: the command, its stream, the macros it takes, and the results it stages. -/
def State.macroRows (c : Fin 4) : List (Instr × Bool × (MacroRun → Bool) × (Ev → TileOut)) :=
  [(.ldQueue c, false, fun m => m.slot = 4 && m.op = 1 && m.target = 0, Ev.ldQueue),
   (.ldBay c, false, fun m => m.slot = 4 && m.op = 1 && m.target = 1, Ev.ldBay),
   (.ldDescriptor c, false, fun m => m.slot = 4 && m.op = 1 && m.target ≥ 2, Ev.ldDescriptor),
   (.lda c, false, MacroRun.isLda, fun e => if e.m.target = 1 then e.ldBay else e.ldQueue),
   (.stQueue c, false, fun m => m.slot = 5 && m.target = 0, Ev.stQueue),
   (.vew c, true, fun m => m.isVec 0x01, Ev.vew), (.vcvt c, true, fun m => m.isVec 0x07, Ev.vcvt),
   (.vstat c, true, fun m => m.isVec 0x04, Ev.vstat)] ++
  [(.vredSum c, true, fun m => m.isVec 0x03 && m.sop = 0, Ev.vred), (.vredSumsq c, true, fun m => m.isVec 0x03 && m.sop = 1, Ev.vred),
   (.vredDot c, true, fun m => m.isVec 0x03 && m.sop = 2, Ev.vred), (.vredProd c, true, fun m => m.isVec 0x03 && m.sop = 3, Ev.vred),
   (.vredMax c, true, fun m => m.isVec 0x03 && m.sop = 4, Ev.vred), (.vredMin c, true, fun m => m.isVec 0x03 && m.sop = 5, Ev.vred),
   (.vredCount c, true, fun m => m.isVec 0x03 && m.sop = 6, Ev.vred)] ++
  [(.vscanSum c, true, fun m => m.isVec 0x05 && m.sop = 0, Ev.vscan), (.vscanMax c, true, fun m => m.isVec 0x05 && m.sop = 1, Ev.vscan),
   (.vscanMin c, true, fun m => m.isVec 0x05 && m.sop = 2, Ev.vscan), (.vscanProd c, true, fun m => m.isVec 0x05 && m.sop = 3, Ev.vscan),
   (.vscanLinrec c, true, fun m => m.isVec 0x05 && m.sop = 4, Ev.vscan), (.vsort c, true, fun m => m.isVec 0x0C, Ev.vsort)] ++
  [(.vsmxFwd c, true, fun m => m.isVec 0x06 && m.sop = 0, Ev.vsmxFwd), (.vsmxCombine c, true, fun m => m.isVec 0x06 && m.sop = 1, Ev.vsmxCombine),
   (.vsmxBwd c, true, fun m => m.isVec 0x06 && m.sop = 2, Ev.vsmxBwd), (.vperm c, true, fun m => m.isVec 0x08, Ev.vperm),
   (.vgathGather c, true, fun m => m.isVec 0x09 && m.sop = 0, Ev.vgathGather),
   (.vgathCombine c, true, fun m => m.isVec 0x09 && m.sop = 1, Ev.vgathCombine),
   (.vscatStore c, true, fun m => m.isVec 0x0A && m.sop = 0, Ev.vscatStore), (.vscatAdd c, true, fun m => m.isVec 0x0A && m.sop = 1, Ev.vscatAdd),
   (.vtopkTopk c, true, fun m => m.isVec 0x0B && m.mode 10 1 = 0, Ev.vtopk),
   (.vtopkGate c, true, fun m => m.isVec 0x0B && m.mode 10 1 = 1, Ev.vtopkGate), (.vsamp c, true, fun m => m.isVec 0x0D, Ev.vsamp)] ++
  [(.mmulPlain c, true, fun m => m.isRig [0], Ev.mmulDirect), (.mmulResid c, true, fun m => m.isRig [1], Ev.mmulDirect),
   (.mmulChain c, true, fun m => m.isRig [2], Ev.mmulChained), (.mmulNormNext c, true, fun m => m.isRig [3], Ev.mmulChained),
   (.mmulGated c, true, fun m => m.isRig [4], Ev.mmulChained), (.mmulGatedDown c, true, fun m => m.isRig [5], Ev.mmulDown),
   (.mmulAttn c, true, fun m => m.isRig [6], Ev.mmulAttention), (.mmulAttnPaged c, true, fun m => m.isRig [7], Ev.mmulAttention),
   (.mmulDeq c, true, fun m => m.isRig [8], Ev.mmulDirect), (.mmulArrive c, true, fun m => m.isRig [9], Ev.mmulDirect),
   (.mmulKvAppend c, true, fun m => m.isRig [10], Ev.mmulKv), (.mmulLogits c, true, fun m => m.isRig [11], Ev.mmulVocabulary),
   (.mmulNormBwd c, true, fun m => m.isRig [12], Ev.mmulNorm), (.mmulSoftmaxBwd c, true, fun m => m.isRig [13], Ev.mmulSmxBwd)]

/-- The rows of the 26 sub-operations of VSHORT on a crew, with their codes (R182). -/
def State.shortRows (k : Fin 256) : List (Instr × Nat) :=
  [(.vshortCopy k, 0x01), (.vshortAdd k, 0x02), (.vshortSub k, 0x03), (.vshortMul k, 0x04), (.vshortFma k, 0x05), (.vshortDiv k, 0x06),
   (.vshortMin k, 0x07), (.vshortMax k, 0x08), (.vshortAbs k, 0x09), (.vshortNeg k, 0x0A), (.vshortClamp k, 0x0B), (.vshortCmpm k, 0x0C),
   (.vshortSel k, 0x0D), (.vshortSfn k, 0x0E), (.vshortIadd k, 0x10), (.vshortIsub k, 0x11), (.vshortAnd k, 0x12), (.vshortOr k, 0x13),
   (.vshortXor k, 0x14), (.vshortShl k, 0x15), (.vshortShrl k, 0x16), (.vshortShra k, 0x17), (.vshortI2f k, 0x18), (.vshortF2i k, 0x19),
   (.vshortRsum k, 0x20), (.vshortRmax k, 0x21)]

/-- The rows of the management messages, with what the cox does with each (R542). -/
def State.mailRows : List (Instr × Handler) :=
  [(.setCap, capHandler), (.drain, drainHandler), (.setPolicy, policyHandler), (.timeResync, resyncHandler), (.commitSvn, commitHandler),
   (.svnRestore, restoreHandler), (.enterReturn, returnHandler), (.unfence, unfenceHandler), (.ledgerClear, clearHandler),
   (.warmReset, warmHandler), (.patchList, patchHandler)]

end Sys2Proof.Machine
end

