-- ==== Sys2Proof/Certificates/Slice0/Obligations.lean ====
section
/-! DEFINITION. The statements for the provers. -/

open Sys2Proof Sys2Proof.Machine


/-! ## The machine as a whole -/

/-- A step takes the command at the front of the queue and answers what `exec` answers with the queue's rest; on an empty queue the block
idles for one control beat, in which the performance events that time counts go on (the model's choice, log 2). A row that carries a beat
first lets local time run to it, and then acts as the same row at the beat that is now: what is stated of such a row at the present beat
holds of it at every beat (log 3). -/
def Obligations.StepRunsTheFrontCommand : Prop :=
  (∀ (c : Instr) (rest : List Instr) (s : State), step { s with pending := c :: rest } = exec c { s with pending := rest }) ∧
  (∀ s : State, s.pending = [] → step s = .next { s with time := s.time.advance 1, tally := s.account (s.time.beat + 1) }) ∧
  (∀ (beat : Nat) (s : State),
    let u := s.advanceTo beat
    let timed (row : Nat → Instr) : Prop := exec (row beat) s = exec (row u.time.beat) u
    (∀ c x, timed (.notBeforeRelease c x) ∧ timed (.waitTimeout c x)) ∧ (∀ c, timed (.crossWait c)) ∧
    (∀ p t, timed (.pierReadTimeout p t) ∧ timed (.pierWriteTimeout p t)) ∧ (∀ k, timed (.haloTimeout k)) ∧
    (∀ k ch, timed (.mePortTimeout k ch)) ∧ (∀ k, timed (.vshortStart k) ∧ timed (.vshortLineLand k)) ∧
    (∀ c ch port v, timed (.viaductUpFrame c ch port v) ∧ timed (.viaductDownFrame c ch port v) ∧ timed (.resend c ch port v) ∧
      timed (.hold c ch port v) ∧ timed (.abort c ch port v)) ∧
    (∀ c ch round row child, timed (.viaductUpLate c ch round row child) ∧ timed (.viaductUpResendTimer c ch round row child) ∧
      timed (.viaductUpTimeout c ch round row child)) ∧
    (∀ c ch round row, timed (.viaductDownLate c ch round row) ∧ timed (.viaductDownResendTimer c ch round row) ∧
      timed (.viaductDownTimeout c ch round row)) ∧
    (∀ v ok, timed (.timeSample v ok)) ∧ timed .timebaseLost ∧ timed .surgeGrant ∧ (∀ n, timed (.floorEntry n)) ∧
    (∀ n k r, timed (.thermalSample n k r)) ∧ (∀ n mw, timed (.powerCapStep n mw)) ∧ (∀ mw, timed (.blockPeakStep mw)) ∧
    (∀ upTo failing bad faulty, timed (.startAttempt upTo failing bad faulty)) ∧ timed .startStepTimeout ∧ timed .startRetry)

/-- The state right after reset keeps the three invariants below, its queue is empty, and every context is FREE. -/
def Obligations.ResetKeepsTheInvariants : Prop :=
  State.reset.MemoryCanonical ∧ State.reset.Exclusive ∧ State.reset.ring.Consistent ∧ State.reset.pending = [] ∧
  ∀ c : Fin 4, (State.reset.adminOf c).state = .free

/-- INVARIANT. Every step keeps the shared cache in its canonical form: whatever command runs, with whatever operands. -/
def Obligations.EveryStepKeepsMemoryCanonical : Prop :=
  ∀ s t : State, s.MemoryCanonical → step s = .next t → t.MemoryCanonical

/-- INVARIANT. No step ever gives a span to two contexts, whether owned or requested. -/
def Obligations.EveryStepKeepsSpansExclusive : Prop :=
  ∀ s t : State, s.Exclusive → step s = .next t → t.Exclusive

/-- INVARIANT. UNREAD counts the records between RD and WR, and is 256 at most, after every step. -/
def Obligations.EveryStepKeepsFaultRingConsistent : Prop :=
  ∀ s t : State, s.ring.Consistent → step s = .next t → t.ring.Consistent

/-! ## Command lists, the split, and issue -/

/-- A doorbell of a context that runs queues a list at the base and window latched now, behind the lists pending; with eight pending, or in a
context whose page may be written but does not run, it queues nothing and sets DROPPED. A write of 0 bundles queues nothing, and a write to
the page of a context that is free, being created or torn down has no effect. A fetch read that does not lie wholly
in the list's window halts the context with 0x0901, slot NONE and ROLE 3, before any byte is taken; a read inside takes the lowest free
tag of the lowest span the context owns, and its place in the order of the pier's accesses. -/
def Obligations.ListsAreQueuedAndFetched : Prop :=
  (∀ (c : Fin 4) (n : BitVec 24) (s : State), n ≠ 0 → s.runs c = true → (s.ctxOf c).lists.length < 8 →
     exec (.doorbell c n) s = .next (s.setCtx c { s.ctxOf c with
       lists := (s.ctxOf c).lists ++ [⟨64 * (s.ctxOf c).clBase.toNat, (s.ctxOf c).clWindow, n.toNat⟩] })) ∧
  (∀ (c : Fin 4) (n : BitVec 24) (s : State), n ≠ 0 → s.pageOpen c = true → (s.runs c = false ∨ 8 ≤ (s.ctxOf c).lists.length) →
     exec (.doorbell c n) s = .next (s.setCtx c { s.ctxOf c with dropped := true })) ∧
  (∀ (c : Fin 4) (n : BitVec 24) (s : State), n = 0 ∨ s.pageOpen c = false → exec (.doorbell c n) s = .next s) ∧
  (∀ (c : Fin 4) (s : State) (l : CmdList) (ls : List CmdList) (span tag : Nat),
     s.runs c = true → (s.ctxOf c).lists = l :: ls → (s.ctxOf c).fetch = none → (s.ctxOf c).buffer.length ≤ 8 →
     (s.ctxOf c).access.queue.length < 512 → (s.ctxOf c).exec.queue.length < 512 →
     s.lowestSpan c = some span → (s.spanOf span).freeTag = some tag →
     let k := min l.left (8 - l.base / 64 % 8)
     let hi := l.base + 64 * k - 1
     s.inWindow c l.window.toNat l.base hi false = true →
     ∃ t, exec (.commandListFetch c) s = .next t ∧
       t.ctxOf c = { s.ctxOf c with fetch := some ⟨l.base, k, l.window, span, tag, s.spanBeat span, false⟩ } ∧
       (t.spanOf span).reads = (s.spanOf span).reads.set tag ⟨c.val, none, s.spanBeat span, 0, l.base, hi, (s.spanOf span).accesses⟩ ∧
       (t.spanOf span).accesses = (s.spanOf span).accesses + 1 ∧ (t.spanOf span).writes = (s.spanOf span).writes ∧
       (∀ d, d ≠ c → t.ctxOf d = s.ctxOf d) ∧ (∀ n, n ≠ span → t.spanOf n = s.spanOf n) ∧ t.mem = s.mem ∧ t.admin = s.admin) ∧
  (∀ (c : Fin 4) (s : State) (l : CmdList) (ls : List CmdList) (span : Nat),
     s.runs c = true → (s.ctxOf c).lists = l :: ls → (s.ctxOf c).fetch = none → (s.ctxOf c).buffer.length ≤ 8 →
     (s.ctxOf c).access.queue.length < 512 → (s.ctxOf c).exec.queue.length < 512 → s.lowestSpan c = some span →
     let k := min l.left (8 - l.base / 64 % 8)
     s.inWindow c l.window.toNat l.base (l.base + 64 * k - 1 : Nat) false = false →
     ∃ t q, exec (.commandListFetch c) s = .next t ∧ s.Halts t c q ∧ q.code = 0x0901 ∧ q.slot = 7 ∧
       q.detail = l.window.toNat + 256 * 3 + 256 ^ 8 * (l.base % 256 ^ 8))

/-- A split takes the first buffered bundle outside any routine and puts one entry with its bits, address, tag and index at the end of each
stream's queue; a stream that reaches its head by this takes the head's release time. A CALL that passes its checks waits for the CALL
step. -/
def Obligations.SplitPutsOneEntryInEachStream : Prop :=
  ∀ (c : Fin 4) (errors : Fin 4) (s : State) (g : Fetched) (rest : List Fetched),
    s.runs c = true → (s.ctxOf c).frames = [] → (s.ctxOf c).callDue = none → (s.ctxOf c).buffer = g :: rest →
    (s.ctxOf c).access.queue.length < 512 → (s.ctxOf c).exec.queue.length < 512 →
    let x := s.ctxOf c
    let put (t : Stream) (e : Entry) : Stream :=
      { t with queue := t.queue ++ [e], holdUntil := some (t.holdUntil.getD (x.releaseTime ((t.queue ++ [e]).headD e))) }
    ∃ t e, exec (.bundleSplit ⟨c, errors⟩) s = .next t ∧ s.OnlyCtx t c ∧ (t.ctxOf c).buffer = rest ∧ (t.ctxOf c).split = x.split + 1 ∧
      e.bits = g.bits ∧ e.addr = g.addr ∧ e.tag = g.bits.extractLsb' 32 32 ∧ e.index = x.split ∧ e.depth = 0 ∧
      ((Bundle.isCall g.bits = true ∧ e.bad = none ∧ (t.ctxOf c).callDue = some e ∧
          (t.ctxOf c).access = x.access ∧ (t.ctxOf c).exec = x.exec) ∨
       ((Bundle.isCall g.bits = false ∨ e.bad ≠ none) ∧ (t.ctxOf c).callDue = none ∧
          (t.ctxOf c).access = put x.access e ∧ (t.ctxOf c).exec = put x.exec e))

/-- A head that nothing holds issues in its stream: it leaves the queue, its macros join those in flight where its predicate lets them, its
scalar and sync operations fall due, and the execute stream counts it in ISSUED and latches the predicate for the access stream's part. -/
def Obligations.IssueTakesTheHeadOfItsStream : Prop :=
  ∀ (c : Fin 4) (x : Bool) (s : State) (e : Entry) (es : List Entry),
    s.runs c = true → (s.adminOf c).drain = false → ((s.ctxOf c).stream x).queue = e :: es → ((s.ctxOf c).stream x).due = [] →
    e.bad = none → (s.ctxOf c).held s.mem x e.bits = false →
    (Bundle.notBefore e.bits = 0 ∨ ((s.ctxOf c).stream x).timeOk = true) → (s.ctxOf c).syncHolds x e = false →
    (x = false → (Bundle.predEn e.bits = true → e.pred ≠ none) ∧ e.index ≤ (s.ctxOf c).exec.oldestIndex + 448) →
    let acts := (s.ctxOf c).acts e
    let gap := match (s.ctxOf c).lastShort with | some b => s.time.beat - b | none => 0
    let sync := if (s.ctxOf c).syncActs e then syncDue e.bits x e.index else []
    ∃ t, exec (.bundleIssue c x 0) s = .next t ∧ t.mem = s.mem ∧ t.admin = s.admin ∧ t.spans = s.spans ∧
      (∀ d, d ≠ c → t.ctxOf d = s.ctxOf d) ∧
      ((t.ctxOf c).stream x).queue = es ∧ ((t.ctxOf c).stream x).next = e.index + 1 ∧ ((t.ctxOf c).stream x).blocked = [] ∧
      ((t.ctxOf c).stream x).inflight = ((s.ctxOf c).stream x).inflight ++ (if acts then issuedRuns e x gap (s.ctxOf c).trap else []) ∧
      ((t.ctxOf c).stream x).due =
        (if x then (if acts then scalarDue e.bits else []) ++ e.acts.map Due.frame ++ sync else sync) ∧
      (t.ctxOf c).issued = (if x then (s.ctxOf c).issued + 1 else (s.ctxOf c).issued) ∧
      (x = true → (t.ctxOf c).access.queue.map Entry.bits = (s.ctxOf c).access.queue.map Entry.bits ∧
        ∀ a ∈ (t.ctxOf c).access.queue, a.index = e.index → a.pred = some acts)

/-- What holds a head: before its release time, latched where the stream reached it, it blocks its stream with kind 7; the access part of a
predicated bundle that the execute stream has still to issue blocks with kind 4; one more than 448 bundles ahead of the oldest incomplete
one blocks with kind 5. Each kind blocks from the beat in which it first holds until it holds no more, whatever the others do. Nothing
issues. A bundle with a failed check halts its context when the stream reaches it, with the check's code
and slot and the bundle's tag and address; nothing of it issues. -/
def Obligations.HeldAndFailedHeads : Prop :=
  (∀ (c : Fin 4) (x : Bool) (s : State) (e : Entry) (es : List Entry),
     s.runs c = true → (s.adminOf c).drain = false → ((s.ctxOf c).stream x).queue = e :: es → ((s.ctxOf c).stream x).due = [] →
     e.bad = none → (s.ctxOf c).held s.mem x e.bits = false → ((s.ctxOf c).stream x).timeOk = false →
     let until_ := ((s.ctxOf c).stream x).holdUntil.getD ((s.ctxOf c).releaseTime e)
     let early := Bundle.notBefore e.bits ≠ 0 ∧ s.now < until_
     let unknown := x = false ∧ Bundle.predEn e.bits = true ∧ e.pred = none ∧
       ((s.ctxOf c).exec.next < e.index ∨ (s.ctxOf c).exec.due ≠ [])
     let ahead := x = false ∧ e.index > (s.ctxOf c).exec.oldestIndex + 448
     let blocks (kind : Nat) (holds : Prop) [Decidable holds] (l : Table Nat) : Table Nat :=
       if holds then (if (l.find kind).isSome then l else l.set kind s.time.beat) else l.erase kind
     (early ∨ unknown ∨ ahead) →
     ∃ t, exec (.bundleIssue c x 0) s = .next t ∧ s.OnlyCtx t c ∧ ((t.ctxOf c).stream x).queue = e :: es ∧
       ((t.ctxOf c).stream x).inflight = ((s.ctxOf c).stream x).inflight ∧ (t.ctxOf c).stream (!x) = (s.ctxOf c).stream (!x) ∧
       ((t.ctxOf c).stream x).holdUntil = some until_ ∧
       ((t.ctxOf c).stream x).blocked = blocks 5 ahead (blocks 4 unknown (blocks 7 early ((s.ctxOf c).stream x).blocked))) ∧
  (∀ (c : Fin 4) (x : Bool) (s : State) (e : Entry) (es : List Entry) (b : Bad),
     s.runs c = true → (s.adminOf c).drain = false → ((s.ctxOf c).stream x).queue = e :: es → ((s.ctxOf c).stream x).due = [] →
     e.bad = some b →
     ∃ t, exec (.bundleIssue c x 0) s = .next t ∧
       s.Halts t c { code := b.code, slot := b.slot, tag := e.tag, addr := e.addr, detail := b.detail.toNat })

/-- NOT_BEFORE_RELEASE frees the head of a stream once local time has reached the release time, which is S + 32 ns × NOT_BEFORE, S the start
of the stroke last announced when the stream reached the bundle; before that it changes nothing. A WAIT lets its bundle's parts go once its
flag has reached EPOCH, by SYNC_WAIT at the head or by WAIT_SATISFIED after a block; before that SYNC_WAIT blocks the stream with kind 1
from this beat, or from the one in which it began, and WAIT_SATISFIED changes nothing. A FENCE lets its bundle's parts go once every earlier
macro of its stream, or of both, has completed, by SYNC_FENCE or by FENCE_RELEASE; before that SYNC_FENCE blocks the stream with kind 2, and
FENCE_RELEASE changes nothing. -/
def Obligations.HeldStreamsAreReleased : Prop :=
  let blockedBy (t : Stream) (kind beat : Nat) : Stream :=
    { t with blocked := if (t.blocked.find kind).isSome then t.blocked else t.blocked.set kind beat }
  (∀ (c : Fin 4) (x : Bool) (s : State) (e : Entry) (es : List Entry) (u : Nat),
     let old := (s.ctxOf c).stream x
     s.runs c = true → old.queue = e :: es →
     (old.holdUntil = some u ∨ (old.holdUntil = none ∧ (s.ctxOf c).announced = true ∧ (s.ctxOf c).shift = 0 ∧
       u = (s.ctxOf c).strokeS.toNat + 32 * Bundle.notBefore e.bits)) →
     (s.now ≥ u → exec (.notBeforeRelease c x s.time.beat) s = .next (s.setCtx c ((s.ctxOf c).setStream x
       { old with timeOk := true, blocked := old.blocked.erase 7 }))) ∧
     (s.now < u → exec (.notBeforeRelease c x s.time.beat) s = .next s)) ∧
  (∀ (c : Fin 4) (x : Bool) (s : State) (e : Entry), s.runs c = true → (s.ctxOf c).headSync x 2 = some e →
     let epochs := ((s.ctxOf c).flag (Bundle.syncFlag e.bits)).toNat + 65536 - (Bundle.syncEpoch e.bits).toNat
     let met := epochs % 65536 < 32768
     let old := (s.ctxOf c).stream x
     let put (t : Stream) : State := s.setCtx c ((s.ctxOf c).setStream x t)
     (met → exec (.syncWait c x) s = .next (put { old with waitOk := true, blocked := old.blocked.erase 1 }) ∧
       exec (.waitSatisfied c x) s = .next (put { old with waitOk := true, blocked := old.blocked.erase 1 })) ∧
     (¬met → exec (.syncWait c x) s = .next (put (blockedBy old 1 s.time.beat)) ∧ exec (.waitSatisfied c x) s = .next s)) ∧
  (∀ (c : Fin 4) (x : Bool) (s : State) (e : Entry), s.runs c = true → (s.ctxOf c).headSync x 3 = some e →
     let old := (s.ctxOf c).stream x
     let before (t : Stream) : Prop := e.index ≤ t.next ∧ ∀ m ∈ t.inflight, e.index ≤ m.index
     let met := if Bundle.syncStream e.bits = 3 then before (s.ctxOf c).access ∧ before (s.ctxOf c).exec else before old
     let put (t : Stream) : State := s.setCtx c ((s.ctxOf c).setStream x t)
     (met → exec (.syncFence c x) s = .next (put { old with fenceOk := true, blocked := old.blocked.erase 2 }) ∧
       exec (.fenceRelease c x) s = .next (put { old with fenceOk := true, blocked := old.blocked.erase 2 })) ∧
     (¬met → exec (.syncFence c x) s = .next (put (blockedBy old 2 s.time.beat)) ∧ exec (.fenceRelease c x) s = .next s))

/-! ## Routines -/

/-- The execute stream's part of a CALL saves the frame-local counters and predicates, loads the arguments and clears the others; at the
routine's last bundle every one of them reads as before the CALL, and the shared ones are untouched by both. A routine whose last bundle
has been split returns: the enclosing routine, or the command lists, go on; before that ROUTINE_RETURN changes nothing. -/
def Obligations.RoutinesReturnWhatTheySaved : Prop :=
  (∀ (c : Fin 4) (s : State) (args : List Word) (due : List Due),
     s.runs c = true → (s.ctxOf c).callDue = none → (s.ctxOf c).exec.due = .frame (.save args) :: due →
     ∃ t, exec (.call c 0) s = .next t ∧ s.OnlyCtx t c ∧ (t.ctxOf c).exec.due = due ∧
       (∀ k < 4, (t.ctxOf c).counter (4 + k) = args.getD k 0 ∧ (t.ctxOf c).counter k = (s.ctxOf c).counter k) ∧
       (t.ctxOf c).preds = (s.ctxOf c).preds &&& 0b0011#4 ∧
       (∀ u : State, u.runs c = true → (u.ctxOf c).saved = (t.ctxOf c).saved → (u.ctxOf c).exec.due = [.frame .restore] →
         ∃ v, exec (.routineReturn c) u = .next v ∧ u.OnlyCtx v c ∧
           (∀ k < 4, (v.ctxOf c).counter (4 + k) = (s.ctxOf c).counter (4 + k) ∧ (v.ctxOf c).counter k = (u.ctxOf c).counter k) ∧
           (v.ctxOf c).preds = ((u.ctxOf c).preds &&& 0b0011#4) ||| ((s.ctxOf c).preds &&& 0b1100#4) ∧
           (v.ctxOf c).saved = (s.ctxOf c).saved)) ∧
  (∀ (c : Fin 4) (s : State) (f : Frame) (fs : List Frame),
     s.runs c = true → (s.ctxOf c).exec.due = [] → (s.ctxOf c).frames = f :: fs → (s.ctxOf c).callDue = none → f.length ≤ f.pos →
     exec (.routineReturn c) s = .next (s.setCtx c { s.ctxOf c with frames := fs })) ∧
  (∀ (c : Fin 4) (s : State) (f : Frame) (fs : List Frame),
     s.runs c = true → (s.ctxOf c).exec.due = [] → (s.ctxOf c).frames = f :: fs → f.pos < f.length →
     exec (.routineReturn c) s = .next s)

/-- The fetch side of a CALL of a present routine with matching argument counts pushes its frame, tagged by the outermost CALL, and queues the
CALL in both streams; with four routines active, an absent routine or unequal counts it queues the failed check instead, in that order. A
routine whose last bundle has been split is active no more. -/
def Obligations.CallPushesAFrameOrFails : Prop :=
  ∀ (c : Fin 4) (s : State) (e : Entry),
    s.runs c = true → (s.ctxOf c).callDue = some e →
    let d := s.dirEntry (Bundle.routine e.bits)
    let fits := Bundle.nh e.bits = d.nh ∧ Bundle.ns e.bits = d.ns
    let active := ((s.ctxOf c).frames.filter (fun f => f.pos < f.length)).length
    ∃ t q, exec (.call c 0) s = .next t ∧ s.OnlyCtx t c ∧ (t.ctxOf c).callDue = none ∧ q.bits = e.bits ∧ q.tag = e.tag ∧
      (t.ctxOf c).access.queue = (s.ctxOf c).access.queue ++ [q] ∧ (t.ctxOf c).exec.queue = (s.ctxOf c).exec.queue ++ [q] ∧
      (active < 4 ∧ s.present (Bundle.routine e.bits) = true ∧ fits →
        q.bad = e.bad ∧ ∃ f, (t.ctxOf c).frames = f :: (s.ctxOf c).frames ∧ f.routine = Bundle.routine e.bits ∧ f.offset = d.offset ∧
          f.length = d.length ∧ f.tag = (match (s.ctxOf c).frames.getLast? with | some g => g.tag | none => e.tag)) ∧
      (active ≥ 4 → q.bad.map Bad.code = some 0x0105 ∧ (t.ctxOf c).frames = (s.ctxOf c).frames) ∧
      (active < 4 ∧ s.present (Bundle.routine e.bits) = false →
        q.bad.map Bad.code = some 0x0B01 ∧ (t.ctxOf c).frames = (s.ctxOf c).frames) ∧
      (active < 4 ∧ s.present (Bundle.routine e.bits) = true ∧ ¬fits →
        q.bad.map Bad.code = some 0x0B02 ∧ (t.ctxOf c).frames = (s.ctxOf c).frames)

/-! ## Counters, predicates and sync flags -/

/-- CNT: LOAD writes IMM, ADD adds it modulo 2^32, COPY writes counter CSRC, STROKE writes the low 32 bits of the stroke number; no other
counter, and nothing else but the operation's own due entry, changes. CMP sets predicate PDST to whether counter CA satisfies COND against
counter CB or IMM, by the six codes; no other predicate changes. -/
def Obligations.CountersAndPredicates : Prop :=
  (∀ (c : Fin 4) (d src : Fin 8) (imm : BitVec 32) (s : State), s.runs c = true →
     ∀ p ∈ [(Instr.cntLoad c d imm, imm), (.cntAdd c d imm, (s.ctxOf c).counter d.val + imm),
            (.cntCopy c d src, (s.ctxOf c).counter src.val), (.cntStroke c d, BitVec.setWidth 32 (s.ctxOf c).stroke)],
       ∃ t, exec p.1 s = .next t ∧ s.OnlyCtx t c ∧ (t.ctxOf c).counter d.val = p.2 ∧
         (∀ k, k ≠ d.val → (t.ctxOf c).counter k = (s.ctxOf c).counter k) ∧
         t.ctxOf c = { s.ctxOf c with counters := (t.ctxOf c).counters
                                      exec := { (s.ctxOf c).exec with due := (t.ctxOf c).exec.due } }) ∧
  (∀ (c : Fin 4) (p : Fin 4) (a b : Fin 8) (useB : Bool) (cond : Fin 6) (imm : BitVec 32) (s : State), s.runs c = true →
     let u := (s.ctxOf c).counter a.val
     let v := if useB then (s.ctxOf c).counter b.val else imm
     let holds : Prop := match cond with
       | 0 => u = v
       | 1 => u ≠ v
       | 2 => u.toInt < v.toInt
       | 3 => u.toInt ≥ v.toInt
       | 4 => u.toNat < v.toNat
       | 5 => u.toNat ≥ v.toNat
     ∃ t, exec (.cmp c p a useB b cond imm) s = .next t ∧ s.OnlyCtx t c ∧ ((t.ctxOf c).preds.getLsbD p.val = true ↔ holds) ∧
       (∀ k, k ≠ p.val → (t.ctxOf c).preds.getLsbD k = (s.ctxOf c).preds.getLsbD k) ∧
       t.ctxOf c = { s.ctxOf c with preds := (t.ctxOf c).preds, exec := { (s.ctxOf c).exec with due := (t.ctxOf c).exec.due } })

/-- SYNC_SET: a SET joins the waiting SETs of its context with its flag, epoch and streams; it writes no flag yet. SET_FLAG_WRITE: the one
waiting SET, once every macro of its streams' bundles up to its own has completed, writes EPOCH where EPOCH has reached the flag's value,
and else leaves the flag and adds one to BACKSET. While a macro before it is in flight nothing changes. A host write of the flag stores
its value without this test. -/
def Obligations.SetsWaitAndWriteForward : Prop :=
  (∀ (c : Fin 4) (a x : Bool) (f : Fin 64) (epoch : BitVec 16) (s : State), s.runs c = true →
     ∃ t n, exec (.syncSet c a x f epoch) s = .next t ∧ s.OnlyCtx t c ∧
       (t.ctxOf c).sets = (s.ctxOf c).sets ++ [⟨f.val, epoch, a, x, n⟩] ∧ (t.ctxOf c).flags = (s.ctxOf c).flags ∧
       ((((s.ctxOf c).stream x).due = [] ∧ x = true ∧ a = false) → n = (s.ctxOf c).exec.next) ∧
       ((((s.ctxOf c).stream x).due = [] ∧ x = false ∧ a = true) → n = (s.ctxOf c).access.next)) ∧
  ((∀ (c : Fin 4) (f : Fin 64) (v : BitVec 16) (s : State), s.pageOpen c = true →
     ∃ t, exec (.flagHostWrite c f v) s = .next t ∧ (t.ctxOf c).flag f.val = v ∧ (t.ctxOf c).sets = (s.ctxOf c).sets ∧
       (t.ctxOf c).backset = (s.ctxOf c).backset) ∧
   (∀ (c : Fin 4) (w : WaitingSet) (s : State), s.runs c = true → (s.ctxOf c).sets = [w] →
     let x := s.ctxOf c
     let before (t : Stream) : Prop := w.upTo ≤ t.next ∧ ∀ m ∈ t.inflight, w.upTo ≤ m.index
     let met := (w.access = true → before x.access) ∧ (w.execute = true → before x.exec)
     let forward := (w.epoch.toNat + 65536 - (x.flag w.flag).toNat) % 65536 < 32768
     ∃ t, exec (.setFlagWrite c) s = .next t ∧
       (met ∧ forward → s.OnlyCtx t c ∧ (t.ctxOf c).flag w.flag = w.epoch ∧ (t.ctxOf c).sets = [] ∧
         (∀ k, k ≠ w.flag → (t.ctxOf c).flag k = x.flag k) ∧ (t.ctxOf c) = { x with flags := (t.ctxOf c).flags, sets := [] }) ∧
       (met ∧ ¬forward → t = s.setCtx c { x with sets := [], backset := satAdd x.backset 1 }) ∧
       (¬met → t = s)))

/-- PHASE gives its code to every span of the context, and floor offsets count from this beat, so that no floor entry of a later offset has
passed; other spans keep their phase. -/
def Obligations.PhaseReachesTheContextsSpans : Prop :=
  ∀ (c : Fin 4) (p : Fin 5) (s : State), s.runs c = true →
    ∃ t, exec (.phase c p) s = .next t ∧ (t.ctxOf c).phase = some p.val ∧ t.mem = s.mem ∧ t.admin = s.admin ∧
      (∀ n < 16, (s.adminOf c).owned.getLsbD n = true →
        (t.spanOf n).phase = BitVec.ofNat 3 p.val ∧ (t.spanOf n).marker = s.time.beat ∧
        ∀ i, (t.spanOf n).floor = some i → ((t.spanOf n).part.floors.getD i (0, 0)).1 = 0) ∧
      (∀ n, n < 16 → (s.adminOf c).owned.getLsbD n = false → t.spanOf n = s.spanOf n)

/-- A stream one of whose blocks, of any kind but NOT_BEFORE, has lasted its limit halts with 0x0501, the record naming what blocks; before
the limit nothing happens. With both streams blocked by kinds 1 to 5 for 65,536 beats, on no host-driven flag, with no arrival pending, no
tile in flight and no completion in that time, the context halts with 0x0502, naming the execute stream's bundle and the access stream's. -/
def Obligations.BlockedStreamsTimeOut : Prop :=
  (∀ (c : Fin 4) (x : Bool) (s : State) (b : StreamBlock), s.runs c = true →
     let t := (s.ctxOf c).stream x
     t.blocks.find? (fun b => b.kind ≠ 7 && s.time.beat ≥ b.since + (s.ctxOf c).waitLimit x b.kind) = some b →
     ∃ u q, exec (.waitTimeout c x s.time.beat) s = .next u ∧ s.Halts u c q ∧ q.code = 0x0501 ∧
       (q.tag, q.addr) = t.blockedBundle b ∧ (b.kind < 256 → q.detail / 256 % 256 = b.kind)) ∧
  (∀ (c : Fin 4) (x : Bool) (s : State),
     (∀ b ∈ ((s.ctxOf c).stream x).blocks, b.kind = 7 ∨ s.time.beat < b.since + (s.ctxOf c).waitLimit x b.kind) →
     exec (.waitTimeout c x s.time.beat) s = .next s) ∧
  (∀ (c : Fin 4) (s : State) (p q : StreamBlock), s.runs c = true →
     let a := (s.ctxOf c).access
     let e := (s.ctxOf c).exec
     a.crossBlock = some p → e.crossBlock = some q →
     (s.ctxOf c).hostDriven false = false → (s.ctxOf c).hostDriven true = false → (s.ctxOf c).arrivalPending = false →
     (∀ m ∈ a.inflight ++ e.inflight, m.tileInFlight = false) →
     (max (max p.since q.since) ((s.ctxOf c).crossSince.getD 0) + 65536 ≤ s.time.beat →
       ∃ u k, exec (.crossWait c s.time.beat) s = .next u ∧ s.Halts u c k ∧ k.code = 0x0502 ∧ (k.tag, k.addr) = e.blockedBundle q ∧
         k.detail % 2 ^ 32 = (a.blockedBundle p).1.toNat) ∧
     (s.time.beat < max (max p.since q.since) ((s.ctxOf c).crossSince.getD 0) + 65536 → exec (.crossWait c s.time.beat) s = .next s))

/-! ## Macros: the snapshot, tiles, commits -/

/-- Every macro row takes the oldest macro of its kind with a tile that may run, and stages for the lowest such tile the results that its
opcode, sub-operation or rig gives, its inputs counted under the clip flag; the bytes of the shared cache, every other context, the crews
and the cores stay as they were, and the macro keeps its place, plan and descriptors: nothing is visible before the tile's commit. (Rigs 6 and 7
commit the corrections that are staged first: here there is none.) The writes that now go to the pier are checked as they are issued: where a
byte of one lies outside its window, the context halts in this beat, its tile stages nothing, and still nothing is stored. -/
def Obligations.MacroRowsStageResultsAndStoreNothing : Prop :=
  ∀ (c : Fin 4) (s : State), ∀ row ∈ State.macroRows c, ∀ (i k : Nat) (m : MacroRun) (p : Plan),
    s.runs c = true → m.plan = some p →
    ((s.ctxOf c).stream row.2.1).firstRun (fun m => row.2.2.1 m && (match m.plan with | some p => m.mayRun p | none => false)) = some (i, m) →
    (m.tiles.map Prod.fst).find? (fun k => m.tileMayRun p k (m.tileAt k)) = some k →
    (row.1 = .mmulAttn c ∨ row.1 = .mmulAttnPaged c → ∀ q ∈ (s.ctxOf c).exec.inflight, ∀ e ∈ q.attn, e.2.staged = none) →
    let n := s.runTiles c p row.2.2.2 m
    let u := s.setRun c row.2.1 i n
    let outside (o : TileOut) : Option Fail := u.storeDomainFail c (u.draft c n) o.stores
    ((∀ e ∈ n.tiles, ∀ o, e.2.out = some o → outside o = none) →
     ∃ t m', exec row.1 s = .next t ∧ t.runAt c row.2.1 i = some m' ∧
       (m'.tileAt k).out = some ((row.2.2.2 (s.evAt c m p k (m.tileAt k))).inputClips m.clipOn) ∧
       m' = { m with tiles := m'.tiles } ∧
       t.mem = s.mem ∧ t.crews = s.crews ∧ t.cores = s.cores ∧ t.hists = s.hists ∧ t.admin = s.admin ∧ t.glob = s.glob ∧
       (∀ d, d ≠ c → t.ctxOf d = s.ctxOf d) ∧ (∀ j, j ≠ i → t.runAt c row.2.1 j = s.runAt c row.2.1 j) ∧
       t.runAt c (!row.2.1) = s.runAt c (!row.2.1)) ∧
    (∀ (e : Nat × TileRun) (o : TileOut), ((s.ctxOf c).stream row.2.1).firstRun (fun q => q.id = m.id) = some (i, m) →
       e ∈ n.tiles → e.2.out = some o → e.2.tapSent = false → (m.tileAt e.1).out = none → m.sends o = true → outside o ≠ none →
       ∃ t m' h, exec row.1 s = .next t ∧ t.mem = s.mem ∧ t.runAt c row.2.1 i = some m' ∧ (m'.tileAt e.1).out = none ∧
         (t.ctxOf c).halt = some h ∧ h.code = 0x0901 ∧ h.beat = s.time.beat)

/-- A tile of an ST from a bay is issued when it starts: it then reads its words, and its later row stages what those words give. Where a line that
it reads is pending in that beat the context halts with EARLY_READ, naming the lowest crew that violates and that crew's lowest line; with
no such line nothing halts. Nothing is stored. -/
def Obligations.StoreFromBayHaltsOnPendingLines : Prop :=
  ∀ (core : Fin 2048) (lane : BitVec 6) (s : State) (h : Nat × Bool × Nat × Nat) (c : Fin 4) (i : Nat) (m : MacroRun) (p : Plan) (r : TileRun),
    s.correctionOn core.val = none → (∀ d, s.owner (core.val / 128) = some d → s.chainDue d (core.val / 8) = none) →
    (s.coreOf core.val).held = [h] → (∀ g, (s.coreOf core.val).first = some g → g = h) → h.1 < 4 →
    s.heldTile h = some (c, i, m, p, r) → s.runs c = true → r.status = .waiting → r.halo = true → m.slot = 5 → m.target = 1 →
    p.meBound = false → p.hold = false → m.isVec 0x05 = false →
    let u := ((s.setCore core.val { s.coreOf core.val with first := none }).setRun c h.2.1 i m).settleLines c 1
    let r' : TileRun := { m.tileAt h.2.2.2 with status := .executing, started := u.spanBeat (core.val / 128) }
    let early := (u.evAt c m p h.2.2.2 (m.tileAt h.2.2.2)).stEarly
    (u.ctxOf c).halt = none →
    ∃ t m', exec (.tileExecute core 0 lane) s = .next t ∧ t.mem = s.mem ∧ t.runAt c h.2.1 i = some m' ∧
      m'.tileAt h.2.2.2 = { r' with words := (u.evAt c m p h.2.2.2 r').stWords } ∧
      (early = [] → (t.ctxOf c).halt = none) ∧
      (∀ q ∈ early, ∃ k, (t.ctxOf c).halt = some k ∧ k.code = 0x0401 ∧ k.beat = s.time.beat ∧
        ∃ crew line stamp beat, (crew, line, stamp, beat) ∈ early ∧ crew ≤ q.1 ∧ (crew = q.1 → line ≤ q.2.1) ∧
          k.record = u.record c.val true { m.cause 0x0401 with
            coord := m.coordOf p h.2.2.2, detail := lineDetail crew m.bay line stamp beat })

/-- DESCRIPTOR_SNAPSHOT: a macro without a snapshot that is the oldest of its stream, or next to it, takes the descriptors that its fields name as
they stand before the writes of this beat, so that a later change of the table does not reach it; a parameter block that it names is read
through the pier of the lowest span before, and the snapshot holds the bytes read. A failed check halts the context with the check's code. A
single-bit error of a descriptor named is corrected and counted; a double-bit error halts with 0x0A05, and nothing is latched. WALKER_PLAN:
the oldest macro with a snapshot and no plan is planned when its checks pass: the plan, the trap mask and the RNG key are latched and
CTX_PLAN shows it; a failed check halts the context and plans nothing. -/
def Obligations.SnapshotAndPlan : Prop :=
  (∀ (c : Fin 4) (x : Bool) (handle : BitVec 12) (s : State) (i : Nat) (m : MacroRun), s.runs c = true →
     ((s.ctxOf c).stream x).firstRun (fun m => !m.snapped && !m.isShort) = some (i, m) → i ≤ 1 →
     let m' := m.snapshot ((s.ctxOf c).descsAt s.time.beat) ((m.blockRead.map BlockRead.seen).getD s.mem)
     let s' := s.setRun c x i m'
     let fails := (m.fieldFail (s.ctxOf c).cplMode).or (s'.namedFail c m')
     m'.snapped = true ∧
     (fails = none → (m.block = none ∧ m.blockRead = none ∨ ∃ r, m.blockRead = some r ∧ r.todo = [] ∧ r.out = 0) →
       exec (.descriptorSnapshot c ⟨x, 0, handle⟩) s = .next s') ∧
     (∀ k b span, fails = none → m.block = some (k, b) → b ≠ 0 → m.blockRead = none → s.lowestSpan c = some span →
       ∃ t r, exec (.descriptorSnapshot c ⟨x, 0, handle⟩) s = .next t ∧ t.mem = s.mem ∧ t.runAt c x i = some { m with blockRead := some r } ∧
         r.pier = span ∧ (t.ctxOf c).halt = none ∧ r.out + r.todo.length = (blockRanges (m'.descs.get b 0) k.bytes).length) ∧
     (∀ f, fails = some f → ∃ t h, exec (.descriptorSnapshot c ⟨x, 0, handle⟩) s = .next t ∧
       t.mem = s.mem ∧ (t.ctxOf c).halt = some h ∧ h.code = f.code ∧ h.beat = s.time.beat) ∧
     (∀ span, fails = none → (m'.descs.find handle.toNat).isSome = true → s.lowestSpan c = some span →
       ∃ t h, exec (.descriptorSnapshot c ⟨x, 2, handle⟩) s = .next t ∧ t.mem = s.mem ∧ (t.ctxOf c).halt = some h ∧ h.code = 0x0A05 ∧
         (t.spanOf span).uncorr = satAdd (s.spanOf span).uncorr 1 ∧ t.runAt c x i = some m)) ∧
  (∀ (c : Fin 4) (x : Bool) (s : State) (i k : Nat) (m : MacroRun), s.runs c = true → m.snapped = true →
     ((s.ctxOf c).stream x).firstRun (fun m => m.plan.isNone && !m.isShort) = some (i, m) →
     let d := s.draft c m
     let fails := firstFail [d.fail, d.overlapFail, (s.ctxOf c).channelFail d, (s.ctxOf c).queueFail m]
     (∀ f, fails = some f → ∃ t h, exec (.walkerPlan c x) s = .next t ∧ (t.ctxOf c).halt = some h ∧ h.code = f.code ∧ t.runAt c x i = some m) ∧
     (fails = none → d.lateFail (s.ctxOf c) m (s.ctxOf c).tileArea = .ok k → s.seamFail c m d k = none → d.via = 0 →
       ∃ t m', exec (.walkerPlan c x) s = .next t ∧ s.OnlyCtx t c ∧ t.runAt c x i = some m' ∧
         m'.plan = some (d.plan m (s.spansFor c) (s.ctxOf c).tileArea k) ∧ m'.trap = (s.ctxOf c).trap ∧
         m'.key.take 4 = [(s.ctxOf c).rngLo.extractLsb' 0 32, (s.ctxOf c).rngLo.extractLsb' 32 32, (s.ctxOf c).rngHi.extractLsb' 0 32,
           (s.ctxOf c).rngHi.extractLsb' 32 32] ∧
         (t.ctxOf c).planShape.toNat = (d.plan m (s.spansFor c) (s.ctxOf c).tileArea k).shape % 8 ∧ (t.ctxOf c).planStream = x))

/-- A core's one waiting tile starts on TILE_EXECUTE when its checks pass, its products and its carry are there and its rows have closed: its
start is the span beat. A tile of a hold macro whose row has not closed parks, and leaves its core. A tile that fails a residue check for
the first time writes nothing, is counted, recorded as RESIDUE, taken from its core and handed to replay at the head of the dealing order. -/
def Obligations.ExecuteStartsOrReplays : Prop :=
  (∀ (core : Fin 2048) (lane : BitVec 6) (s : State) (h : Nat × Bool × Nat × Nat) (c : Fin 4) (i : Nat) (m : MacroRun) (p : Plan) (r : TileRun),
     s.correctionOn core.val = none → (∀ d, s.owner (core.val / 128) = some d → s.chainDue d (core.val / 8) = none) →
     (s.coreOf core.val).held = [h] → (∀ g, (s.coreOf core.val).first = some g → g = h) →
     s.heldTile h = some (c, i, m, p, r) → s.runs c = true → r.status = .waiting → r.halo = true → m.sorting h.2.2.2 = false → m.tileAt h.2.2.2 = r →
     (p.meBound = true → m.productsReady p h.2.2.2 = true) → (m.isVec 0x05 = true → (m.carries.find h.2.2.2).isSome = true) →
     (p.hold = true → ∀ row ∈ m.tileRows p h.2.2.2, (m.closed.find row).isSome = true) →
     ∃ t m', exec (.tileExecute core 0 lane) s = .next t ∧ t.mem = s.mem ∧ t.runAt c h.2.1 i = some m' ∧
       (m'.tileAt h.2.2.2).status = .executing ∧ (m'.tileAt h.2.2.2).started = s.spanBeat (core.val / 128) ∧
       (m'.tileAt h.2.2.2).copied = (r.copied || p.meBound) ∧
       (m.isVec 0x05 = true → (m'.tileAt h.2.2.2).carry = m.carries.find h.2.2.2) ∧
       (m.slot = 5 ∧ m.target = 1 ∨ m.isVec 0x05 = true ∨ p.meBound = true ∨
         m' = m.setTile h.2.2.2 { r with status := .executing, started := s.spanBeat (core.val / 128) }) ∧
       t.admin = s.admin ∧ (¬(m.slot = 5 ∧ m.target = 1) →
         (∀ d, d ≠ c → t.ctxOf d = s.ctxOf d) ∧ t.runAt c (!h.2.1) = s.runAt c (!h.2.1) ∧ (p.meBound = false → t.crews = s.crews))) ∧
  (∀ (core : Fin 2048) (lane : BitVec 6) (s : State) (h : Nat × Bool × Nat × Nat) (c : Fin 4) (i : Nat) (m : MacroRun) (p : Plan) (r : TileRun),
     s.correctionOn core.val = none → (∀ d, s.owner (core.val / 128) = some d → s.chainDue d (core.val / 8) = none) →
     (s.coreOf core.val).held = [h] → (∀ g, (s.coreOf core.val).first = some g → g = h) → h.1 < 4 →
     s.heldTile h = some (c, i, m, p, r) → s.runs c = true → r.status = .waiting → r.halo = true →
     (p.meBound = true → m.productsReady p h.2.2.2 = true) → m.isVec 0x05 = false →
     p.hold = true → (∃ row ∈ m.tileRows p h.2.2.2, (m.closed.find row) = none) →
     (m.parkVolume p (s.draft c m) h.2.2.2 ≤ s.parkSize c ∨
       (s.crewOf (core.val / 8)).parked + MacroRun.parkLines p (s.draft c m) ≤ s.parkSize c) →
     ∃ t m', exec (.tileExecute core 0 lane) s = .next t ∧ t.mem = s.mem ∧ t.runAt c h.2.1 i = some m' ∧
       (m'.tileAt h.2.2.2).status = .parked ∧ (m'.tileAt h.2.2.2).hasParked = true ∧ (t.coreOf core.val).held = []) ∧
  (∀ (core : Fin 2048) (lane : BitVec 6) (s : State) (h : Nat × Bool × Nat × Nat) (c : Fin 4) (i : Nat) (m : MacroRun) (p : Plan) (r : TileRun),
     s.correctionOn core.val = none → (∀ d, s.owner (core.val / 128) = some d → s.chainDue d (core.val / 8) = none) →
     (s.coreOf core.val).held = [h] → (∀ g, (s.coreOf core.val).first = some g → g = h) → h.1 < 4 →
     s.heldTile h = some (c, i, m, p, r) → s.runs c = true → r.status = .waiting → r.halo = true →
     r.core = core.val → r.fails = 0 → r.hasParked = false → p.meBound = false → m.isVec 0x05 = false → m.isVec 0x0C = false →
     m.crewBound p = false → (s.coreOf core.val).failures = [] → (s.coreOf core.val).swapped = [] → (s.coreOf core.val).scheduled = [] →
     (s.coreOf core.val).dueSwaps = [] →
     ∃ t m', exec (.tileExecute core 1 lane) s = .next t ∧ t.mem = s.mem ∧ t.runAt c h.2.1 i = some m' ∧
       (m'.tileAt h.2.2.2).status = .undealt ∧ (m'.tileAt h.2.2.2).fails = 1 ∧ h.2.2.2 ∈ m'.replay ∧
       (m'.tileAt h.2.2.2).attempt = r.attempt + 1 ∧
       (t.coreOf core.val).held = [] ∧ (t.spanOf (core.val / 128)).residue = satAdd (s.spanOf (core.val / 128)).residue 1 ∧
       t.ring.seq = s.ring.seq + 1 ∧ (t.ctxOf c).halt = none ∧ (t.ctxOf c).replays = satAdd (s.ctxOf c).replays 1)

/-- TILE_COMMIT makes a tile's staged stores visible, and no other byte, once all its writes have been sent and no older access of the pier
comes before them: the shared cache is the old one with the staged bits stored in order, every byte that no staged store touches reads as
before, the tile counts as committed and leaves its core. While an older access comes first nothing changes; where writes wait for credits,
those that have been sent are accepted and the tile commits later. A tile that raises an event which its macro traps writes nothing: it is
dropped, and the macro is marked trapped. A write that has waited for its credit is checked once more as it goes out: outside its window it
halts the context and stores nothing. A scan's carry has been passed on, or there is none to pass. -/
def Obligations.CommitStoresOrDrops : Prop :=
  (∀ (core : Fin 2048) (s : State) (h : Nat × Bool × Nat × Nat) (c : Fin 4) (i : Nat) (m : MacroRun) (p : Plan) (r : TileRun) (o : TileOut),
     (s.coreOf core.val).held = [h] → h.1 < 4 → s.heldTile h = some (c, i, m, p, r) → (s.adminOf c).state = .live →
     r.out = some o → s.passCarry c i m p h.2.2.2 = s → m.traps p h.2.2.2 o = false →
     let mine (w : PierWrite) : Bool := w.isOf c h.2.1 m.id h.2.2.2
     let late := ((s.spanOf (core.val / 128)).writes.filter (fun w => mine w && !w.sent)).map PierWrite.block
     s.storeDomainFail c (s.draft c m) (o.stores.filter (fun st => (storeBlocks [st]).any late.contains)) = none →
     ((s.spanOf (core.val / 128)).held mine = true → exec (.tileCommit core) s = .next s) ∧
     ((s.spanOf (core.val / 128)).held mine = false → (∃ w ∈ (s.spanOf (core.val / 128)).writes, mine w = true ∧ w.sent = false) →
       exec (.tileCommit core) s = .next (s.acceptWrites (core.val / 128) mine)) ∧
     (s.MemoryCanonical → (s.spanOf (core.val / 128)).held mine = false →
       (∀ w ∈ (s.spanOf (core.val / 128)).writes, mine w = true → w.sent = true) →
       ∃ t m', exec (.tileCommit core) s = .next t ∧
         t.mem = o.stores.foldl (fun mem st => match st with | .mem at_ w v => Memory.writeBits at_ w v mem | _ => mem) s.mem ∧
         (∀ a : Nat, (∀ at_ w v, Store.mem at_ w v ∈ o.stores → 8 * a + 8 ≤ at_ / 8 * 8 ∨ at_ / 8 * 8 + (at_ % 8 + w + 7) / 8 * 8 ≤ 8 * a) →
           t.mem.read a = s.mem.read a) ∧
         t.runAt c h.2.1 i = some m' ∧ (m'.tileAt h.2.2.2).status = .committed ∧ (t.coreOf core.val).held = [])) ∧
  (∀ (core : Fin 2048) (s : State) (h : Nat × Bool × Nat × Nat) (c : Fin 4) (i : Nat) (m : MacroRun) (p : Plan) (r : TileRun) (o : TileOut),
     (s.coreOf core.val).held = [h] → h.1 < 4 → s.heldTile h = some (c, i, m, p, r) → (s.adminOf c).state = .live →
     r.out = some o → s.passCarry c i m p h.2.2.2 = s → (∃ e ∈ o.events, m.trap.getLsbD e.kind = true) →
     ∃ t m', exec (.tileCommit core) s = .next t ∧ t.mem = s.mem ∧ t.runAt c h.2.1 i = some m' ∧
       (m'.tileAt h.2.2.2).status = .dropped ∧ m'.trapped = true ∧ (t.coreOf core.val).held = []) ∧
  (∀ (core : Fin 2048) (s : State) (h : Nat × Bool × Nat × Nat) (c : Fin 4) (i : Nat) (m : MacroRun) (p : Plan) (r : TileRun) (o : TileOut)
     (f : Fail), (s.coreOf core.val).held = [h] → h.1 < 4 → s.heldTile h = some (c, i, m, p, r) → s.runs c = true → r.out = some o →
     s.passCarry c i m p h.2.2.2 = s → m.traps p h.2.2.2 o = false →
     let late := ((s.spanOf (core.val / 128)).writes.filter (fun w => w.isOf c h.2.1 m.id h.2.2.2 && !w.sent)).map PierWrite.block
     s.storeDomainFail c (s.draft c m) (o.stores.filter (fun st => (storeBlocks [st]).any late.contains)) = some f →
     ∃ t m' k, exec (.tileCommit core) s = .next t ∧ t.mem = s.mem ∧ t.runAt c h.2.1 i = some m' ∧ (m'.tileAt h.2.2.2).out = none ∧
       (t.ctxOf c).halt = some k ∧ k.code = 0x0901 ∧ k.beat = s.time.beat)

/-- MACRO_COMPLETE: the oldest macro of a stream, every tile of it committed or dropped, or a VSHORT that no crew has left. With the ring disabled
it leaves the stream; with the ring enabled one record of 128 B goes to the pier for the slot at WR, and nothing is stored yet. Once the shared
cache may take the record, it holds those bytes, WR and TOTAL go on, and the macro leaves; before that nothing changes. A trapped macro halts
the context with 0x0601 as it leaves. -/
def Obligations.CompletionWritesOneRecord : Prop :=
  ∀ (c : Fin 4) (x : Bool) (s : State) (m : MacroRun) (rest : List MacroRun), s.runs c = true →
    ((s.ctxOf c).stream x).inflight = m :: rest → s.macroDone c m = true → (s.ctxOf c).traceEn = false → s.ownWrites c traceTile = [] →
    let trapped : Bool := m.trapped || (m.isShort && m.counts.events.any (fun e => m.trap.getLsbD e.kind))
    let leaves (t : State) : Prop := ((t.ctxOf c).stream x).inflight = rest ∧ (trapped = false → (t.ctxOf c).halt = none) ∧
      (trapped = true → ∃ h, (t.ctxOf c).halt = some h ∧ h.code = 0x0601 ∧ h.beat = s.time.beat)
    let slot := 128 * (s.ctxOf c).doneBase.toNat + 128 * (s.ctxOf c).doneWr.toNat
    ((s.ctxOf c).doneEn = false → m.ended = none → s.ownWrites c recordTile = [] →
      ∃ t, exec (.macroComplete c x) s = .next t ∧ leaves t ∧ t.mem = s.mem) ∧
    (∀ n, (s.ctxOf c).doneEn = true → s.ownWrites c recordTile = [] → s.lowestSpan c = some n →
      ∃ t m' w, exec (.macroComplete c x) s = .next t ∧ t.mem = s.mem ∧ ((t.ctxOf c).stream x).inflight = m' :: rest ∧
        m' = { m with start := m'.start, ended := some s.now } ∧ (t.ctxOf c).halt = none ∧ w ∈ (t.spanOf n).writes ∧
        w.ctx = some c.val ∧ w.index = 8 * m.index + m.slot ∧ w.tile = recordTile ∧ w.at_ = slot ∧ w.block = slot / 512 ∧
        w.bytes.length = 128 ∧ w.bytes.take 4 = leBytes 4 m.tag.toNat) ∧
    (∀ (n : Nat) (w : PierWrite) (l : List (Nat × PierWrite)), s.ownWrites c recordTile = (n, w) :: l → w.execute = x →
      w.index = 8 * m.index + m.slot →
      let free := w.sent = true ∧ (s.spanOf n).held (· == w) = false
      (free → ∃ t, exec (.macroComplete c x) s = .next t ∧ leaves t ∧ t.mem = Memory.writeBytes w.at_ w.bytes s.mem ∧
        (t.ctxOf c).doneTotal = (s.ctxOf c).doneTotal + 1 ∧
        (t.ctxOf c).doneWr.toNat = ((s.ctxOf c).doneWr.toNat + 1) % 2 ^ (s.ctxOf c).doneLog.toNat % 4096) ∧
      (¬free → exec (.macroComplete c x) s = .next s))

/-! ## Dealing, inputs, stealing, halos, rows -/

/-- TILE_DEAL: the tile of the one macro in flight goes to an unfenced core of its span that holds fewer than two tiles, none of which holds
fewer; the core lists it, it waits or loads, and the macro's START is taken at its first deal. TILE_DEAL leaves a span alone that no
context runs on; where a span has no owner, or its owner is halting, no tile is dealt. -/
def Obligations.DealingPicksAndHolds : Prop :=
  (∀ (n : Fin 16) (x : Bool) (s : State) (c : Fin 4) (m : MacroRun) (p : Plan),
     s.owner n.val = some c → s.runs c = true → s.mayLoad n.val = true → ((s.ctxOf c).stream x).inflight = [m] →
     ((s.ctxOf c).stream (!x)).inflight = [] → m.plan = some p → m.isShort = false → p.tiles = 1 → m.tileAt 0 = {} → m.replay = [] →
     m.dealSpan p 0 = n.val → m.queuesIn = [] → m.queuesOut = [] → m.grouped p = false → m.chained p = false → m.isLda = false →
     m.isRig [9] = false → m.sorts = false → ((s.evAt c m p 0 {}).pagedFail).or (m.evalOf (s.evAt c m p 0 {})).fail = none →
     (∀ k, (s.coreOf k).held.length ≤ 2) → (∃ k ∈ spanCores n.val, s.isFenced k = false ∧ (s.coreOf k).held.length < 2) →
     ∃ t m' core, exec (.tileDeal n) s = .next t ∧ core ∈ spanCores n.val ∧ s.isFenced core = false ∧ (s.coreOf core).held.length < 2 ∧
       (∀ k ∈ spanCores n.val, s.isFenced k = false → (s.coreOf core).held.length ≤ (s.coreOf k).held.length) ∧
       (t.coreOf core).held = (s.coreOf core).held ++ [(c.val, x, m.id, 0)] ∧ (∀ k, k ≠ core → t.coreOf k = s.coreOf k) ∧
       t.runAt c x 0 = some m' ∧ (m'.tileAt 0).core = core ∧ m'.dealtAny = true ∧
       (m'.tileAt 0).status = (if (s.evAt c m p 0 {}).pierReads (s.draft c m) false = [] then .waiting else .loading) ∧
       m'.start = (if m.dealtAny then m.start else BitVec.ofNat 64 s.now) ∧ t.mem = s.mem ∧ t.admin = s.admin) ∧
  (∀ (n : Fin 16) (s : State), (∀ c, s.owner n.val = some c → s.runs c = false) → exec (.tileDeal n) s = .next s)

/-- TILE_INPUT_READ asks the span's pier for the operands in reads of up to 512 B, under the lowest free tags, as far as tags are free, or halts
on a read outside the windows; a good PIER_READ_RESPONSE takes one off the tile's reads, and the last lets it wait for its core. A response
to a fetch read puts its bundles into the buffer, one to a read of a parameter block joins what its macro has read, and one to a read of the cox
what the cox has read. None comes before an older access of the pier to one of its lines has ended, and one of an earlier attempt, or of a
fetch that is no more, has no further effect. Nothing changes the shared cache. -/
def Obligations.TileInputsAreReadAndAnswered : Prop :=
  (∀ (core : Fin 2048) (s : State) (h : Nat × Bool × Nat × Nat) (c : Fin 4) (i : Nat) (m : MacroRun) (p : Plan) (r : TileRun),
    (s.coreOf core.val).held = [h] → s.heldTile h = some (c, i, m, p, r) → s.runs c = true → r.status = .loading → r.begun = false →
    let sp := s.spanOf (core.val / 128)
    let e := s.evAt c m p h.2.2.2 r
    let parts := e.readParts (s.draft c m) (m.sorting h.2.2.2)
    let reads := e.pierReads (s.draft c m) (m.sorting h.2.2.2)
    let out := (sp.reads.filter (fun q => q.2.ctx = c.val && q.2.tile = some (h.2.1, h.2.2.1, h.2.2.2))).map (fun q => (q.2.lo, q.2.hi))
    let next := m.nextReads reads out
    let tags := sp.freeTags.take next.length
    (s.readDomainFail c parts = none →
      ∃ t m', exec (.tileInputRead core) s = .next t ∧ t.mem = s.mem ∧ t.runAt c h.2.1 i = some m' ∧
        (m'.tileAt h.2.2.2).begun = true ∧ (m'.tileAt h.2.2.2).reads = r.reads + tags.length ∧
        (m'.tileAt h.2.2.2).todo = reads.drop tags.length ∧
        (m'.tileAt h.2.2.2).status = (if reads = [] then .waiting else .loading) ∧
        (∀ (j : Nat) (hj : j < tags.length), (t.spanOf (core.val / 128)).reads.find tags[j] =
          some ⟨c.val, some (h.2.1, h.2.2.1, h.2.2.2), s.spanBeat (core.val / 128), r.attempt, (next.getD j (0, 0)).1, (next.getD j (0, 0)).2,
            sp.accesses + j⟩) ∧
        (∀ g, g ∉ tags → (t.spanOf (core.val / 128)).reads.find g = sp.reads.find g)) ∧
    (∀ f, s.readDomainFail c parts = some f →
      ∃ t q, exec (.tileInputRead core) s = .next t ∧ s.Halts t c q ∧ q.code = f.code ∧ q.core = core.val ∧ q.tag = m.tag)) ∧
  (∀ (span : Fin 16) (tag : Fin 64) (s : State) (d : PierRead), (s.spanOf span.val).reads.find tag.val = some d →
    let sp := s.spanOf span.val
    let u := s.setSpan span.val { sp with reads := sp.reads.erase tag.val }
    let first := sp.ordered d.seq d.lo d.hi true true (fun _ => false)
    (first = true → ∀ poison, exec (.pierReadResponse span tag poison) s = .next s) ∧
    (∀ (e : Bool) (id k i : Nat) (m : MacroRun), first = false → d.ctx ≠ 7 → d.tile = some (e, id, k) → k ≠ blockTile →
      ((s.ctxOf (ctxNo d.ctx)).stream e).byId id = some (i, m) →
      (m.plan.isSome = true → (m.tileAt k).status = .loading → (m.tileAt k).begun = true → d.attempt = (m.tileAt k).attempt →
        exec (.pierReadResponse span tag false) s = .next (u.setRun (ctxNo d.ctx) e i (m.setTile k { m.tileAt k with
          reads := (m.tileAt k).reads - 1, staged := s.spanBeat span.val, seen := some (Memory.overlay d.lo d.hi s.mem ((m.tileAt k).seen.getD []))
          status := if (m.tileAt k).reads ≤ 1 ∧ (m.tileAt k).todo = [] then .waiting else .loading }))) ∧
      (d.attempt ≠ (m.tileAt k).attempt → exec (.pierReadResponse span tag false) s = .next u)) ∧
    (∀ (e : Bool) (id i : Nat) (m : MacroRun), first = false → d.ctx ≠ 7 → d.tile = some (e, id, blockTile) →
      ((s.ctxOf (ctxNo d.ctx)).stream e).byId id = some (i, m) →
      exec (.pierReadResponse span tag false) s = .next (u.setRun (ctxNo d.ctx) e i { m with blockRead := m.blockRead.map (fun b =>
        { b with out := b.out - 1, seen := Memory.overlay d.lo d.hi s.mem b.seen }) })) ∧
    (∀ r, first = false → d.ctx = 7 → s.glob.coxRead = some r →
      ((d.tile.map (fun q => q.2.1)).getD 0 ≠ r.gen → exec (.pierReadResponse span tag false) s = .next u) ∧
      ((d.tile.map (fun q => q.2.1)).getD 0 = r.gen → r.todo = [] → ∃ t, exec (.pierReadResponse span tag false) s = .next t ∧
        t.glob = { s.glob with coxRead := some { r with out := r.out - 1, seen := Memory.overlay d.lo d.hi s.mem r.seen } } ∧
        t.mem = s.mem ∧ (t.spanOf span.val).reads = sp.reads.erase tag.val)) ∧
    (first = false → d.ctx ≠ 7 → d.tile = none → (s.ctxOf (ctxNo d.ctx)).fetches span.val tag.val = false →
      exec (.pierReadResponse span tag false) s = .next u) ∧
    (∀ f, first = false → d.ctx ≠ 7 → d.tile = none → (s.ctxOf (ctxNo d.ctx)).fetch = some f → f.span = span.val → f.tag = tag.val →
      ∃ t got, exec (.pierReadResponse span tag false) s = .next t ∧ t.mem = s.mem ∧ (t.spanOf span.val).reads = sp.reads.erase tag.val ∧
        (t.ctxOf (ctxNo d.ctx)).fetch = none ∧ (t.ctxOf (ctxNo d.ctx)).buffer = (s.ctxOf (ctxNo d.ctx)).buffer ++ got ∧
        got.length = f.bundles ∧ ∀ (j : Nat) (hj : j < got.length), got[j].addr = BitVec.ofNat 64 (f.addr + 64 * j) ∧
          got[j].bits = BitVec.ofNat 512 (ofLe (s.mem.readBytes (f.addr + 64 * j) 64))))

/-- PIER_READ_TIMEOUT and PIER_WRITE_TIMEOUT act after 65,536 beats of the span and not before. A read that times out, like a poisoned response:
a tile that fails for the first time is recorded as 0x0A84 and goes to replay off its core, a second failure halts its context with 0x0A01;
a fetch read is sent again once, recorded as 0x0A84, and its second failure halts with 0x0A02. A write is sent again once, and its second
timeout halts the context with 0x0A02, the tile counted as committed, or, of a completion record or of the trace, each 64 B piece of it
written or not; a telemetry record is dropped and recorded as 0x0A8B. -/
def Obligations.PierFailuresRetryThenHalt : Prop :=
  (∀ (span : Fin 16) (tag : Fin 64) (beat : Nat) (s : State) (d : PierRead),
     (s.spanOf span.val).reads.find tag.val = some d → (s.advanceTo beat).spanBeat span.val < d.beat + 65536 →
     exec (.pierReadTimeout span tag beat) s = .next (s.advanceTo beat)) ∧
  (∀ (span : Fin 16) (tag : Fin 64) (beat : Nat) (s : State) (d : PierRead),
     (s.spanOf span.val).reads.find tag.val = some d →
     (s.spanOf span.val).ordered d.seq d.lo d.hi true true (fun _ => false) = false → s.runs (ctxNo d.ctx) = true →
     let c := ctxNo d.ctx
     let u := s.advanceTo beat
     let noted (t : State) : Prop := t.mem = s.mem ∧ t.ring.seq = s.ring.seq + 1 ∧ field (t.ring.records.get s.ring.wr.toNat 0) 0 16 = 0x0A84
     (∀ (e : Bool) (id k i : Nat) (m : MacroRun) (p : Plan), d.ctx < 4 → d.tile = some (e, id, k) → k ≠ blockTile →
       ((s.ctxOf c).stream e).byId id = some (i, m) → m.plan = some p → (m.tileAt k).status = .loading → (m.tileAt k).begun = true →
       d.attempt = (m.tileAt k).attempt → m.crewBound p = false → (s.coreOf (m.tileAt k).core).dueSwaps = [] →
       let replays (t : State) : Prop := ∃ m', t.runAt c e i = some m' ∧
         (m'.tileAt k).status = (if (m.tileAt k).hasParked then .parked else .undealt) ∧ (m'.tileAt k).fails = 1 ∧ k ∈ m'.replay ∧
         (m'.tileAt k).attempt = d.attempt + 1 ∧ (d.ctx, e, m.id, k) ∉ (t.coreOf (m.tileAt k).core).held ∧ (t.ctxOf c).halt = none ∧
         (t.ctxOf c).replays = satAdd (s.ctxOf c).replays 1
       let halts (t : State) : Prop := ∃ h, (t.ctxOf c).halt = some h ∧ h.code = 0x0A01
       ((m.tileAt k).fails = 0 → ∃ t, exec (.pierReadResponse span tag true) s = .next t ∧ noted t ∧ replays t) ∧
       ((m.tileAt k).fails = 0 → u.spanBeat span.val ≥ d.beat + 65536 →
         ∃ t, exec (.pierReadTimeout span tag beat) s = .next t ∧ noted t ∧ replays t) ∧
       ((m.tileAt k).fails ≥ 1 → ∃ t, exec (.pierReadResponse span tag true) s = .next t ∧ noted t ∧ halts t) ∧
       ((m.tileAt k).fails ≥ 1 → u.spanBeat span.val ≥ d.beat + 65536 →
         ∃ t, exec (.pierReadTimeout span tag beat) s = .next t ∧ noted t ∧ halts t)) ∧
     (∀ f, d.ctx < 4 → d.tile = none → (s.ctxOf c).fetch = some f → f.span = span.val → f.tag = tag.val → u.spanBeat span.val ≥ d.beat + 65536 →
       (f.retried = false → u.inWindow c f.window.toNat f.addr (f.addr + 64 * f.bundles - 1 : Nat) false = true →
         ∃ t, exec (.pierReadTimeout span tag beat) s = .next t ∧ noted t ∧ (t.ctxOf c).halt = none ∧
           (t.ctxOf c).fetch = some { f with retried := true, beat := u.spanBeat f.span }) ∧
       (f.retried = true → ∃ t h, exec (.pierReadTimeout span tag beat) s = .next t ∧ t.mem = s.mem ∧ (t.ctxOf c).fetch = none ∧
         (t.ctxOf c).halt = some h ∧ h.code = 0x0A02))) ∧
  (∀ (span : Fin 16) (index beat : Nat) (s : State) (w : PierWrite), (s.spanOf span.val).writes[index]? = some w →
     let sp := s.spanOf span.val
     let u := s.advanceTo beat
     (u.spanBeat span.val < w.beat + 65536 → exec (.pierWriteTimeout span index beat) s = .next u) ∧
     (u.spanBeat span.val ≥ w.beat + 65536 → w.retried = false → exec (.pierWriteTimeout span index beat) s = .next (u.setSpan span.val
       { sp with writes := sp.writes.set index { w with beat := u.spanBeat span.val, retried := true } })) ∧
     (∀ (k : Nat) (c : Fin 4) (i : Nat) (m : MacroRun) (p : Plan) (r : TileRun) (o : TileOut), u.spanBeat span.val ≥ w.beat + 65536 →
       w.retried = true → w.ctx = some k → w.tile < recordTile → s.heldTile (k, w.execute, w.index, w.tile) = some (c, i, m, p, r) →
       r.out = some o → s.runs c = true → m.slot ≠ 4 →
       ∃ t m' h, exec (.pierWriteTimeout span index beat) s = .next t ∧ (t.ctxOf c).halt = some h ∧ (m.isRig [5] = false → h.code = 0x0A02) ∧
         h.beat = u.time.beat ∧ t.runAt c w.execute i = some m' ∧ (m'.tileAt w.tile).status = .committed) ∧
     (∀ k, u.spanBeat span.val ≥ w.beat + 65536 → w.retried = true → w.ctx = some k → recordTile ≤ w.tile → s.runs (ctxNo k) = true →
       ∃ t h, exec (.pierWriteTimeout span index beat) s = .next t ∧ (t.ctxOf (ctxNo k)).halt = some h ∧ h.code = 0x0A02 ∧
         (s.MemoryCanonical →
           (∀ j, t.mem.read (w.at_ + j) = s.mem.read (w.at_ + j) ∨ t.mem.read (w.at_ + j) = w.bytes.getD j 0) ∧
           (∀ a, a < w.at_ ∨ w.at_ + w.bytes.length ≤ a → t.mem.read a = s.mem.read a))) ∧
     (u.spanBeat span.val ≥ w.beat + 65536 → w.retried = true → w.ctx = none →
       ∃ t, exec (.pierWriteTimeout span index beat) s = .next t ∧ t.mem = s.mem ∧
         t.glob.telem = s.glob.telem.filter (fun e => e.id ≠ w.index) ∧ t.ring.seq = s.ring.seq + 1 ∧
         field (t.ring.records.get s.ring.wr.toNat 0) 0 16 = 0x0A8B ∧ ∀ v ∈ (t.spanOf span.val).writes, v.ctx ≠ none ∨ v.index ≠ w.index))

/-- ROW_STAT_CLOSE closes the row of the oldest macro whose tiles' partials are all in, with the row's root, local or brought back by the
viaduct, one that came in this beat not before the next: the macro keeps it, the carries through the relay are counted, no other row of it
and nothing else of the machine changes. -/
def Obligations.RowStatCloseRecordsTheRow : Prop :=
  ∀ (c : Fin 4) (row : Nat) (s : State) (i : Nat) (m : MacroRun) (p : Plan), s.runs c = true →
    (s.ctxOf c).execRun (fun m p => m.closesRows p && (m.closed.find row).isNone && m.rowReady p row &&
      (m.via = some 0 || ((s.ctxOf c).viaResult m row s.time.beat).isSome)) = some (i, m, p) →
    let e := s.evAt c m p ((m.tilesOf p row).headD 0) (m.tileAt ((m.tilesOf p row).headD 0))
    let back := messagesBack (((s.ctxOf c).viaResult m row s.time.beat).getD [])
    ∃ t m', exec (.rowStatClose c row) s = .next t ∧ s.OnlyCtx t c ∧ t.runAt c true i = some m' ∧
      m' = { m with closed := m'.closed } ∧
      m'.closed.find row = some (if m.via = some 0 then e.closedOf ((e.rowValue (p.rowIdx row)).bind Prod.snd) (e.rowCands (p.rowIdx row))
        else e.closedOf back.1 back.2) ∧
      (∀ r, r ≠ row → m'.closed.find r = m.closed.find r) ∧ (∀ j, j ≠ i → t.runAt c true j = s.runAt c true j) ∧
      (t.ctxOf c).carryRelay = satAdd (s.ctxOf c).carryRelay (m.rowRelays p row)

/-- STEAL_GRANT: an idle core that has asked takes a tile that has not started, from the one core of its crew that has one, and where none of its
crew has one from the one core of its span that has one whose reads have not begun, which is counted for the tile's context: the tile moves
to the head of the thief's tiles, and the loser keeps its others. A lower-numbered core that claims the same tile goes first: the other only
notes its victim. A core that may not take a tile takes none. -/
def Obligations.StealMovesOneWaitingTile : Prop :=
  (∀ (core v : Fin 2048) (other : Bool) (s : State) (h : Nat × Bool × Nat × Nat) (c : Fin 4) (i : Nat) (m : MacroRun) (p : Plan) (r : TileRun),
    (s.coreOf core.val).asking = true → (s.coreOf core.val).held = [] → s.isFenced core.val = false → v ≠ core →
    v.val / 128 = core.val / 128 → (other = false ↔ v.val / 8 = core.val / 8) → s.prey v.val other = some h → s.heldTile h = some (c, i, m, p, r) →
    (∀ k : Nat, k / 8 = core.val / 8 → k ≠ core.val → k ≠ v.val → s.prey k false = none) →
    (other = true → ∀ k : Nat, k / 128 = core.val / 128 → k / 8 ≠ core.val / 8 → k ≠ v.val → s.prey k true = none) →
    (s.outbid core.val h = false → ∃ t m', exec (.stealGrant core) s = .next t ∧ t.mem = s.mem ∧ (t.coreOf core.val).held = [h] ∧
      (t.coreOf core.val).asking = false ∧ (t.coreOf v.val).held = (s.coreOf v.val).held.erase h ∧ t.runAt c h.2.1 i = some m' ∧
      m' = m.setTile h.2.2.2 { r with core := core.val } ∧
      (t.spanOf (core.val / 128)).steals = (s.spanOf (core.val / 128)).steals + 1 ∧
      (t.spanOf (core.val / 128)).lastVictim.get (core.val % 128) 0 = v.val ∧
      (t.ctxOf c).stealsSpan = (if other then satAdd (s.ctxOf c).stealsSpan 1 else (s.ctxOf c).stealsSpan)) ∧
    (s.outbid core.val h = true → ∃ t, exec (.stealGrant core) s = .next t ∧ s.OnlySpan t (core.val / 128) ∧
      (t.spanOf (core.val / 128)).lastVictim.get (core.val % 128) 0 = v.val)) ∧
  (∀ (core : Fin 2048) (s : State),
    ((s.coreOf core.val).asking = false ∨ s.isFenced core.val = true ∨ (s.coreOf core.val).held.length ≥ 2 ∨
      ((s.coreOf core.val).held ≠ [] ∧ (s.coreOf core.val).dealtAt ≠ some (s.spanBeat (core.val / 128)))) →
    exec (.stealGrant core) s = .next s)

/-- HALO_SEND lets the next tile along the axis start, counting a reload only where no open link joins the two crews; a transfer that failed its
parity once is repeated and counted, here and for a carry; HALO_TIMEOUT reloads a
halo 65,536 beats of the span after the tile's inputs are staged, and not before; CARRY_SEND hands a scan tile's carry to the next tile, and
the last one's across the seam where the scan spans it. Nothing is stored. -/
def Obligations.HalosAndCarriesReachTheNextTile : Prop :=
  (∀ (core : Fin 2048) (errors : Fin 3) (s : State) (h : Nat × Bool × Nat × Nat) (c : Fin 4) (i n : Nat) (m : MacroRun) (p : Plan)
    (r : TileRun), errors ≠ 2 →
    (s.coreOf core.val).held = [h] → s.heldTile h = some (c, i, m, p, r) → s.runs c = true → p.halo ≠ 0 →
    (r.status = .waiting ∨ r.status = .executing) → m.nextAlong p h.2.2.2 = some n →
    ((m.tileAt n).status = .loading ∨ (m.tileAt n).status = .waiting) → (m.tileAt n).halo = false →
    let far : Bool := decide (r.core / 8 ≠ (m.tileAt n).core / 8) && !s.trestleOpen c (r.core / 8) ((m.tileAt n).core / 8)
    ∃ t, exec (.haloSend ⟨core, errors⟩) s = .next t ∧ t.mem = s.mem ∧ (t.spanOf (core.val / 128)).parity =
        (if errors = 0 then (s.spanOf (core.val / 128)).parity else satAdd (s.spanOf (core.val / 128)).parity errors.val) ∧
      t.runAt c h.2.1 i = some (m.setTile n { m.tileAt n with halo := true }) ∧
      (t.ctxOf c).haloReload = (if far then satAdd (s.ctxOf c).haloReload 1 else (s.ctxOf c).haloReload)) ∧
  (∀ (core : Fin 2048) (beat : Nat) (s : State) (h : Nat × Bool × Nat × Nat) (c : Fin 4) (i : Nat) (m : MacroRun) (p : Plan) (r : TileRun),
    (s.coreOf core.val).held = [h] → s.heldTile h = some (c, i, m, p, r) → s.runs c = true → p.halo ≠ 0 → r.status = .waiting → r.halo = false →
    (r.staged + 65536 ≤ (s.advanceTo beat).spanBeat (core.val / 128) → ∃ t, exec (.haloTimeout core beat) s = .next t ∧ t.mem = s.mem ∧
      t.runAt c h.2.1 i = some (m.setTile h.2.2.2 { r with halo := true }) ∧ (t.ctxOf c).haloReload = satAdd (s.ctxOf c).haloReload 1) ∧
    ((s.advanceTo beat).spanBeat (core.val / 128) < r.staged + 65536 → exec (.haloTimeout core beat) s = .next (s.advanceTo beat))) ∧
  (∀ (core : Fin 2048) (errors : Fin 3) (s : State) (h : Nat × Bool × Nat × Nat) (c : Fin 4) (i : Nat) (m : MacroRun) (p : Plan)
    (r : TileRun) (w : List Word), errors ≠ 2 →
    (s.coreOf core.val).held = [h] → s.heldTile h = some (c, i, m, p, r) → s.runs c = true → h.2.1 = true → m.isVec 0x05 = true →
    r.status = .executing → r.carry = some w →
    (∀ n, m.nextAlong p h.2.2.2 = some n → m.carries.find n = none → ∃ t m', exec (.carrySend ⟨core, errors⟩) s = .next t ∧
      (errors = 0 → s.OnlyCtx t c) ∧ t.mem = s.mem ∧ t.runAt c true i = some m' ∧ (m'.carries.find n).isSome = true ∧ (∀ k, k ≠ n → m'.carries.find k = m.carries.find k) ∧
      m' = { m with carries := m'.carries }) ∧
    (m.nextAlong p h.2.2.2 = none → p.seam = true → m.mode 6 1 = 0 → m.seamSent.contains h.2.2.2 = false → s.seamOpen true = true →
      ∃ t, exec (.carrySend ⟨core, errors⟩) s = .next t ∧ t.mem = s.mem ∧
        t.glob.seamOut.map Prod.fst = s.glob.seamOut.map Prod.fst ++ [c.val] ∧
        (errors = 0 → t.glob.seamOut = s.glob.seamOut ++ [(c.val, (s.evAt c m p h.2.2.2 r).carryOut)]) ∧
        t.runAt c true i = some { m with seamSent := m.seamSent ++ [h.2.2.2] }))

/-! ## Beat-scheduled short operations -/

/-- VSHORT_START: once the reads before this beat have been made, the crew's oldest VSHORT starts if the occupancy of the one before and its
spacing have passed: it is given its start, and each destination line takes as its stamp the beat at which it will land; the cache words
stay. Where one of those reads has halted its context, and before its occupancy and spacing have passed, while a started one has not come to
its row, or while the surge governor has still to grant an idle span its load, it does not start. -/
def Obligations.VshortStartsWaitsOrHalts : Prop :=
  (∀ (crew : Fin 256) (s : State) (w : ShortRun) (rest : List ShortRun),
     let beat := s.spanBeat (crew.val / 16)
     let u := s.readsDue crew.val beat
     let k := u.crewOf crew.val
     let dest (j : Nat) : Nat := ((u.ctxOf (ctxNo w.ctx)).bay (Short.dBay w.bits)).base + Short.dOff w.bits + j
     (s.crewOf crew.val).waiting = w :: rest → s.runs (ctxNo w.ctx) = true → (s.crewOf crew.val).awaits = false →
     s.mayLoad (crew.val / 16) = true →
     (∀ q, (s.crewOf crew.val).lastStart = some q → q.1 + q.2 ≤ beat ∧ q.1 + w.gap ≤ beat) → u.runs (ctxNo w.ctx) = true →
     ∃ t run, exec (.vshortStart crew s.time.beat) s = .next t ∧ t.mem = s.mem ∧ (t.ctxOf (ctxNo w.ctx)).halt = none ∧
       (t.crewOf crew.val).waiting = rest ∧ (t.crewOf crew.val).started = k.started ++ [run] ∧ run.bits = w.bits ∧ run.start = beat ∧
       run.landing = (List.range (Short.dstLines w.bits)).map (fun j => (dest j, beat + Short.landAt w.bits j)) ∧
       (t.crewOf crew.val).lastStart = some (beat, Short.occupancy w.bits) ∧ (t.crewOf crew.val).oc = k.oc ∧
       (∀ j < Short.dstLines w.bits, (t.crewOf crew.val).stamps.get (dest j) 0 = BitVec.ofNat 32 (beat + Short.landAt w.bits j)) ∧
       (∀ l, (∀ j < Short.dstLines w.bits, l ≠ dest j) → (t.crewOf crew.val).stamps.get l 0 = k.stamps.get l 0)) ∧
  (∀ (crew : Fin 256) (s : State) (w : ShortRun) (rest : List ShortRun),
     let k := s.crewOf crew.val
     let beat := s.spanBeat (crew.val / 16)
     k.waiting = w :: rest →
     (k.awaits = true ∨ s.mayLoad (crew.val / 16) = false ∨ (∃ q, k.lastStart = some q ∧ (beat < q.1 + q.2 ∨ beat < q.1 + w.gap))) →
     exec (.vshortStart crew s.time.beat) s = .next s) ∧
  (∀ (crew : Fin 256) (s : State) (w : ShortRun) (rest : List ShortRun),
     let beat := s.spanBeat (crew.val / 16)
     (s.crewOf crew.val).waiting = w :: rest → s.runs (ctxNo w.ctx) = true → (s.crewOf crew.val).awaits = false →
     s.mayLoad (crew.val / 16) = true →
     (∀ q, (s.crewOf crew.val).lastStart = some q → q.1 + q.2 ≤ beat ∧ q.1 + w.gap ≤ beat) →
     (s.readsDue crew.val beat).runs (ctxNo w.ctx) = false →
     exec (.vshortStart crew s.time.beat) s = .next (s.readsDue crew.val beat))

/-- Each of the 26 sub-operation rows takes the oldest started VSHORT of its code on its crew whose row has not come: it runs, and the reads that
are due on the crews of its context are made; the cache words, the cores, the spans and the shared cache stay. Its result words are those that
its code gives for the operand words that it has read. A read of a pending line in its first beat halts its context with EARLY_READ, and no
line of it after that beat will be written. -/
def Obligations.VshortRowsEvaluateTheirCode : Prop :=
  ∀ (crew : Fin 256) (s : State), ∀ row ∈ State.shortRows crew, ∀ (r : ShortRun) (pre post : List ShortRun),
    (s.crewOf crew.val).started = pre ++ r :: post → (∀ q ∈ pre, q.evaluated = true ∨ Short.sop q.bits ≠ row.2) → r.evaluated = false →
    Short.sop r.bits = row.2 →
    let c := ctxNo r.ctx
    let u := s.setCrew crew.val { s.crewOf crew.val with started := pre ++ { r with evaluated := true } :: post }
    (∃ t r', exec row.1 s = .next t ∧ t = u.readsNow c ∧ t.mem = s.mem ∧ t.cores = s.cores ∧ t.spans = s.spans ∧ t.admin = s.admin ∧
      t.hists = s.hists ∧ t.glob = s.glob ∧ (∀ k, (t.crewOf k).oc = (s.crewOf k).oc) ∧
      (t.crewOf crew.val).started[pre.length]? = some r' ∧ r'.evaluated = true ∧ r'.bits = r.bits ∧ r'.start = r.start ∧ r'.dest = r.dest) ∧
    (∀ j w, Short.folds r.bits = false → w < 64 → 64 * j + w < Short.count r.bits →
      (r.lineWords j)[w]? = some (stageOp row.2 (Short.fn r.bits) false false (r.operand 0 (64 * j + w)) (r.operand 1 (64 * j + w))
        (r.operand 2 (64 * j + w))).finish.1) ∧
    (∀ i m q, pre = [] → post = [] → (crewsOf (s.adminOf c).owned).filter (fun k => !(u.crewOf k).started.isEmpty) = [crew.val] →
      s.runs c = true → r.start = s.spanBeat (crew.val / 16) → r.got = [] → r.endAt = none → 0 < Short.count r.bits →
      r.earlyAt (s.ctxOf c) (s.crewOf crew.val) 0 = some q → s.shortRun c r.index = some (i, m) →
      ∃ t h r', exec row.1 s = .next t ∧ t.mem = s.mem ∧ (t.ctxOf c).halt = some h ∧ h.code = 0x0401 ∧ h.beat = s.time.beat ∧
        (t.crewOf crew.val).started = [r'] ∧ ∀ l ∈ r'.landing, l.2 ≤ r.start)

/-- The integer sub-operations on every pair of words: sums modulo 2^32, bitwise operations, shifts by the low five bits; and the sign-bit
operations ABS and NEG on any word, NaN included. None raises an event. -/
def Obligations.VshortWordResults : Prop :=
  ∀ a b : Word,
    let r (code : Nat) := (stageOp code 0 false false a b 0).finish
    (∀ p ∈ [(0x10, a + b), (0x11, a - b), (0x12, a &&& b), (0x13, a ||| b), (0x14, a ^^^ b), (0x15, a <<< (b.toNat % 32)),
        (0x16, a >>> (b.toNat % 32)), (0x17, a.sshiftRight (b.toNat % 32)), (0x09, a &&& 0x7FFFFFFF#32), (0x0A, a ^^^ 0x80000000#32), (0x01, a)],
      (r p.1).1 = p.2 ∧ (r p.1).2.2 = [])

/-- VSHORT_LINE_LAND: with every started VSHORT at its row and no read outstanding, the line that lands first, due by now, is written with its
result words and no other; before it is due nothing changes. A line whose LD has not committed, or one that an LD tile has written in the
same beat, halts the context with WRITE_CONFLICT and keeps its words. -/
def Obligations.VshortLineLandsOrConflicts : Prop :=
  ∀ (crew : Fin 256) (s : State) (r : ShortRun) (line due : Nat),
    let k := s.crewOf crew.val
    let beat := s.spanBeat (crew.val / 16)
    let c := ctxNo r.ctx
    let words := r.lineWords (line - r.dest)
    k.started = [r] → r.evaluated = true → k.nextLanding = some (0, r, line, due) →
    (beat < due → exec (.vshortLineLand crew s.time.beat) s = .next s) ∧
    (due ≤ beat → s.readsNow c = s → k.marked.get line false = false → k.loads.find line ≠ some due →
      ∃ t, exec (.vshortLineLand crew s.time.beat) s = .next t ∧ s.OnlyCrew t crew.val ∧
        (∀ l w, w < 64 → l ≠ line → (t.crewOf crew.val).oc.get (64 * l + w) 0 = k.oc.get (64 * l + w) 0) ∧
        (∀ w, w < words.length → (t.crewOf crew.val).oc.get (64 * line + w) 0 = words.getD w 0) ∧
        (∀ w, words.length ≤ w → w < 64 → (t.crewOf crew.val).oc.get (64 * line + w) 0 = k.oc.get (64 * line + w) 0)) ∧
    (∀ i m, due ≤ beat → s.readsNow c = s → (k.marked.get line false = true ∨ k.loads.find line = some due) →
      s.shortRun c r.index = some (i, m) → s.runs c = true →
      ∃ t h, exec (.vshortLineLand crew s.time.beat) s = .next t ∧ t.mem = s.mem ∧ (t.crewOf crew.val).oc = k.oc ∧
        (t.ctxOf c).halt = some h ∧ h.code = 0x0402)

/-! ## The matrix-engine port -/

/-- FTQ_ENTRY, in Queued mode: the entry that follows in sequence and names a bank the engine owns, the command of whose product it was
sent, gives the bank and its product to the crew (in rig 5 its first phase then goes on); one that names another bank halts with 0x0702; a
bad one is refused and counted, and a second one refused in a row halts with 0x0701. ME_FINISH_SIGNAL, in Direct mode, marks the product
finished and the crew's claim of its bank outstanding, or halts with 0x0702. BANK_CLAIM_GRANT gives the bank to the engine where it asks and
its product still accumulates there, and else to the claiming crew; while the product accumulates a claim stands, since its first beat, and
an engine that asks for a bank it may not have waits, is counted and timed. An engine that releases its bank gives it up; the release of a
bank that it does not own halts with 0x0702. ME_PORT_TIMEOUT halts after 65,536 beats of the span on the queue and 16,384 on the other
channels, and not before, naming the bank. A staged correction of attention commits with its rig's row: the state of the query tile's rows
moves on, and the score bank is the engine's again. -/
def Obligations.MatrixPortMovesBanks : Prop :=
  (∀ (crew : Fin 256) (bank : Fin 16) (seq : BitVec 8) (parityOk invalid : Bool) (s : State) (c : Fin 4),
     let k := s.crewOf crew.val
     let ok := parityOk = true ∧ seq = k.ftqSeq + 1
     s.owner (crew.val / 16) = some c → s.runs c = true → (s.ctxOf c).cplMode = false →
     (k.banks.filter (fun e => e.2.finished)).length < 8 →
     (∀ b i m p, ok → k.banks.find bank.val = some b → b.mayFinish = true → s.bankRun c b = some (i, m, p) →
       ∃ t m', exec (.ftqEntry crew bank seq parityOk invalid) s = .next t ∧ t.mem = s.mem ∧ (∀ j, j ≠ crew.val → t.crewOf j = s.crewOf j) ∧
         (t.crewOf crew.val).ftqSeq = seq ∧ (t.crewOf crew.val).ftqRefused = false ∧
         (m.isRig [5] = false → k.cmds = [] → (t.ctxOf c).halt = none) ∧
         (m.isRig [5] = false → k.cmds = [] ∨ Table.sorted k.banks = true → ∃ asked, (k.cmds = [] → asked = false) ∧ (t.crewOf crew.val).banks.find bank.val =
           some { b with finished := true, asked := asked, accumulating := false, crewOwns := true, invalid := invalid }) ∧
         t.runAt c true i = some m' ∧ (m'.finished.find b.product).isSome = true ∧
         m'.counts.events.length = m.counts.events.length + (if invalid then 1 else 0)) ∧
     (ok → (∀ b, k.banks.find bank.val = some b → b.mayFinish = false) →
       ∃ t h, exec (.ftqEntry crew bank seq parityOk invalid) s = .next t ∧ t.mem = s.mem ∧ (t.crewOf crew.val).banks = k.banks ∧
         (t.ctxOf c).halt = some h ∧ h.code = 0x0702) ∧
     (¬ok → k.ftqRefused = false → exec (.ftqEntry crew bank seq parityOk invalid) s = .next
       ((s.setCtx c { s.ctxOf c with ftqRetry := satAdd (s.ctxOf c).ftqRetry 1 }).setCrew crew.val { k with ftqRefused := true })) ∧
     (¬ok → k.ftqRefused = true → ∃ t h, exec (.ftqEntry crew bank seq parityOk invalid) s = .next t ∧ s.OnlyCtx t c ∧
       (t.ctxOf c).ftqRetry = satAdd (s.ctxOf c).ftqRetry 1 ∧ (t.ctxOf c).halt = some h ∧ h.code = 0x0701)) ∧
  (∀ (crew : Fin 256) (bank : Fin 16) (invalid : Bool) (s : State) (c : Fin 4), s.owner (crew.val / 16) = some c → s.runs c = true →
     (s.ctxOf c).cplMode = true →
     let k := s.crewOf crew.val
     (∀ b, k.banks.find bank.val = some b → b.mayFinish = true →
       ∃ t, exec (.meFinishSignal crew bank invalid) s = .next t ∧ t.mem = s.mem ∧ (k.cmds = [] → s.OnlyCrew t crew.val) ∧
         (k.cmds = [] ∨ Table.sorted k.banks = true → ∃ asked, (k.cmds = [] → asked = false) ∧ (t.crewOf crew.val).banks.find bank.val = some { b with
           finished := true, asked := asked, accumulating := false, invalid := invalid, claimed := true
           claimedAt := if b.claimed then b.claimedAt else s.spanBeat (crew.val / 16) })) ∧
     ((∀ b, k.banks.find bank.val = some b → b.mayFinish = false) →
       ∃ t q, exec (.meFinishSignal crew bank invalid) s = .next t ∧ s.Halts t c q ∧ q.code = 0x0702)) ∧
  (∀ (crew : Fin 256) (bank : Fin 16) (me cr : Bool) (s : State) (c : Fin 4) (b : Bank), s.owner (crew.val / 16) = some c → s.runs c = true →
     (s.crewOf crew.val).banks.find bank.val = some b →
     let k := s.crewOf crew.val
     let beat := s.spanBeat (crew.val / 16)
     let put (b' : Bank) : State := s.setCrew crew.val { k with banks := k.banks.set bank.val b' }
     let counted : State := s.setCtx c { s.ctxOf c with meWaits := satAdd (s.ctxOf c).meWaits 1 }
     let kept : Bank := if cr then { b with claimed := true, claimedAt := if b.claimed then b.claimedAt else beat } else b
     (me = true → (b.byMe = true ∨ (cr = false ∧ s.meMay c b = true ∧ b.finished = false)) →
       exec (.bankClaimGrant crew bank ⟨me, false⟩ cr) s = .next (put { kept with crewOwns := false, accumulating := true, meSince := none })) ∧
     (me = true → cr = false → b.byMe = false → (s.meMay c b = false ∨ b.finished = true) → exec (.bankClaimGrant crew bank ⟨me, false⟩ cr) s = .next
       (counted.setCrew crew.val { k with banks := k.banks.set bank.val { b with meSince := b.meSince.or (some beat) } })) ∧
     (me = false → cr = true → b.byMe = true → exec (.bankClaimGrant crew bank ⟨me, false⟩ cr) s = .next (put kept)) ∧
     (cr = true → b.byMe = false →
       ∃ t, exec (.bankClaimGrant crew bank ⟨me, false⟩ cr) s = .next t ∧ t.mem = s.mem ∧ (∀ j, j ≠ crew.val → t.crewOf j = s.crewOf j) ∧
         (t.ctxOf c).meWaits = (if me then satAdd (s.ctxOf c).meWaits 1 else (s.ctxOf c).meWaits) ∧
         ((∀ i m p, s.bankRun c b = some (i, m, p) → m.isRig [5] = false) → ∃ b', (t.crewOf crew.val).banks.find bank.val = some b' ∧
           b'.crewOwns = true ∧ (b.product % 16 ≠ 4 → b'.claimed = false ∧ b'.accumulating = false)) ∧
         (b.finished = true → b.crewOwns = false → ∀ i m p, s.bankRun c b = some (i, m, p) →
           ∃ m', t.runAt c true i = some m' ∧ (m'.finished.find b.product).isSome = true)) ∧
     (me = false → cr = false → exec (.bankClaimGrant crew bank ⟨me, false⟩ cr) s = .next s) ∧
     (me = false → cr = false → (b.crewOwns = true ∨ (b.accumulating = false ∧ b.finished = false)) →
       ∃ t q, exec (.bankClaimGrant crew bank ⟨me, true⟩ cr) s = .next t ∧ s.Halts t c q ∧ q.code = 0x0702) ∧
     (me = false → cr = false → b.crewOwns = false → (b.accumulating = true ∨ b.finished = true) → b.claimed = false →
       exec (.bankClaimGrant crew bank ⟨me, true⟩ cr) s = .next (put { b with accumulating := false }))) ∧
  (∀ (crew : Fin 256) (bank : Fin 16) (me cr : Bool) (s : State) (c : Fin 4), s.owner (crew.val / 16) = some c → s.runs c = true →
     (s.crewOf crew.val).banks.find bank.val = none → exec (.bankClaimGrant crew bank ⟨me, false⟩ cr) s = .next s ∧
     ∃ t q, exec (.bankClaimGrant crew bank ⟨me, true⟩ cr) s = .next t ∧ s.Halts t c q ∧ q.code = 0x0702) ∧
  (∀ (crew : Fin 256) (ch : Fin 4) (beat : Nat) (s : State) (c : Fin 4), s.owner (crew.val / 16) = some c → s.runs c = true →
     let k := s.crewOf crew.val
     let now := (s.advanceTo beat).spanBeat (crew.val / 16)
     let waits (b : Bank) : Prop := (b.claimed = true ∧ b.claimedAt + 16384 ≤ now) ∨ ∃ u, b.meSince = some u ∧ u + 16384 ≤ now
     let late : Prop := match ch with
       | 0 => ∃ e ∈ k.banks, waits e.2
       | 1 => ∃ u, k.ftqSince = some u ∧ u + 65536 ≤ now
       | 2 => ∃ f ∈ k.feed, ∃ u, f.since = some u ∧ u + 16384 ≤ now
       | 3 => ∃ q ∈ k.sent, q.2 + 16384 ≤ now
     (late → ∃ t q, exec (.mePortTimeout crew ch beat) s = .next t ∧ (s.advanceTo beat).Halts t c q ∧ q.code = 0x0A02 ∧
       q.detail % 256 = 8 ∧ (ch = 0 → ∃ e ∈ k.banks, waits e.2 ∧ q.detail / 256 % 256 = e.1 % 256)) ∧
     (¬late → exec (.mePortTimeout crew ch beat) s = .next (s.advanceTo beat))) ∧
  (∀ (c : Fin 4) (s : State) (m : MacroRun) (p : Plan) (low core n : Nat) (a : AttnRun) (b : Bank), s.runs c = true →
     (s.ctxOf c).exec.inflight = [m] → m.plan = some p → m.attn = [(low, a)] → a.staged = some core →
     (∀ e ∈ m.tiles, e.2.status ≠ .executing) → (s.coreOf core).dueSwaps = [] → Table.sorted (s.crewOf (core / 8)).banks = true →
     (s.crewOf (core / 8)).scoreBank c m.id low a.next = some (n, b) →
     ∀ row ∈ [(Instr.mmulAttn c, 6), (.mmulAttnPaged c, 7)], m.isRig [row.2] = true →
     ∃ t, exec row.1 s = .next t ∧ t.mem = s.mem ∧ t.cores = s.cores ∧ t.spans = s.spans ∧
       t.runAt c true 0 = some { m with attn := m.attn.set low ((s.evAt c m p low (m.tileAt low)).attnStep a) } ∧
       ∃ b', (t.crewOf (core / 8)).banks.find n = some b' ∧ b'.crewOwns = false ∧ b'.finished = false ∧ b'.claimed = false ∧ b'.meSince = none ∧
         b'.product = b.product ∧ b'.accumulating = decide (a.next + 2 < m.keyTiles p low))

/-! ## The viaduct -/

/-- A frame whose CRC fails is discarded by every row that receives frames, counted on the channel and on the port, and changes no row of the
channel, whether its context runs or not. A good data frame: a stale or doubled one is discarded and counted; one of a round not yet live
waits in the early store with the beat at which it came, its row's timer running, or is discarded and counted where the store is full; a down
frame with which every frame of its row's group has come delivers the row's messages, kind by kind and in rank order, and one before that
only joins its row. A context that does not run discards every other frame. -/
def Obligations.ViaductFramesAreJudged : Prop :=
  (∀ (c : Fin 4) (ch : Fin 8) (port : Fin 4) (v : BitVec 256) (beat : Nat) (s₀ : State), frameCrcOk v = false →
     let s := s₀.advanceTo beat
     ∀ row ∈ [Instr.viaductUpFrame c ch port v beat, .viaductDownFrame c ch port v beat, .resend c ch port v beat,
              .hold c ch port v beat, .abort c ch port v beat],
     ∃ t, exec row s₀ = .next t ∧ t.mem = s.mem ∧
       ((t.ctxOf c).channel ch.val).crc = satAdd ((s.ctxOf c).channel ch.val).crc 1 ∧
       ((t.ctxOf c).channel ch.val).rows = ((s.ctxOf c).channel ch.val).rows ∧
       t.glob.portCrc.get port.val 0 = s.glob.portCrc.get port.val 0 + 1 ∧
       ((∀ d, d ≠ c → t.ctxOf d = s.ctxOf d) ∨ t.glob.portFailed ≠ s.glob.portFailed)) ∧
  (∀ (c : Fin 4) (ch : Fin 8) (port : Fin 4) (v : BitVec 256) (beat : Nat) (s₀ : State), frameCrcOk v = true →
     let s := s₀.advanceTo beat
     let f := frameInfo v
     let k := (s.ctxOf c).channel ch.val
     let put (k' : Channel) : State := s.setCtx c ((s.ctxOf c).setChannel ch.val k')
     f.kind ≤ 4 →
     let cmd := if f.down then Instr.viaductDownFrame c ch port v beat else .viaductUpFrame c ch port v beat
     (k.discards ch.val f = some 0 → exec cmd s₀ = .next (put { k with stale := satAdd k.stale 1 })) ∧
     (k.discards ch.val f = some 1 → exec cmd s₀ = .next (put { k with dups := satAdd k.dups 1 })) ∧
     (k.discards ch.val f = none → s.runs c = false → exec cmd s₀ = .next s) ∧
     (k.discards ch.val f = none → s.runs c = true → k.live.contains f.round = false → k.earlyFull f = true →
       exec cmd s₀ = .next (put { k with busy := satAdd k.busy 1 })) ∧
     (k.discards ch.val f = none → s.runs c = true → k.live.contains f.round = false → k.earlyFull f = false →
       exec cmd s₀ = .next (put { (k.heard f).putRow (k.rowOrNew f.round f.row s.time.beat) with early := k.early ++ [(s.time.beat, v)] })) ∧
     (k.discards ch.val f = none → s.runs c = true → k.live.contains f.round = true → f.down = true →
       let kinds := (s.ctxOf c).roundKinds ch.val f.round
       let row := (k.rowOrNew f.round f.row s.time.beat).add f
       ∃ t r, exec (.viaductDownFrame c ch port v beat) s₀ = .next t ∧ t.mem = s.mem ∧
         ((t.ctxOf c).channel ch.val).rowOf f.round f.row = some r ∧
         (row.downWhole kinds = true → row.result = none → r.result = some (row.downMessages kinds) ∧ r.downAt = some s.time.beat) ∧
         (row.downWhole kinds = false → r = row ∧ s.OnlyCtx t c)))

/-- VIADUCT_UP_SEND: the block's own partial joins its row, of the oldest macro on the channel whose row is ready; in ALIGNED order nothing is
sent while a child is missing. An up frame adds its words to the row of its slot. The control frames: RESEND sends the row's frames again on
the port it came by; HOLD starts the ladder of its edge again; ABORT ends the round and halts the context with 0x0802. -/
def Obligations.PartialsAndControlFramesReachTheirRow : Prop :=
  (∀ (c : Fin 4) (ch : Fin 8) (row : Nat) (s : State) (i : Nat) (m : MacroRun) (p : Plan),
     let k := (s.ctxOf c).channel ch.val
     s.runs c = true →
     (s.ctxOf c).execRun (fun m p => m.via = some (ch.val + 1) && m.rowReady p row &&
       (match k.rowOf m.round row with | some r => !r.ownReady | none => true)) = some (i, m, p) →
     let e := s.evAt c m p ((m.tilesOf p row).headD 0) (m.tileAt ((m.tilesOf p row).headD 0))
     ∃ t r, exec (.viaductUpSend c ch row) s = .next t ∧ t.mem = s.mem ∧ ((t.ctxOf c).channel ch.val).rowOf m.round row = some r ∧
       r.own = e.rowMessages k.regs.sliceStart (p.rowIdx row) ∧ r.ownReady = true ∧
       (∀ j, k.regs.order = false → k.regs.childValid j = true → j < 8 → k.rowOf m.round row = none → s.OnlyCtx t c ∧ r.upSent = false)) ∧
  (∀ (c : Fin 4) (ch : Fin 8) (port : Fin 4) (v : BitVec 256) (beat : Nat) (s₀ : State),
     let s := s₀.advanceTo beat
     let f := frameInfo v
     let k := (s.ctxOf c).channel ch.val
     s.runs c = true → frameCrcOk v = true → f.kind ≤ 4 → f.down = false → k.discards ch.val f = none → k.live.contains f.round = true →
     ∃ t r, exec (.viaductUpFrame c ch port v beat) s₀ = .next t ∧ t.mem = s.mem ∧
       ((t.ctxOf c).channel ch.val).rowOf f.round f.row = some r ∧
       r.got = (((k.rowOf f.round f.row).map ViaRow.got).getD []) ++ [(f.slot, gotKey f.kind f.part, f.words)] ∧
       (k.regs.order = false → (∀ q, k.rowOf f.round f.row = some q → q.ownReady = false) →
         s.OnlyCtx t c ∧ r.upSent = (((k.rowOf f.round f.row).map ViaRow.upSent).getD false))) ∧
  (∀ (c : Fin 4) (ch : Fin 8) (port : Fin 4) (v : BitVec 256) (beat : Nat) (s₀ : State),
     let s := s₀.advanceTo beat
     let f := frameInfo v
     let k := (s.ctxOf c).channel ch.val
     s.runs c = true → frameCrcOk v = true → k.discards ch.val f = none →
     (∀ r, f.kind = 5 → k.rowOf f.round f.row = some r →
       let held := if f.down then r.sent else r.downSent.filter (fun g => (frameInfo g).slot.testBit f.slot)
       (held ≠ [] → ∃ t, exec (.resend c ch port v beat) s₀ = .next t ∧ t.mem = s.mem ∧ (t.ctxOf c).halt = none ∧
         t.glob.viaOut.map (fun o => (o.1, o.2.2)) = s.glob.viaOut.map (fun o => (o.1, o.2.2)) ++ held.map (fun g => (port.val, g))) ∧
       (held = [] → ∃ t at_ g, exec (.resend c ch port v beat) s₀ = .next t ∧ t.mem = s.mem ∧
         t.glob.viaOut = s.glob.viaOut ++ [(port.val, at_, g)] ∧ (frameInfo g).kind = 6)) ∧
     (f.kind = 6 → ∃ t, exec (.hold c ch port v beat) s₀ = .next t ∧ s.OnlyCtx t c ∧
       (k.rowOf f.round f.row = none → ((t.ctxOf c).channel ch.val).rowOf f.round f.row = none) ∧
       (∀ r, k.rowOf f.round f.row = some r → ((t.ctxOf c).channel ch.val).rowOf f.round f.row = some (
         if f.down then { r with downStart := s.time.beat, downRung := 0 } else { r with ladder := r.ladder.set f.slot (s.time.beat, 0) }))) ∧
     (f.kind = 7 → ∃ t h, exec (.abort c ch port v beat) s₀ = .next t ∧ t.mem = s.mem ∧ (t.ctxOf c).halt = some h ∧ h.code = 0x0802 ∧
       ((t.ctxOf c).channel ch.val).rowOf f.round f.row = none))

/-- The retry ladder, up for a child and down for the parent: LATE after one budget, a RESEND on the paired port after two, 0x0801 after four,
each once and none before its beat. -/
def Obligations.LaddersClimbByTheirBudget : Prop :=
  ∀ (c : Fin 4) (ch : Fin 8) (round row beat : Nat) (child : Fin 8) (s₀ : State),
    let s := s₀.advanceTo beat
    let k := (s.ctxOf c).channel ch.val
    let climbs (wait : State → Option (Nat × Nat)) (budget edge : Nat) (late again out : Instr) : Prop :=
      ∀ start passed, s.runs c = true → wait s = some (start, passed) →
        (s.time.beat < start + budget ∨ 1 ≤ passed → exec late s₀ = .next s) ∧
        (s.time.beat < start + 2 * budget ∨ 2 ≤ passed → exec again s₀ = .next s) ∧
        (s.time.beat < start + 4 * budget → exec out s₀ = .next s) ∧
        (start + budget ≤ s.time.beat → passed = 0 → ∃ t, exec late s₀ = .next t ∧ s.OnlyCtx t c ∧ wait t = some (start, 1) ∧
          ((t.ctxOf c).channel ch.val).late = satAdd k.late 1) ∧
        (start + 2 * budget ≤ s.time.beat → passed ≤ 1 → s.glob.portResends.get (s.edgePort k.regs edge false) 0 < 3 →
          ∃ t at_ f, exec again s₀ = .next t ∧ wait t = some (start, 2) ∧ ((t.ctxOf c).channel ch.val).resends = satAdd k.resends 1 ∧
            t.glob.viaOut = s.glob.viaOut ++ [(s.edgePort k.regs edge true, at_, f)] ∧ (frameInfo f).kind = 5) ∧
        (start + 4 * budget ≤ s.time.beat → passed ≤ 2 → ∃ t q, exec out s₀ = .next t ∧ s.Halts t c q ∧ q.code = 0x0801)
    climbs (fun t => t.upWait c ch.val round row child.val) k.regs.up child.val (.viaductUpLate c ch round row child beat)
      (.viaductUpResendTimer c ch round row child beat) (.viaductUpTimeout c ch round row child beat) ∧
    climbs (fun t => t.downWait c ch.val round row) k.regs.roundBudget 8 (.viaductDownLate c ch round row beat)
      (.viaductDownResendTimer c ch round row beat) (.viaductDownTimeout c ch round row beat)

/-! ## Time and strokes -/

/-- TIME_SAMPLE of a seeded timebase out of holdover: a sample within 1,000 ns steps local time forward to it, or slows it for as long as it
is ahead; where a resync has stopped it, it stays stopped as long as the sample says that it is ahead; one farther off, or of bad parity, is
counted and discarded, the eighth in a row beginning holdover. In holdover, eight acceptable samples in a row end it. The first sample, and
the one that an armed resync takes, is accepted however far off. TIMEBASE_LOST raises alert bit 0 once a holdover has lasted 10 ms;
REFCLK_LOST records 0x0A04 and raises alert bit 4 after 1 µs; before that neither changes anything. -/
def Obligations.TimeSamplesSteerAndHoldOver : Prop :=
  (∀ (sample : BitVec 64) (ok : Bool) (s : State),
     s.time.seeded = true → s.time.resyncArmed = false → s.time.holdover = false →
     let d : Int := (sample.toNat : Int) - (s.time.now.toNat : Int)
     ∃ t, exec (.timeSample sample ok s.time.beat) s = .next t ∧ t.ctx = s.ctx ∧ t.mem = s.mem ∧ t.time.beat = s.time.beat ∧
       (ok = true → d.natAbs ≤ 1000 → d ≥ 0 → t.time.now = sample ∧ t.time.lag = 0 ∧ t.time.discards = 0 ∧ t.time.holdover = false) ∧
       (ok = true → d.natAbs ≤ 1000 → d < 0 → t.time.now = s.time.now ∧ t.time.discards = 0 ∧ t.time.holdover = false ∧
         (s.time.stopped = 0 → t.time.lag = 18 * d.natAbs ∧ t.time.stopped = 0) ∧
         (s.time.stopped > 0 → t.time.stopped = 18 * d.natAbs ∧ t.time.lag = s.time.lag)) ∧
       (ok = true → d.natAbs > 1000 → t.time.rejects = satAdd s.time.rejects 1 ∧ t.time.parity = s.time.parity) ∧
       (ok = false → t.time.parity = satAdd s.time.parity 1 ∧ t.time.rejects = s.time.rejects) ∧
       ((ok = false ∨ d.natAbs > 1000) → t.time.now = s.time.now ∧ t.time.discards = s.time.discards + 1 ∧
         t.time.holdover = decide (s.time.discards + 1 ≥ 8))) ∧
  (∀ (sample : BitVec 64) (s : State),
     let d : Int := (sample.toNat : Int) - (s.time.now.toNat : Int)
     (s.time.seeded = true → s.time.resyncArmed = false → s.time.holdover = true → d.natAbs ≤ 1000 →
       ∃ t, exec (.timeSample sample true s.time.beat) s = .next t ∧ t.time.holdover = decide (s.time.goodRun < 7) ∧
         (s.time.goodRun < 7 → t.time.goodRun = s.time.goodRun + 1 ∧ t.time.now = s.time.now)) ∧
     ((s.time.resyncArmed = true ∨ s.time.seeded = false) → ∃ t, exec (.timeSample sample true s.time.beat) s = .next t ∧
       t.time.seeded = true ∧ (d ≥ 0 → t.time.now = sample) ∧ (d < 0 → t.time.now = s.time.now ∧ t.time.stopped = 18 * d.natAbs)) ∧
     (s.time.resyncArmed = true → ∃ t, exec (.timeSample sample true s.time.beat) s = .next t ∧ t.time.resyncArmed = false ∧
       t.time.holdover = false ∧ t.time.lost = false)) ∧
  (∀ s : State, s.time.holdover = true → s.time.told = false →
     (s.time.beat < s.time.holdSince + 18000000 → exec (.timebaseLost s.time.beat) s = .next s) ∧
     (s.time.beat ≥ s.time.holdSince + 18000000 → ∃ t, exec (.timebaseLost s.time.beat) s = .next t ∧ t.time.lost = true ∧
       t.glob.alerts.getLsbD 0 = true ∧ t.ctx = s.ctx ∧ t.mem = s.mem)) ∧
  (∀ (ns : Nat) (s : State), (ns < 1000 → exec (.refclkLost ns) s = .next s) ∧
     (ns ≥ 1000 → ∃ t, exec (.refclkLost ns) s = .next t ∧ t.mem = s.mem ∧ t.glob.alerts.getLsbD 4 = true ∧ t.ring.seq = s.ring.seq + 1 ∧
       ∀ c, s.runs c = true → ∃ h, (t.ctxOf c).halt = some h ∧ h.code = 0x0A04))

/-- STROKE_ANNOUNCE: a context that is neither FREE nor between takes a later number with a start timestamp that is not earlier and not more
than 1 ms ahead; the block stroke follows to the greatest number, in one boundary for all the announcements of a control beat. Anything else
is refused and changes only REFUSED. -/
def Obligations.AnnouncementsAreTakenOrRefused : Prop :=
  ∀ (c : Fin 4) (number : BitVec 48) (s : State),
    let x := s.ctxOf c
    let open_ := (s.adminOf c).state ≠ .free ∧ (s.adminOf c).state ≠ .creating ∧ (s.adminOf c).state ≠ .tearingDown
    let later := x.announced = false ∨ (x.stroke.toNat < number.toNat ∧ x.strokeS.toNat ≤ x.strokeStart.toNat)
    let good := open_ ∧ later ∧ x.strokeStart.toNat ≤ s.now + 1000000
    (good → ∃ t, exec (.strokeAnnounce c number) s = .next t ∧ (t.ctxOf c).stroke = number ∧ (t.ctxOf c).strokeS = x.strokeStart ∧
      (t.ctxOf c).announced = true ∧ (t.ctxOf c).strokeRefused = x.strokeRefused ∧
      t.glob.blockStroke.toNat = max s.glob.blockStroke.toNat number.toNat ∧
      (number.toNat > s.glob.blockStroke.toNat → t.glob.blockStart = x.strokeStart) ∧
      (number.toNat > s.glob.blockStroke.toNat → s.glob.boundaryBeat ≠ some s.time.beat → t.glob.strokesSince = s.glob.strokesSince + 1) ∧
      (number.toNat > s.glob.blockStroke.toNat → s.glob.boundaryBeat = some s.time.beat → t.glob.strokesSince = s.glob.strokesSince)) ∧
    (¬good → exec (.strokeAnnounce c number) s = .next (s.setCtx c { x with strokeRefused := true }))

/-- TELEMETRY_RECORD_WRITE: once the service pier has sent every write of the oldest record that waits and no older access to their lines comes
first, that stroke's record stands in its slot of the ring, STROKE_DONE is raised, the records behind it wait on and no other byte changes;
while a write waits for a credit those that are sent are accepted and the record stays; before an older access to their lines, or with no
record, nothing changes. -/
def Obligations.TelemetryRecordGoesToTheNextSlot : Prop :=
  ∀ (s : State),
    let x := s.spanOf s.start.servicePier
    (s.glob.telem = [] → exec .telemetryRecordWrite s = .next s) ∧
    (∀ r rest, s.glob.telem = r :: rest →
      let mine (w : PierWrite) : Bool := w.ctx.isNone && w.index = r.id
      (x.held mine = true → exec .telemetryRecordWrite s = .next s) ∧
      (x.held mine = false → (∃ w ∈ x.writes, mine w = true ∧ w.sent = false) →
        exec .telemetryRecordWrite s = .next (s.acceptWrites s.start.servicePier mine)) ∧
      (s.MemoryCanonical → x.held mine = false → (∀ w ∈ x.writes, mine w = true → w.sent = true) →
        ∃ t, exec .telemetryRecordWrite s = .next t ∧ t.glob.telem = rest ∧ t.glob.strokeDone = true ∧ t.glob.telemWr = BitVec.ofNat 8 r.slot ∧
          t.glob.telemTotal = s.glob.telemTotal + 1 ∧ t.mem = Memory.writeBytes r.at_ r.bytes s.mem ∧
          (∀ a, a < r.at_ ∨ r.at_ + r.bytes.length ≤ a → t.mem.read a = s.mem.read a) ∧ t.ctx = s.ctx ∧ t.ring = s.ring ∧ t.admin = s.admin ∧
          t.spans = (s.acceptWrites s.start.servicePier mine).spans))

/-! ## Pacing and power -/

/-- ENVELOPE_DELIVER puts the envelope on its way in force, with LO and HI of the present phase and a floor entry whose offset from the
phase marker has passed, where there is one; FLOOR_ENTRY takes the one of the latest offset that has passed; PACE_POINT_MOVE takes the next
part of a move to the target point, upward the voltage first and then the frequency, downward the frequency first, the voltage only while
the regulator is on and its output holds, and keeps the beat count. Each touches its span alone. SURGE_REQUEST puts an idle span that does
not wait into the queue, once; SURGE_GRANT serves all requests at once while with them at most four grants fall in the last 64 beats, and
one alone, 32 beats after the last grant, otherwise. -/
def Obligations.PointsMoveAndSurgesStagger : Prop :=
  (∀ (n : Fin 16) (s : State),
     let x := s.spanOf n.val
     (x.nextEnvelope = none → exec (.envelopeDeliver n) s = .next s) ∧
     (∀ e, x.nextEnvelope = some e → ∃ t, exec (.envelopeDeliver n) s = .next t ∧ s.OnlySpan t n.val ∧ (t.spanOf n.val).envelope = e ∧
       (t.spanOf n.val).nextEnvelope = none ∧
       (let passed (i : Nat) : Prop := x.marker + 1800 * ((t.spanOf n.val).part.floors.getD i (0, 0)).1 ≤ s.time.beat
        (∀ i, (t.spanOf n.val).floor = some i → i < (t.spanOf n.val).part.floors.length ∧ passed i) ∧
        ((t.spanOf n.val).floor = none → ∀ i, i < (t.spanOf n.val).part.floors.length → ¬passed i)) ∧
       (∀ q, e[x.phase.toNat]? = some q → q.lo < 16 → q.hi < 16 → (t.spanOf n.val).lo.toNat = q.lo ∧ (t.spanOf n.val).hi.toNat = q.hi)) ∧
     (∀ i, i < x.part.floors.length → x.marker + 1800 * (x.part.floors.getD i (0, 0)).1 ≤ s.time.beat →
       (∀ j, j ≠ i → j < x.part.floors.length → s.time.beat < x.marker + 1800 * (x.part.floors.getD j (0, 0)).1 ∨
         (x.part.floors.getD j (0, 0)).1 < (x.part.floors.getD i (0, 0)).1) →
       exec (.floorEntry n s.time.beat) s = .next (s.setSpan n.val { x with floor := some i })) ∧
     (∃ t, exec (.pacePointMove n) s = .next t ∧ s.OnlySpan t n.val ∧ t.spanBeat n.val = s.spanBeat n.val ∧
       let y := t.spanOf n.val
       let p := if x.pace = 5 then 0 else x.target
       let works := x.regulatorOn = true ∧ x.undervolt = false
       let low := x.vout.toNat < (x.settingOf p).toNat
       (p < x.point.toNat → y.point = BitVec.ofNat 4 p ∧ y.vout = x.vout) ∧
       (x.point.toNat ≤ p → low → works → y.vout = x.settingOf p ∧ y.point = x.point) ∧
       (x.point.toNat ≤ p → low → ¬works → y.vout = x.vout ∧ y.point = x.point) ∧
       (x.point.toNat < p → ¬low → y.point = BitVec.ofNat 4 p ∧ y.vout = x.vout) ∧
       (x.point.toNat = p → ¬low → works → y.vout = x.settingOf p ∧ y.point = x.point))) ∧
  (∀ (n : Fin 16) (s : State),
     let asks := s.surgeIdle n.val = true ∧ (s.spanOf n.val).surgeWait = false ∧ (s.spanOf n.val).granted = false
     (asks → ∃ t, exec (.surgeRequest n) s = .next t ∧ t.mem = s.mem ∧ t.ctx = s.ctx ∧ (t.spanOf n.val).surgeWait = true ∧
       (n.val, s.time.beat) ∈ t.glob.surgeQueue ∧ t.glob.surgeQueue.length = s.glob.surgeQueue.length + 1 ∧
       (∀ e ∈ s.glob.surgeQueue, e ∈ t.glob.surgeQueue)) ∧
     (¬asks → exec (.surgeRequest n) s = .next s)) ∧
  (∀ (s : State) (p q : Nat) (rest : List (Nat × Nat)), s.glob.surgeQueue = (p, q) :: rest →
     let recent := (s.glob.grants.filter (fun b => s.time.beat < b + 64)).length
     let all := s.glob.stagger = false ∧ recent + rest.length + 1 ≤ 4
     (all → ∃ t, exec (.surgeGrant s.time.beat) s = .next t ∧ t.mem = s.mem ∧ t.ctx = s.ctx ∧ t.glob.surgeQueue = [] ∧
       (∀ e ∈ (p, q) :: rest, (t.spanOf e.1).granted = true ∧ (t.spanOf e.1).surgeWait = false) ∧
       t.glob.grants.length = recent + rest.length + 1) ∧
     (¬all → (∃ b, s.glob.grants.getLast? = some b ∧ s.time.beat < b + 32) →
       exec (.surgeGrant s.time.beat) s = .next (s.setGlob { s.glob with stagger := true })) ∧
     (¬all → (∀ b, s.glob.grants.getLast? = some b → b + 32 ≤ s.time.beat) →
       ∃ t, exec (.surgeGrant s.time.beat) s = .next t ∧ t.mem = s.mem ∧ t.ctx = s.ctx ∧ t.glob.surgeQueue = rest ∧
         (t.spanOf p).granted = true ∧ (∀ k, k ≠ p → t.spanOf k = s.spanOf k) ∧ t.glob.stagger = !rest.isEmpty))

/-- THERMAL_SAMPLE: a reading out of range, or more than 10 degrees from the reading before it, is discarded, and the second in a row fails its
sensor; a reading within both bounds counts, whatever was discarded before it (that the reading before may itself have been discarded is the
model's reading of the rule, log 31). A valid reading of 115 degrees or more records 0x0A06, stops every regulator and halts every context
that runs. POWER_CAP_STEP lowers a span above the cap in force by one point, or stretches its clock at LO, and shows CAPPED and OVER_POWER;
BLOCK_PEAK_STEP above PEAK_W, and then until the mean is below it, stretches every span by one of at most eight steps each microsecond, and
gives one back each microsecond after that (the giving back is the model's choice, log 18); neither changes a beat count. -/
def Obligations.ThermalAndPowerLimits : Prop :=
  (∀ (n : Fin 16) (k : Fin 4) (r : Int) (s : State),
     let old := (s.spanOf n.val).sensors.get k.val {}
     let valid := -80 ≤ r ∧ r ≤ 300 ∧ ∀ p, old.previous = some p → r - p ≤ 20 ∧ p - r ≤ 20
     let others (t : State) : Prop := ∀ j, j ≠ k.val → (t.spanOf n.val).sensors.get j {} = (s.spanOf n.val).sensors.get j {}
     (valid → ∃ t, exec (.thermalSample n k r s.time.beat) s = .next t ∧ t.mem = s.mem ∧ others t ∧
       (t.spanOf n.val).sensors.get k.val {} = { old with valid := some r, previous := some r, discards := 0 }) ∧
     (¬valid → ∃ t, exec (.thermalSample n k r s.time.beat) s = .next t ∧ t.mem = s.mem ∧ others t ∧ t.ctx = s.ctx ∧
       (t.spanOf n.val).sensors.get k.val {} = { old with
         previous := some r, discards := old.discards + 1, failed := old.failed || decide (old.discards + 1 ≥ 2) }) ∧
     (valid → r ≥ 230 → ∃ t, exec (.thermalSample n k r s.time.beat) s = .next t ∧ t.mem = s.mem ∧ t.ring.seq = s.ring.seq + 1 ∧
       (∀ p, p < 16 → (t.spanOf p).regulatorOn = false) ∧ t.glob.alerts.getLsbD 2 = true ∧
       ∀ c, s.runs c = true → ∃ h, (t.ctxOf c).halt = some h ∧ h.code = 0x0A06)) ∧
  (∀ (n : Fin 16) (mw : Nat) (s : State),
     let x := s.spanOf n.val
     (∃ t, exec (.powerCapStep n mw s.time.beat) s = .next t ∧ t.mem = s.mem ∧ t.spanBeat n.val = s.spanBeat n.val ∧
       (∀ k, k ≠ n.val → t.spanOf k = s.spanOf k) ∧
       (mw > 1000 * (x.capBefore s.time.beat).toNat → x.lastCap = 0 → (t.spanOf n.val).capped = true ∧
         (x.target > x.part.lo → (t.spanOf n.val).capPoints = x.capPoints + 1 ∧ (t.spanOf n.val).capStretch = x.capStretch) ∧
         (x.target ≤ x.part.lo → (t.spanOf n.val).capStretch = min 8 (x.capStretch + 1) ∧ (t.spanOf n.val).capPoints = x.capPoints) ∧
         (∀ c, s.owner n.val = some c → (t.ctxOf c).overPower = true))) ∧
     (s.glob.lastPeak ≠ 0 → s.time.beat < s.glob.lastPeak + 1800 → exec (.blockPeakStep mw s.time.beat) s = .next s) ∧
     (s.glob.lastPeak = 0 ∨ s.glob.lastPeak + 1800 ≤ s.time.beat →
       let active := ∃ p < 16, (s.spanOf p).peakStretch > 0
       let exceeds := mw > 1000 * s.glob.peakW.toNat ∨ (active ∧ mw = 1000 * s.glob.peakW.toNat)
       ∃ t, exec (.blockPeakStep mw s.time.beat) s = .next t ∧ t.mem = s.mem ∧ t.ctx = s.ctx ∧ t.spanBeat n.val = s.spanBeat n.val ∧
         (exceeds → (t.spanOf n.val).peakStretch = min 8 (x.peakStretch + 1)) ∧
         (¬exceeds → (t.spanOf n.val).peakStretch = x.peakStretch - 1)))

/-- The regulator's rows: an output more than 40 mV low for over 50 ns sets UV and stretches the clock to the full; within 20 mV again it
clears; an output over its limit, or a rail outside its range for over 1 µs, stops the regulator and halts the owner with 0x0A03; a
current over 68 A stretches the clock by one step. A measure that is within its bounds changes nothing but what the register shows. -/
def Obligations.RegulatorProtects : Prop :=
  ∀ (n : Fin 16) (mv ns da : Nat) (s : State),
    let x := s.spanOf n.val
    let faults (t : State) : Prop := (t.spanOf n.val).regulatorOn = false ∧ t.glob.alerts.getLsbD 3 = true ∧ t.ring.seq = s.ring.seq + 1 ∧
      ∀ c, s.runs c = true → (s.adminOf c).owned.getLsbD n.val = true → ∃ h, (t.ctxOf c).halt = some h ∧ h.code = 0x0A03
    let low := (mv : Int) < x.setting - 40 ∧ ns > 50
    let high := ((mv : Int) > x.setting + 60 ∨ mv > 930) ∧ ns ≥ 200
    let rail := (mv < 1660 ∨ mv > 1950) ∧ ns > 1000
    (¬low → exec (.outputUndervoltage n mv ns) s = .next s) ∧
    (low → ns < 10000 → ∃ t, exec (.outputUndervoltage n mv ns) s = .next t ∧ s.OnlySpan t n.val ∧ (t.spanOf n.val).uv = true ∧
      (t.spanOf n.val).stretch = 8) ∧
    (low → ns ≥ 10000 → ∃ t, exec (.outputUndervoltage n mv ns) s = .next t ∧ t.mem = s.mem ∧ (t.spanOf n.val).uv = true ∧
      (t.spanOf n.val).stretch = 8 ∧ faults t) ∧
    ((mv : Int) < x.setting - 20 → exec (.outputUndervoltageClear n mv) s = .next s) ∧
    ((mv : Int) ≥ x.setting - 20 → ∃ t, exec (.outputUndervoltageClear n mv) s = .next t ∧ s.OnlySpan t n.val ∧
      (t.spanOf n.val).uv = false ∧ (t.spanOf n.val).undervolt = false) ∧
    (high → ∃ t, exec (.outputOvervoltage n mv ns) s = .next t ∧ t.mem = s.mem ∧ (t.spanOf n.val).ov = true ∧ faults t) ∧
    (¬high → exec (.outputOvervoltage n mv ns) s = .next s) ∧
    (rail → ∃ t, exec (.railFault n mv ns) s = .next t ∧ t.mem = s.mem ∧ faults t) ∧
    (¬rail → exec (.railFault n mv ns) s = .next (s.setSpan n.val { x with vin := BitVec.ofNat 11 mv })) ∧
    (∃ t, exec (.outputOvercurrent n da) s = .next t ∧ s.OnlySpan t n.val ∧ t.spanBeat n.val = s.spanBeat n.val ∧
      (da > 680 → (t.spanOf n.val).currentStretch = min 8 (x.currentStretch + 1)) ∧
      (640 ≤ da → da ≤ 680 → (t.spanOf n.val).currentStretch = x.currentStretch) ∧
      (da < 640 → (t.spanOf n.val).currentStretch = x.currentStretch - 1))

/-! ## Faults and halts -/

/-- SCRUB_LINE acts where a scrub may start (R457; what a profile predicts is the model's reading, log 102) and dates the line's scrub: a
single-bit error is counted, and recorded once a stroke; a double-bit error in a line of a bay halts its owner with 0x0A05.
COX_LOCKSTEP_MISMATCH and WALKER_RETRY: the first two mismatches of one step are recorded; the third halts with 0x0A07, every context for
the cox pair, which has then failed, the owner for a walker. A cox that has failed counts no mismatch more; one that ends a step starts
again at the first. -/
def Obligations.ScrubbingAndLockstep : Prop :=
  (∀ (crew : Fin 256) (line : Fin 2048) (errors : Fin 3) (syn : BitVec 32) (s : State), s.mayScrub crew.val = false →
     exec (.scrubLine crew line errors syn) s = .next s) ∧
  (∀ (crew : Fin 256) (line : Fin 2048) (syn : BitVec 32) (s : State), s.mayScrub crew.val = true →
     let n := crew.val / 16
     (exec (.scrubLine crew line 0 syn) s = .next (s.noteScrub crew.val line.val)) ∧
     (∃ t, exec (.scrubLine crew line 1 syn) s = .next t ∧ t.ctx = s.ctx ∧ t.mem = s.mem ∧ t.crews = (s.noteScrub crew.val line.val).crews ∧
       (t.spanOf n).corrected = satAdd (s.spanOf n).corrected 1 ∧ (t.spanOf n).correctedNoted = true ∧
       t.ring.seq = (if (s.spanOf n).correctedNoted then s.ring.seq else s.ring.seq + 1)) ∧
     (∃ t, exec (.scrubLine crew line 2 syn) s = .next t ∧ t.mem = s.mem ∧ (t.spanOf n).uncorr = satAdd (s.spanOf n).uncorr 1 ∧
       (∀ c, s.owner n = some c → s.runs c = true → (s.ctxOf c).inBay line.val = true →
         ∃ h, (t.ctxOf c).halt = some h ∧ h.code = 0x0A05) ∧
       (∀ c, s.owner n = some c → (s.ctxOf c).inBay line.val = false → t.ctx = s.ctx))) ∧
  ((∀ s : State, s.glob.coxFailed = true → exec .coxLockstepMismatch s = .next s) ∧
   (∀ s : State, s.glob.coxFailed = false → (s.time.beat ≥ s.glob.coxUntil ∨ s.glob.coxMismatch ≤ 1) →
     ∃ t, exec .coxLockstepMismatch s = .next t ∧ t.mem = s.mem ∧ t.ring.seq = s.ring.seq + 1 ∧ t.ctx = s.ctx ∧ t.glob.coxFailed = false ∧
       t.glob.coxMismatch = (if s.time.beat < s.glob.coxUntil then s.glob.coxMismatch + 1 else 1) ∧
       t.glob.coxUntil = s.time.beat + 9000 ∧ field (t.ring.records.get s.ring.wr.toNat 0) 0 16 = 0x0A87) ∧
   (∀ s : State, s.glob.coxFailed = false → s.time.beat < s.glob.coxUntil → s.glob.coxMismatch ≥ 2 →
     ∃ t, exec .coxLockstepMismatch s = .next t ∧ t.mem = s.mem ∧ t.ring.seq = s.ring.seq + 1 ∧ t.glob.coxFailed = true ∧
       t.glob.alerts.getLsbD 7 = true ∧ ∀ c, s.runs c = true → ∃ h, (t.ctxOf c).halt = some h ∧ h.code = 0x0A07) ∧
   (∀ (n : Fin 16) (s : State) (c : Fin 4), s.owner n.val = some c → s.runs c = true →
     let again := s.spanBeat n.val ≤ (s.spanOf n.val).walkerBeat + 16 ∧ (s.spanOf n.val).walkerRetries ≠ 0
     ((¬again ∨ (s.spanOf n.val).walkerRetries = 1) → ∃ t, exec (.walkerRetry n) s = .next t ∧ t.mem = s.mem ∧ t.ctx = s.ctx ∧
       t.ring.seq = s.ring.seq + 1 ∧
       (t.spanOf n.val).walkerRetries = (if (s.spanOf n.val).walkerRetries = 1 ∧ s.spanBeat n.val ≤ (s.spanOf n.val).walkerBeat + 16 then 2 else 1)) ∧
     (again → (s.spanOf n.val).walkerRetries ≥ 2 → ∃ t, exec (.walkerRetry n) s = .next t ∧ t.mem = s.mem ∧
       (t.spanOf n.val).walkerRetries = 0 ∧ t.ring.seq = s.ring.seq ∧ ∃ h, (t.ctxOf c).halt = some h ∧ h.code = 0x0A07)))

/-- A queue entry read with a single-bit error is corrected, counted and, once a stroke, recorded, before it issues as ever; one with a
double-bit error is counted in UNCORR and recorded as 0x0A8A, and its bundle is read again before it issues: from its address in the shared
cache, or, of a routine, with the same words (how the read is made is the model's choice, log 104). The library read of a routine's bundle, at
its CALL for the first and at the split for the others (log 99), records a corrected error as 0x0A81 and halts on a double-bit error met twice
with 0x0B03; met once, the read is repeated and nothing is left of it. -/
def Obligations.StorageErrorsOfBundlesAreRecordedOrHalt : Prop :=
  (∀ (c : Fin 4) (x : Bool) (s : State) (e : Entry) (es : List Entry) (n : Nat),
    ((s.ctxOf c).stream x).queue = e :: es → s.lowestSpan c = some n →
    let again : Bundle := bundleAt s.mem e.addr.toNat
    let before (u : State) : Prop := u.mem = s.mem ∧ u.admin = s.admin ∧ u.time = s.time ∧ ∀ d, d ≠ c → u.ctxOf d = s.ctxOf d
    (∃ u, exec (.bundleIssue c x 1) s = exec (.bundleIssue c x 0) u ∧ before u ∧ u.ctx = s.ctx ∧
      (u.spanOf n).corrected = satAdd (s.spanOf n).corrected 1 ∧
      u.ring.seq = (if (s.spanOf n).correctedNoted then s.ring.seq else s.ring.seq + 1)) ∧
    (∃ u e2, exec (.bundleIssue c x 2) s = exec (.bundleIssue c x 0) u ∧ before u ∧
      u.ctxOf c = (s.ctxOf c).setStream x { (s.ctxOf c).stream x with queue := e2 :: es } ∧
      (u.spanOf n).uncorr = satAdd (s.spanOf n).uncorr 1 ∧ u.ring.seq = s.ring.seq + 1 ∧
      field (u.ring.records.get s.ring.wr.toNat 0) 0 16 = 0x0A8A ∧
      (e.addr.getLsbD 63 = true → e2 = e) ∧ (e.addr.getLsbD 63 = false → e2.bits = again ∧ e2.tag = Bundle.tag again ∧ e2.addr = e.addr ∧
        e2.index = e.index ∧ (again = e.bits → e2.bad = e.bad)))) ∧
  (∀ (c : Fin 4) (s t : State) (read : Fin 4 → Instr), s.runs c = true →
    ((read = (.call c ·) ∧ (s.ctxOf c).callDue ≠ none ∧ exec (.call c 0) s = .next t ∧
        (t.ctxOf c).frames.length = (s.ctxOf c).frames.length + 1) ∨
      (read = (fun e => .bundleSplit ⟨c, e⟩) ∧ (s.ctxOf c).frames ≠ [] ∧ exec (.bundleSplit ⟨c, 0⟩) s = .next t ∧ (t.ctxOf c).split = (s.ctxOf c).split + 1)) →
    (∃ u, exec (read 1) s = .next u ∧ u.ctx = t.ctx ∧ u.mem = t.mem ∧ u.ring.seq = s.ring.seq + 1 ∧
      field (u.ring.records.get s.ring.wr.toNat 0) 0 16 = 0x0A81) ∧
    exec (read 2) s = .next t ∧
    (∃ u h, exec (read 3) s = .next u ∧ (u.ctxOf c).halt = some h ∧ h.code = 0x0B03 ∧ field h.record 16 3 = 7 ∧ h.beat = s.time.beat ∧
      u.mem = s.mem ∧ u.ring = s.ring ∧ ∀ d, d ≠ c → u.ctxOf d = s.ctxOf d))

/-- The 64 bytes of a fault record: each field of the cause at its place, beside the context, the block, the time and SEQ. -/
def Obligations.FaultRecordsHoldTheirFields : Prop :=
  ∀ (s : State) (ctx : Nat) (halt : Bool) (q : Cause) (seq : BitVec 32), ctx < 8 → q.code < 65536 → q.slot < 8 → q.coord < 2 ^ 64 →
    q.core < 65536 → q.lane < 256 → q.detail < 2 ^ 128 →
    let r := withSeq (s.record ctx halt q) seq
    field r 0 16 = q.code ∧ field r 16 3 = q.slot ∧ field r 19 3 = ctx ∧ r.getLsbD 22 = s.glob.block ∧ r.getLsbD 23 = halt ∧
    field r 24 8 = 0 ∧ field r 344 8 = 0 ∧ field r 32 32 = q.tag.toNat ∧ field r 64 64 = q.addr.toNat ∧ field r 192 64 = s.time.now.toNat ∧ field r 256 64 = q.coord ∧
    field r 320 16 = q.core ∧ field r 336 8 = q.lane ∧ field r 352 32 = seq.toNat ∧ field r 384 128 = q.detail ∧
    field r 128 64 = (if ctx < 4 then (s.ctxOf (ctxNo ctx)).stroke.toNat else s.glob.blockStroke.toNat)

/-- A halt in its three steps: CONTEXT_HALT keeps of every macro only the tiles that have sent their outputs and stores nothing itself, its
trace entries going to the pier; CONTEXT_HALTED, once nothing of the context is left on a core, on a crew or, of its trace, at a pier, makes
it HALTED, writes its record to the ring and to CTX_HALT_REC and raises its bit of CTX_HALT; DRAIN_HALT halts a drained context with no macro
in flight by 0x0902. -/
def Obligations.HaltsSettleAndAreReported : Prop :=
  ∀ (c : Fin 4) (s : State),
    (∀ h, (s.ctxOf c).halt = some h → (s.adminOf c).state = .live → h.settled = false →
      ∃ t, exec (.contextHalt c) s = .next t ∧ t.mem = s.mem ∧ t.admin = s.admin ∧ ((∀ e ∈ s.cores, e.2.dueSwaps = []) → t.ring = s.ring) ∧
        (t.ctxOf c).halt = some { h with settled := true } ∧ (∀ d, d ≠ c → t.ctxOf d = s.ctxOf d) ∧
        (∀ x i m, s.runAt c x i = some m → ∃ m', t.runAt c x i = some m' ∧ m'.replay = [] ∧
          ∀ k r, m'.tiles.find k = some r → r.out.isSome = true ∨ r.status = .committed ∨ r.status = .dropped) ∧
        (∀ k, k / 16 < 16 → (s.adminOf c).owned.getLsbD (k / 16) = true → (t.crewOf k).parked = 0 ∧
          (t.crewOf k).cmds = [] ∧ (∀ e ∈ (t.crewOf k).banks, e.2.ctx ≠ c.val) ∧ ∀ w ∈ (t.crewOf k).waiting, w.ctx ≠ c.val)) ∧
    (∀ h, (s.ctxOf c).halt = some h → (s.adminOf c).state = .live → h.settled = true → s.settledAll c = true →
      ∃ t, exec (.contextHalted c) s = .next t ∧ t.mem = s.mem ∧ (t.adminOf c).state = .halted ∧ (t.ctxOf c).halt = none ∧
        (t.ctxOf c).haltCode = BitVec.ofNat 16 h.code ∧ (t.ctxOf c).haltRec = withSeq h.record s.ring.seq ∧
        t.ring.records.get s.ring.wr.toNat 0 = withSeq h.record s.ring.seq ∧ t.ring.seq = s.ring.seq + 1 ∧ t.glob.faultIrq = true ∧
        t.glob.halted.getLsbD c.val = true ∧ (t.ctxOf c).access.inflight = [] ∧ (t.ctxOf c).exec.inflight = []) ∧
    (s.runs c = true → (s.adminOf c).drain = true → (s.ctxOf c).access.inflight = [] → (s.ctxOf c).exec.inflight = [] →
      ∃ t q, exec (.drainHalt c) s = .next t ∧ s.Halts t c q ∧ q.code = 0x0902)

/-! ## Contexts -/

/-- CREATE takes a FREE context with a request to CREATING, its registers at their reset values, where start is READY and no requested span is
another context's or fenced, and refuses otherwise; CREATE_COMPLETE makes it LIVE, owner of what it asked for, every span zeroised.
TEARDOWN of any context but a FREE one and one torn down stops and discards its work; TEARDOWN_COMPLETE makes it FREE, its registers at
their reset values but for the REFUSED of CTX_STROKE, which stays, its spans zeroised and unowned. -/
def Obligations.ContextsAreCreatedAndFreed : Prop :=
  (∀ (c : Fin 4) (s : State),
     let a := s.adminOf c
     let good := a.state = .free ∧ a.mask ≠ 0 ∧ (∀ d, d ≠ c → a.mask &&& (s.adminOf d).claims = 0) ∧
       a.mask &&& s.start.fencedSpans = 0 ∧ s.start.st = 2
     (good → ∃ t, exec (.create c) s = .next t ∧ t.mem = s.mem ∧ t.spans = s.spans ∧ (t.adminOf c) = { a with state := .creating } ∧
       t.ctxOf c = {} ∧ ∀ d, d ≠ c → t.adminOf d = s.adminOf d ∧ t.ctxOf d = s.ctxOf d) ∧
     (¬good → exec (.create c) s = .next (s.setAdmin c { a with refused := true })) ∧
     (a.state = .creating → ∃ t, exec (.createComplete c) s = .next t ∧ t.mem = s.mem ∧ t.ctx = s.ctx ∧
       t.adminOf c = { a with state := .live, owned := a.mask, leaving := 0 } ∧ (∀ d, d ≠ c → t.adminOf d = s.adminOf d) ∧
       (∀ n, n < 16 → a.mask.getLsbD n = true → (t.spanOf n).zeroised = true ∧ (t.spanOf n).pace = 1 ∧
         (∀ e ∈ (t.spanOf n).reads, e.2.ctx = 7) ∧ (∀ w ∈ (t.spanOf n).writes, w.ctx = none) ∧
         ∀ k, k < 16 → (t.crewOf (16 * n + k)).oc = [] ∧ (t.crewOf (16 * n + k)).banks = []))) ∧
  (∀ (c : Fin 4) (s : State),
     let a := s.adminOf c
     (a.state ≠ .free → a.state ≠ .tearingDown → ∃ t, exec (.teardown c) s = .next t ∧ t.mem = s.mem ∧
       t.adminOf c = { a with state := .tearingDown } ∧ (t.ctxOf c).access = {} ∧
       (t.ctxOf c).exec = {} ∧ (t.ctxOf c).lists = [] ∧ (t.ctxOf c).halt = none ∧
       (∀ k h, h ∈ (t.coreOf k).held → h.1 ≠ c.val) ∧ (∀ d, d ≠ c → t.ctxOf d = s.ctxOf d)) ∧
     ((a.state = .free ∨ a.state = .tearingDown) → exec (.teardown c) s = .next (s.setAdmin c { a with refused := true })) ∧
     (a.state = .tearingDown → ∃ t, exec (.teardownComplete c) s = .next t ∧ t.mem = s.mem ∧
       t.ctxOf c = { strokeRefused := (s.ctxOf c).strokeRefused } ∧
       t.adminOf c = { a with state := .free, mask := 0, owned := 0, leaving := 0, drain := false } ∧
       (∀ d, d ≠ c → t.adminOf d = s.adminOf d ∧ t.ctxOf d = s.ctxOf d) ∧
       (∀ n, n < 16 → a.owned.getLsbD n = true → (t.spanOf n).zeroised = true ∧ (t.spanOf n).pace = 5 ∧ (t.spanOf n).point = 0 ∧
         ∀ k, k < 16 → (t.crewOf (16 * n + k)).oc = [])))

/-- CONTEXT_RESET of a LIVE or HALTED context stops its work and is refused elsewhere; RESET_COMPLETE makes it LIVE with its spans, quotas and
windows as they were, its descriptors, flags, counters and stroke cleared, its bays OFF but for a REFUSED that stays, and its crews zeroised;
of the spans only the power caps are written again. -/
def Obligations.ContextResetKeepsOwnership : Prop :=
  ∀ (c : Fin 4) (s : State),
    let a := s.adminOf c
    ((a.state = .live ∨ a.state = .halted) → ∃ t, exec (.contextReset c) s = .next t ∧ t.mem = s.mem ∧
      t.adminOf c = { a with state := .resetting } ∧ (t.ctxOf c).access = {} ∧ (t.ctxOf c).exec = {} ∧
      (t.ctxOf c).lists = [] ∧ (t.ctxOf c).halt = none ∧ ∀ d, d ≠ c → t.ctxOf d = s.ctxOf d) ∧
    (a.state ≠ .live → a.state ≠ .halted → exec (.contextReset c) s = .next (s.setAdmin c { a with refused := true })) ∧
    (a.state = .resetting → ∃ t, exec (.resetComplete c) s = .next t ∧ t.mem = s.mem ∧
      (∀ n, t.spanOf n = { s.spanOf n with cap := (t.spanOf n).cap, capWas := (t.spanOf n).capWas }) ∧
      t.adminOf c = { a with state := .live, drain := false } ∧ (∀ d, d ≠ c → t.adminOf d = s.adminOf d ∧ t.ctxOf d = s.ctxOf d) ∧
      (t.ctxOf c).descs = [] ∧ (t.ctxOf c).flags = [] ∧ (t.ctxOf c).counters = [] ∧ (t.ctxOf c).preds = 0 ∧
      (∀ n, ((t.ctxOf c).bay n).cfg = 0 ∧ ((t.ctxOf c).bay n).pending = false ∧
        (((s.ctxOf c).bay n).refused = true → ((t.ctxOf c).bay n).refused = true)) ∧
      (t.ctxOf c).stroke = 0 ∧ (t.ctxOf c).announced = false ∧ (t.ctxOf c).clBase = (s.ctxOf c).clBase ∧
      (∀ k, k / 16 < 16 → a.owned.getLsbD (k / 16) = true → (t.crewOf k).oc = []))

/-- SPAN_MASK_WRITE refuses an empty request, one of another context's span and, but in a FREE context, one of a fenced span; a LIVE context's
waits for its next stroke; SPAN_RELEASE frees a leaving span with no macro in flight on it, and no other, once the trace writes of its context
that the piers may take have been accepted (log 112). -/
def Obligations.SpansChangeHandsWhenIdle : Prop :=
  (∀ (c : Fin 4) (mask : BitVec 16) (s : State),
    let a := s.adminOf c
    let bad := mask = 0 ∨ (∃ d, d ≠ c ∧ mask &&& (s.adminOf d).claims ≠ 0) ∨ (a.state ≠ .free ∧ mask &&& s.start.fencedSpans ≠ 0)
    (bad → exec (.spanMaskWrite c mask) s = .next (s.setAdmin c { a with refused := true })) ∧
    (¬bad → ∃ t, exec (.spanMaskWrite c mask) s = .next t ∧ (t.adminOf c).mask = mask ∧
      (a.state ≠ .halted ∨ s.ownWrites c traceTile = [] → t.mem = s.mem)) ∧
    (¬bad → a.state = .free → exec (.spanMaskWrite c mask) s = .next (s.setAdmin c { a with mask := mask })) ∧
    (¬bad → a.state = .live → exec (.spanMaskWrite c mask) s = .next ((s.setAdmin c { a with mask := mask }).setCtx c
      { s.ctxOf c with spanPending := if mask = s.spansFor c then none else some mask }))) ∧
  (∀ (n : Fin 16) (s : State), s.owner n.val = none → exec (.spanRelease n) s = .next s) ∧
  (∀ (n : Fin 16) (s : State) (c : Fin 4), s.owner n.val = some c →
    let u := s.acceptTrace c
    ((s.adminOf c).leaving.getLsbD n.val = true → u.spanInUse c n.val = false → ∃ t, exec (.spanRelease n) s = .next t ∧ t.mem = u.mem ∧
      (t.adminOf c).owned.getLsbD n.val = false ∧ (t.adminOf c).leaving.getLsbD n.val = false ∧
      (∀ k, k ≠ n.val → (t.adminOf c).owned.getLsbD k = (s.adminOf c).owned.getLsbD k) ∧
      (t.spanOf n.val).zeroised = true ∧ (t.spanOf n.val).pace = 5) ∧
    (((s.adminOf c).leaving.getLsbD n.val = false ∨ u.spanInUse c n.val = true) → exec (.spanRelease n) s = .next u))

/-! ## Registers -/

/-- BAY_WRITE only marks the entry pending; BAY_WRITE_APPLY, with no macro in flight, puts a legal write within the quota in force, refuses an
illegal one and keeps one beyond the quota pending, and with a macro in flight it changes nothing. CPL_WRITE takes effect at once in an
idle context, else waits. VIA_CONFIG_WRITE: a write of a reserved bit, or one that leaves the registers illegal, sets REFUSED and nothing
else; a legal one of an idle channel within the quota takes effect; one of a channel in use waits. -/
def Obligations.BayAndChannelWritesWaitForIdle : Prop :=
  (∀ (c : Fin 4) (b : Fin 256) (v : BitVec 30) (mode : Bool) (s : State), s.pageOpen c = true →
     let x := s.ctxOf c
     (∃ t, exec (.bayWrite c b v) s = .next t ∧ s.OnlyCtx t c ∧ ((t.ctxOf c).bay b.val).cfg = (x.bay b.val).cfg ∧
       ((t.ctxOf c).bay b.val).pending = true ∧ (t.ctxOf c).bayWrites.getLast? = some (b.val, v) ∧
       (∀ n, n ≠ b.val → (t.ctxOf c).bay n = x.bay n)) ∧
     (x.quiet = false → exec (.bayWriteApply c) s = .next s) ∧
     (x.quiet = true → x.bayWrites = [(b.val, v)] → x.viaWrites = [] → x.cplPending = none →
       ∃ t, exec (.bayWriteApply c) s = .next t ∧ s.OnlyCtx t c ∧ (∀ n, n ≠ b.val → (t.ctxOf c).bay n = x.bay n) ∧
         (x.bayRefused b.val v = true → (t.ctxOf c).bayWrites = [] ∧ (t.ctxOf c).bay b.val = { x.bay b.val with refused := true, pending := false }) ∧
         (x.bayRefused b.val v = false → bayShort x (s.adminOf c) b.val v (false, false) = (false, false) →
           (t.ctxOf c).bayWrites = [] ∧ (t.ctxOf c).bay b.val = { x.bay b.val with cfg := v, pending := false }) ∧
         (x.bayRefused b.val v = false → bayShort x (s.adminOf c) b.val v (false, false) ≠ (false, false) → (t.ctxOf c) = x)) ∧
     (x.quiet = true → exec (.cplWrite c mode) s = .next (s.setCtx c { x with cplMode := mode, cplPending := none })) ∧
     (x.quiet = false → exec (.cplWrite c mode) s = .next (s.setCtx c { x with cplPending := some mode }))) ∧
  (∀ (c : Fin 4) (ch : Fin 8) (k : Fin 16) (v : BitVec 64) (s : State),
     let x := s.ctxOf c
     let q := x.channel ch.val
     let bad := v &&& ~~~(viaFields k.val) ≠ 0 ∨ (q.regs.put k.val v).bad (s.adminOf c).joinId = true
     s.pageOpen c = true → (k.val < 5 ∨ 8 ≤ k.val) → x.viaWrites = [] → (k = 0 → v.getLsbD 62 = false) →
     ∃ t, exec (.viaConfigWrite c ch k v) s = .next t ∧ s.OnlyCtx t c ∧
       (bad → (t.ctxOf c).channel ch.val = { q with refused := true } ∧ (t.ctxOf c).viaWrites = []) ∧
       (¬bad → x.channelIdle s.mem ch.val = false → (t.ctxOf c).viaWrites = [(ch.val, k.val, v)] ∧ (t.ctxOf c).channel ch.val = q) ∧
       (¬bad → x.channelIdle s.mem ch.val = true → (q.regs.en = true ∨ x.viaUsed < (s.adminOf c).effVia) →
         (t.ctxOf c).viaWrites = [] ∧ ((t.ctxOf c).channel ch.val).regs = q.regs.put k.val v) ∧
       (∀ n, n ≠ ch.val → (t.ctxOf c).channel n = x.channel n))

/-- The small registers of an open context page: a flag takes its epoch whatever it holds; an RNG key half takes its value; a ring base whose
ring does not lie in the named window, enabled and writable, sets REFUSED and nothing else, as a size outside 4 to 12 does, and one of a ring
in force that would leave its window; any other takes its value; CTX_PACE stores Steady for a reserved request and counts what LOCKED
ignores. A page that is closed ignores them all. -/
def Obligations.ContextPageRegistersTakeTheirValue : Prop :=
  ∀ (c : Fin 4) (s : State),
    let x := s.ctxOf c
    (∀ f e, s.pageOpen c = true → ∃ t, exec (.flagHostWrite c f e) s = .next t ∧ s.OnlyCtx t c ∧ (t.ctxOf c).flag f.val = e ∧
      ∀ g, g ≠ f.val → (t.ctxOf c).flag g = x.flag g) ∧
    (∀ hi v, s.pageOpen c = true → exec (.rngKeyWrite c hi v) s =
      .next (s.setCtx c (if hi then { x with rngHi := v } else { x with rngLo := v }))) ∧
    (∀ v : BitVec 64, s.pageOpen c = true →
      let base := 128 * field v 7 57
      let fits := s.inWindow c (field v 1 3) base ((base : Int) + 128 * 2 ^ x.doneLog.toNat - 1) true
      exec (.ringBaseWrite c 0 v) s = .next (s.setCtx c (if fits then
        { x with doneEn := v.getLsbD 0, doneWindow := v.extractLsb' 1 3, doneBase := v.extractLsb' 7 57 } else { x with doneRefused := true }))) ∧
    (∀ v : BitVec 64, s.pageOpen c = true →
      let base := 128 * x.doneBase.toNat
      let legal := 4 ≤ field v 0 4 ∧ field v 0 4 ≤ 12 ∧
        (x.doneEn = true → s.inWindow c x.doneWindow.toNat base ((base : Int) + 128 * 2 ^ field v 0 4 - 1) true = true)
      (legal → ∃ t, exec (.ringBaseWrite c 1 v) s = .next t ∧ s.OnlyCtx t c ∧
        t.ctxOf c = { x with doneLog := v.extractLsb' 0 4, doneRefused := x.doneRefused && !v.getLsbD 4 }) ∧
      (¬legal → exec (.ringBaseWrite c 1 v) s = .next (s.setCtx c { x with doneRefused := true }))) ∧
    (∀ v : BitVec 64, s.pageOpen c = true →
      let base := 65536 * field v 16 48
      let fits := s.inWindow c (field v 1 3) base ((base : Int) + 65536 - 1) true
      exec (.ringBaseWrite c 2 v) s = .next (s.setCtx c (if fits then
        { x with traceEn := v.getLsbD 0, traceWindow := v.extractLsb' 1 3, traceBase := v.extractLsb' 16 48 } else { x with traceRefused := true }))) ∧
    (∀ q d, s.pageOpen c = true → exec (.paceReqWrite c q d) s = .next (s.setCtx c (if s.glob.policy then
      { x with deadline := d, paceIgnored := satAdd x.paceIgnored 1 } else { x with deadline := d, paceReq := if q.toNat ≥ 4 then 1 else q }))) ∧
    (s.pageOpen c = false → ∀ f e hi v w q d, exec (.flagHostWrite c f e) s = .next s ∧ exec (.rngKeyWrite c hi v) s = .next s ∧
      exec (.ringBaseWrite c w v) s = .next s ∧ exec (.paceReqWrite c q d) s = .next s)

/-- A histogram slot is claimed when it is free and the quota has room, refused when held, and waits otherwise; a release and a change of
holder clear it; an advice of −128 stores −127. PERF_SEL_WRITE stores OFF for a reserved event and clears its counter; PERF_CLEAR_ALL
clears all. -/
def Obligations.HistogramsAndCountersAreConfigured : Prop :=
  (∀ (n : Fin 256) (c : Fin 4) (s : State), s.glob.histClaims = [] →
    ((s.histOf n.val).owner ≠ 7 → exec (.histClaim n c) s = .next (s.setGlob { s.glob with histRefused := true })) ∧
    ((s.histOf n.val).owner = 7 → s.histUsed c.val < (s.adminOf c).effHist → ∃ t, exec (.histClaim n c) s = .next t ∧ s.OnlyHist t n.val ∧
      (t.histOf n.val).owner.toNat = c.val ∧ (t.histOf n.val).bins = [] ∧ (t.histOf n.val).valid = false) ∧
    ((s.histOf n.val).owner = 7 → s.histUsed c.val ≥ (s.adminOf c).effHist →
      exec (.histClaim n c) s = .next (s.setGlob { s.glob with histClaims := [(n.val, c.val)] }))) ∧
  (∀ (n : Fin 256) (s : State), s.glob.histClaims = [] → ∃ t, exec (.histRelease n) s = .next t ∧ s.OnlyHist t n.val ∧
    (t.histOf n.val).owner = 7 ∧ (t.histOf n.val).bins = [] ∧ (t.histOf n.val).maxExp = 0 ∧ (t.histOf n.val).valid = false ∧
    (t.histOf n.val).base = (s.histOf n.val).base) ∧
  (∀ (n : Fin 256) (s : State), ∃ t, exec (.histClear n) s = .next t ∧ s.OnlyHist t n.val ∧ (t.histOf n.val).owner = (s.histOf n.val).owner ∧
    ((s.histOf n.val).freshBeat ≠ some s.time.beat →
      t.histOf n.val = { s.histOf n.val with bins := [], maxExp := 0, seen := false }) ∧
    ((s.histOf n.val).freshBeat = some s.time.beat → (s.histOf n.val).fresh = [] →
      (t.histOf n.val).bins = [] ∧ (t.histOf n.val).seen = false) ∧
    (∀ a, (s.histOf n.val).freshBeat = some s.time.beat → (s.histOf n.val).fresh = [a] →
      (t.histOf n.val).bins.get a.bin 0 = 1 ∧ ∀ k, k ≠ a.bin → (t.histOf n.val).bins.get k 0 = 0)) ∧
  (∀ (n : Fin 256) (e : BitVec 8) (valid : Bool) (s : State), ∃ t, exec (.histAdviceWrite n e valid) s = .next t ∧ s.OnlyHist t n.val ∧
    (t.histOf n.val).exp = (if e = 0x80 then 0x81 else e) ∧ (t.histOf n.val).valid = valid ∧ (t.histOf n.val).bins = (s.histOf n.val).bins) ∧
  (∀ (p : Fin 16) (n : Fin 64) (e : BitVec 6) (s : State), ∃ t, exec (.perfSelWrite p n e) s = .next t ∧ s.OnlySpan t p.val ∧
    (t.spanOf p.val).perfSel.get n.val 0 = (if e.toNat ≥ 0x18 then 0 else e) ∧ (t.spanOf p.val).perfCnt.get n.val 0 = 0 ∧
    ∀ k, k ≠ n.val → (t.spanOf p.val).perfSel.get k 0 = (s.spanOf p.val).perfSel.get k 0) ∧
  (∀ (p : Fin 16) (s : State), ∃ t, exec (.perfClearAll p) s = .next t ∧ s.OnlySpan t p.val ∧ (∀ n, (t.spanOf p.val).perfCnt.get n 0 = 0) ∧
    (t.spanOf p.val).perfSel = (s.spanOf p.val).perfSel)

/-- DESC_WINDOW_WRITE stages: the descriptor store changes only when bytes 120 to 127 have all been written, and then by the whole staged
descriptor, but that an LD's commit of the same beat stands over it; a misaligned write counts as a bad access; DESC_WIN_SEL_WRITE drops
what is staged. WINDOW_WRITE refuses a window that would be enabled with its limit below its base. -/
def Obligations.DescriptorsAndWindowsAreWrittenWhole : Prop :=
  (∀ (o : BitVec 18) (v : BitVec 64) (s : State),
    let c := ctxNo s.glob.selCtx.toNat
    let h := s.windowDesc o.toNat
    let d := putDesc (s.staging c h).1 (o.toNat % 128) 8 v
    (o.toNat % 8 ≠ 0 → ∃ t, exec (.descWindowWrite o true v) s = .next t ∧ s.OnlyGlob t ∧ t.glob.badAccess = satAdd s.glob.badAccess 1) ∧
    let late := (s.ctxOf c).descBeat = some s.time.beat ∧ h ∈ (s.ctxOf c).descLoaded
    (o.toNat % 8 = 0 → s.pageOpen c = true → h ≠ 0 → o.toNat % 128 = 120 → late →
      ∃ t, exec (.descWindowWrite o true v) s = .next t ∧ s.OnlyGlob t ∧ t.glob.staged = none) ∧
    (o.toNat % 8 = 0 → s.pageOpen c = true → h ≠ 0 → o.toNat % 128 = 120 → ¬late → ∃ t, exec (.descWindowWrite o true v) s = .next t ∧
      (t.ctxOf c).desc h = d ∧ (∀ k, k ≠ h → (t.ctxOf c).desc k = (s.ctxOf c).desc k) ∧ t.glob.staged = none ∧ t.mem = s.mem ∧
      (∀ k, k ≠ c → t.ctxOf k = s.ctxOf k)) ∧
    (o.toNat % 8 = 0 → s.pageOpen c = true → h ≠ 0 → o.toNat % 128 < 120 → (s.staging c h).2 ≠ BitVec.allOnes 8 →
      ∃ t, exec (.descWindowWrite o true v) s = .next t ∧ s.OnlyGlob t ∧ t.glob.staged = some (c.val, h, d, (s.staging c h).2)) ∧
    ((s.pageOpen c = false ∨ h = 0) → o.toNat % 8 = 0 → exec (.descWindowWrite o true v) s = .next s)) ∧
  (∀ (k : Fin 4) (half : Bool) (s : State), ∃ t, exec (.descWinSelWrite k half) s = .next t ∧ s.OnlyGlob t ∧ t.glob.staged = none ∧
    t.glob.selCtx.toNat = k.val ∧ t.glob.selHalf = half ∧ t.glob.selDiscarded = (s.glob.selDiscarded || s.glob.staged.isSome)) ∧
  (∀ (c : Fin 4) (w : Fin 8) (v : BitVec 64) (s : State),
    let a := s.adminOf c
    (v.getLsbD 0 = true → field v 12 52 < (a.winBase.get w.val 0#52).toNat → ∃ t, exec (.windowWrite c w true v) s = .next t ∧ s.OnlyGlob t ∧
      t.glob.privRefused = satAdd s.glob.privRefused 1) ∧
    ((v.getLsbD 0 = false ∨ field v 12 52 ≥ (a.winBase.get w.val 0#52).toNat) → ∃ t, exec (.windowWrite c w true v) s = .next t ∧ s.OnlyAdmin t c ∧
      ((t.adminOf c).winLimit.get w.val 0#52).toNat = field v 12 52 ∧ (t.adminOf c).winEn.getLsbD w.val = v.getLsbD 0 ∧
      (t.adminOf c).winWr.getLsbD w.val = v.getLsbD 1 ∧ (t.adminOf c).winBase = a.winBase) ∧
    (a.winEn.getLsbD w.val = false → ∃ t, exec (.windowWrite c w false v) s = .next t ∧ s.OnlyAdmin t c ∧
      ((t.adminOf c).winBase.get w.val 0#52).toNat = field v 12 52 ∧ (t.adminOf c).winLimit = a.winLimit))

/-- The window itself: a misaligned or unmapped access is ignored, reads as zero and is counted; an untrusted write of the privileged page is
ignored and counted there, and as a bad access too where it is one; IRQ_ENABLE reads back what was written, also by halves; a write of 1
clears a cause, but for one that hardware has set in the same beat. -/
def Obligations.WindowAccessesAreCheckedAndReadBack : Prop :=
  (∀ (port write : Bool) (o n : Nat) (s : State),
    (accessOk port write o n = false → exec (.badAccess port write o n) s =
      .next (s.setGlob { s.glob with badAccess := satAdd s.glob.badAccess 1 })) ∧
    (accessOk port write o n = true → exec (.badAccess port write o n) s = .next s) ∧
    (accessOk port false o n = false → s.readWindow port o n = 0)) ∧
  (∀ (trusted wide : Bool) (o : Nat) (v : BitVec 64) (s : State),
    let n := if wide then 8 else 4
    let bad := o % n ≠ 0 ∨ regAt o = none
    (bad → trusted = true ∨ o ≥ 0x2000 → exec (.registerWrite false trusted o wide v) s =
      .next (s.setGlob { s.glob with badAccess := satAdd s.glob.badAccess 1 })) ∧
    (o < 0x2000 → ∃ t, exec (.registerWrite false false o wide v) s = .next t ∧
      t = s.setGlob { s.glob with privRefused := satAdd s.glob.privRefused 1, badAccess := t.glob.badAccess } ∧
      (bad → t.glob.badAccess = satAdd s.glob.badAccess 1) ∧ (¬bad → t.glob.badAccess = s.glob.badAccess))) ∧
  (∀ (trusted : Bool) (v : BitVec 64) (s : State),
    (∃ t, exec (.registerWrite false trusted 0x2810 true v) s = .next t ∧ s.OnlyGlob t ∧ t.readWindow false 0x2810 8 = v &&& 0x3F#64) ∧
    (∃ t, exec (.registerWrite false trusted 0x2810 false v) s = .next t ∧ s.OnlyGlob t ∧ t.readWindow false 0x2810 8 = v &&& 0x3F#64) ∧
    (exec (.registerWrite false trusted 0x2814 false v) s = .next (s.setGlob s.glob)) ∧
    (∃ t, exec (.registerWrite false trusted 0x2808 true v) s = .next t ∧ s.OnlyGlob t ∧
      ∀ n, (n = 1 ∨ n = 2 ∨ n = 5) → ((t.readWindow false 0x2808 8).getLsbD n = true ↔ (s.readWindow false 0x2808 8).getLsbD n = true ∧
        (v.getLsbD n = false ∨ (n, s.time.beat) ∈ s.glob.setAt))))

/-- ARRIVAL_FLAG stores a later sequence number in the arrival table of a LIVE context and ignores one already reached; it is discarded and
counted for bad parity or in any other state. FAULT_RING_RD_WRITE marks records as read, or all of them where it would pass WR. TEST_REQ
raises its cause and opens what the lifecycle state allows; JOIN_ID_EXCHANGE stores the identity heard. -/
def Obligations.FlagsReadPointersAndPins : Prop :=
  (∀ (c : Fin 4) (i : BitVec 12) (q : BitVec 16) (ok : Bool) (s : State),
    let old := (s.ctxOf c).arrivals.get i.toNat 0#16
    let live := ok = true ∧ (s.adminOf c).state = .live
    let ahead := q ≠ old ∧ (q - old).toNat < 32768
    (live → ahead → ∃ t, exec (.arrivalFlag c i q ok) s = .next t ∧ s.OnlyCtx t c ∧ (t.ctxOf c).arrivals.get i.toNat 0#16 = q ∧
      ∀ k, k ≠ i.toNat → (t.ctxOf c).arrivals.get k 0#16 = (s.ctxOf c).arrivals.get k 0#16) ∧
    (live → ¬ahead → exec (.arrivalFlag c i q ok) s = .next s) ∧
    (¬live → exec (.arrivalFlag c i q ok) s = .next (s.setGlob { s.glob with
      discardCount := satAdd s.glob.discardCount 1, discardCtx := BitVec.ofNat 2 c.val, discardCause := if ok then 2 else 0 }))) ∧
  (∀ (rd : BitVec 8) (s : State), s.ring.unread.toNat ≤ 256 → ∃ t, exec (.faultRingRdWrite rd) s = .next t ∧ t = { s with ring := t.ring } ∧
    t.ring.wr = s.ring.wr ∧ t.ring.records = s.ring.records ∧
    ((rd - s.ring.rd).toNat ≤ s.ring.unread.toNat → t.ring.rd = rd ∧ t.ring.unread.toNat = s.ring.unread.toNat - (rd - s.ring.rd).toNat) ∧
    ((rd - s.ring.rd).toNat > s.ring.unread.toNat → t.ring.rd = s.ring.wr ∧ t.ring.unread = 0)) ∧
  (∀ s : State, ∃ t, exec .testReq s = .next t ∧ s.OnlyGlob t ∧ t.irqCause.getLsbD 5 = true ∧ t.glob.alerts = s.glob.alerts ∧
    (t.glob.access.wrappers = true ↔ s.glob.lifecycle ≠ 1) ∧ (t.glob.access.instruments = true ↔ s.glob.lifecycle ≠ 1)) ∧
  (∀ (id : BitVec 16) (s : State), exec (.joinIdExchange true id) s = .next (s.setGlob { s.glob with twinHigh := id }) ∧
    exec (.joinIdExchange false id) s = .next (s.setGlob { s.glob with twinLow := id }))

/-! ## The mailbox -/

/-- MBOX_POST puts the message in the next slot into the queue, or sets FULL_DROP with eight unhandled; MBOX_ACK frees the oldest outbound
slot, which the oldest waiting message takes. -/
def Obligations.MailboxSlotsAreFirstInFirstOut : Prop :=
  ∀ s : State,
    (s.mbox.inCount.toNat < 8 → exec .mboxPost s = .next { s with
      mbox := { s.mbox with inCount := s.mbox.inCount + 1, inWr := s.mbox.inWr + 1 } }) ∧
    (s.mbox.inCount.toNat ≥ 8 → exec .mboxPost s = .next { s with mbox := { s.mbox with fullDrop := true } }) ∧
    (s.mbox.outCount = 0 → exec .mboxAck s = .next s) ∧
    (s.mbox.outCount ≠ 0 → s.mbox.waiting = [] → exec .mboxAck s = .next { s with
      mbox := { s.mbox with outCount := s.mbox.outCount - 1, outRd := s.mbox.outRd + 1 } }) ∧
    (∀ v rest, s.mbox.outCount = 8 → s.mbox.waiting = v :: rest → ∃ t, exec .mboxAck s = .next t ∧ t = { s with mbox := t.mbox } ∧
      t.mbox.outRd = s.mbox.outRd + 1 ∧ t.mbox.outCount = 8 ∧ t.mbox.waiting = rest ∧
      t.mbox.outbound = s.mbox.outbound.set s.mbox.outRd.toNat v)

/-- Every row of a management message acts on the oldest message where it holds the row's opcode: a stray bit or a value out of range is
answered BAD_MESSAGE, what the present state does not allow REFUSED, and neither changes more than the mailbox and the count of the cox's
mismatches, which a completed step clears; the rest takes effect and is answered OK, once the journal has room for the record that it needs. A
message whose bytes the cox must read first (a token) is judged when they have come; until then its row only reads, and a read that has failed
is REFUSED (log 109). One of an opcode that the cox does not know is answered BAD_MESSAGE by whichever row comes (log 19). With no message of
its opcode a row changes nothing; a cox that has failed acts on a warm reset alone (log 90). What each accepted message does. -/
def Obligations.MessagesAreAnsweredAndActedOn : Prop :=
  (∀ s : State, ∀ row ∈ State.mailRows,
     (s.mbox.front = none → exec row.1 s = .next s) ∧ (s.glob.coxFailed = true → row.2.opcode ≠ 0x000A → exec row.1 s = .next s)) ∧
  (∀ (s : State) (v : Message), s.glob.coxFailed = false → s.mbox.front = some v → ∀ row ∈ State.mailRows,
     let answered (u : State) (status : Nat) : State := { u.coxStep with mbox := u.mbox.answer v status }
     let known := 1 ≤ v.opcode ∧ v.opcode ≤ 11
     let mine := v.opcode = row.2.opcode ∧ v.tidy row.2.fields = true ∧ row.2.inRange v = true
     let noRead := row.2.reads v = none ∨ (∃ a, row.2.reads v = some (a, 0)) ∧ ∀ r, s.glob.coxRead = some r → r.len ≠ 0
     (¬known → exec row.1 s = .next (answered s 2)) ∧
     (known → v.opcode ≠ row.2.opcode → exec row.1 s = .next s) ∧
     (v.opcode = row.2.opcode → (v.tidy row.2.fields = false ∨ row.2.inRange v = false) → exec row.1 s = .next (answered s 2)) ∧
     (mine → noRead → row.2.allowed v [] s = false → exec row.1 s = .next (answered s 1)) ∧
     (mine → noRead → row.2.allowed v [] s = true → (row.2.journals s = false ∨ s.journal.canTake = true) →
       ∃ t, exec row.1 s = .next t ∧ t.mem = s.mem ∧ t.pending = s.pending ∧ t.mbox.inCount.toNat ≤ (s.mbox.inCount - 1).toNat ∧
         t.glob.coxMismatch = 0) ∧
     (∀ a n, mine → row.2.reads v = some (a, n) → n ≠ 0 →
       (s.glob.coxRead = none → ∃ t, exec row.1 s = .next t ∧ t.mbox = s.mbox ∧ t.mem = s.mem ∧ t.ctx = s.ctx ∧ t.admin = s.admin ∧
         ∃ r, t.glob.coxRead = some r ∧ r.addr = a ∧ r.len = n ∧ r.pier = s.start.servicePier) ∧
       (∀ r, s.glob.coxRead = some r → r.addr = a → r.len = n →
         let u := s.setGlob { s.glob with coxRead := none }
         let ended := r.failed = false ∧ r.todo = [] ∧ r.out = 0
         ((r.failed = true ∨ ended ∧ row.2.allowed v (r.seen.readBytes a n) u = false) → exec row.1 s = .next (answered u 1)) ∧
         (ended → row.2.allowed v (r.seen.readBytes a n) u = true → (row.2.journals u = false ∨ u.journal.canTake = true) →
           ∃ t, exec row.1 s = .next t ∧ t.mem = s.mem ∧ t.mbox.inCount.toNat ≤ (s.mbox.inCount - 1).toNat ∧ t.glob.coxMismatch = 0)))) ∧
  (∀ (s : State) (v : Message), s.mbox.front = some v →
     let c := ctxNo (v.num 8 1)
     let got : List Byte := match s.glob.coxRead with | some r => r.seen.readBytes r.addr r.len | none => []
     let come (h : Handler) : Prop := (∀ a n, h.reads v = some (a, n) → ∃ r, s.glob.coxRead = some r ∧ r.addr = a ∧ r.len = n ∧ n ≠ 0 ∧ r.todo = [] ∧
       r.out = 0 ∧ r.failed = false) ∧ h.allowed v got s = true
     let noRead (h : Handler) : Prop := (h.reads v = none ∨ (∃ a, h.reads v = some (a, 0)) ∧ s.glob.coxRead = none) ∧ h.allowed v [] s = true
     let ok (h : Handler) : Prop := s.glob.coxFailed = false ∧ v.opcode = h.opcode ∧ v.tidy h.fields = true ∧ h.inRange v = true ∧
       (noRead h ∨ h.reads v ≠ none ∧ come h) ∧ (h.journals s = false ∨ s.journal.canTake = true)
     (ok capHandler → ∃ t, exec .setCap s = .next t ∧ (t.adminOf c).capBay.toNat = field v 128 12 ∧ (t.adminOf c).capQueues.toNat = field v 140 5 ∧
       (t.adminOf c).capHist.toNat = field v 145 9 ∧ (t.adminOf c).capVia.toNat = field v 154 4 ∧ (t.adminOf c).capWatts.toNat = field v 158 9 ∧
       (t.adminOf c).drain = (s.adminOf c).drain) ∧
     (ok drainHandler → ∃ t, exec .drain s = .next t ∧ t.adminOf c = { s.adminOf c with drain := true } ∧ t.ctx = s.ctx) ∧
     (ok policyHandler → ∃ t, exec .setPolicy s = .next t ∧ t.glob.sustainedW.toNat = v.num 10 2 ∧ t.glob.peakW.toNat = v.num 12 2 ∧
       t.glob.policyNext = some (decide (v.num 8 1 = 1)) ∧ t.glob.policy = s.glob.policy) ∧
     (ok resyncHandler → ∃ t, exec .timeResync s = .next t ∧ t.time = { s.time with resyncArmed := true }) ∧
     (ok commitHandler → ∃ t, exec .commitSvn s = .next t ∧ t.glob.rollback.toNat = v.num 8 4) ∧
     (ok restoreHandler → ∃ t, exec .svnRestore s = .next t ∧ t.glob.rollback = Config.tokenSvn got ∧ t.glob.restorable = false) ∧
     (ok returnHandler → ∃ t, exec .enterReturn s = .next t ∧ t.glob.lifecycle = 2 ∧ t.glob.access = testAccess 2 ∧
       ∀ d, (t.ctxOf d).rngLo = 0 ∧ (t.ctxOf d).rngHi = 0 ∧ ((t.adminOf d).state = .free ∨ (t.adminOf d).state = .tearingDown)) ∧
     (ok unfenceHandler → ∃ t, exec .unfence s = .next t ∧ t.glob.unfences = s.glob.unfences ++ [(v.num 8 1, v.num 10 2)] ∧ t.spans = s.spans) ∧
     (ok clearHandler → ∃ t, exec .ledgerClear s = .next t ∧ t.start.counts.get (v.num 8 1) 0 = 0 ∧
       ∀ n, n ≠ v.num 8 1 → t.start.counts.get n 0 = s.start.counts.get n 0) ∧
     (s.glob.coxFailed = false → v.opcode = 0x000A → v.tidy [] = true → ∃ t, exec .warmReset s = .next t ∧ t.start.st = 0 ∧ t.start.step = 3 ∧
       t.time = s.time ∧ (∀ d, (t.adminOf d).state = .free) ∧ t.lib.images = 0 ∧ t.mbox.inCount = s.mbox.inCount - 1) ∧
     (ok patchHandler → ∃ t, exec .patchList s = .next t ∧ t.start.patches = some ((List.range (v.num 8 1)).map (fun i =>
       (v.num (16 + 12 * i) 8, v.num (24 + 12 * i) 4))))) ∧
  (∀ (s : State) (i : Nat), s.glob.coxFailed = true → s.mbox.warmAt = some i → ∃ t, exec .warmReset s = .next t ∧ t.glob.coxFailed = false ∧
     t.start.st = 0 ∧ t.start.step = 3 ∧ (∀ d, (t.adminOf d).state = .free) ∧ t.mbox.inCount = s.mbox.inCount - 1)

/-! ## Start and journal -/

/-- COLD_RESET leaves the journal's banks, the fuses and straps with the access they allow, the ROM and what lies outside the block, and puts
everything else at its reset value. The lifecycle state is read from the fuses: it stands, but that MANUFACTURE may have become PRODUCTION,
whose fuse blows outside the block (whether it has is a free value, log 110). -/
def Obligations.ColdResetKeepsTheJournalAndFuses : Prop :=
  ∀ s : State, ∃ t, exec .coldReset s = .next t ∧ t.journal.bankA = s.journal.bankA ∧ t.journal.bankB = s.journal.bankB ∧
    t.journal = { State.reset.journal with bankA := s.journal.bankA, bankB := s.journal.bankB } ∧
    t.glob = { State.reset.glob with
      lifecycle := t.glob.lifecycle, access := testAccess t.glob.lifecycle, block := s.glob.block, package := s.glob.package, revision := s.glob.revision } ∧
    (s.glob.lifecycle ≠ 0 → t.glob.lifecycle = s.glob.lifecycle) ∧
    (s.glob.lifecycle = 0 → t.glob.lifecycle = if Config.fuseBlown s.free then 1 else 0) ∧
    t.lib = { State.reset.lib with romVer := s.lib.romVer } ∧
    t.mem = s.mem ∧ t.pending = s.pending ∧ t.time = {} ∧ t.start = {} ∧ t.ring = {} ∧ t.mbox = {} ∧ t.spans = [] ∧ t.crews = [] ∧ t.cores = [] ∧
    (∀ c, t.adminOf c = {} ∧ t.ctxOf c = {})

/-- START_ATTEMPT: the scan takes each step's count from the ledger of the bank it mounts and begins the attempt at its first step, or blocks
start where a step has failed three times; with no valid bank no step has failed but ST3, whose count stands (log 108). A step that fails
counts, raises START_FAILED, and turns the regulators off where the attempt began at ST0; it waits to be tried again or, the third time, blocks
start. The last step passed, start is READY. START_STEP_TIMEOUT fails a step that still runs at its limit and nothing before; START_RETRY, 1 ms
after a failure, begins the next attempt at the step where this one began. -/
def Obligations.StartStepsFailRetryAndPass : Prop :=
  ((∀ s : State, s.glob.coxFailed = false → s.start.st = 0 → s.journal.mount = none → s.start.first < 14 →
     (s.start.count 3 < 3 → ∃ t, exec (.startAttempt 0 0 0 [] s.time.beat) s = .next t ∧ t.start.st = 1 ∧
       t.start.step.toNat = s.start.first ∧ t.start.attempt = s.start.attempt + 1 ∧ t.start.running = true ∧ t.start.began = s.start.began ∧
       (∀ n, n ≠ 3 → t.start.count n = 0 ∧ t.start.form n = 0) ∧ t.start.count 3 = s.start.count 3 ∧ t.ctx = s.ctx ∧ t.mem = s.mem) ∧
     (s.start.count 3 ≥ 3 →
       ∃ t, exec (.startAttempt 0 0 0 [] s.time.beat) s = .next t ∧ t.start.st = 4 ∧ t.start.step = 3 ∧ t.glob.alerts.getLsbD 6 = true)) ∧
   (∀ (s : State) (j : Journal), s.glob.coxFailed = false → s.start.st = 0 → s.journal.mount = some j → s.start.heldBack = [] → s.start.first < 14 →
     let ledger := ledgerCounts (chain j.bank)
     let count (n : Nat) : Nat := ledger.1.get n 0 + (if ledger.2 = some n then 1 else 0)
     ((∀ n, n < 14 → count n < 3) → ∃ t, exec (.startAttempt 0 0 0 [] s.time.beat) s = .next t ∧ t.start.st = 1 ∧
       t.start.step.toNat = s.start.first ∧ (∀ n, t.start.count n = count n) ∧
       (∀ n, n < 14 → t.start.form n = if count n = 0 then 0 else if n = 8 ∨ n = 10 ∨ n = 12 then 2 else 1) ∧ t.ctx = s.ctx ∧ t.mem = s.mem) ∧
     (∀ n, n < 14 → count n ≥ 3 → (∀ k, k < n → count k < 3) →
       ∃ t, exec (.startAttempt 0 0 0 [] s.time.beat) s = .next t ∧ t.start.st = 4 ∧ t.start.step.toNat = n ∧ t.glob.alerts.getLsbD 6 = true)) ∧
   (∀ (s : State) (n : Nat) (failing : BitVec 14) (upTo : Nat), s.glob.coxFailed = false → s.start.st = 1 → s.start.step.toNat = n → n < 13 → s.start.running = true →
     s.start.form n = 0 → failing.getLsbD n = true → n < upTo →
     ∃ t, exec (.startAttempt upTo failing 0 [] s.time.beat) s = .next t ∧ t.start.running = false ∧
       t.start.counts.get n 0 = s.start.count n + 1 ∧ t.start.step = s.start.step ∧ t.glob.alerts.getLsbD 5 = true ∧
       (s.start.first = 0 → ∀ p, p < 16 → (t.spanOf p).regulatorOn = false) ∧
       (s.start.count n < 2 → t.start.st = 3 ∧ t.start.waitBegan = s.time.beat) ∧
       (s.start.count n ≥ 2 → t.start.st = 4 ∧ t.glob.alerts.getLsbD 6 = true)) ∧
   (∀ (s : State) (upTo : Nat), s.glob.coxFailed = false → s.start.st = 1 → s.start.step = 13 → s.start.running = true → upTo ≥ 14 →
     ∃ t, exec (.startAttempt upTo 0 0 [] s.time.beat) s = .next t ∧ t.start.st = 2 ∧ t.start.running = false ∧ t.start.counts.get 13 0 = 0)) ∧
  (∀ s : State, s.glob.coxFailed = false →
     let n := s.start.step.toNat
     (s.start.st = 1 → s.start.running = true → n < 13 →
       (s.time.beat < s.start.stepBegan + s.stepLimit n → exec (.startStepTimeout s.time.beat) s = .next s) ∧
       (s.time.beat ≥ s.start.stepBegan + s.stepLimit n → ∃ t, exec (.startStepTimeout s.time.beat) s = .next t ∧ t.start.running = false ∧
         t.start.counts.get n 0 = s.start.count n + 1 ∧ (s.start.count n < 2 → t.start.st = 3) ∧ (s.start.count n ≥ 2 → t.start.st = 4))) ∧
     (s.start.st = 3 →
       (s.time.beat < s.start.waitBegan + 1800000 → exec (.startRetry s.time.beat) s = .next s) ∧
       (s.time.beat ≥ s.start.waitBegan + 1800000 → exec (.startRetry s.time.beat) s = .next { s with
         start := { s.start with st := 0, step := BitVec.ofNat 4 s.start.first, began := s.time.beat } })))

/-- JOURNAL_APPEND writes the oldest waiting record behind the records of the active bank, where it reads back with its type, sequence number
and payload; the other bytes stay; with none waiting it writes none. JOURNAL_COMPACTION writes the other bank and switches to it. Each is a
step of the cox that has completed. JOURNAL_RAW_WRITE acts in MANUFACTURE only; a misaligned one is a bad access. -/
def Obligations.JournalRecordsReadBack : Prop :=
  (∀ (s : State) (r : JRec) (rest : List JRec), s.glob.coxFailed = false → s.journal.queue = r :: rest → s.journal.mounted = true → s.journal.bank.wf = true →
    r.type < 65536 → r.payload.length ≤ 4080 →
    let size := 16 + (r.payload.length + 15) / 16 * 16
    s.journal.fill + size ≤ bankBytes →
    ∃ t, exec .journalAppend s = .next t ∧ t = { s.coxStep with journal := t.journal } ∧ t.journal.queue = rest ∧
      t.journal.active = s.journal.active ∧ t.journal.fill = s.journal.fill + size ∧ t.journal.next = s.journal.next + 1 ∧
      readRecord t.journal.bank s.journal.fill = some ⟨r.type, s.journal.next.toNat, r.payload, size⟩ ∧
      (∀ a, a < s.journal.fill ∨ s.journal.fill + size ≤ a → t.journal.bank.read a = s.journal.bank.read a)) ∧
  (∀ s : State, s.glob.coxFailed = false → s.journal.queue = [] → exec .journalAppend s = .next s.coxStep) ∧
  (∀ s : State, s.glob.coxFailed = true → exec .journalAppend s = .next s ∧ exec .journalCompaction s = .next s) ∧
  (∀ s : State, s.glob.coxFailed = false → s.journal.compacting = true → s.journal.mounted = true → ∃ t, exec .journalCompaction s = .next t ∧
    t = { s.coxStep with journal := t.journal } ∧ t.journal.active = !s.journal.active ∧ t.journal.epoch = s.journal.epoch + 1 ∧
    t.journal.compacting = false ∧ t.journal.queue = s.journal.queue ∧
    (if s.journal.active then t.journal.bankB = s.journal.bankB else t.journal.bankA = s.journal.bankA)) ∧
  (∀ (o : BitVec 15) (wide : Bool) (v : BitVec 64) (s : State),
    let n := if wide then 8 else 4
    (o.toNat % n ≠ 0 → exec (.journalRawWrite o wide v) s = .next (s.setGlob { s.glob with badAccess := satAdd s.glob.badAccess 1 })) ∧
    (o.toNat % n = 0 → s.glob.lifecycle ≠ 0 → exec (.journalRawWrite o wide v) s = .next s)) ∧
  (∀ (o : BitVec 15) (v : BitVec 64) (s : State), o.toNat % 8 = 0 → s.glob.lifecycle = 0 → s.glob.jvBank = false → s.journal.bankA.wf = true →
    ∃ t, exec (.journalRawWrite o true v) s = .next t ∧ t = { s with journal := { s.journal with bankA := t.journal.bankA } } ∧
      t.journal.bankA.readBytes (s.glob.jvPage.toNat * 32768 + o.toNat) 8 = leBytes 8 v.toNat)
end

