-- ==== Sys2Proof/Laws/Table.lean ====
section
/-! SUPPORT. What the operations of tables and of the shared cache's bytes do: reads after writes, and the canonical form. -/

namespace Sys2Proof.Machine

/-! ## Tables -/

@[simp] theorem Table.find_set_self {α : Type} (k : Nat) (v : α) (t : Table α) : Table.find k (Table.set k v t) = some v := by
  induction t with
  | nil => simp [Table.set, Table.find]
  | cons e t ih =>
    obtain ⟨j, u⟩ := e
    simp only [Table.set]
    split
    · simp [Table.find]
    · split
      · simp [Table.find]
      · have : j ≠ k := by omega
        simp [Table.find, ih, this]
        omega

theorem Table.find_set_ne {α : Type} {k i : Nat} (v : α) (t : Table α) (h : i ≠ k) :
    Table.find i (Table.set k v t) = Table.find i t := by
  induction t with
  | nil =>
    simp only [Table.set, Table.find]
    have : k ≠ i := Ne.symm h
    simp [this]
  | cons e t ih =>
    obtain ⟨j, u⟩ := e
    have hk : k ≠ i := Ne.symm h
    simp only [Table.set]
    split
    · simp only [Table.find, if_neg hk]
      split
      · have h1 : ¬ j = i := by omega
        have h2 : i < j := by omega
        simp [h1, h2]
      · rfl
    · split
      · rename_i h2
        subst h2
        simp [Table.find, hk]
      · simp only [Table.find, ih]

@[simp] theorem Table.get_set_self {α : Type} (k : Nat) (v d : α) (t : Table α) : Table.get (Table.set k v t) k d = v := by
  simp [Table.get]

theorem Table.get_set_ne {α : Type} {k i : Nat} (v d : α) (t : Table α) (h : i ≠ k) :
    Table.get (Table.set k v t) i d = Table.get t i d := by
  simp [Table.get, Table.find_set_ne v t h]

@[simp] theorem Table.get_nil {α : Type} (k : Nat) (d : α) : Table.get ([] : Table α) k d = d := rfl

/-- A sorted table's head lies below every key after it. -/
theorem Table.find_none_of_lt {α : Type} {k : Nat} {t : Table α} (hs : Table.sorted t = true) (h : ∀ e ∈ t.head?, k < e.1) :
    Table.find k t = none := by
  cases t with
  | nil => rfl
  | cons e t =>
    obtain ⟨j, u⟩ := e
    have := h (j, u) (by simp)
    simp only [Table.find]
    have h1 : ¬ j = k := by simp at this; omega
    have h2 : k < j := by simpa using this
    simp [h1, h2]

theorem Table.sorted_cons {α : Type} {e : Nat × α} {t : Table α} :
    Table.sorted (e :: t) = true ↔ (∀ f ∈ t.head?, e.1 < f.1) ∧ Table.sorted t = true := by
  obtain ⟨j, u⟩ := e
  cases t with
  | nil => simp [Table.sorted]
  | cons f t => obtain ⟨k, v⟩ := f; simp [Table.sorted]

theorem Table.head_set {α : Type} (k : Nat) (v : α) (t : Table α) :
    ∀ e ∈ (Table.set k v t).head?, e.1 = k ∨ e ∈ t.head? := by
  cases t with
  | nil => simp [Table.set]
  | cons f t =>
    obtain ⟨j, u⟩ := f
    simp only [Table.set]
    split
    · simp
    · split <;> simp

theorem Table.sorted_set {α : Type} (k : Nat) (v : α) {t : Table α} (hs : Table.sorted t = true) :
    Table.sorted (Table.set k v t) = true := by
  induction t with
  | nil => simp [Table.set, Table.sorted]
  | cons e t ih =>
    obtain ⟨j, u⟩ := e
    have hs' := Table.sorted_cons.1 hs
    simp only [Table.set]
    split
    · rename_i h
      exact Table.sorted_cons.2 ⟨by simpa using h, hs⟩
    · split
      · rename_i h
        subst h
        exact Table.sorted_cons.2 ⟨hs'.1, hs'.2⟩
      · refine Table.sorted_cons.2 ⟨?_, ih hs'.2⟩
        intro f hf
        rcases Table.head_set k v t f hf with h | h
        · simp; omega
        · exact hs'.1 f h

/-- Every key of a sorted table's tail lies above its head. -/
theorem Table.sorted_lt {α : Type} {e : Nat × α} {t : Table α} (hs : Table.sorted (e :: t) = true) : ∀ f ∈ t, e.1 < f.1 := by
  induction t generalizing e with
  | nil => simp
  | cons g t ih =>
    have h := Table.sorted_cons.1 hs
    intro f hf
    rcases List.mem_cons.1 hf with rfl | hf
    · exact h.1 _ (by simp)
    · have := ih h.2 f hf
      have := h.1 g (by simp)
      omega

theorem Table.erase_sub {α : Type} (k : Nat) (t : Table α) : ∀ e ∈ Table.erase k t, e ∈ t := by
  induction t with
  | nil => simp [Table.erase]
  | cons f t ih =>
    obtain ⟨j, u⟩ := f
    simp only [Table.erase]
    split
    · simp
    · split
      · intro e he; exact List.mem_cons_of_mem _ he
      · intro e he
        rcases List.mem_cons.1 he with rfl | he
        · simp
        · exact List.mem_cons_of_mem _ (ih e he)

theorem Table.sorted_of_lt {α : Type} {e : Nat × α} {t : Table α} (h : ∀ f ∈ t, e.1 < f.1) (hs : Table.sorted t = true) :
    Table.sorted (e :: t) = true :=
  Table.sorted_cons.2 ⟨fun f hf => h f (List.mem_of_mem_head? hf), hs⟩

theorem Table.sorted_erase {α : Type} (k : Nat) {t : Table α} (hs : Table.sorted t = true) :
    Table.sorted (Table.erase k t) = true := by
  induction t with
  | nil => simp [Table.erase, Table.sorted]
  | cons e t ih =>
    obtain ⟨j, u⟩ := e
    have h := Table.sorted_cons.1 hs
    simp only [Table.erase]
    split
    · exact hs
    · split
      · exact h.2
      · exact Table.sorted_of_lt (fun f hf => Table.sorted_lt hs f (Table.erase_sub k t f hf)) (ih h.2)

theorem Table.find_none_of_all_ne {α : Type} {k : Nat} {t : Table α} (h : ∀ e ∈ t, e.1 ≠ k) : Table.find k t = none := by
  induction t with
  | nil => rfl
  | cons e t ih =>
    obtain ⟨j, u⟩ := e
    simp only [Table.find]
    have h1 : j ≠ k := h (j, u) (by simp)
    simp only [if_neg h1]
    split
    · rfl
    · exact ih (fun f hf => h f (List.mem_cons_of_mem _ hf))

theorem Table.find_erase_self {α : Type} (k : Nat) {t : Table α} (hs : Table.sorted t = true) :
    Table.find k (Table.erase k t) = none := by
  induction t with
  | nil => rfl
  | cons e t ih =>
    obtain ⟨j, u⟩ := e
    simp only [Table.erase]
    split
    · simp only [Table.find]
      have : ¬ j = k := by omega
      simp only [if_neg this]
      simp [*]
    · split
      · rename_i h
        subst h
        exact Table.find_none_of_all_ne (fun f hf => by have := Table.sorted_lt hs f hf; simp at this; omega)
      · rename_i h1 h2
        have : ¬ j = k := fun h => h2 h.symm
        simp only [Table.find, this, if_false, h1]
        exact ih (Table.sorted_cons.1 hs).2

theorem Table.find_erase_ne {α : Type} {k i : Nat} {t : Table α} (hs : Table.sorted t = true) (h : i ≠ k) :
    Table.find i (Table.erase k t) = Table.find i t := by
  induction t with
  | nil => rfl
  | cons e t ih =>
    obtain ⟨j, u⟩ := e
    simp only [Table.erase]
    split
    · rfl
    · split
      · rename_i h2
        subst h2
        simp only [Table.find]
        have : ¬ k = i := Ne.symm h
        simp only [if_neg this]
        split
        · rename_i h3
          exact Table.find_none_of_all_ne (fun f hf => by have := Table.sorted_lt hs f hf; simp at this; omega)
        · rfl
      · simp only [Table.find, ih (Table.sorted_cons.1 hs).2]

/-! ## Bytes of the shared cache -/

namespace Memory

theorem wf_iff {m : Memory} : m.wf = true ↔ Table.sorted m = true ∧ ∀ e ∈ m, e.2 ≠ 0#8 := by
  simp [wf]

@[simp] theorem wf_nil : wf ([] : Memory) = true := rfl

/-- A byte that has just been written reads as written. -/
@[simp] theorem read_write_self (a : Nat) (b : Byte) {m : Memory} (h : m.wf = true) : (write a b m).read a = b := by
  have hs := (wf_iff.1 h).1
  simp only [write, read]
  split
  · rename_i hb
    simp [Table.get, Table.find_erase_self a hs, hb]
  · simp

/-- A write leaves every other byte as it was. -/
theorem read_write_ne {a i : Nat} (b : Byte) {m : Memory} (h : m.wf = true) (hne : i ≠ a) : (write a b m).read i = m.read i := by
  have hs := (wf_iff.1 h).1
  simp only [write, read]
  split
  · simp [Table.get, Table.find_erase_ne hs hne]
  · exact Table.get_set_ne b _ m hne

theorem mem_set {k : Nat} {v : Byte} {t : Memory} : ∀ e ∈ Table.set k v t, e = (k, v) ∨ e ∈ t := by
  induction t with
  | nil => simp [Table.set]
  | cons f t ih =>
    obtain ⟨j, u⟩ := f
    simp only [Table.set]
    split
    · simp
    · split
      · intro e he
        rcases List.mem_cons.1 he with rfl | he
        · exact .inl rfl
        · exact .inr (List.mem_cons_of_mem _ he)
      · intro e he
        rcases List.mem_cons.1 he with rfl | he
        · exact .inr (by simp)
        · rcases ih e he with h | h
          · exact .inl h
          · exact .inr (List.mem_cons_of_mem _ h)

/-- A write keeps the canonical form. -/
theorem wf_write (a : Nat) (b : Byte) {m : Memory} (h : m.wf = true) : (write a b m).wf = true := by
  have hw := wf_iff.1 h
  simp only [write]
  split
  · exact wf_iff.2 ⟨Table.sorted_erase a hw.1, fun e he => hw.2 e (Table.erase_sub a m e he)⟩
  · rename_i hb
    refine wf_iff.2 ⟨Table.sorted_set a b hw.1, fun e he => ?_⟩
    rcases mem_set e he with rfl | h
    · exact hb
    · exact hw.2 e h

theorem wf_writeBytes (l : List Byte) (a : Nat) {m : Memory} (h : m.wf = true) : (writeBytes a l m).wf = true := by
  induction l generalizing a m with
  | nil => exact h
  | cons b t ih => exact ih (a + 1) (wf_write a b h)

theorem wf_writeBits (at_ n v : Nat) {m : Memory} (h : m.wf = true) : (writeBits at_ n v m).wf = true :=
  wf_writeBytes _ _ h

/-- Bytes below and above a run of bytes written keep their values. -/
theorem read_writeBytes_outside (l : List Byte) (a i : Nat) {m : Memory} (h : m.wf = true) (hi : i < a ∨ a + l.length ≤ i) :
    (writeBytes a l m).read i = m.read i := by
  induction l generalizing a m with
  | nil => rfl
  | cons b t ih =>
    simp only [List.length_cons] at hi
    have : (writeBytes (a + 1) t (write a b m)).read i = (write a b m).read i := ih (a + 1) (wf_write a b h) (by omega)
    simp only [writeBytes]
    rw [this, read_write_ne b h (by omega)]

/-- Each byte of a run reads back as written. -/
theorem read_writeBytes_inside (l : List Byte) (a i : Nat) {m : Memory} (h : m.wf = true) (hi : i < l.length) :
    (writeBytes a l m).read (a + i) = l.getD i 0#8 := by
  induction l generalizing a i m with
  | nil => simp at hi
  | cons b t ih =>
    simp only [writeBytes]
    cases i with
    | zero =>
      rw [read_writeBytes_outside t (a + 1) (a + 0) (wf_write a b h) (by omega)]
      simp [read_write_self a b h]
    | succ n =>
      have h2 : a + (n + 1) = (a + 1) + n := by omega
      rw [h2, ih (a + 1) n (wf_write a b h) (by simpa using hi)]
      simp

/-- Canonical memories that read alike are equal. -/
theorem ext_of_read {m n : Memory} (hm : m.wf = true) (hn : n.wf = true) (h : ∀ a, m.read a = n.read a) : m = n := by
  induction m generalizing n with
  | nil =>
    cases n with
    | nil => rfl
    | cons e t =>
      have := h e.1
      have he := (wf_iff.1 hn).2 e (by simp)
      simp [read, Table.get, Table.find] at this
      exact absurd this.symm he
  | cons d m ih =>
    have hdm := wf_iff.1 hm
    have hd0 := hdm.2 d (by simp)
    have key : ∀ (e : Host.Cell) (t : Memory), Memory.read (e :: t) e.1 = e.2 := by
      intro e t; simp [read, Table.get, Table.find]
    have below : ∀ (e : Host.Cell) (t : Memory) (a : Nat), a < e.1 → Memory.read (e :: t) a = 0#8 := by
      intro e t a ha
      have : ¬ e.1 = a := by omega
      simp [read, Table.get, Table.find, this, ha]
    cases n with
    | nil =>
      have := h d.1
      rw [key] at this
      exact absurd (by simpa [read] using this) hd0
    | cons e n =>
      have hen := wf_iff.1 hn
      have he0 := hen.2 e (by simp)
      have h1 : d.1 = e.1 := by
        rcases Nat.lt_trichotomy d.1 e.1 with hlt | heq | hgt
        · have := h d.1
          rw [key, below _ _ _ hlt] at this
          exact absurd this hd0
        · exact heq
        · have := h e.1
          rw [key, below _ _ _ hgt] at this
          exact absurd this.symm he0
      have h2 : d.2 = e.2 := by
        have := h d.1
        rw [key, h1, key] at this
        exact this
      have hde : d = e := by
        obtain ⟨a, b⟩ := d; obtain ⟨a', b'⟩ := e; simp_all
      subst hde
      have tailm : Memory.wf m = true := wf_iff.2 ⟨(Table.sorted_cons.1 hdm.1).2, fun f hf => hdm.2 f (List.mem_cons_of_mem _ hf)⟩
      have tailn : Memory.wf n = true := wf_iff.2 ⟨(Table.sorted_cons.1 hen.1).2, fun f hf => hen.2 f (List.mem_cons_of_mem _ hf)⟩
      have : m = n := by
        apply ih tailm tailn
        intro a
        by_cases hle : a ≤ d.1
        · have hm' : Table.find a m = none :=
            Table.find_none_of_all_ne (fun f hf => by have := Table.sorted_lt hdm.1 f hf; omega)
          have hn' : Table.find a n = none :=
            Table.find_none_of_all_ne (fun f hf => by have := Table.sorted_lt hen.1 f hf; omega)
          simp [read, Table.get, hm', hn']
        · have := h a
          have hne : ¬ d.1 = a := by omega
          have hlt : ¬ a < d.1 := by omega
          simpa [read, Table.get, Table.find, hne, hlt] using this
      rw [this]

end Memory

/-! ## The view of a tile's reads (02 R46) -/

theorem Table.sorted_iff_pairwise {α : Type} {t : Table α} : Table.sorted t = true ↔ t.Pairwise (fun e f => e.1 < f.1) := by
  induction t with
  | nil => simp [Table.sorted]
  | cons e t ih =>
    constructor
    · intro h
      exact List.pairwise_cons.2 ⟨Table.sorted_lt h, ih.1 (Table.sorted_cons.1 h).2⟩
    · intro h
      have h' := List.pairwise_cons.1 h
      exact Table.sorted_of_lt h'.1 (ih.2 h'.2)

/-- A sorted table gives a key the value listed beside it. -/
theorem Table.find_eq_some {α : Type} {k : Nat} {v : α} {t : Table α} (hs : Table.sorted t = true) :
    Table.find k t = some v ↔ (k, v) ∈ t := by
  induction t with
  | nil => simp [Table.find]
  | cons e t ih =>
    obtain ⟨j, u⟩ := e
    have hlt := Table.sorted_lt hs
    have ih := ih (Table.sorted_cons.1 hs).2
    simp only [Table.find, List.mem_cons, Prod.mk.injEq]
    split
    · rename_i h
      subst h
      constructor
      · intro h; exact .inl ⟨rfl, (Option.some.inj h).symm⟩
      · rintro (⟨-, rfl⟩ | h)
        · rfl
        · exact absurd (hlt _ h) (by simp)
    · rename_i hne
      split
      · rename_i h
        constructor
        · intro h; cases h
        · rintro (⟨h1, -⟩ | h2)
          · exact absurd h1.symm hne
          · have := hlt _ h2; simp at this; omega
      · rw [ih]
        constructor
        · exact .inr
        · rintro (⟨h1, -⟩ | h2)
          · exact absurd h1.symm hne
          · exact h2

/-- The view keeps the canonical form. -/
theorem Memory.wf_overlay (lo hi : Int) (n : Memory) {m : Memory} (hm : m.wf = true) (hn : n.wf = true) (h : lo ≤ hi + 1) :
    (Memory.overlay lo hi n m).wf = true := by
  have pm := Table.sorted_iff_pairwise.1 (Memory.wf_iff.1 hm).1
  have pn := Table.sorted_iff_pairwise.1 (Memory.wf_iff.1 hn).1
  refine Memory.wf_iff.2 ⟨Table.sorted_iff_pairwise.2 ?_, ?_⟩
  · simp only [Memory.overlay, List.pairwise_append, List.mem_append, List.mem_filter, decide_eq_true_eq, Bool.and_eq_true]
    refine ⟨⟨pm.filter _, pn.filter _, ?_⟩, pm.filter _, ?_⟩
    · rintro a ⟨-, ha⟩ b ⟨-, hb, -⟩; omega
    · rintro a (⟨-, ha⟩ | ⟨-, -, ha⟩) b ⟨-, hb⟩ <;> omega
  · intro e he
    simp only [Memory.overlay, List.mem_append, List.mem_filter] at he
    rcases he with (⟨he, -⟩ | ⟨he, -⟩) | ⟨he, -⟩
    · exact (Memory.wf_iff.1 hm).2 e he
    · exact (Memory.wf_iff.1 hn).2 e he
    · exact (Memory.wf_iff.1 hm).2 e he

/-- Inside the range the view reads as the newer memory, outside it as before. -/
theorem Memory.read_overlay (lo hi : Int) {m n : Memory} (hm : m.wf = true) (hn : n.wf = true) (h : lo ≤ hi + 1) (a : Nat) :
    (Memory.overlay lo hi n m).read a = if lo ≤ (a : Int) ∧ (a : Int) ≤ hi then n.read a else m.read a := by
  have hs := (Memory.wf_iff.1 (Memory.wf_overlay lo hi n hm hn h)).1
  have key : ∀ v : Byte, Table.find a (Memory.overlay lo hi n m) = some v ↔
      Table.find a (if lo ≤ (a : Int) ∧ (a : Int) ≤ hi then n else m) = some v := by
    intro v
    rw [Table.find_eq_some hs]
    split
    · rename_i hin
      rw [Table.find_eq_some (Memory.wf_iff.1 hn).1]
      simp [Memory.overlay, hin.1, hin.2, Int.not_lt.2 hin.1, Int.not_lt.2 hin.2]
    · rename_i hout
      rw [Table.find_eq_some (Memory.wf_iff.1 hm).1]
      simp only [Memory.overlay, List.mem_append, List.mem_filter, decide_eq_true_eq, Bool.and_eq_true]
      constructor
      · rintro ((⟨h, -⟩ | ⟨-, h⟩) | ⟨h, -⟩)
        · exact h
        · exact absurd h hout
        · exact h
      · intro h
        by_cases h1 : (a : Int) < lo
        · exact .inl (.inl ⟨h, h1⟩)
        · exact .inr ⟨h, by omega⟩
  have : Table.find a (Memory.overlay lo hi n m) = Table.find a (if lo ≤ (a : Int) ∧ (a : Int) ≤ hi then n else m) :=
    Option.ext key
  simp only [Memory.read, Table.get, this]
  split <;> rfl

end Sys2Proof.Machine
end

