-- ==== Sys2Proof/Laws/State.lean ====
section
/-! SUPPORT. Reads of the parts of the state after the shared updates. -/

namespace Sys2Proof.Machine

/-! ## The four contexts -/

@[simp] theorem Four.get_set_self {α : Type} (f : Four α) (c : Fin 4) (v : α) : (f.set c v).get c = v := by
  match c with | 0 => rfl | 1 => rfl | 2 => rfl | 3 => rfl

theorem Four.get_set_ne {α : Type} (f : Four α) {c d : Fin 4} (v : α) (h : d ≠ c) : (f.set c v).get d = f.get d := by
  revert h
  match c, d with
  | 0, 0 => simp | 0, 1 => intro _; rfl | 0, 2 => intro _; rfl | 0, 3 => intro _; rfl
  | 1, 0 => intro _; rfl | 1, 1 => simp | 1, 2 => intro _; rfl | 1, 3 => intro _; rfl
  | 2, 0 => intro _; rfl | 2, 1 => intro _; rfl | 2, 2 => simp | 2, 3 => intro _; rfl
  | 3, 0 => intro _; rfl | 3, 1 => intro _; rfl | 3, 2 => intro _; rfl | 3, 3 => simp

@[simp] theorem Four.set_get {α : Type} (f : Four α) (c : Fin 4) : f.set c (f.get c) = f := by
  match c with | 0 => rfl | 1 => rfl | 2 => rfl | 3 => rfl

@[simp] theorem Four.set_set {α : Type} (f : Four α) (c : Fin 4) (v w : α) : (f.set c v).set c w = f.set c w := by
  match c with | 0 => rfl | 1 => rfl | 2 => rfl | 3 => rfl

namespace State

/-! ### setCtx -/

@[simp] theorem setCtx_time (s : State) (c : Fin 4) (x : Ctx) : (s.setCtx c x).time = s.time := rfl
@[simp] theorem setCtx_glob (s : State) (c : Fin 4) (x : Ctx) : (s.setCtx c x).glob = s.glob := rfl
@[simp] theorem setCtx_admin (s : State) (c : Fin 4) (x : Ctx) : (s.setCtx c x).admin = s.admin := rfl
@[simp] theorem setCtx_spans (s : State) (c : Fin 4) (x : Ctx) : (s.setCtx c x).spans = s.spans := rfl
@[simp] theorem setCtx_crews (s : State) (c : Fin 4) (x : Ctx) : (s.setCtx c x).crews = s.crews := rfl
@[simp] theorem setCtx_cores (s : State) (c : Fin 4) (x : Ctx) : (s.setCtx c x).cores = s.cores := rfl
@[simp] theorem setCtx_hists (s : State) (c : Fin 4) (x : Ctx) : (s.setCtx c x).hists = s.hists := rfl
@[simp] theorem setCtx_ring (s : State) (c : Fin 4) (x : Ctx) : (s.setCtx c x).ring = s.ring := rfl
@[simp] theorem setCtx_mbox (s : State) (c : Fin 4) (x : Ctx) : (s.setCtx c x).mbox = s.mbox := rfl
@[simp] theorem setCtx_start (s : State) (c : Fin 4) (x : Ctx) : (s.setCtx c x).start = s.start := rfl
@[simp] theorem setCtx_journal (s : State) (c : Fin 4) (x : Ctx) : (s.setCtx c x).journal = s.journal := rfl
@[simp] theorem setCtx_lib (s : State) (c : Fin 4) (x : Ctx) : (s.setCtx c x).lib = s.lib := rfl
@[simp] theorem setCtx_mem (s : State) (c : Fin 4) (x : Ctx) : (s.setCtx c x).mem = s.mem := rfl
@[simp] theorem setCtx_free (s : State) (c : Fin 4) (x : Ctx) : (s.setCtx c x).free = s.free := rfl
@[simp] theorem setCtx_pending (s : State) (c : Fin 4) (x : Ctx) : (s.setCtx c x).pending = s.pending := rfl
@[simp] theorem setCtx_adminOf (s : State) (c : Fin 4) (x : Ctx) (d : Fin 4) : (s.setCtx c x).adminOf d = s.adminOf d := rfl
@[simp] theorem setCtx_spanOf (s : State) (c : Fin 4) (x : Ctx) (k : Nat) : (s.setCtx c x).spanOf k = s.spanOf k := rfl
@[simp] theorem setCtx_crewOf (s : State) (c : Fin 4) (x : Ctx) (k : Nat) : (s.setCtx c x).crewOf k = s.crewOf k := rfl
@[simp] theorem setCtx_coreOf (s : State) (c : Fin 4) (x : Ctx) (k : Nat) : (s.setCtx c x).coreOf k = s.coreOf k := rfl
@[simp] theorem setCtx_histOf (s : State) (c : Fin 4) (x : Ctx) (k : Nat) : (s.setCtx c x).histOf k = s.histOf k := rfl
@[simp] theorem setCtx_spansFor (s : State) (c : Fin 4) (x : Ctx) (d : Fin 4) : (s.setCtx c x).spansFor d = s.spansFor d := rfl
@[simp] theorem setCtx_owner (s : State) (c : Fin 4) (x : Ctx) (k : Nat) : (s.setCtx c x).owner k = s.owner k := rfl
@[simp] theorem setCtx_isFenced (s : State) (c : Fin 4) (x : Ctx) (k : Nat) : (s.setCtx c x).isFenced k = s.isFenced k := rfl
@[simp] theorem setCtx_inWindow (s : State) (c : Fin 4) (x : Ctx) (d : Fin 4) (w : Nat) (lo hi : Int) (write : Bool) : (s.setCtx c x).inWindow d w lo hi write = s.inWindow d w lo hi write := rfl
@[simp] theorem setCtx_now (s : State) (c : Fin 4) (x : Ctx) : (s.setCtx c x).now = s.now := rfl

/-! ### setAdmin -/

@[simp] theorem setAdmin_time (s : State) (c : Fin 4) (x : Admin) : (s.setAdmin c x).time = s.time := rfl
@[simp] theorem setAdmin_glob (s : State) (c : Fin 4) (x : Admin) : (s.setAdmin c x).glob = s.glob := rfl
@[simp] theorem setAdmin_ctx (s : State) (c : Fin 4) (x : Admin) : (s.setAdmin c x).ctx = s.ctx := rfl
@[simp] theorem setAdmin_spans (s : State) (c : Fin 4) (x : Admin) : (s.setAdmin c x).spans = s.spans := rfl
@[simp] theorem setAdmin_crews (s : State) (c : Fin 4) (x : Admin) : (s.setAdmin c x).crews = s.crews := rfl
@[simp] theorem setAdmin_cores (s : State) (c : Fin 4) (x : Admin) : (s.setAdmin c x).cores = s.cores := rfl
@[simp] theorem setAdmin_hists (s : State) (c : Fin 4) (x : Admin) : (s.setAdmin c x).hists = s.hists := rfl
@[simp] theorem setAdmin_ring (s : State) (c : Fin 4) (x : Admin) : (s.setAdmin c x).ring = s.ring := rfl
@[simp] theorem setAdmin_mbox (s : State) (c : Fin 4) (x : Admin) : (s.setAdmin c x).mbox = s.mbox := rfl
@[simp] theorem setAdmin_start (s : State) (c : Fin 4) (x : Admin) : (s.setAdmin c x).start = s.start := rfl
@[simp] theorem setAdmin_journal (s : State) (c : Fin 4) (x : Admin) : (s.setAdmin c x).journal = s.journal := rfl
@[simp] theorem setAdmin_lib (s : State) (c : Fin 4) (x : Admin) : (s.setAdmin c x).lib = s.lib := rfl
@[simp] theorem setAdmin_mem (s : State) (c : Fin 4) (x : Admin) : (s.setAdmin c x).mem = s.mem := rfl
@[simp] theorem setAdmin_free (s : State) (c : Fin 4) (x : Admin) : (s.setAdmin c x).free = s.free := rfl
@[simp] theorem setAdmin_pending (s : State) (c : Fin 4) (x : Admin) : (s.setAdmin c x).pending = s.pending := rfl
@[simp] theorem setAdmin_ctxOf (s : State) (c : Fin 4) (x : Admin) (d : Fin 4) : (s.setAdmin c x).ctxOf d = s.ctxOf d := rfl
@[simp] theorem setAdmin_spanOf (s : State) (c : Fin 4) (x : Admin) (k : Nat) : (s.setAdmin c x).spanOf k = s.spanOf k := rfl
@[simp] theorem setAdmin_crewOf (s : State) (c : Fin 4) (x : Admin) (k : Nat) : (s.setAdmin c x).crewOf k = s.crewOf k := rfl
@[simp] theorem setAdmin_coreOf (s : State) (c : Fin 4) (x : Admin) (k : Nat) : (s.setAdmin c x).coreOf k = s.coreOf k := rfl
@[simp] theorem setAdmin_histOf (s : State) (c : Fin 4) (x : Admin) (k : Nat) : (s.setAdmin c x).histOf k = s.histOf k := rfl
@[simp] theorem setAdmin_isFenced (s : State) (c : Fin 4) (x : Admin) (k : Nat) : (s.setAdmin c x).isFenced k = s.isFenced k := rfl
@[simp] theorem setAdmin_now (s : State) (c : Fin 4) (x : Admin) : (s.setAdmin c x).now = s.now := rfl

/-! ### setSpan -/

@[simp] theorem setSpan_time (s : State) (n : Nat) (x : Span) : (s.setSpan n x).time = s.time := rfl
@[simp] theorem setSpan_glob (s : State) (n : Nat) (x : Span) : (s.setSpan n x).glob = s.glob := rfl
@[simp] theorem setSpan_admin (s : State) (n : Nat) (x : Span) : (s.setSpan n x).admin = s.admin := rfl
@[simp] theorem setSpan_ctx (s : State) (n : Nat) (x : Span) : (s.setSpan n x).ctx = s.ctx := rfl
@[simp] theorem setSpan_crews (s : State) (n : Nat) (x : Span) : (s.setSpan n x).crews = s.crews := rfl
@[simp] theorem setSpan_cores (s : State) (n : Nat) (x : Span) : (s.setSpan n x).cores = s.cores := rfl
@[simp] theorem setSpan_hists (s : State) (n : Nat) (x : Span) : (s.setSpan n x).hists = s.hists := rfl
@[simp] theorem setSpan_ring (s : State) (n : Nat) (x : Span) : (s.setSpan n x).ring = s.ring := rfl
@[simp] theorem setSpan_mbox (s : State) (n : Nat) (x : Span) : (s.setSpan n x).mbox = s.mbox := rfl
@[simp] theorem setSpan_start (s : State) (n : Nat) (x : Span) : (s.setSpan n x).start = s.start := rfl
@[simp] theorem setSpan_journal (s : State) (n : Nat) (x : Span) : (s.setSpan n x).journal = s.journal := rfl
@[simp] theorem setSpan_lib (s : State) (n : Nat) (x : Span) : (s.setSpan n x).lib = s.lib := rfl
@[simp] theorem setSpan_mem (s : State) (n : Nat) (x : Span) : (s.setSpan n x).mem = s.mem := rfl
@[simp] theorem setSpan_free (s : State) (n : Nat) (x : Span) : (s.setSpan n x).free = s.free := rfl
@[simp] theorem setSpan_pending (s : State) (n : Nat) (x : Span) : (s.setSpan n x).pending = s.pending := rfl
@[simp] theorem setSpan_ctxOf (s : State) (n : Nat) (x : Span) (d : Fin 4) : (s.setSpan n x).ctxOf d = s.ctxOf d := rfl
@[simp] theorem setSpan_adminOf (s : State) (n : Nat) (x : Span) (d : Fin 4) : (s.setSpan n x).adminOf d = s.adminOf d := rfl
@[simp] theorem setSpan_crewOf (s : State) (n : Nat) (x : Span) (k : Nat) : (s.setSpan n x).crewOf k = s.crewOf k := rfl
@[simp] theorem setSpan_coreOf (s : State) (n : Nat) (x : Span) (k : Nat) : (s.setSpan n x).coreOf k = s.coreOf k := rfl
@[simp] theorem setSpan_histOf (s : State) (n : Nat) (x : Span) (k : Nat) : (s.setSpan n x).histOf k = s.histOf k := rfl
@[simp] theorem setSpan_spansFor (s : State) (n : Nat) (x : Span) (d : Fin 4) : (s.setSpan n x).spansFor d = s.spansFor d := rfl
@[simp] theorem setSpan_owner (s : State) (n : Nat) (x : Span) (k : Nat) : (s.setSpan n x).owner k = s.owner k := rfl
@[simp] theorem setSpan_inWindow (s : State) (n : Nat) (x : Span) (d : Fin 4) (w : Nat) (lo hi : Int) (write : Bool) : (s.setSpan n x).inWindow d w lo hi write = s.inWindow d w lo hi write := rfl
@[simp] theorem setSpan_now (s : State) (n : Nat) (x : Span) : (s.setSpan n x).now = s.now := rfl
@[simp] theorem setSpan_runs (s : State) (n : Nat) (x : Span) (d : Fin 4) : (s.setSpan n x).runs d = s.runs d := rfl

/-! ### setCrew -/

@[simp] theorem setCrew_time (s : State) (n : Nat) (x : Crew) : (s.setCrew n x).time = s.time := rfl
@[simp] theorem setCrew_glob (s : State) (n : Nat) (x : Crew) : (s.setCrew n x).glob = s.glob := rfl
@[simp] theorem setCrew_admin (s : State) (n : Nat) (x : Crew) : (s.setCrew n x).admin = s.admin := rfl
@[simp] theorem setCrew_ctx (s : State) (n : Nat) (x : Crew) : (s.setCrew n x).ctx = s.ctx := rfl
@[simp] theorem setCrew_spans (s : State) (n : Nat) (x : Crew) : (s.setCrew n x).spans = s.spans := rfl
@[simp] theorem setCrew_cores (s : State) (n : Nat) (x : Crew) : (s.setCrew n x).cores = s.cores := rfl
@[simp] theorem setCrew_hists (s : State) (n : Nat) (x : Crew) : (s.setCrew n x).hists = s.hists := rfl
@[simp] theorem setCrew_ring (s : State) (n : Nat) (x : Crew) : (s.setCrew n x).ring = s.ring := rfl
@[simp] theorem setCrew_mbox (s : State) (n : Nat) (x : Crew) : (s.setCrew n x).mbox = s.mbox := rfl
@[simp] theorem setCrew_start (s : State) (n : Nat) (x : Crew) : (s.setCrew n x).start = s.start := rfl
@[simp] theorem setCrew_journal (s : State) (n : Nat) (x : Crew) : (s.setCrew n x).journal = s.journal := rfl
@[simp] theorem setCrew_lib (s : State) (n : Nat) (x : Crew) : (s.setCrew n x).lib = s.lib := rfl
@[simp] theorem setCrew_mem (s : State) (n : Nat) (x : Crew) : (s.setCrew n x).mem = s.mem := rfl
@[simp] theorem setCrew_free (s : State) (n : Nat) (x : Crew) : (s.setCrew n x).free = s.free := rfl
@[simp] theorem setCrew_pending (s : State) (n : Nat) (x : Crew) : (s.setCrew n x).pending = s.pending := rfl
@[simp] theorem setCrew_ctxOf (s : State) (n : Nat) (x : Crew) (d : Fin 4) : (s.setCrew n x).ctxOf d = s.ctxOf d := rfl
@[simp] theorem setCrew_adminOf (s : State) (n : Nat) (x : Crew) (d : Fin 4) : (s.setCrew n x).adminOf d = s.adminOf d := rfl
@[simp] theorem setCrew_spanOf (s : State) (n : Nat) (x : Crew) (k : Nat) : (s.setCrew n x).spanOf k = s.spanOf k := rfl
@[simp] theorem setCrew_coreOf (s : State) (n : Nat) (x : Crew) (k : Nat) : (s.setCrew n x).coreOf k = s.coreOf k := rfl
@[simp] theorem setCrew_histOf (s : State) (n : Nat) (x : Crew) (k : Nat) : (s.setCrew n x).histOf k = s.histOf k := rfl
@[simp] theorem setCrew_spansFor (s : State) (n : Nat) (x : Crew) (d : Fin 4) : (s.setCrew n x).spansFor d = s.spansFor d := rfl
@[simp] theorem setCrew_owner (s : State) (n : Nat) (x : Crew) (k : Nat) : (s.setCrew n x).owner k = s.owner k := rfl
@[simp] theorem setCrew_isFenced (s : State) (n : Nat) (x : Crew) (k : Nat) : (s.setCrew n x).isFenced k = s.isFenced k := rfl
@[simp] theorem setCrew_inWindow (s : State) (n : Nat) (x : Crew) (d : Fin 4) (w : Nat) (lo hi : Int) (write : Bool) : (s.setCrew n x).inWindow d w lo hi write = s.inWindow d w lo hi write := rfl
@[simp] theorem setCrew_now (s : State) (n : Nat) (x : Crew) : (s.setCrew n x).now = s.now := rfl
@[simp] theorem setCrew_runs (s : State) (n : Nat) (x : Crew) (d : Fin 4) : (s.setCrew n x).runs d = s.runs d := rfl

/-! ### setCore -/

@[simp] theorem setCore_time (s : State) (n : Nat) (x : Core) : (s.setCore n x).time = s.time := rfl
@[simp] theorem setCore_glob (s : State) (n : Nat) (x : Core) : (s.setCore n x).glob = s.glob := rfl
@[simp] theorem setCore_admin (s : State) (n : Nat) (x : Core) : (s.setCore n x).admin = s.admin := rfl
@[simp] theorem setCore_ctx (s : State) (n : Nat) (x : Core) : (s.setCore n x).ctx = s.ctx := rfl
@[simp] theorem setCore_spans (s : State) (n : Nat) (x : Core) : (s.setCore n x).spans = s.spans := rfl
@[simp] theorem setCore_crews (s : State) (n : Nat) (x : Core) : (s.setCore n x).crews = s.crews := rfl
@[simp] theorem setCore_hists (s : State) (n : Nat) (x : Core) : (s.setCore n x).hists = s.hists := rfl
@[simp] theorem setCore_ring (s : State) (n : Nat) (x : Core) : (s.setCore n x).ring = s.ring := rfl
@[simp] theorem setCore_mbox (s : State) (n : Nat) (x : Core) : (s.setCore n x).mbox = s.mbox := rfl
@[simp] theorem setCore_start (s : State) (n : Nat) (x : Core) : (s.setCore n x).start = s.start := rfl
@[simp] theorem setCore_journal (s : State) (n : Nat) (x : Core) : (s.setCore n x).journal = s.journal := rfl
@[simp] theorem setCore_lib (s : State) (n : Nat) (x : Core) : (s.setCore n x).lib = s.lib := rfl
@[simp] theorem setCore_mem (s : State) (n : Nat) (x : Core) : (s.setCore n x).mem = s.mem := rfl
@[simp] theorem setCore_free (s : State) (n : Nat) (x : Core) : (s.setCore n x).free = s.free := rfl
@[simp] theorem setCore_pending (s : State) (n : Nat) (x : Core) : (s.setCore n x).pending = s.pending := rfl
@[simp] theorem setCore_ctxOf (s : State) (n : Nat) (x : Core) (d : Fin 4) : (s.setCore n x).ctxOf d = s.ctxOf d := rfl
@[simp] theorem setCore_adminOf (s : State) (n : Nat) (x : Core) (d : Fin 4) : (s.setCore n x).adminOf d = s.adminOf d := rfl
@[simp] theorem setCore_spanOf (s : State) (n : Nat) (x : Core) (k : Nat) : (s.setCore n x).spanOf k = s.spanOf k := rfl
@[simp] theorem setCore_crewOf (s : State) (n : Nat) (x : Core) (k : Nat) : (s.setCore n x).crewOf k = s.crewOf k := rfl
@[simp] theorem setCore_histOf (s : State) (n : Nat) (x : Core) (k : Nat) : (s.setCore n x).histOf k = s.histOf k := rfl
@[simp] theorem setCore_spansFor (s : State) (n : Nat) (x : Core) (d : Fin 4) : (s.setCore n x).spansFor d = s.spansFor d := rfl
@[simp] theorem setCore_owner (s : State) (n : Nat) (x : Core) (k : Nat) : (s.setCore n x).owner k = s.owner k := rfl
@[simp] theorem setCore_isFenced (s : State) (n : Nat) (x : Core) (k : Nat) : (s.setCore n x).isFenced k = s.isFenced k := rfl
@[simp] theorem setCore_inWindow (s : State) (n : Nat) (x : Core) (d : Fin 4) (w : Nat) (lo hi : Int) (write : Bool) : (s.setCore n x).inWindow d w lo hi write = s.inWindow d w lo hi write := rfl
@[simp] theorem setCore_now (s : State) (n : Nat) (x : Core) : (s.setCore n x).now = s.now := rfl
@[simp] theorem setCore_runs (s : State) (n : Nat) (x : Core) (d : Fin 4) : (s.setCore n x).runs d = s.runs d := rfl

/-! ### setHist -/

@[simp] theorem setHist_time (s : State) (n : Nat) (x : Hist) : (s.setHist n x).time = s.time := rfl
@[simp] theorem setHist_glob (s : State) (n : Nat) (x : Hist) : (s.setHist n x).glob = s.glob := rfl
@[simp] theorem setHist_admin (s : State) (n : Nat) (x : Hist) : (s.setHist n x).admin = s.admin := rfl
@[simp] theorem setHist_ctx (s : State) (n : Nat) (x : Hist) : (s.setHist n x).ctx = s.ctx := rfl
@[simp] theorem setHist_spans (s : State) (n : Nat) (x : Hist) : (s.setHist n x).spans = s.spans := rfl
@[simp] theorem setHist_crews (s : State) (n : Nat) (x : Hist) : (s.setHist n x).crews = s.crews := rfl
@[simp] theorem setHist_cores (s : State) (n : Nat) (x : Hist) : (s.setHist n x).cores = s.cores := rfl
@[simp] theorem setHist_ring (s : State) (n : Nat) (x : Hist) : (s.setHist n x).ring = s.ring := rfl
@[simp] theorem setHist_mbox (s : State) (n : Nat) (x : Hist) : (s.setHist n x).mbox = s.mbox := rfl
@[simp] theorem setHist_start (s : State) (n : Nat) (x : Hist) : (s.setHist n x).start = s.start := rfl
@[simp] theorem setHist_journal (s : State) (n : Nat) (x : Hist) : (s.setHist n x).journal = s.journal := rfl
@[simp] theorem setHist_lib (s : State) (n : Nat) (x : Hist) : (s.setHist n x).lib = s.lib := rfl
@[simp] theorem setHist_mem (s : State) (n : Nat) (x : Hist) : (s.setHist n x).mem = s.mem := rfl
@[simp] theorem setHist_free (s : State) (n : Nat) (x : Hist) : (s.setHist n x).free = s.free := rfl
@[simp] theorem setHist_pending (s : State) (n : Nat) (x : Hist) : (s.setHist n x).pending = s.pending := rfl
@[simp] theorem setHist_ctxOf (s : State) (n : Nat) (x : Hist) (d : Fin 4) : (s.setHist n x).ctxOf d = s.ctxOf d := rfl
@[simp] theorem setHist_adminOf (s : State) (n : Nat) (x : Hist) (d : Fin 4) : (s.setHist n x).adminOf d = s.adminOf d := rfl
@[simp] theorem setHist_spanOf (s : State) (n : Nat) (x : Hist) (k : Nat) : (s.setHist n x).spanOf k = s.spanOf k := rfl
@[simp] theorem setHist_crewOf (s : State) (n : Nat) (x : Hist) (k : Nat) : (s.setHist n x).crewOf k = s.crewOf k := rfl
@[simp] theorem setHist_coreOf (s : State) (n : Nat) (x : Hist) (k : Nat) : (s.setHist n x).coreOf k = s.coreOf k := rfl
@[simp] theorem setHist_spansFor (s : State) (n : Nat) (x : Hist) (d : Fin 4) : (s.setHist n x).spansFor d = s.spansFor d := rfl
@[simp] theorem setHist_owner (s : State) (n : Nat) (x : Hist) (k : Nat) : (s.setHist n x).owner k = s.owner k := rfl
@[simp] theorem setHist_isFenced (s : State) (n : Nat) (x : Hist) (k : Nat) : (s.setHist n x).isFenced k = s.isFenced k := rfl
@[simp] theorem setHist_inWindow (s : State) (n : Nat) (x : Hist) (d : Fin 4) (w : Nat) (lo hi : Int) (write : Bool) : (s.setHist n x).inWindow d w lo hi write = s.inWindow d w lo hi write := rfl
@[simp] theorem setHist_now (s : State) (n : Nat) (x : Hist) : (s.setHist n x).now = s.now := rfl
@[simp] theorem setHist_runs (s : State) (n : Nat) (x : Hist) (d : Fin 4) : (s.setHist n x).runs d = s.runs d := rfl

/-! ### setMem -/

@[simp] theorem setMem_time (s : State) (m : Memory) : (s.setMem m).time = s.time := rfl
@[simp] theorem setMem_glob (s : State) (m : Memory) : (s.setMem m).glob = s.glob := rfl
@[simp] theorem setMem_admin (s : State) (m : Memory) : (s.setMem m).admin = s.admin := rfl
@[simp] theorem setMem_ctx (s : State) (m : Memory) : (s.setMem m).ctx = s.ctx := rfl
@[simp] theorem setMem_spans (s : State) (m : Memory) : (s.setMem m).spans = s.spans := rfl
@[simp] theorem setMem_crews (s : State) (m : Memory) : (s.setMem m).crews = s.crews := rfl
@[simp] theorem setMem_cores (s : State) (m : Memory) : (s.setMem m).cores = s.cores := rfl
@[simp] theorem setMem_hists (s : State) (m : Memory) : (s.setMem m).hists = s.hists := rfl
@[simp] theorem setMem_ring (s : State) (m : Memory) : (s.setMem m).ring = s.ring := rfl
@[simp] theorem setMem_mbox (s : State) (m : Memory) : (s.setMem m).mbox = s.mbox := rfl
@[simp] theorem setMem_start (s : State) (m : Memory) : (s.setMem m).start = s.start := rfl
@[simp] theorem setMem_journal (s : State) (m : Memory) : (s.setMem m).journal = s.journal := rfl
@[simp] theorem setMem_lib (s : State) (m : Memory) : (s.setMem m).lib = s.lib := rfl
@[simp] theorem setMem_free (s : State) (m : Memory) : (s.setMem m).free = s.free := rfl
@[simp] theorem setMem_pending (s : State) (m : Memory) : (s.setMem m).pending = s.pending := rfl
@[simp] theorem setMem_ctxOf (s : State) (m : Memory) (d : Fin 4) : (s.setMem m).ctxOf d = s.ctxOf d := rfl
@[simp] theorem setMem_adminOf (s : State) (m : Memory) (d : Fin 4) : (s.setMem m).adminOf d = s.adminOf d := rfl
@[simp] theorem setMem_spanOf (s : State) (m : Memory) (k : Nat) : (s.setMem m).spanOf k = s.spanOf k := rfl
@[simp] theorem setMem_crewOf (s : State) (m : Memory) (k : Nat) : (s.setMem m).crewOf k = s.crewOf k := rfl
@[simp] theorem setMem_coreOf (s : State) (m : Memory) (k : Nat) : (s.setMem m).coreOf k = s.coreOf k := rfl
@[simp] theorem setMem_histOf (s : State) (m : Memory) (k : Nat) : (s.setMem m).histOf k = s.histOf k := rfl
@[simp] theorem setMem_spansFor (s : State) (m : Memory) (d : Fin 4) : (s.setMem m).spansFor d = s.spansFor d := rfl
@[simp] theorem setMem_owner (s : State) (m : Memory) (k : Nat) : (s.setMem m).owner k = s.owner k := rfl
@[simp] theorem setMem_isFenced (s : State) (m : Memory) (k : Nat) : (s.setMem m).isFenced k = s.isFenced k := rfl
@[simp] theorem setMem_inWindow (s : State) (m : Memory) (d : Fin 4) (w : Nat) (lo hi : Int) (write : Bool) : (s.setMem m).inWindow d w lo hi write = s.inWindow d w lo hi write := rfl
@[simp] theorem setMem_now (s : State) (m : Memory) : (s.setMem m).now = s.now := rfl
@[simp] theorem setMem_runs (s : State) (m : Memory) (d : Fin 4) : (s.setMem m).runs d = s.runs d := rfl

/-! ### setGlob -/

@[simp] theorem setGlob_time (s : State) (g : Global) : (s.setGlob g).time = s.time := rfl
@[simp] theorem setGlob_admin (s : State) (g : Global) : (s.setGlob g).admin = s.admin := rfl
@[simp] theorem setGlob_ctx (s : State) (g : Global) : (s.setGlob g).ctx = s.ctx := rfl
@[simp] theorem setGlob_spans (s : State) (g : Global) : (s.setGlob g).spans = s.spans := rfl
@[simp] theorem setGlob_crews (s : State) (g : Global) : (s.setGlob g).crews = s.crews := rfl
@[simp] theorem setGlob_cores (s : State) (g : Global) : (s.setGlob g).cores = s.cores := rfl
@[simp] theorem setGlob_hists (s : State) (g : Global) : (s.setGlob g).hists = s.hists := rfl
@[simp] theorem setGlob_ring (s : State) (g : Global) : (s.setGlob g).ring = s.ring := rfl
@[simp] theorem setGlob_mbox (s : State) (g : Global) : (s.setGlob g).mbox = s.mbox := rfl
@[simp] theorem setGlob_start (s : State) (g : Global) : (s.setGlob g).start = s.start := rfl
@[simp] theorem setGlob_journal (s : State) (g : Global) : (s.setGlob g).journal = s.journal := rfl
@[simp] theorem setGlob_lib (s : State) (g : Global) : (s.setGlob g).lib = s.lib := rfl
@[simp] theorem setGlob_mem (s : State) (g : Global) : (s.setGlob g).mem = s.mem := rfl
@[simp] theorem setGlob_free (s : State) (g : Global) : (s.setGlob g).free = s.free := rfl
@[simp] theorem setGlob_pending (s : State) (g : Global) : (s.setGlob g).pending = s.pending := rfl
@[simp] theorem setGlob_ctxOf (s : State) (g : Global) (d : Fin 4) : (s.setGlob g).ctxOf d = s.ctxOf d := rfl
@[simp] theorem setGlob_adminOf (s : State) (g : Global) (d : Fin 4) : (s.setGlob g).adminOf d = s.adminOf d := rfl
@[simp] theorem setGlob_spanOf (s : State) (g : Global) (k : Nat) : (s.setGlob g).spanOf k = s.spanOf k := rfl
@[simp] theorem setGlob_crewOf (s : State) (g : Global) (k : Nat) : (s.setGlob g).crewOf k = s.crewOf k := rfl
@[simp] theorem setGlob_coreOf (s : State) (g : Global) (k : Nat) : (s.setGlob g).coreOf k = s.coreOf k := rfl
@[simp] theorem setGlob_histOf (s : State) (g : Global) (k : Nat) : (s.setGlob g).histOf k = s.histOf k := rfl
@[simp] theorem setGlob_spansFor (s : State) (g : Global) (d : Fin 4) : (s.setGlob g).spansFor d = s.spansFor d := rfl
@[simp] theorem setGlob_owner (s : State) (g : Global) (k : Nat) : (s.setGlob g).owner k = s.owner k := rfl
@[simp] theorem setGlob_isFenced (s : State) (g : Global) (k : Nat) : (s.setGlob g).isFenced k = s.isFenced k := rfl
@[simp] theorem setGlob_inWindow (s : State) (g : Global) (d : Fin 4) (w : Nat) (lo hi : Int) (write : Bool) : (s.setGlob g).inWindow d w lo hi write = s.inWindow d w lo hi write := rfl
@[simp] theorem setGlob_now (s : State) (g : Global) : (s.setGlob g).now = s.now := rfl
@[simp] theorem setGlob_runs (s : State) (g : Global) (d : Fin 4) : (s.setGlob g).runs d = s.runs d := rfl

/-! ### advanceTo -/

@[simp] theorem advanceTo_glob (s : State) (b : Nat) : (s.advanceTo b).glob = s.glob := by unfold advanceTo; split <;> rfl
@[simp] theorem advanceTo_admin (s : State) (b : Nat) : (s.advanceTo b).admin = s.admin := by unfold advanceTo; split <;> rfl
@[simp] theorem advanceTo_ctx (s : State) (b : Nat) : (s.advanceTo b).ctx = s.ctx := by unfold advanceTo; split <;> rfl
@[simp] theorem advanceTo_spans (s : State) (b : Nat) : (s.advanceTo b).spans = s.spans := by unfold advanceTo; split <;> rfl
@[simp] theorem advanceTo_crews (s : State) (b : Nat) : (s.advanceTo b).crews = s.crews := by unfold advanceTo; split <;> rfl
@[simp] theorem advanceTo_cores (s : State) (b : Nat) : (s.advanceTo b).cores = s.cores := by unfold advanceTo; split <;> rfl
@[simp] theorem advanceTo_hists (s : State) (b : Nat) : (s.advanceTo b).hists = s.hists := by unfold advanceTo; split <;> rfl
@[simp] theorem advanceTo_ring (s : State) (b : Nat) : (s.advanceTo b).ring = s.ring := by unfold advanceTo; split <;> rfl
@[simp] theorem advanceTo_mbox (s : State) (b : Nat) : (s.advanceTo b).mbox = s.mbox := by unfold advanceTo; split <;> rfl
@[simp] theorem advanceTo_start (s : State) (b : Nat) : (s.advanceTo b).start = s.start := by unfold advanceTo; split <;> rfl
@[simp] theorem advanceTo_journal (s : State) (b : Nat) : (s.advanceTo b).journal = s.journal := by unfold advanceTo; split <;> rfl
@[simp] theorem advanceTo_lib (s : State) (b : Nat) : (s.advanceTo b).lib = s.lib := by unfold advanceTo; split <;> rfl
@[simp] theorem advanceTo_mem (s : State) (b : Nat) : (s.advanceTo b).mem = s.mem := by unfold advanceTo; split <;> rfl
@[simp] theorem advanceTo_free (s : State) (b : Nat) : (s.advanceTo b).free = s.free := by unfold advanceTo; split <;> rfl
@[simp] theorem advanceTo_pending (s : State) (b : Nat) : (s.advanceTo b).pending = s.pending := by unfold advanceTo; split <;> rfl
@[simp] theorem advanceTo_ctxOf (s : State) (b : Nat) (d : Fin 4) : (s.advanceTo b).ctxOf d = s.ctxOf d := by unfold advanceTo; split <;> rfl
@[simp] theorem advanceTo_adminOf (s : State) (b : Nat) (d : Fin 4) : (s.advanceTo b).adminOf d = s.adminOf d := by unfold advanceTo; split <;> rfl
@[simp] theorem advanceTo_spanOf (s : State) (b : Nat) (k : Nat) : (s.advanceTo b).spanOf k = s.spanOf k := by unfold advanceTo; split <;> rfl
@[simp] theorem advanceTo_crewOf (s : State) (b : Nat) (k : Nat) : (s.advanceTo b).crewOf k = s.crewOf k := by unfold advanceTo; split <;> rfl
@[simp] theorem advanceTo_coreOf (s : State) (b : Nat) (k : Nat) : (s.advanceTo b).coreOf k = s.coreOf k := by unfold advanceTo; split <;> rfl
@[simp] theorem advanceTo_histOf (s : State) (b : Nat) (k : Nat) : (s.advanceTo b).histOf k = s.histOf k := by unfold advanceTo; split <;> rfl
@[simp] theorem advanceTo_spansFor (s : State) (b : Nat) (d : Fin 4) : (s.advanceTo b).spansFor d = s.spansFor d := by unfold advanceTo; split <;> rfl
@[simp] theorem advanceTo_owner (s : State) (b : Nat) (k : Nat) : (s.advanceTo b).owner k = s.owner k := by unfold advanceTo; split <;> rfl
@[simp] theorem advanceTo_isFenced (s : State) (b : Nat) (k : Nat) : (s.advanceTo b).isFenced k = s.isFenced k := by unfold advanceTo; split <;> rfl
@[simp] theorem advanceTo_runs (s : State) (b : Nat) (d : Fin 4) : (s.advanceTo b).runs d = s.runs d := by unfold advanceTo; split <;> rfl

/-! ### What an update puts there -/

@[simp] theorem setMem_mem (s : State) (m : Memory) : (s.setMem m).mem = m := rfl
@[simp] theorem setGlob_glob (s : State) (g : Global) : (s.setGlob g).glob = g := rfl
@[simp] theorem setCtx_ctxOf_self (s : State) (c : Fin 4) (x : Ctx) : (s.setCtx c x).ctxOf c = x := by
  simp [setCtx, ctxOf]
theorem setCtx_ctxOf_ne (s : State) {c d : Fin 4} (x : Ctx) (h : d ≠ c) : (s.setCtx c x).ctxOf d = s.ctxOf d := by
  simp [setCtx, ctxOf, Four.get_set_ne _ _ h]
@[simp] theorem setAdmin_adminOf_self (s : State) (c : Fin 4) (x : Admin) : (s.setAdmin c x).adminOf c = x := by
  simp [setAdmin, adminOf]
theorem setAdmin_adminOf_ne (s : State) {c d : Fin 4} (x : Admin) (h : d ≠ c) : (s.setAdmin c x).adminOf d = s.adminOf d := by
  simp [setAdmin, adminOf, Four.get_set_ne _ _ h]
@[simp] theorem setCtx_same (s : State) (c : Fin 4) : s.setCtx c (s.ctxOf c) = s := by simp [setCtx, ctxOf]
@[simp] theorem setAdmin_same (s : State) (c : Fin 4) : s.setAdmin c (s.adminOf c) = s := by simp [setAdmin, adminOf]
@[simp] theorem setCtx_setCtx (s : State) (c : Fin 4) (x y : Ctx) : (s.setCtx c x).setCtx c y = s.setCtx c y := by simp [setCtx]
@[simp] theorem setAdmin_setAdmin (s : State) (c : Fin 4) (x y : Admin) : (s.setAdmin c x).setAdmin c y = s.setAdmin c y := by
  simp [setAdmin]

@[simp] theorem setSpan_spanOf_self (s : State) (n : Nat) (x : Span) : (s.setSpan n x).spanOf n = x := by simp [setSpan, spanOf]
theorem setSpan_spanOf_ne (s : State) {n k : Nat} (x : Span) (h : k ≠ n) : (s.setSpan n x).spanOf k = s.spanOf k := by
  simp [setSpan, spanOf, Table.get_set_ne _ _ _ h]
@[simp] theorem setCrew_crewOf_self (s : State) (n : Nat) (x : Crew) : (s.setCrew n x).crewOf n = x := by simp [setCrew, crewOf]
theorem setCrew_crewOf_ne (s : State) {n k : Nat} (x : Crew) (h : k ≠ n) : (s.setCrew n x).crewOf k = s.crewOf k := by
  simp [setCrew, crewOf, Table.get_set_ne _ _ _ h]
@[simp] theorem setCore_coreOf_self (s : State) (n : Nat) (x : Core) : (s.setCore n x).coreOf n = x := by simp [setCore, coreOf]
theorem setCore_coreOf_ne (s : State) {n k : Nat} (x : Core) (h : k ≠ n) : (s.setCore n x).coreOf k = s.coreOf k := by
  simp [setCore, coreOf, Table.get_set_ne _ _ _ h]
@[simp] theorem setHist_histOf_self (s : State) (n : Nat) (x : Hist) : (s.setHist n x).histOf n = x := by simp [setHist, histOf]
theorem setHist_histOf_ne (s : State) {n k : Nat} (x : Hist) (h : k ≠ n) : (s.setHist n x).histOf k = s.histOf k := by
  simp [setHist, histOf, Table.get_set_ne _ _ _ h]

/-- Whether a context runs depends on its state and its halt alone. -/
theorem runs_iff (s : State) (c : Fin 4) : s.runs c = true ↔ (s.adminOf c).state = .live ∧ (s.ctxOf c).halt = none := by
  simp [runs]

theorem setCtx_runs_ne (s : State) {c d : Fin 4} (x : Ctx) (h : d ≠ c) : (s.setCtx c x).runs d = s.runs d := by
  unfold runs; rw [setCtx_ctxOf_ne s x h]; rfl

end State

/-! ## Streams of a context -/

@[simp] theorem Ctx.setStream_stream_self (x : Ctx) (e : Bool) (t : Stream) : (x.setStream e t).stream e = t := by
  cases e <;> rfl
theorem Ctx.setStream_stream_other (x : Ctx) {e f : Bool} (t : Stream) (h : f ≠ e) : (x.setStream e t).stream f = x.stream f := by
  cases e <;> cases f <;> first | rfl | exact absurd rfl h
@[simp] theorem Ctx.setStream_halt (x : Ctx) (e : Bool) (t : Stream) : (x.setStream e t).halt = x.halt := by cases e <;> rfl
@[simp] theorem Ctx.setStream_counters (x : Ctx) (e : Bool) (t : Stream) : (x.setStream e t).counters = x.counters := by cases e <;> rfl
@[simp] theorem Ctx.setStream_preds (x : Ctx) (e : Bool) (t : Stream) : (x.setStream e t).preds = x.preds := by cases e <;> rfl
@[simp] theorem Ctx.setStream_flags (x : Ctx) (e : Bool) (t : Stream) : (x.setStream e t).flags = x.flags := by cases e <;> rfl

end Sys2Proof.Machine
end

