-- ==== Sys2Proof/Laws/Ops.lean ====
section
/-! SUPPORT. What the shared operations of Ops.lean can do: which parts they leave alone, and what the others become. -/

namespace Sys2Proof.Machine

namespace State

/-! ## Raising a halt (R474, R478) -/

/-- A raise writes its context and nothing else. -/
theorem raise_eq_setCtx (s : State) (c : Fin 4) (q : Cause) : s.raise c q = s.setCtx c ((s.raise c q).ctxOf c) := by
  cases hl : (s.adminOf c).state <;> simp only [raise, raiseAt, hl]
  all_goals first | rw [setCtx_same] | rw [setCtx_ctxOf_self] | skip
  cases hx : (s.ctxOf c).halt <;> simp only [] <;> rw [setCtx_ctxOf_self]

theorem raise_onlyCtx (s : State) (c : Fin 4) (q : Cause) : s.OnlyCtx (s.raise c q) c := raise_eq_setCtx s c q

@[simp] theorem raise_time (s : State) (c : Fin 4) (q : Cause) : (s.raise c q).time = s.time := by
  rw [raise_eq_setCtx]; rfl
@[simp] theorem raise_glob (s : State) (c : Fin 4) (q : Cause) : (s.raise c q).glob = s.glob := by
  rw [raise_eq_setCtx]; rfl
@[simp] theorem raise_admin (s : State) (c : Fin 4) (q : Cause) : (s.raise c q).admin = s.admin := by
  rw [raise_eq_setCtx]; rfl
@[simp] theorem raise_spans (s : State) (c : Fin 4) (q : Cause) : (s.raise c q).spans = s.spans := by
  rw [raise_eq_setCtx]; rfl
@[simp] theorem raise_crews (s : State) (c : Fin 4) (q : Cause) : (s.raise c q).crews = s.crews := by
  rw [raise_eq_setCtx]; rfl
@[simp] theorem raise_cores (s : State) (c : Fin 4) (q : Cause) : (s.raise c q).cores = s.cores := by
  rw [raise_eq_setCtx]; rfl
@[simp] theorem raise_hists (s : State) (c : Fin 4) (q : Cause) : (s.raise c q).hists = s.hists := by
  rw [raise_eq_setCtx]; rfl
@[simp] theorem raise_ring (s : State) (c : Fin 4) (q : Cause) : (s.raise c q).ring = s.ring := by
  rw [raise_eq_setCtx]; rfl
@[simp] theorem raise_mbox (s : State) (c : Fin 4) (q : Cause) : (s.raise c q).mbox = s.mbox := by
  rw [raise_eq_setCtx]; rfl
@[simp] theorem raise_start (s : State) (c : Fin 4) (q : Cause) : (s.raise c q).start = s.start := by
  rw [raise_eq_setCtx]; rfl
@[simp] theorem raise_journal (s : State) (c : Fin 4) (q : Cause) : (s.raise c q).journal = s.journal := by
  rw [raise_eq_setCtx]; rfl
@[simp] theorem raise_lib (s : State) (c : Fin 4) (q : Cause) : (s.raise c q).lib = s.lib := by
  rw [raise_eq_setCtx]; rfl
@[simp] theorem raise_mem (s : State) (c : Fin 4) (q : Cause) : (s.raise c q).mem = s.mem := by
  rw [raise_eq_setCtx]; rfl
@[simp] theorem raise_free (s : State) (c : Fin 4) (q : Cause) : (s.raise c q).free = s.free := by
  rw [raise_eq_setCtx]; rfl
@[simp] theorem raise_pending (s : State) (c : Fin 4) (q : Cause) : (s.raise c q).pending = s.pending := by
  rw [raise_eq_setCtx]; rfl

@[simp] theorem raise_adminOf (s : State) (c d : Fin 4) (q : Cause) : (s.raise c q).adminOf d = s.adminOf d := by simp [adminOf]

theorem raise_ctxOf_ne (s : State) {c d : Fin 4} (q : Cause) (h : d ≠ c) : (s.raise c q).ctxOf d = s.ctxOf d := by
  rw [raise_eq_setCtx, setCtx_ctxOf_ne _ _ h]

/-- A cause of a context that runs begins its halt. -/
theorem raise_halts (s : State) {c : Fin 4} (q : Cause) (h : s.runs c = true) : s.Halts (s.raise c q) c q := by
  obtain ⟨hl, hn⟩ := (runs_iff s c).1 h
  simp [Halts, raise, raiseAt, record, nowAt, hl, hn]

/-- A cause of a live context that already halts counts as SECONDARY, and takes the record over where the halt yields it. -/
theorem raise_second (s : State) {c : Fin 4} {x : Halting} (q : Cause) (hl : (s.adminOf c).state = .live) (hx : (s.ctxOf c).halt = some x) :
    ((s.raise c q).ctxOf c).secondary = satAdd (s.ctxOf c).secondary 1 ∧
    ((s.raise c q).ctxOf c).halt =
      some (if x.yields q s.time.beat then ⟨s.record c.val true q, q.code, s.time.beat, x.settled⟩ else x) := by
  simp [raise, raiseAt, record, nowAt, hl, hx]

/-- A halted context counts a cause and keeps its record; the count is all that moves. -/
theorem raise_halted (s : State) {c : Fin 4} (q : Cause) (h : (s.adminOf c).state = .halted) :
    s.raise c q = s.setCtx c { s.ctxOf c with secondary := satAdd (s.ctxOf c).secondary 1 } := by
  simp [raise, raiseAt, h]

/-- After a cause the context runs no longer. -/
theorem raise_not_runs (s : State) (c : Fin 4) (q : Cause) : (s.raise c q).runs c = false := by
  by_cases h : s.runs c = true
  · have := raise_halts s q h
    rw [this]
    simp [runs]
  · by_cases hl : (s.adminOf c).state = .live
    · have hx : (s.ctxOf c).halt ≠ none := fun hn => h ((runs_iff s c).2 ⟨hl, hn⟩)
      obtain ⟨x, hx⟩ := Option.ne_none_iff_exists'.1 hx
      have := (raise_second s q hl hx).2
      unfold runs
      rw [this]
      simp
    · simp [runs, hl]

@[simp] theorem raiseBare_time (s : State) (c : Fin 4) (q : Cause) : (s.raiseBare c q).time = s.time := raise_time s c _
@[simp] theorem raiseBare_glob (s : State) (c : Fin 4) (q : Cause) : (s.raiseBare c q).glob = s.glob := raise_glob s c _
@[simp] theorem raiseBare_admin (s : State) (c : Fin 4) (q : Cause) : (s.raiseBare c q).admin = s.admin := raise_admin s c _
@[simp] theorem raiseBare_spans (s : State) (c : Fin 4) (q : Cause) : (s.raiseBare c q).spans = s.spans := raise_spans s c _
@[simp] theorem raiseBare_crews (s : State) (c : Fin 4) (q : Cause) : (s.raiseBare c q).crews = s.crews := raise_crews s c _
@[simp] theorem raiseBare_cores (s : State) (c : Fin 4) (q : Cause) : (s.raiseBare c q).cores = s.cores := raise_cores s c _
@[simp] theorem raiseBare_hists (s : State) (c : Fin 4) (q : Cause) : (s.raiseBare c q).hists = s.hists := raise_hists s c _
@[simp] theorem raiseBare_ring (s : State) (c : Fin 4) (q : Cause) : (s.raiseBare c q).ring = s.ring := raise_ring s c _
@[simp] theorem raiseBare_mbox (s : State) (c : Fin 4) (q : Cause) : (s.raiseBare c q).mbox = s.mbox := raise_mbox s c _
@[simp] theorem raiseBare_start (s : State) (c : Fin 4) (q : Cause) : (s.raiseBare c q).start = s.start := raise_start s c _
@[simp] theorem raiseBare_journal (s : State) (c : Fin 4) (q : Cause) : (s.raiseBare c q).journal = s.journal := raise_journal s c _
@[simp] theorem raiseBare_lib (s : State) (c : Fin 4) (q : Cause) : (s.raiseBare c q).lib = s.lib := raise_lib s c _
@[simp] theorem raiseBare_mem (s : State) (c : Fin 4) (q : Cause) : (s.raiseBare c q).mem = s.mem := raise_mem s c _
@[simp] theorem raiseBare_free (s : State) (c : Fin 4) (q : Cause) : (s.raiseBare c q).free = s.free := raise_free s c _
@[simp] theorem raiseBare_pending (s : State) (c : Fin 4) (q : Cause) : (s.raiseBare c q).pending = s.pending := raise_pending s c _

theorem raiseBare_onlyCtx (s : State) (c : Fin 4) (q : Cause) : s.OnlyCtx (s.raiseBare c q) c := raise_eq_setCtx s c _
@[simp] theorem raiseBare_adminOf (s : State) (c d : Fin 4) (q : Cause) : (s.raiseBare c q).adminOf d = s.adminOf d := raise_adminOf s c d _
theorem raiseBare_ctxOf_ne (s : State) {c d : Fin 4} (q : Cause) (h : d ≠ c) : (s.raiseBare c q).ctxOf d = s.ctxOf d := raise_ctxOf_ne s _ h

/-! ## Fault records (R480 to R483) -/

@[simp] theorem ringWrite_time (s : State) (r : BitVec 512) : (s.ringWrite r).time = s.time := by
  unfold ringWrite; simp only []; split <;> rfl
@[simp] theorem ringWrite_admin (s : State) (r : BitVec 512) : (s.ringWrite r).admin = s.admin := by
  unfold ringWrite; simp only []; split <;> rfl
@[simp] theorem ringWrite_ctx (s : State) (r : BitVec 512) : (s.ringWrite r).ctx = s.ctx := by
  unfold ringWrite; simp only []; split <;> rfl
@[simp] theorem ringWrite_spans (s : State) (r : BitVec 512) : (s.ringWrite r).spans = s.spans := by
  unfold ringWrite; simp only []; split <;> rfl
@[simp] theorem ringWrite_crews (s : State) (r : BitVec 512) : (s.ringWrite r).crews = s.crews := by
  unfold ringWrite; simp only []; split <;> rfl
@[simp] theorem ringWrite_cores (s : State) (r : BitVec 512) : (s.ringWrite r).cores = s.cores := by
  unfold ringWrite; simp only []; split <;> rfl
@[simp] theorem ringWrite_hists (s : State) (r : BitVec 512) : (s.ringWrite r).hists = s.hists := by
  unfold ringWrite; simp only []; split <;> rfl
@[simp] theorem ringWrite_mbox (s : State) (r : BitVec 512) : (s.ringWrite r).mbox = s.mbox := by
  unfold ringWrite; simp only []; split <;> rfl
@[simp] theorem ringWrite_start (s : State) (r : BitVec 512) : (s.ringWrite r).start = s.start := by
  unfold ringWrite; simp only []; split <;> rfl
@[simp] theorem ringWrite_lib (s : State) (r : BitVec 512) : (s.ringWrite r).lib = s.lib := by
  unfold ringWrite; simp only []; split <;> rfl
@[simp] theorem ringWrite_mem (s : State) (r : BitVec 512) : (s.ringWrite r).mem = s.mem := by
  unfold ringWrite; simp only []; split <;> rfl
@[simp] theorem ringWrite_free (s : State) (r : BitVec 512) : (s.ringWrite r).free = s.free := by
  unfold ringWrite; simp only []; split <;> rfl
@[simp] theorem ringWrite_pending (s : State) (r : BitVec 512) : (s.ringWrite r).pending = s.pending := by
  unfold ringWrite; simp only []; split <;> rfl
@[simp] theorem ringWrite_ring (s : State) (r : BitVec 512) : (s.ringWrite r).ring = s.ring.push r := by
  unfold ringWrite; simp only []; split <;> rfl
@[simp] theorem ringWrite_glob (s : State) (r : BitVec 512) : (s.ringWrite r).glob = { s.glob with faultIrq := true, setAt := s.glob.setAt.set 2 s.time.beat } := by
  unfold ringWrite; simp only []; split <;> rfl
@[simp] theorem ringWrite_ctxOf (s : State) (r : BitVec 512) (c : Fin 4) : (s.ringWrite r).ctxOf c = s.ctxOf c := by simp [ctxOf]
@[simp] theorem ringWrite_adminOf (s : State) (r : BitVec 512) (c : Fin 4) : (s.ringWrite r).adminOf c = s.adminOf c := by simp [adminOf]

@[simp] theorem absorb_time (s : State) (n : Nat) (q : Cause) : (s.absorb n q).time = s.time := ringWrite_time s _
@[simp] theorem absorb_admin (s : State) (n : Nat) (q : Cause) : (s.absorb n q).admin = s.admin := ringWrite_admin s _
@[simp] theorem absorb_ctx (s : State) (n : Nat) (q : Cause) : (s.absorb n q).ctx = s.ctx := ringWrite_ctx s _
@[simp] theorem absorb_spans (s : State) (n : Nat) (q : Cause) : (s.absorb n q).spans = s.spans := ringWrite_spans s _
@[simp] theorem absorb_crews (s : State) (n : Nat) (q : Cause) : (s.absorb n q).crews = s.crews := ringWrite_crews s _
@[simp] theorem absorb_cores (s : State) (n : Nat) (q : Cause) : (s.absorb n q).cores = s.cores := ringWrite_cores s _
@[simp] theorem absorb_hists (s : State) (n : Nat) (q : Cause) : (s.absorb n q).hists = s.hists := ringWrite_hists s _
@[simp] theorem absorb_mbox (s : State) (n : Nat) (q : Cause) : (s.absorb n q).mbox = s.mbox := ringWrite_mbox s _
@[simp] theorem absorb_start (s : State) (n : Nat) (q : Cause) : (s.absorb n q).start = s.start := ringWrite_start s _
@[simp] theorem absorb_lib (s : State) (n : Nat) (q : Cause) : (s.absorb n q).lib = s.lib := ringWrite_lib s _
@[simp] theorem absorb_mem (s : State) (n : Nat) (q : Cause) : (s.absorb n q).mem = s.mem := ringWrite_mem s _
@[simp] theorem absorb_free (s : State) (n : Nat) (q : Cause) : (s.absorb n q).free = s.free := ringWrite_free s _
@[simp] theorem absorb_pending (s : State) (n : Nat) (q : Cause) : (s.absorb n q).pending = s.pending := ringWrite_pending s _
@[simp] theorem absorb_ring (s : State) (n : Nat) (q : Cause) : (s.absorb n q).ring = s.ring.push (s.record n false q) := ringWrite_ring s _
@[simp] theorem absorb_glob (s : State) (n : Nat) (q : Cause) : (s.absorb n q).glob = { s.glob with faultIrq := true, setAt := s.glob.setAt.set 2 s.time.beat } :=
  ringWrite_glob s _
@[simp] theorem absorb_ctxOf (s : State) (n : Nat) (q : Cause) (c : Fin 4) : (s.absorb n q).ctxOf c = s.ctxOf c := ringWrite_ctxOf s _ c
@[simp] theorem absorb_adminOf (s : State) (n : Nat) (q : Cause) (c : Fin 4) : (s.absorb n q).adminOf c = s.adminOf c := ringWrite_adminOf s _ c

/-- A block record and the halts of the contexts it names: of the contexts only the named ones, of the rest only what a record writes. -/
theorem raiseAll_eq (s : State) (p : Fin 4 → Bool) (q : Cause) :
    ∃ r, s.raiseAll p q =
      allCtx.foldl (fun u c => if p c then u.raiseBare c q else u) (s.ringWrite r) := ⟨_, rfl⟩

@[simp] theorem raiseAll_time (s : State) (p : Fin 4 → Bool) (q : Cause) : (s.raiseAll p q).time = s.time := by
  obtain ⟨r, h⟩ := raiseAll_eq s p q
  rw [h]
  simp only [allCtx, List.foldl]
  repeat' split
  all_goals simp
@[simp] theorem raiseAll_admin (s : State) (p : Fin 4 → Bool) (q : Cause) : (s.raiseAll p q).admin = s.admin := by
  obtain ⟨r, h⟩ := raiseAll_eq s p q
  rw [h]
  simp only [allCtx, List.foldl]
  repeat' split
  all_goals simp
@[simp] theorem raiseAll_spans (s : State) (p : Fin 4 → Bool) (q : Cause) : (s.raiseAll p q).spans = s.spans := by
  obtain ⟨r, h⟩ := raiseAll_eq s p q
  rw [h]
  simp only [allCtx, List.foldl]
  repeat' split
  all_goals simp
@[simp] theorem raiseAll_crews (s : State) (p : Fin 4 → Bool) (q : Cause) : (s.raiseAll p q).crews = s.crews := by
  obtain ⟨r, h⟩ := raiseAll_eq s p q
  rw [h]
  simp only [allCtx, List.foldl]
  repeat' split
  all_goals simp
@[simp] theorem raiseAll_cores (s : State) (p : Fin 4 → Bool) (q : Cause) : (s.raiseAll p q).cores = s.cores := by
  obtain ⟨r, h⟩ := raiseAll_eq s p q
  rw [h]
  simp only [allCtx, List.foldl]
  repeat' split
  all_goals simp
@[simp] theorem raiseAll_hists (s : State) (p : Fin 4 → Bool) (q : Cause) : (s.raiseAll p q).hists = s.hists := by
  obtain ⟨r, h⟩ := raiseAll_eq s p q
  rw [h]
  simp only [allCtx, List.foldl]
  repeat' split
  all_goals simp
@[simp] theorem raiseAll_mbox (s : State) (p : Fin 4 → Bool) (q : Cause) : (s.raiseAll p q).mbox = s.mbox := by
  obtain ⟨r, h⟩ := raiseAll_eq s p q
  rw [h]
  simp only [allCtx, List.foldl]
  repeat' split
  all_goals simp
@[simp] theorem raiseAll_start (s : State) (p : Fin 4 → Bool) (q : Cause) : (s.raiseAll p q).start = s.start := by
  obtain ⟨r, h⟩ := raiseAll_eq s p q
  rw [h]
  simp only [allCtx, List.foldl]
  repeat' split
  all_goals simp
@[simp] theorem raiseAll_lib (s : State) (p : Fin 4 → Bool) (q : Cause) : (s.raiseAll p q).lib = s.lib := by
  obtain ⟨r, h⟩ := raiseAll_eq s p q
  rw [h]
  simp only [allCtx, List.foldl]
  repeat' split
  all_goals simp
@[simp] theorem raiseAll_mem (s : State) (p : Fin 4 → Bool) (q : Cause) : (s.raiseAll p q).mem = s.mem := by
  obtain ⟨r, h⟩ := raiseAll_eq s p q
  rw [h]
  simp only [allCtx, List.foldl]
  repeat' split
  all_goals simp
@[simp] theorem raiseAll_free (s : State) (p : Fin 4 → Bool) (q : Cause) : (s.raiseAll p q).free = s.free := by
  obtain ⟨r, h⟩ := raiseAll_eq s p q
  rw [h]
  simp only [allCtx, List.foldl]
  repeat' split
  all_goals simp
@[simp] theorem raiseAll_pending (s : State) (p : Fin 4 → Bool) (q : Cause) : (s.raiseAll p q).pending = s.pending := by
  obtain ⟨r, h⟩ := raiseAll_eq s p q
  rw [h]
  simp only [allCtx, List.foldl]
  repeat' split
  all_goals simp

/-! ## Alerts and the mailbox (R541, R542) -/

@[simp] theorem alert_time (s : State) (n : Nat) (step span : Option Nat) : (s.alert n step span).time = s.time := rfl
@[simp] theorem alert_admin (s : State) (n : Nat) (step span : Option Nat) : (s.alert n step span).admin = s.admin := rfl
@[simp] theorem alert_ctx (s : State) (n : Nat) (step span : Option Nat) : (s.alert n step span).ctx = s.ctx := rfl
@[simp] theorem alert_spans (s : State) (n : Nat) (step span : Option Nat) : (s.alert n step span).spans = s.spans := rfl
@[simp] theorem alert_crews (s : State) (n : Nat) (step span : Option Nat) : (s.alert n step span).crews = s.crews := rfl
@[simp] theorem alert_cores (s : State) (n : Nat) (step span : Option Nat) : (s.alert n step span).cores = s.cores := rfl
@[simp] theorem alert_hists (s : State) (n : Nat) (step span : Option Nat) : (s.alert n step span).hists = s.hists := rfl
@[simp] theorem alert_ring (s : State) (n : Nat) (step span : Option Nat) : (s.alert n step span).ring = s.ring := rfl
@[simp] theorem alert_start (s : State) (n : Nat) (step span : Option Nat) : (s.alert n step span).start = s.start := rfl
@[simp] theorem alert_journal (s : State) (n : Nat) (step span : Option Nat) : (s.alert n step span).journal = s.journal := rfl
@[simp] theorem alert_lib (s : State) (n : Nat) (step span : Option Nat) : (s.alert n step span).lib = s.lib := rfl
@[simp] theorem alert_mem (s : State) (n : Nat) (step span : Option Nat) : (s.alert n step span).mem = s.mem := rfl
@[simp] theorem alert_free (s : State) (n : Nat) (step span : Option Nat) : (s.alert n step span).free = s.free := rfl
@[simp] theorem alert_pending (s : State) (n : Nat) (step span : Option Nat) : (s.alert n step span).pending = s.pending := rfl
@[simp] theorem alert_alerts (s : State) (n : Nat) (step span : Option Nat) :
    (s.alert n step span).glob.alerts = putBit s.glob.alerts n true := rfl

@[simp] theorem takeFree_time (s : State) : s.takeFree.2.time = s.time := rfl
@[simp] theorem takeFree_glob (s : State) : s.takeFree.2.glob = s.glob := rfl
@[simp] theorem takeFree_admin (s : State) : s.takeFree.2.admin = s.admin := rfl
@[simp] theorem takeFree_ctx (s : State) : s.takeFree.2.ctx = s.ctx := rfl
@[simp] theorem takeFree_spans (s : State) : s.takeFree.2.spans = s.spans := rfl
@[simp] theorem takeFree_crews (s : State) : s.takeFree.2.crews = s.crews := rfl
@[simp] theorem takeFree_cores (s : State) : s.takeFree.2.cores = s.cores := rfl
@[simp] theorem takeFree_hists (s : State) : s.takeFree.2.hists = s.hists := rfl
@[simp] theorem takeFree_ring (s : State) : s.takeFree.2.ring = s.ring := rfl
@[simp] theorem takeFree_mbox (s : State) : s.takeFree.2.mbox = s.mbox := rfl
@[simp] theorem takeFree_start (s : State) : s.takeFree.2.start = s.start := rfl
@[simp] theorem takeFree_journal (s : State) : s.takeFree.2.journal = s.journal := rfl
@[simp] theorem takeFree_lib (s : State) : s.takeFree.2.lib = s.lib := rfl
@[simp] theorem takeFree_mem (s : State) : s.takeFree.2.mem = s.mem := rfl
@[simp] theorem takeFree_pending (s : State) : s.takeFree.2.pending = s.pending := rfl
@[simp] theorem takeFree_free (s : State) : s.takeFree.2.free = s.free + 1 := rfl

/-! ## One macro in flight -/

@[simp] theorem setRun_time (s : State) (c : Fin 4) (e : Bool) (i : Nat) (m : MacroRun) : (s.setRun c e i m).time = s.time := rfl
@[simp] theorem setRun_glob (s : State) (c : Fin 4) (e : Bool) (i : Nat) (m : MacroRun) : (s.setRun c e i m).glob = s.glob := rfl
@[simp] theorem setRun_admin (s : State) (c : Fin 4) (e : Bool) (i : Nat) (m : MacroRun) : (s.setRun c e i m).admin = s.admin := rfl
@[simp] theorem setRun_spans (s : State) (c : Fin 4) (e : Bool) (i : Nat) (m : MacroRun) : (s.setRun c e i m).spans = s.spans := rfl
@[simp] theorem setRun_crews (s : State) (c : Fin 4) (e : Bool) (i : Nat) (m : MacroRun) : (s.setRun c e i m).crews = s.crews := rfl
@[simp] theorem setRun_cores (s : State) (c : Fin 4) (e : Bool) (i : Nat) (m : MacroRun) : (s.setRun c e i m).cores = s.cores := rfl
@[simp] theorem setRun_hists (s : State) (c : Fin 4) (e : Bool) (i : Nat) (m : MacroRun) : (s.setRun c e i m).hists = s.hists := rfl
@[simp] theorem setRun_ring (s : State) (c : Fin 4) (e : Bool) (i : Nat) (m : MacroRun) : (s.setRun c e i m).ring = s.ring := rfl
@[simp] theorem setRun_mbox (s : State) (c : Fin 4) (e : Bool) (i : Nat) (m : MacroRun) : (s.setRun c e i m).mbox = s.mbox := rfl
@[simp] theorem setRun_start (s : State) (c : Fin 4) (e : Bool) (i : Nat) (m : MacroRun) : (s.setRun c e i m).start = s.start := rfl
@[simp] theorem setRun_journal (s : State) (c : Fin 4) (e : Bool) (i : Nat) (m : MacroRun) : (s.setRun c e i m).journal = s.journal := rfl
@[simp] theorem setRun_lib (s : State) (c : Fin 4) (e : Bool) (i : Nat) (m : MacroRun) : (s.setRun c e i m).lib = s.lib := rfl
@[simp] theorem setRun_mem (s : State) (c : Fin 4) (e : Bool) (i : Nat) (m : MacroRun) : (s.setRun c e i m).mem = s.mem := rfl
@[simp] theorem setRun_free (s : State) (c : Fin 4) (e : Bool) (i : Nat) (m : MacroRun) : (s.setRun c e i m).free = s.free := rfl
@[simp] theorem setRun_pending (s : State) (c : Fin 4) (e : Bool) (i : Nat) (m : MacroRun) : (s.setRun c e i m).pending = s.pending := rfl

theorem setRun_onlyCtx (s : State) (c : Fin 4) (e : Bool) (i : Nat) (m : MacroRun) : s.OnlyCtx (s.setRun c e i m) c := by
  simp [OnlyCtx, setRun]

/-- A macro that is in flight reads back as it was put. -/
theorem setRun_runAt (s : State) {c : Fin 4} {e : Bool} {i : Nat} (m : MacroRun) (h : (s.runAt c e i).isSome = true) :
    (s.setRun c e i m).runAt c e i = some m := by
  unfold runAt at h
  have hi : i < ((s.ctxOf c).stream e).inflight.length := by simpa using h
  simp [runAt, setRun, Ctx.setRun, hi]

theorem setRun_runAt_ne (s : State) {c : Fin 4} {e : Bool} {i j : Nat} (m : MacroRun) (h : j ≠ i) :
    (s.setRun c e i m).runAt c e j = s.runAt c e j := by
  simp [runAt, setRun, Ctx.setRun, List.getElem?_set_ne (Ne.symm h)]

/-! ## Scalar operations -/

/-- A scalar operation changes its context alone, and nothing where the context does not run. -/
theorem scalar_spec (s : State) (c : Fin 4) (d : Due) (f : Ctx → Ctx) :
    (s.runs c = true → s.scalar c d f = s.setCtx c (f ((s.ctxOf c).settle true d))) ∧ (s.runs c = false → s.scalar c d f = s) := by
  constructor <;> intro h <;> simp [scalar, h]

end State

/-! ## Time (R448 to R451) -/

@[simp] theorem TimeBase.advance_beat (t : TimeBase) (n : Nat) : (t.advance n).beat = t.beat + n := rfl

/-- Time reaches the beat asked for and never goes back (log 3). -/
theorem State.advanceTo_beat (s : State) (beat : Nat) : (s.advanceTo beat).time.beat = max s.time.beat beat := by
  unfold State.advanceTo
  by_cases h : beat ≤ s.time.beat
  · simp [h]
  · simp [h, TimeBase.advance]; omega

@[simp] theorem State.advanceTo_now (s : State) : s.advanceTo s.time.beat = s := by simp [State.advanceTo]

/-! ## The queues of outside agents -/

/-- A message takes a free slot behind the others, or waits; the slots posted before keep theirs. -/
theorem Mailbox.send_spec (m : Mailbox) (v : BitVec 512) :
    (m.waiting = [] ∧ m.outCount.toNat < 8 →
      m.send v = { m with outbound := m.outbound.set ((m.outRd.toNat + m.outCount.toNat) % 8) v, outCount := m.outCount + 1 }) ∧
    (¬(m.waiting = [] ∧ m.outCount.toNat < 8) → m.send v = { m with waiting := m.waiting ++ [v] }) := by
  constructor <;> intro h <;> simp [Mailbox.send] <;> intros <;> simp_all

/-- A journal request joins the queue, but for a FAULT record that finds 64 waiting; while the cox works, what the bank has room for is appended
before it and after it. -/
theorem Journal.ask_spec (j : Journal) (works : Bool) (type : Nat) (payload : List Byte) :
    let before := if works then j.drain else j
    let joined : Journal := { before with queue := before.queue ++ [⟨type, payload⟩] }
    (¬(type = 0x0013 ∧ before.queue.length ≥ 64) → j.ask works type payload = if works then joined.drain else joined) ∧
    (type = 0x0013 ∧ before.queue.length ≥ 64 → j.ask works type payload = { before with dropped := satAdd before.dropped 1 }) := by
  constructor <;> intro h <;> cases works <;> simp_all [Journal.ask]

/-- A record keeps UNREAD the count of the records between RD and WR. -/
theorem FaultRing.push_consistent (f : FaultRing) (r : BitVec 512) (h : f.Consistent) : (f.push r).Consistent := by
  obtain ⟨hu, hw⟩ := h
  have := f.rd.isLt; have := f.wr.isLt; have := f.unread.isLt
  have : (1 : BitVec 8).toNat = 1 := rfl
  have : (1 : BitVec 9).toNat = 1 := rfl
  by_cases h : f.unread = 256
  · have : f.unread.toNat = 256 := by rw [h]; rfl
    simp only [FaultRing.push, if_pos h, FaultRing.Consistent, BitVec.toNat_add]
    omega
  · have : f.unread.toNat ≠ 256 := fun e => h (BitVec.eq_of_toNat_eq e)
    simp only [FaultRing.push, if_neg h, FaultRing.Consistent, BitVec.toNat_add]
    omega

/-! ## What every update of a meaning must keep -/

/-- The three invariants of Safety.lean pass from `s` to `t`. -/
structure State.Keeps (s t : State) : Prop where
  mem : s.MemoryCanonical → t.MemoryCanonical
  spans : s.Exclusive → t.Exclusive
  ring : s.ring.Consistent → t.ring.Consistent

namespace State.Keeps

theorem rfl' {s : State} : s.Keeps s := ⟨id, id, id⟩

theorem trans {s t u : State} (h : s.Keeps t) (k : t.Keeps u) : s.Keeps u :=
  ⟨k.mem ∘ h.mem, k.spans ∘ h.spans, k.ring ∘ h.ring⟩

/-- An update that leaves the shared cache, the ownership and the ring alone keeps the three. -/
theorem of_same {s t : State} (hm : t.mem = s.mem) (ha : t.admin = s.admin) (hr : t.ring = s.ring) : s.Keeps t := by
  refine ⟨?_, ?_, ?_⟩
  · unfold State.MemoryCanonical; rw [hm]; exact id
  · unfold State.Exclusive State.adminOf; rw [ha]; exact id
  · rw [hr]; exact id

theorem setCtx (s : State) (c : Fin 4) (x : Ctx) : s.Keeps (s.setCtx c x) := of_same rfl rfl rfl
theorem setSpan (s : State) (n : Nat) (x : Span) : s.Keeps (s.setSpan n x) := of_same rfl rfl rfl
theorem setCrew (s : State) (n : Nat) (x : Crew) : s.Keeps (s.setCrew n x) := of_same rfl rfl rfl
theorem setCore (s : State) (n : Nat) (x : Core) : s.Keeps (s.setCore n x) := of_same rfl rfl rfl
theorem setHist (s : State) (n : Nat) (x : Hist) : s.Keeps (s.setHist n x) := of_same rfl rfl rfl
theorem setGlob (s : State) (g : Global) : s.Keeps (s.setGlob g) := of_same rfl rfl rfl
theorem setRun (s : State) (c : Fin 4) (e : Bool) (i : Nat) (m : MacroRun) : s.Keeps (s.setRun c e i m) := of_same rfl rfl rfl
theorem advanceTo (s : State) (b : Nat) : s.Keeps (s.advanceTo b) := of_same (by simp) (by simp) (by simp)
theorem raise (s : State) (c : Fin 4) (q : Cause) : s.Keeps (s.raise c q) := of_same (by simp) (by simp) (by simp)
theorem raiseBare (s : State) (c : Fin 4) (q : Cause) : s.Keeps (s.raiseBare c q) := of_same (by simp) (by simp) (by simp)
theorem alert (s : State) (n : Nat) (step span : Option Nat) : s.Keeps (s.alert n step span) := of_same rfl rfl rfl
theorem takeFree (s : State) : s.Keeps s.takeFree.2 := of_same rfl rfl rfl

/-- A memory that stays canonical may replace the shared cache. -/
theorem setMem {s : State} {m : Memory} (h : s.mem.wf = true → m.wf = true) : s.Keeps (s.setMem m) :=
  ⟨h, id, id⟩

/-- Administration registers that claim no more spans than before. -/
theorem setAdmin_claims {s : State} {c : Fin 4} {x : Admin} (h : x.claims = (s.adminOf c).claims) : s.Keeps (s.setAdmin c x) := by
  refine ⟨id, ?_, id⟩
  intro hs d e hde
  have key : ∀ f : Fin 4, ((s.setAdmin c x).adminOf f).claims = (s.adminOf f).claims := by
    intro f
    by_cases hf : f = c
    · subst hf; simpa using h
    · rw [setAdmin_adminOf_ne s x hf]
  rw [key, key]
  exact hs d e hde

theorem ringWrite (s : State) (r : BitVec 512) : s.Keeps (s.ringWrite r) := by
  refine ⟨?_, ?_, ?_⟩
  · unfold State.MemoryCanonical; simp
  · unfold State.Exclusive; simp
  · rw [State.ringWrite_ring]; exact FaultRing.push_consistent _ _

theorem absorb (s : State) (n : Nat) (q : Cause) : s.Keeps (s.absorb n q) := ringWrite s _

theorem raiseAll (s : State) (p : Fin 4 → Bool) (q : Cause) : s.Keeps (s.raiseAll p q) := by
  obtain ⟨r, h⟩ := State.raiseAll_eq s p q
  rw [h]
  refine (ringWrite s r).trans ?_
  generalize s.ringWrite r = u
  generalize allCtx = l
  induction l generalizing u with
  | nil => exact rfl'
  | cons c l ih =>
    simp only [List.foldl]
    split
    · exact (raiseBare u c q).trans (ih _)
    · exact ih _

/-- Folds of updates that keep the three. -/
theorem foldl {α : Type} {f : State → α → State} (h : ∀ (s : State) (a : α), s.Keeps (f s a)) (l : List α) (s : State) : s.Keeps (l.foldl f s) := by
  induction l generalizing s with
  | nil => exact rfl'
  | cons a l ih => exact (h s a).trans (ih _)

end State.Keeps

end Sys2Proof.Machine
end

