-- ==== Sys2Proof/WellFormed.lean ====
section
/-! DEFINITION. Which commands are well formed: operands whose range their types leave open. -/

namespace Sys2Proof

/-- The window is 1 MiB (21): an offset lies below 0x10_0000. -/
def Instr.offsetOk (o : Nat) : Bool := decide (o < 0x100000)

/-- A physical lane is 0 to 33, or 63 for a failure that names no lane (R15, R491). -/
def Instr.laneOk (l : BitVec 6) : Bool := decide (l.toNat < 34) || decide (l = 63)

/-- A core number of a list lies below 2,048 (R14); 4,096 + 64 × core + lane names a physical lane, 0 to 33 (R15). -/
def Instr.coresOk (l : List Nat) : Bool :=
  l.all (fun k => decide (k < 2048) || (decide (4096 ≤ k) && decide (k < 135168) && decide (k % 64 < 34)))

/-- A start step or the end of a start (R501). -/
def Instr.stepOk (n : Nat) : Bool := decide (n ≤ 14)

/-- Well-formedness of a command. -/
def Instr.wf : Instr → Bool
  | .registerWrite _ _ o _ _ => Instr.offsetOk o
  | .badAccess _ _ _ _ => true
  | .doorbell _ _ => true
  | .commandListFetch _ => true
  | .bundleSplit _ => true
  | .bundleIssue _ _ _ => true
  | .notBeforeRelease _ _ _ => true
  | .cntLoad _ _ _ => true
  | .cntAdd _ _ _ => true
  | .cntCopy _ _ _ => true
  | .cntStroke _ _ => true
  | .cmp _ _ _ _ _ _ _ => true
  | .call _ _ => true
  | .routineReturn _ => true
  | .syncSet _ _ _ _ _ => true
  | .setFlagWrite _ => true
  | .syncWait _ _ => true
  | .waitSatisfied _ _ => true
  | .syncFence _ _ => true
  | .fenceRelease _ _ => true
  | .phase _ _ => true
  | .waitTimeout _ _ _ => true
  | .crossWait _ _ => true
  | .ldQueue _ => true
  | .ldBay _ => true
  | .ldDescriptor _ => true
  | .lda _ => true
  | .stQueue _ => true
  | .stBay _ => true
  | .vew _ => true
  | .vcvt _ => true
  | .vstat _ => true
  | .vredSum _ => true
  | .vredSumsq _ => true
  | .vredDot _ => true
  | .vredProd _ => true
  | .vredMax _ => true
  | .vredMin _ => true
  | .vredCount _ => true
  | .vscanSum _ => true
  | .vscanMax _ => true
  | .vscanMin _ => true
  | .vscanProd _ => true
  | .vscanLinrec _ => true
  | .vsort _ => true
  | .vsmxFwd _ => true
  | .vsmxCombine _ => true
  | .vsmxBwd _ => true
  | .vperm _ => true
  | .vgathGather _ => true
  | .vgathCombine _ => true
  | .vscatStore _ => true
  | .vscatAdd _ => true
  | .vtopkTopk _ => true
  | .vtopkGate _ => true
  | .vsamp _ => true
  | .vshortCopy _ => true
  | .vshortAdd _ => true
  | .vshortSub _ => true
  | .vshortMul _ => true
  | .vshortFma _ => true
  | .vshortDiv _ => true
  | .vshortMin _ => true
  | .vshortMax _ => true
  | .vshortAbs _ => true
  | .vshortNeg _ => true
  | .vshortClamp _ => true
  | .vshortCmpm _ => true
  | .vshortSel _ => true
  | .vshortSfn _ => true
  | .vshortIadd _ => true
  | .vshortIsub _ => true
  | .vshortAnd _ => true
  | .vshortOr _ => true
  | .vshortXor _ => true
  | .vshortShl _ => true
  | .vshortShrl _ => true
  | .vshortShra _ => true
  | .vshortI2f _ => true
  | .vshortF2i _ => true
  | .vshortRsum _ => true
  | .vshortRmax _ => true
  | .vshortStart _ _ => true
  | .vshortLineLand _ _ => true
  | .mmulPlain _ => true
  | .mmulResid _ => true
  | .mmulChain _ => true
  | .mmulNormNext _ => true
  | .mmulGated _ => true
  | .mmulGatedDown _ => true
  | .mmulAttn _ => true
  | .mmulAttnPaged _ => true
  | .mmulDeq _ => true
  | .mmulArrive _ => true
  | .mmulKvAppend _ => true
  | .mmulLogits _ => true
  | .mmulNormBwd _ => true
  | .mmulSoftmaxBwd _ => true
  | .descriptorSnapshot _ _ => true
  | .walkerPlan _ _ => true
  | .tileDeal _ => true
  | .tileInputRead _ => true
  | .pierReadResponse _ _ _ => true
  | .pierReadTimeout _ _ _ => true
  | .pierWriteTimeout _ _ _ => true
  | .tileExecute _ _ l => Instr.laneOk l
  | .rowStatClose _ _ => true
  | .tileCommit _ => true
  | .stealGrant _ => true
  | .haloSend _ => true
  | .haloTimeout _ _ => true
  | .carrySend _ => true
  | .macroComplete _ _ => true
  | .arrivalFlag _ _ _ _ => true
  | .ftqEntry _ _ _ _ _ => true
  | .meFinishSignal _ _ _ => true
  | .bankClaimGrant _ _ _ _ => true
  | .mePortTimeout _ _ _ => true
  | .viaductUpSend _ _ _ => true
  | .viaductUpFrame _ _ _ _ _ => true
  | .viaductDownFrame _ _ _ _ _ => true
  | .resend _ _ _ _ _ => true
  | .hold _ _ _ _ _ => true
  | .abort _ _ _ _ _ => true
  | .viaductUpLate _ _ _ _ _ _ => true
  | .viaductUpResendTimer _ _ _ _ _ _ => true
  | .viaductUpTimeout _ _ _ _ _ _ => true
  | .viaductDownLate _ _ _ _ _ => true
  | .viaductDownResendTimer _ _ _ _ _ => true
  | .viaductDownTimeout _ _ _ _ _ => true
  | .timeSample _ _ _ => true
  | .timebaseLost _ => true
  | .strokeAnnounce _ _ => true
  | .spanRelease _ => true
  | .telemetryRecordWrite => true
  | .envelopeDeliver _ => true
  | .floorEntry _ _ => true
  | .pacePointMove _ => true
  | .surgeRequest _ => true
  | .surgeGrant _ => true
  | .thermalSample _ _ _ _ => true
  | .powerCapStep _ _ _ => true
  | .blockPeakStep _ _ => true
  | .outputUndervoltage _ _ _ => true
  | .outputOvervoltage _ _ _ => true
  | .outputOvercurrent _ _ => true
  | .railFault _ _ _ => true
  | .refclkLost _ => true
  | .scrubLine _ _ _ _ => true
  | .coxLockstepMismatch => true
  | .walkerRetry _ => true
  | .contextHalt _ => true
  | .contextHalted _ => true
  | .drainHalt _ => true
  | .create _ => true
  | .createComplete _ => true
  | .teardown _ => true
  | .teardownComplete _ => true
  | .contextReset _ => true
  | .resetComplete _ => true
  | .spanMaskWrite _ _ => true
  | .bayWrite _ _ _ => true
  | .bayWriteApply _ => true
  | .cplWrite _ _ => true
  | .viaConfigWrite _ _ _ _ => true
  | .histClaim _ _ => true
  | .histRelease _ => true
  | .histClear _ => true
  | .histAdviceWrite _ _ _ => true
  | .windowWrite _ _ _ _ => true
  | .descWindowWrite _ _ _ => true
  | .descWinSelWrite _ _ => true
  | .flagHostWrite _ _ _ => true
  | .ringBaseWrite _ _ _ => true
  | .rngKeyWrite _ _ _ => true
  | .paceReqWrite _ _ _ => true
  | .perfSelWrite _ _ _ => true
  | .perfClearAll _ => true
  | .faultRingRdWrite _ => true
  | .journalRawWrite _ _ _ => true
  | .mboxPost => true
  | .mboxAck => true
  | .setCap => true
  | .drain => true
  | .setPolicy => true
  | .timeResync => true
  | .commitSvn => true
  | .svnRestore => true
  | .enterReturn => true
  | .unfence => true
  | .ledgerClear => true
  | .warmReset => true
  | .patchList => true
  | .testReq => true
  | .coldReset => true
  | .startAttempt n _ _ l _ => Instr.stepOk n && Instr.coresOk l
  | .startStepTimeout _ => true
  | .startRetry _ => true
  | .journalAppend => true
  | .journalCompaction => true
  | .joinIdExchange _ _ => true
  | .outputUndervoltageClear _ _ => true

end Sys2Proof
end

