-- ==== Sys2Proof/Laws/PerInstr.lean ====
section
/-! SUPPORT. One lemma per command, by family. -/

namespace Sys2Proof.Laws

/-- Well-formedness says exactly that every operand lies in the range that its type leaves open: an offset in the window of 1 MiB, a lane
of the core or 63, core numbers below 2,048 or lanes of a core, a start step up to 14. -/
def WellFormed.Statement (i : Instr) : Prop :=
  i.wf = true ↔ match i with
    | .registerWrite _ _ o _ _ => o < 0x100000
    | .tileExecute _ _ l => l.toNat < 34 ∨ l = 63
    | .startAttempt n _ _ cores _ => n ≤ 14 ∧ ∀ k ∈ cores, k < 2048 ∨ 4096 ≤ k ∧ k < 135168 ∧ k % 64 < 34
    | _ => True

theorem WellFormed.registerWrite : ∀ x0 x1 x2 x3 x4, WellFormed.Statement (.registerWrite x0 x1 x2 x3 x4) := by
  intros; simp [WellFormed.Statement, Instr.wf, Instr.offsetOk]
theorem WellFormed.badAccess : ∀ x0 x1 x2 x3, WellFormed.Statement (.badAccess x0 x1 x2 x3) := fun _ _ _ _ => iff_of_true rfl trivial
theorem WellFormed.doorbell : ∀ x0 x1, WellFormed.Statement (.doorbell x0 x1) := fun _ _ => iff_of_true rfl trivial
theorem WellFormed.commandListFetch : ∀ x0, WellFormed.Statement (.commandListFetch x0) := fun _ => iff_of_true rfl trivial
theorem WellFormed.bundleSplit : ∀ x0, WellFormed.Statement (.bundleSplit x0) := fun _ => iff_of_true rfl trivial
theorem WellFormed.bundleIssue : ∀ x0 x1 x2, WellFormed.Statement (.bundleIssue x0 x1 x2) := fun _ _ _ => iff_of_true rfl trivial
theorem WellFormed.notBeforeRelease : ∀ x0 x1 x2, WellFormed.Statement (.notBeforeRelease x0 x1 x2) := fun _ _ _ => iff_of_true rfl trivial
theorem WellFormed.cntLoad : ∀ x0 x1 x2, WellFormed.Statement (.cntLoad x0 x1 x2) := fun _ _ _ => iff_of_true rfl trivial
theorem WellFormed.cntAdd : ∀ x0 x1 x2, WellFormed.Statement (.cntAdd x0 x1 x2) := fun _ _ _ => iff_of_true rfl trivial
theorem WellFormed.cntCopy : ∀ x0 x1 x2, WellFormed.Statement (.cntCopy x0 x1 x2) := fun _ _ _ => iff_of_true rfl trivial
theorem WellFormed.cntStroke : ∀ x0 x1, WellFormed.Statement (.cntStroke x0 x1) := fun _ _ => iff_of_true rfl trivial
theorem WellFormed.cmp : ∀ x0 x1 x2 x3 x4 x5 x6, WellFormed.Statement (.cmp x0 x1 x2 x3 x4 x5 x6) := fun _ _ _ _ _ _ _ => iff_of_true rfl trivial
theorem WellFormed.call : ∀ x0 x1, WellFormed.Statement (.call x0 x1) := fun _ _ => iff_of_true rfl trivial
theorem WellFormed.routineReturn : ∀ x0, WellFormed.Statement (.routineReturn x0) := fun _ => iff_of_true rfl trivial
theorem WellFormed.syncSet : ∀ x0 x1 x2 x3 x4, WellFormed.Statement (.syncSet x0 x1 x2 x3 x4) := fun _ _ _ _ _ => iff_of_true rfl trivial
theorem WellFormed.setFlagWrite : ∀ x0, WellFormed.Statement (.setFlagWrite x0) := fun _ => iff_of_true rfl trivial
theorem WellFormed.syncWait : ∀ x0 x1, WellFormed.Statement (.syncWait x0 x1) := fun _ _ => iff_of_true rfl trivial
theorem WellFormed.waitSatisfied : ∀ x0 x1, WellFormed.Statement (.waitSatisfied x0 x1) := fun _ _ => iff_of_true rfl trivial
theorem WellFormed.syncFence : ∀ x0 x1, WellFormed.Statement (.syncFence x0 x1) := fun _ _ => iff_of_true rfl trivial
theorem WellFormed.fenceRelease : ∀ x0 x1, WellFormed.Statement (.fenceRelease x0 x1) := fun _ _ => iff_of_true rfl trivial
theorem WellFormed.phase : ∀ x0 x1, WellFormed.Statement (.phase x0 x1) := fun _ _ => iff_of_true rfl trivial
theorem WellFormed.waitTimeout : ∀ x0 x1 x2, WellFormed.Statement (.waitTimeout x0 x1 x2) := fun _ _ _ => iff_of_true rfl trivial
theorem WellFormed.crossWait : ∀ x0 x1, WellFormed.Statement (.crossWait x0 x1) := fun _ _ => iff_of_true rfl trivial
theorem WellFormed.ldQueue : ∀ x0, WellFormed.Statement (.ldQueue x0) := fun _ => iff_of_true rfl trivial
theorem WellFormed.ldBay : ∀ x0, WellFormed.Statement (.ldBay x0) := fun _ => iff_of_true rfl trivial
theorem WellFormed.ldDescriptor : ∀ x0, WellFormed.Statement (.ldDescriptor x0) := fun _ => iff_of_true rfl trivial
theorem WellFormed.lda : ∀ x0, WellFormed.Statement (.lda x0) := fun _ => iff_of_true rfl trivial
theorem WellFormed.stQueue : ∀ x0, WellFormed.Statement (.stQueue x0) := fun _ => iff_of_true rfl trivial
theorem WellFormed.stBay : ∀ x0, WellFormed.Statement (.stBay x0) := fun _ => iff_of_true rfl trivial
theorem WellFormed.vew : ∀ x0, WellFormed.Statement (.vew x0) := fun _ => iff_of_true rfl trivial
theorem WellFormed.vcvt : ∀ x0, WellFormed.Statement (.vcvt x0) := fun _ => iff_of_true rfl trivial
theorem WellFormed.vstat : ∀ x0, WellFormed.Statement (.vstat x0) := fun _ => iff_of_true rfl trivial
theorem WellFormed.vredSum : ∀ x0, WellFormed.Statement (.vredSum x0) := fun _ => iff_of_true rfl trivial
theorem WellFormed.vredSumsq : ∀ x0, WellFormed.Statement (.vredSumsq x0) := fun _ => iff_of_true rfl trivial
theorem WellFormed.vredDot : ∀ x0, WellFormed.Statement (.vredDot x0) := fun _ => iff_of_true rfl trivial
theorem WellFormed.vredProd : ∀ x0, WellFormed.Statement (.vredProd x0) := fun _ => iff_of_true rfl trivial
theorem WellFormed.vredMax : ∀ x0, WellFormed.Statement (.vredMax x0) := fun _ => iff_of_true rfl trivial
theorem WellFormed.vredMin : ∀ x0, WellFormed.Statement (.vredMin x0) := fun _ => iff_of_true rfl trivial
theorem WellFormed.vredCount : ∀ x0, WellFormed.Statement (.vredCount x0) := fun _ => iff_of_true rfl trivial
theorem WellFormed.vscanSum : ∀ x0, WellFormed.Statement (.vscanSum x0) := fun _ => iff_of_true rfl trivial
theorem WellFormed.vscanMax : ∀ x0, WellFormed.Statement (.vscanMax x0) := fun _ => iff_of_true rfl trivial
theorem WellFormed.vscanMin : ∀ x0, WellFormed.Statement (.vscanMin x0) := fun _ => iff_of_true rfl trivial
theorem WellFormed.vscanProd : ∀ x0, WellFormed.Statement (.vscanProd x0) := fun _ => iff_of_true rfl trivial
theorem WellFormed.vscanLinrec : ∀ x0, WellFormed.Statement (.vscanLinrec x0) := fun _ => iff_of_true rfl trivial
theorem WellFormed.vsort : ∀ x0, WellFormed.Statement (.vsort x0) := fun _ => iff_of_true rfl trivial
theorem WellFormed.vsmxFwd : ∀ x0, WellFormed.Statement (.vsmxFwd x0) := fun _ => iff_of_true rfl trivial
theorem WellFormed.vsmxCombine : ∀ x0, WellFormed.Statement (.vsmxCombine x0) := fun _ => iff_of_true rfl trivial
theorem WellFormed.vsmxBwd : ∀ x0, WellFormed.Statement (.vsmxBwd x0) := fun _ => iff_of_true rfl trivial
theorem WellFormed.vperm : ∀ x0, WellFormed.Statement (.vperm x0) := fun _ => iff_of_true rfl trivial
theorem WellFormed.vgathGather : ∀ x0, WellFormed.Statement (.vgathGather x0) := fun _ => iff_of_true rfl trivial
theorem WellFormed.vgathCombine : ∀ x0, WellFormed.Statement (.vgathCombine x0) := fun _ => iff_of_true rfl trivial
theorem WellFormed.vscatStore : ∀ x0, WellFormed.Statement (.vscatStore x0) := fun _ => iff_of_true rfl trivial
theorem WellFormed.vscatAdd : ∀ x0, WellFormed.Statement (.vscatAdd x0) := fun _ => iff_of_true rfl trivial
theorem WellFormed.vtopkTopk : ∀ x0, WellFormed.Statement (.vtopkTopk x0) := fun _ => iff_of_true rfl trivial
theorem WellFormed.vtopkGate : ∀ x0, WellFormed.Statement (.vtopkGate x0) := fun _ => iff_of_true rfl trivial
theorem WellFormed.vsamp : ∀ x0, WellFormed.Statement (.vsamp x0) := fun _ => iff_of_true rfl trivial
theorem WellFormed.vshortCopy : ∀ x0, WellFormed.Statement (.vshortCopy x0) := fun _ => iff_of_true rfl trivial
theorem WellFormed.vshortAdd : ∀ x0, WellFormed.Statement (.vshortAdd x0) := fun _ => iff_of_true rfl trivial
theorem WellFormed.vshortSub : ∀ x0, WellFormed.Statement (.vshortSub x0) := fun _ => iff_of_true rfl trivial
theorem WellFormed.vshortMul : ∀ x0, WellFormed.Statement (.vshortMul x0) := fun _ => iff_of_true rfl trivial
theorem WellFormed.vshortFma : ∀ x0, WellFormed.Statement (.vshortFma x0) := fun _ => iff_of_true rfl trivial
theorem WellFormed.vshortDiv : ∀ x0, WellFormed.Statement (.vshortDiv x0) := fun _ => iff_of_true rfl trivial
theorem WellFormed.vshortMin : ∀ x0, WellFormed.Statement (.vshortMin x0) := fun _ => iff_of_true rfl trivial
theorem WellFormed.vshortMax : ∀ x0, WellFormed.Statement (.vshortMax x0) := fun _ => iff_of_true rfl trivial
theorem WellFormed.vshortAbs : ∀ x0, WellFormed.Statement (.vshortAbs x0) := fun _ => iff_of_true rfl trivial
theorem WellFormed.vshortNeg : ∀ x0, WellFormed.Statement (.vshortNeg x0) := fun _ => iff_of_true rfl trivial
theorem WellFormed.vshortClamp : ∀ x0, WellFormed.Statement (.vshortClamp x0) := fun _ => iff_of_true rfl trivial
theorem WellFormed.vshortCmpm : ∀ x0, WellFormed.Statement (.vshortCmpm x0) := fun _ => iff_of_true rfl trivial
theorem WellFormed.vshortSel : ∀ x0, WellFormed.Statement (.vshortSel x0) := fun _ => iff_of_true rfl trivial
theorem WellFormed.vshortSfn : ∀ x0, WellFormed.Statement (.vshortSfn x0) := fun _ => iff_of_true rfl trivial
theorem WellFormed.vshortIadd : ∀ x0, WellFormed.Statement (.vshortIadd x0) := fun _ => iff_of_true rfl trivial
theorem WellFormed.vshortIsub : ∀ x0, WellFormed.Statement (.vshortIsub x0) := fun _ => iff_of_true rfl trivial
theorem WellFormed.vshortAnd : ∀ x0, WellFormed.Statement (.vshortAnd x0) := fun _ => iff_of_true rfl trivial
theorem WellFormed.vshortOr : ∀ x0, WellFormed.Statement (.vshortOr x0) := fun _ => iff_of_true rfl trivial
theorem WellFormed.vshortXor : ∀ x0, WellFormed.Statement (.vshortXor x0) := fun _ => iff_of_true rfl trivial
theorem WellFormed.vshortShl : ∀ x0, WellFormed.Statement (.vshortShl x0) := fun _ => iff_of_true rfl trivial
theorem WellFormed.vshortShrl : ∀ x0, WellFormed.Statement (.vshortShrl x0) := fun _ => iff_of_true rfl trivial
theorem WellFormed.vshortShra : ∀ x0, WellFormed.Statement (.vshortShra x0) := fun _ => iff_of_true rfl trivial
theorem WellFormed.vshortI2f : ∀ x0, WellFormed.Statement (.vshortI2f x0) := fun _ => iff_of_true rfl trivial
theorem WellFormed.vshortF2i : ∀ x0, WellFormed.Statement (.vshortF2i x0) := fun _ => iff_of_true rfl trivial
theorem WellFormed.vshortRsum : ∀ x0, WellFormed.Statement (.vshortRsum x0) := fun _ => iff_of_true rfl trivial
theorem WellFormed.vshortRmax : ∀ x0, WellFormed.Statement (.vshortRmax x0) := fun _ => iff_of_true rfl trivial
theorem WellFormed.vshortStart : ∀ x0 x1, WellFormed.Statement (.vshortStart x0 x1) := fun _ _ => iff_of_true rfl trivial
theorem WellFormed.vshortLineLand : ∀ x0 x1, WellFormed.Statement (.vshortLineLand x0 x1) := fun _ _ => iff_of_true rfl trivial
theorem WellFormed.mmulPlain : ∀ x0, WellFormed.Statement (.mmulPlain x0) := fun _ => iff_of_true rfl trivial
theorem WellFormed.mmulResid : ∀ x0, WellFormed.Statement (.mmulResid x0) := fun _ => iff_of_true rfl trivial
theorem WellFormed.mmulChain : ∀ x0, WellFormed.Statement (.mmulChain x0) := fun _ => iff_of_true rfl trivial
theorem WellFormed.mmulNormNext : ∀ x0, WellFormed.Statement (.mmulNormNext x0) := fun _ => iff_of_true rfl trivial
theorem WellFormed.mmulGated : ∀ x0, WellFormed.Statement (.mmulGated x0) := fun _ => iff_of_true rfl trivial
theorem WellFormed.mmulGatedDown : ∀ x0, WellFormed.Statement (.mmulGatedDown x0) := fun _ => iff_of_true rfl trivial
theorem WellFormed.mmulAttn : ∀ x0, WellFormed.Statement (.mmulAttn x0) := fun _ => iff_of_true rfl trivial
theorem WellFormed.mmulAttnPaged : ∀ x0, WellFormed.Statement (.mmulAttnPaged x0) := fun _ => iff_of_true rfl trivial
theorem WellFormed.mmulDeq : ∀ x0, WellFormed.Statement (.mmulDeq x0) := fun _ => iff_of_true rfl trivial
theorem WellFormed.mmulArrive : ∀ x0, WellFormed.Statement (.mmulArrive x0) := fun _ => iff_of_true rfl trivial
theorem WellFormed.mmulKvAppend : ∀ x0, WellFormed.Statement (.mmulKvAppend x0) := fun _ => iff_of_true rfl trivial
theorem WellFormed.mmulLogits : ∀ x0, WellFormed.Statement (.mmulLogits x0) := fun _ => iff_of_true rfl trivial
theorem WellFormed.mmulNormBwd : ∀ x0, WellFormed.Statement (.mmulNormBwd x0) := fun _ => iff_of_true rfl trivial
theorem WellFormed.mmulSoftmaxBwd : ∀ x0, WellFormed.Statement (.mmulSoftmaxBwd x0) := fun _ => iff_of_true rfl trivial
theorem WellFormed.descriptorSnapshot : ∀ x0 x1, WellFormed.Statement (.descriptorSnapshot x0 x1) := fun _ _ => iff_of_true rfl trivial
theorem WellFormed.walkerPlan : ∀ x0 x1, WellFormed.Statement (.walkerPlan x0 x1) := fun _ _ => iff_of_true rfl trivial
theorem WellFormed.tileDeal : ∀ x0, WellFormed.Statement (.tileDeal x0) := fun _ => iff_of_true rfl trivial
theorem WellFormed.tileInputRead : ∀ x0, WellFormed.Statement (.tileInputRead x0) := fun _ => iff_of_true rfl trivial
theorem WellFormed.pierReadResponse : ∀ x0 x1 x2, WellFormed.Statement (.pierReadResponse x0 x1 x2) := fun _ _ _ => iff_of_true rfl trivial
theorem WellFormed.pierReadTimeout : ∀ x0 x1 x2, WellFormed.Statement (.pierReadTimeout x0 x1 x2) := fun _ _ _ => iff_of_true rfl trivial
theorem WellFormed.pierWriteTimeout : ∀ x0 x1 x2, WellFormed.Statement (.pierWriteTimeout x0 x1 x2) := fun _ _ _ => iff_of_true rfl trivial
theorem WellFormed.tileExecute : ∀ x0 x1 x2, WellFormed.Statement (.tileExecute x0 x1 x2) := by
  intros; simp [WellFormed.Statement, Instr.wf, Instr.laneOk]
theorem WellFormed.rowStatClose : ∀ x0 x1, WellFormed.Statement (.rowStatClose x0 x1) := fun _ _ => iff_of_true rfl trivial
theorem WellFormed.tileCommit : ∀ x0, WellFormed.Statement (.tileCommit x0) := fun _ => iff_of_true rfl trivial
theorem WellFormed.stealGrant : ∀ x0, WellFormed.Statement (.stealGrant x0) := fun _ => iff_of_true rfl trivial
theorem WellFormed.haloSend : ∀ x0, WellFormed.Statement (.haloSend x0) := fun _ => iff_of_true rfl trivial
theorem WellFormed.haloTimeout : ∀ x0 x1, WellFormed.Statement (.haloTimeout x0 x1) := fun _ _ => iff_of_true rfl trivial
theorem WellFormed.carrySend : ∀ x0, WellFormed.Statement (.carrySend x0) := fun _ => iff_of_true rfl trivial
theorem WellFormed.macroComplete : ∀ x0 x1, WellFormed.Statement (.macroComplete x0 x1) := fun _ _ => iff_of_true rfl trivial
theorem WellFormed.arrivalFlag : ∀ x0 x1 x2 x3, WellFormed.Statement (.arrivalFlag x0 x1 x2 x3) := fun _ _ _ _ => iff_of_true rfl trivial
theorem WellFormed.ftqEntry : ∀ x0 x1 x2 x3 x4, WellFormed.Statement (.ftqEntry x0 x1 x2 x3 x4) := fun _ _ _ _ _ => iff_of_true rfl trivial
theorem WellFormed.meFinishSignal : ∀ x0 x1 x2, WellFormed.Statement (.meFinishSignal x0 x1 x2) := fun _ _ _ => iff_of_true rfl trivial
theorem WellFormed.bankClaimGrant : ∀ x0 x1 x2 x3, WellFormed.Statement (.bankClaimGrant x0 x1 x2 x3) := fun _ _ _ _ => iff_of_true rfl trivial
theorem WellFormed.mePortTimeout : ∀ x0 x1 x2, WellFormed.Statement (.mePortTimeout x0 x1 x2) := fun _ _ _ => iff_of_true rfl trivial
theorem WellFormed.viaductUpSend : ∀ x0 x1 x2, WellFormed.Statement (.viaductUpSend x0 x1 x2) := fun _ _ _ => iff_of_true rfl trivial
theorem WellFormed.viaductUpFrame : ∀ x0 x1 x2 x3 x4, WellFormed.Statement (.viaductUpFrame x0 x1 x2 x3 x4) := fun _ _ _ _ _ => iff_of_true rfl trivial
theorem WellFormed.viaductDownFrame : ∀ x0 x1 x2 x3 x4, WellFormed.Statement (.viaductDownFrame x0 x1 x2 x3 x4) := fun _ _ _ _ _ => iff_of_true rfl trivial
theorem WellFormed.resend : ∀ x0 x1 x2 x3 x4, WellFormed.Statement (.resend x0 x1 x2 x3 x4) := fun _ _ _ _ _ => iff_of_true rfl trivial
theorem WellFormed.hold : ∀ x0 x1 x2 x3 x4, WellFormed.Statement (.hold x0 x1 x2 x3 x4) := fun _ _ _ _ _ => iff_of_true rfl trivial
theorem WellFormed.abort : ∀ x0 x1 x2 x3 x4, WellFormed.Statement (.abort x0 x1 x2 x3 x4) := fun _ _ _ _ _ => iff_of_true rfl trivial
theorem WellFormed.viaductUpLate : ∀ x0 x1 x2 x3 x4 x5, WellFormed.Statement (.viaductUpLate x0 x1 x2 x3 x4 x5) := fun _ _ _ _ _ _ => iff_of_true rfl trivial
theorem WellFormed.viaductUpResendTimer : ∀ x0 x1 x2 x3 x4 x5, WellFormed.Statement (.viaductUpResendTimer x0 x1 x2 x3 x4 x5) := fun _ _ _ _ _ _ => iff_of_true rfl trivial
theorem WellFormed.viaductUpTimeout : ∀ x0 x1 x2 x3 x4 x5, WellFormed.Statement (.viaductUpTimeout x0 x1 x2 x3 x4 x5) := fun _ _ _ _ _ _ => iff_of_true rfl trivial
theorem WellFormed.viaductDownLate : ∀ x0 x1 x2 x3 x4, WellFormed.Statement (.viaductDownLate x0 x1 x2 x3 x4) := fun _ _ _ _ _ => iff_of_true rfl trivial
theorem WellFormed.viaductDownResendTimer : ∀ x0 x1 x2 x3 x4, WellFormed.Statement (.viaductDownResendTimer x0 x1 x2 x3 x4) := fun _ _ _ _ _ => iff_of_true rfl trivial
theorem WellFormed.viaductDownTimeout : ∀ x0 x1 x2 x3 x4, WellFormed.Statement (.viaductDownTimeout x0 x1 x2 x3 x4) := fun _ _ _ _ _ => iff_of_true rfl trivial
theorem WellFormed.timeSample : ∀ x0 x1 x2, WellFormed.Statement (.timeSample x0 x1 x2) := fun _ _ _ => iff_of_true rfl trivial
theorem WellFormed.timebaseLost : ∀ x0, WellFormed.Statement (.timebaseLost x0) := fun _ => iff_of_true rfl trivial
theorem WellFormed.strokeAnnounce : ∀ x0 x1, WellFormed.Statement (.strokeAnnounce x0 x1) := fun _ _ => iff_of_true rfl trivial
theorem WellFormed.spanRelease : ∀ x0, WellFormed.Statement (.spanRelease x0) := fun _ => iff_of_true rfl trivial
theorem WellFormed.telemetryRecordWrite : WellFormed.Statement (.telemetryRecordWrite) := iff_of_true rfl trivial
theorem WellFormed.envelopeDeliver : ∀ x0, WellFormed.Statement (.envelopeDeliver x0) := fun _ => iff_of_true rfl trivial
theorem WellFormed.floorEntry : ∀ x0 x1, WellFormed.Statement (.floorEntry x0 x1) := fun _ _ => iff_of_true rfl trivial
theorem WellFormed.pacePointMove : ∀ x0, WellFormed.Statement (.pacePointMove x0) := fun _ => iff_of_true rfl trivial
theorem WellFormed.surgeRequest : ∀ x0, WellFormed.Statement (.surgeRequest x0) := fun _ => iff_of_true rfl trivial
theorem WellFormed.surgeGrant : ∀ x0, WellFormed.Statement (.surgeGrant x0) := fun _ => iff_of_true rfl trivial
theorem WellFormed.thermalSample : ∀ x0 x1 x2 x3, WellFormed.Statement (.thermalSample x0 x1 x2 x3) := fun _ _ _ _ => iff_of_true rfl trivial
theorem WellFormed.powerCapStep : ∀ x0 x1 x2, WellFormed.Statement (.powerCapStep x0 x1 x2) := fun _ _ _ => iff_of_true rfl trivial
theorem WellFormed.blockPeakStep : ∀ x0 x1, WellFormed.Statement (.blockPeakStep x0 x1) := fun _ _ => iff_of_true rfl trivial
theorem WellFormed.outputUndervoltage : ∀ x0 x1 x2, WellFormed.Statement (.outputUndervoltage x0 x1 x2) := fun _ _ _ => iff_of_true rfl trivial
theorem WellFormed.outputOvervoltage : ∀ x0 x1 x2, WellFormed.Statement (.outputOvervoltage x0 x1 x2) := fun _ _ _ => iff_of_true rfl trivial
theorem WellFormed.outputOvercurrent : ∀ x0 x1, WellFormed.Statement (.outputOvercurrent x0 x1) := fun _ _ => iff_of_true rfl trivial
theorem WellFormed.railFault : ∀ x0 x1 x2, WellFormed.Statement (.railFault x0 x1 x2) := fun _ _ _ => iff_of_true rfl trivial
theorem WellFormed.refclkLost : ∀ x0, WellFormed.Statement (.refclkLost x0) := fun _ => iff_of_true rfl trivial
theorem WellFormed.scrubLine : ∀ x0 x1 x2 x3, WellFormed.Statement (.scrubLine x0 x1 x2 x3) := fun _ _ _ _ => iff_of_true rfl trivial
theorem WellFormed.coxLockstepMismatch : WellFormed.Statement (.coxLockstepMismatch) := iff_of_true rfl trivial
theorem WellFormed.walkerRetry : ∀ x0, WellFormed.Statement (.walkerRetry x0) := fun _ => iff_of_true rfl trivial
theorem WellFormed.contextHalt : ∀ x0, WellFormed.Statement (.contextHalt x0) := fun _ => iff_of_true rfl trivial
theorem WellFormed.contextHalted : ∀ x0, WellFormed.Statement (.contextHalted x0) := fun _ => iff_of_true rfl trivial
theorem WellFormed.drainHalt : ∀ x0, WellFormed.Statement (.drainHalt x0) := fun _ => iff_of_true rfl trivial
theorem WellFormed.create : ∀ x0, WellFormed.Statement (.create x0) := fun _ => iff_of_true rfl trivial
theorem WellFormed.createComplete : ∀ x0, WellFormed.Statement (.createComplete x0) := fun _ => iff_of_true rfl trivial
theorem WellFormed.teardown : ∀ x0, WellFormed.Statement (.teardown x0) := fun _ => iff_of_true rfl trivial
theorem WellFormed.teardownComplete : ∀ x0, WellFormed.Statement (.teardownComplete x0) := fun _ => iff_of_true rfl trivial
theorem WellFormed.contextReset : ∀ x0, WellFormed.Statement (.contextReset x0) := fun _ => iff_of_true rfl trivial
theorem WellFormed.resetComplete : ∀ x0, WellFormed.Statement (.resetComplete x0) := fun _ => iff_of_true rfl trivial
theorem WellFormed.spanMaskWrite : ∀ x0 x1, WellFormed.Statement (.spanMaskWrite x0 x1) := fun _ _ => iff_of_true rfl trivial
theorem WellFormed.bayWrite : ∀ x0 x1 x2, WellFormed.Statement (.bayWrite x0 x1 x2) := fun _ _ _ => iff_of_true rfl trivial
theorem WellFormed.bayWriteApply : ∀ x0, WellFormed.Statement (.bayWriteApply x0) := fun _ => iff_of_true rfl trivial
theorem WellFormed.cplWrite : ∀ x0 x1, WellFormed.Statement (.cplWrite x0 x1) := fun _ _ => iff_of_true rfl trivial
theorem WellFormed.viaConfigWrite : ∀ x0 x1 x2 x3, WellFormed.Statement (.viaConfigWrite x0 x1 x2 x3) := fun _ _ _ _ => iff_of_true rfl trivial
theorem WellFormed.histClaim : ∀ x0 x1, WellFormed.Statement (.histClaim x0 x1) := fun _ _ => iff_of_true rfl trivial
theorem WellFormed.histRelease : ∀ x0, WellFormed.Statement (.histRelease x0) := fun _ => iff_of_true rfl trivial
theorem WellFormed.histClear : ∀ x0, WellFormed.Statement (.histClear x0) := fun _ => iff_of_true rfl trivial
theorem WellFormed.histAdviceWrite : ∀ x0 x1 x2, WellFormed.Statement (.histAdviceWrite x0 x1 x2) := fun _ _ _ => iff_of_true rfl trivial
theorem WellFormed.windowWrite : ∀ x0 x1 x2 x3, WellFormed.Statement (.windowWrite x0 x1 x2 x3) := fun _ _ _ _ => iff_of_true rfl trivial
theorem WellFormed.descWindowWrite : ∀ x0 x1 x2, WellFormed.Statement (.descWindowWrite x0 x1 x2) := fun _ _ _ => iff_of_true rfl trivial
theorem WellFormed.descWinSelWrite : ∀ x0 x1, WellFormed.Statement (.descWinSelWrite x0 x1) := fun _ _ => iff_of_true rfl trivial
theorem WellFormed.flagHostWrite : ∀ x0 x1 x2, WellFormed.Statement (.flagHostWrite x0 x1 x2) := fun _ _ _ => iff_of_true rfl trivial
theorem WellFormed.ringBaseWrite : ∀ x0 x1 x2, WellFormed.Statement (.ringBaseWrite x0 x1 x2) := fun _ _ _ => iff_of_true rfl trivial
theorem WellFormed.rngKeyWrite : ∀ x0 x1 x2, WellFormed.Statement (.rngKeyWrite x0 x1 x2) := fun _ _ _ => iff_of_true rfl trivial
theorem WellFormed.paceReqWrite : ∀ x0 x1 x2, WellFormed.Statement (.paceReqWrite x0 x1 x2) := fun _ _ _ => iff_of_true rfl trivial
theorem WellFormed.perfSelWrite : ∀ x0 x1 x2, WellFormed.Statement (.perfSelWrite x0 x1 x2) := fun _ _ _ => iff_of_true rfl trivial
theorem WellFormed.perfClearAll : ∀ x0, WellFormed.Statement (.perfClearAll x0) := fun _ => iff_of_true rfl trivial
theorem WellFormed.faultRingRdWrite : ∀ x0, WellFormed.Statement (.faultRingRdWrite x0) := fun _ => iff_of_true rfl trivial
theorem WellFormed.journalRawWrite : ∀ x0 x1 x2, WellFormed.Statement (.journalRawWrite x0 x1 x2) := fun _ _ _ => iff_of_true rfl trivial
theorem WellFormed.mboxPost : WellFormed.Statement (.mboxPost) := iff_of_true rfl trivial
theorem WellFormed.mboxAck : WellFormed.Statement (.mboxAck) := iff_of_true rfl trivial
theorem WellFormed.setCap : WellFormed.Statement (.setCap) := iff_of_true rfl trivial
theorem WellFormed.drain : WellFormed.Statement (.drain) := iff_of_true rfl trivial
theorem WellFormed.setPolicy : WellFormed.Statement (.setPolicy) := iff_of_true rfl trivial
theorem WellFormed.timeResync : WellFormed.Statement (.timeResync) := iff_of_true rfl trivial
theorem WellFormed.commitSvn : WellFormed.Statement (.commitSvn) := iff_of_true rfl trivial
theorem WellFormed.svnRestore : WellFormed.Statement (.svnRestore) := iff_of_true rfl trivial
theorem WellFormed.enterReturn : WellFormed.Statement (.enterReturn) := iff_of_true rfl trivial
theorem WellFormed.unfence : WellFormed.Statement (.unfence) := iff_of_true rfl trivial
theorem WellFormed.ledgerClear : WellFormed.Statement (.ledgerClear) := iff_of_true rfl trivial
theorem WellFormed.warmReset : WellFormed.Statement (.warmReset) := iff_of_true rfl trivial
theorem WellFormed.patchList : WellFormed.Statement (.patchList) := iff_of_true rfl trivial
theorem WellFormed.testReq : WellFormed.Statement (.testReq) := iff_of_true rfl trivial
theorem WellFormed.coldReset : WellFormed.Statement (.coldReset) := iff_of_true rfl trivial
theorem WellFormed.startAttempt : ∀ x0 x1 x2 x3 x4, WellFormed.Statement (.startAttempt x0 x1 x2 x3 x4) := by
  intros; simp [WellFormed.Statement, Instr.wf, Instr.coresOk, Instr.stepOk, and_assoc]
theorem WellFormed.startStepTimeout : ∀ x0, WellFormed.Statement (.startStepTimeout x0) := fun _ => iff_of_true rfl trivial
theorem WellFormed.startRetry : ∀ x0, WellFormed.Statement (.startRetry x0) := fun _ => iff_of_true rfl trivial
theorem WellFormed.journalAppend : WellFormed.Statement (.journalAppend) := iff_of_true rfl trivial
theorem WellFormed.journalCompaction : WellFormed.Statement (.journalCompaction) := iff_of_true rfl trivial
theorem WellFormed.joinIdExchange : ∀ x0 x1, WellFormed.Statement (.joinIdExchange x0 x1) := fun _ _ => iff_of_true rfl trivial
theorem WellFormed.outputUndervoltageClear : ∀ x0 x1, WellFormed.Statement (.outputUndervoltageClear x0 x1) := fun _ _ => iff_of_true rfl trivial

end Sys2Proof.Laws
end

