-- ==== Sys2Proof/Tests/Slice0.lean ====
section
/-! SUPPORT. Small tests: ill-formed commands are refused, states meet the hypotheses of the statements, and a few single steps on values that
the rules of spec/ give. -/

namespace Sys2Proof.Tests

set_option Elab.async false

open Sys2Proof.Machine

/-! ## Small states -/

/-- Context 0 LIVE, owner of span 0, with window 0 over the whole shared cache. -/
def live : State :=
  State.reset.setAdmin 0 { state := .live, mask := 1, owned := 1, winLimit := [(0, 0xFFFFFFFFFFFFF#52)], winEn := 1, winWr := 1,
                           quotaBay := 0x800, quotaQueues := 0x10, quotaHist := 0x100, quotaVia := 8 }

/-- `live` with a change of context 0. -/
def liveX (f : Ctx → Ctx) : State := live.setCtx 0 (f {})

/-- `live` in another state of context 0. -/
def inState (q : CtxState) : State := live.setAdmin 0 { live.adminOf 0 with state := q }

/-- `live` with a stream of context 0. -/
def liveStream (x : Bool) (t : Stream) : State := liveX (fun y => y.setStream x t)

/-- `live` at a later beat. -/
def at_ (beat : Nat) (s : State) : State := { s with time := { s.time with beat := beat } }

/-- A queue entry of a bundle. -/
def entry (bits : BitVec 512) : Entry := ⟨bits, 64, 5, 0, none, 0, false, [], none⟩

/-- A bundle's bits: value v at bit k. -/
def bits512 (k v : Nat) : BitVec 512 := BitVec.ofNat 512 (v * 2 ^ k)

/-- The plan of one tile of one row of 64 elements on span 0. -/
def plan1 : Plan :=
  { shape := 0, b := 64, a := 1, inner := 0, outer := 1, sizes := [64, 1, 1, 1, 1, 1], order := [(0, 1), (1, 1)], tiles := 1, footprint := 1,
    area := 64, split := 0, lowest := true, spans := 1, hold := false, halo := 0, seam := false, meBound := false, empty := false }

/-- The same with two tiles along the outer axis. -/
def plan2 : Plan := { plan1 with sizes := [64, 2, 1, 1, 1, 1], order := [(0, 1), (1, 2)], tiles := 2 }

/-- A macro of a slot, with its bits. -/
def macro_ (slot bits : Nat) : MacroRun :=
  { slot := slot, bits := BitVec.ofNat 128 bits, tag := 7, addr := 64, index := 0, depth := 0, overlapFlag := false, gap := 0 }

/-- A planned VCVT with one tile. -/
def vcvt1 (r : TileRun) : MacroRun := { macro_ 2 7 with snapped := true, plan := some plan1, tiles := [(0, r)] }

/-- A macro in flight in a stream of context 0, its tiles on core 0 where `held` says so. -/
def flying (x : Bool) (m : MacroRun) (held : List Nat) : State :=
  (liveStream x { inflight := [m], next := 1 }).setCore 0 { held := held.map (fun t => (0, x, m.id, t)) }

/-! ## Ill-formed commands -/

theorem test_wf_offset : (Instr.registerWrite false true 0x100000 true 0).wf = false ∧ (Instr.registerWrite false true 0xFFFF8 true 0).wf = true := by
  decide +kernel
theorem test_wf_lane : (Instr.tileExecute 0 1 34).wf = false ∧ (Instr.tileExecute 0 1 33).wf = true ∧ (Instr.tileExecute 0 1 63).wf = true := by
  decide +kernel
theorem test_wf_step : (Instr.startAttempt 15 0 0 [] 0).wf = false ∧ (Instr.startAttempt 14 0 0 [] 0).wf = true := by decide +kernel
theorem test_wf_core : (Instr.startAttempt 0 0 0 [2048] 0).wf = false ∧ (Instr.startAttempt 0 0 0 [2047] 0).wf = true ∧
    (Instr.startAttempt 0 0 0 [4096 + 34] 0).wf = false ∧ (Instr.startAttempt 0 0 0 [4096 + 33] 0).wf = true := by decide +kernel

/-! ## The machine as a whole -/

theorem witness_idle : State.reset.pending = [] := rfl
theorem witness_invariants : ∃ s t, s.MemoryCanonical ∧ s.Exclusive ∧ s.ring.Consistent ∧ step s = .next t :=
  ⟨{ State.reset with pending := [.testReq] }, _, rfl, by unfold State.Exclusive; decide +kernel, by unfold FaultRing.Consistent; decide +kernel, rfl⟩

/-! ## Command lists, the split, and issue -/

theorem witness_list_queued : ∃ s : State, s.runs 0 = true ∧ (s.ctxOf 0).lists.length = 7 ∧ (1 : BitVec 24) ≠ 0 :=
  ⟨liveX (fun x => { x with lists := List.replicate 7 ⟨0, 0, 1⟩ }), by decide +kernel⟩
theorem witness_list_dropped : ∃ s u v : State, s.runs 0 = true ∧ (s.ctxOf 0).lists.length = 8 ∧ u.runs 0 = false ∧ u.pageOpen 0 = true ∧
    v.pageOpen 0 = false :=
  ⟨liveX (fun x => { x with lists := List.replicate 8 ⟨0, 0, 1⟩ }), inState .halted, State.reset, by decide +kernel⟩
/-- A fetch inside window 0, and one in window 1, which is closed. -/
theorem witness_list_fetch : ∀ w ∈ [(0 : BitVec 3), 1], ∃ (s : State) (l : CmdList),
    s.runs 0 = true ∧ (s.ctxOf 0).lists = [l] ∧ (s.ctxOf 0).fetch = none ∧ (s.ctxOf 0).buffer = [] ∧
    (s.ctxOf 0).access.queue.length < 512 ∧ (s.ctxOf 0).exec.queue.length < 512 ∧ s.lowestSpan 0 = some 0 ∧ (s.spanOf 0).freeTag = some 0 ∧
    s.inWindow 0 l.window.toNat l.base (l.base + 64 * min l.left (8 - l.base / 64 % 8) - 1 : Nat) false = decide (w = 0) := by
  intro w hw
  refine ⟨liveX (fun x => { x with lists := [⟨64, w, 9⟩] }), ⟨64, w, 9⟩, ?_⟩
  simp only [List.mem_cons, List.not_mem_nil, or_false] at hw
  rcases hw with rfl | rfl <;> decide +kernel
/-- A split of an empty bundle and of a CALL. -/
theorem witness_split : ∃ s u : State,
    (s.runs 0 = true ∧ (s.ctxOf 0).frames = [] ∧ (s.ctxOf 0).callDue = none ∧ (s.ctxOf 0).buffer = [⟨0, 64⟩] ∧
      (s.ctxOf 0).access.queue.length < 512 ∧ (s.ctxOf 0).exec.queue.length < 512) ∧
    (u.runs 0 = true ∧ (u.ctxOf 0).frames = [] ∧ (u.ctxOf 0).callDue = none ∧ (u.ctxOf 0).buffer = [⟨bits512 64 3, 64⟩] ∧
      (u.ctxOf 0).access.queue.length < 512 ∧ (u.ctxOf 0).exec.queue.length < 512 ∧ Bundle.isCall (bits512 64 3) = true) :=
  ⟨liveX (fun x => { x with buffer := [⟨0, 64⟩] }), liveX (fun x => { x with buffer := [⟨bits512 64 3, 64⟩] }), by decide +kernel⟩
theorem witness_issue : ∀ x : Bool, ∃ (s : State) (e : Entry),
    s.runs 0 = true ∧ (s.adminOf 0).drain = false ∧ ((s.ctxOf 0).stream x).queue = [e] ∧ ((s.ctxOf 0).stream x).due = [] ∧
    e.bad = none ∧ (s.ctxOf 0).held s.mem x e.bits = false ∧ Bundle.notBefore e.bits = 0 ∧ (s.ctxOf 0).syncHolds x e = false ∧
    Bundle.predEn e.bits = true ∧ e.pred ≠ none ∧ e.index = (s.ctxOf 0).exec.oldestIndex + 448 :=
  fun x => ⟨liveStream x { queue := [{ entry (bits512 28 1) with pred := some true, index := 448 }] },
    { entry (bits512 28 1) with pred := some true, index := 448 },
    by cases x <;> decide +kernel⟩
/-- Heads that are held: one ns before NOT_BEFORE; by a predicate not known; by the run-ahead limit (bundle 449). -/
theorem witness_held : ∃ (s u v : State) (e f g : Entry),
    (s.runs 0 = true ∧ (s.ctxOf 0).exec.queue = [e] ∧ (s.ctxOf 0).held s.mem true e.bits = false ∧
      Bundle.notBefore e.bits ≠ 0 ∧ s.now + 1 = (s.ctxOf 0).releaseTime e) ∧
    (u.runs 0 = true ∧ (u.ctxOf 0).access.queue = [f] ∧ (u.ctxOf 0).held u.mem false f.bits = false ∧
      Bundle.predEn f.bits = true ∧ f.pred = none ∧ (u.ctxOf 0).exec.next < f.index) ∧
    (v.runs 0 = true ∧ (v.ctxOf 0).access.queue = [g] ∧ (v.ctxOf 0).held v.mem false g.bits = false ∧ g.index = (v.ctxOf 0).exec.oldestIndex + 449) := by
  refine ⟨{ liveX (fun x => { x with announced := true, exec := { x.exec with queue := [entry 1] } }) with time := { now := 31 } },
    liveStream false { queue := [{ entry (bits512 28 1) with index := 1 }] }, liveStream false { queue := [{ entry 0 with index := 449 }] },
    entry 1, { entry (bits512 28 1) with index := 1 }, { entry 0 with index := 449 }, ?_⟩
  decide +kernel
theorem witness_bad_head : ∃ (s : State) (e : Entry), s.runs 0 = true ∧ (s.adminOf 0).drain = false ∧ (s.ctxOf 0).exec.queue = [e] ∧
    (s.ctxOf 0).exec.due = [] ∧ e.bad = some ⟨0x0101, 1, 0⟩ :=
  ⟨liveStream true { queue := [{ entry 0 with bad := some ⟨0x0101, 1, 0⟩ }] }, { entry 0 with bad := some ⟨0x0101, 1, 0⟩ }, by decide +kernel⟩
/-- NOT_BEFORE at its ns and one before. -/
theorem witness_not_before : ∀ k ∈ [31, 32], ∃ s : State, s.runs 0 = true ∧ (s.ctxOf 0).exec.queue = [entry 1] ∧
    (s.ctxOf 0).exec.holdUntil = none ∧ (s.ctxOf 0).announced = true ∧ (s.ctxOf 0).shift = 0 ∧
    s.now = k ∧ (s.ctxOf 0).strokeS.toNat + 32 * Bundle.notBefore (entry 1).bits = 32 := by
  intro k hk
  refine ⟨{ liveX (fun x => { x with announced := true, exec := { x.exec with queue := [entry 1] } }) with time := { now := BitVec.ofNat 64 k } }, ?_⟩
  simp only [List.mem_cons, List.not_mem_nil, or_false] at hk
  rcases hk with rfl | rfl <;> decide +kernel
/-- A WAIT of the execute stream whose flag stands 32,767 past EPOCH, and one 32,768 past. -/
theorem witness_wait : ∀ k ∈ [32767, 32768], ∃ (s : State) (e : Entry), s.runs 0 = true ∧ (s.ctxOf 0).headSync true 2 = some e ∧
    ((s.ctxOf 0).flag (Bundle.syncFlag e.bits)).toNat + 65536 - (Bundle.syncEpoch e.bits).toNat = k + 65536 := by
  intro k hk
  refine ⟨liveX (fun x => { x with exec := { x.exec with queue := [entry (bits512 480 0x22)] }, flags := [(0, BitVec.ofNat 16 k)] }),
    entry (bits512 480 0x22), ?_⟩
  simp only [List.mem_cons, List.not_mem_nil, or_false] at hk
  rcases hk with rfl | rfl <;> decide +kernel
/-- A FENCE of the execute stream with no macro before it, and with one. -/
theorem witness_fence : ∃ (s u : State) (e : Entry), s.runs 0 = true ∧ (s.ctxOf 0).headSync true 3 = some e ∧ (s.ctxOf 0).exec.inflight = [] ∧
    e.index ≤ (s.ctxOf 0).exec.next ∧ u.runs 0 = true ∧ (u.ctxOf 0).headSync true 3 = some e ∧ ∃ m ∈ (u.ctxOf 0).exec.inflight, m.index < e.index :=
  ⟨liveStream true { queue := [{ entry (bits512 480 0x23) with index := 1 }], next := 1 },
   liveStream true { queue := [{ entry (bits512 480 0x23) with index := 1 }], next := 1, inflight := [macro_ 2 7] },
   { entry (bits512 480 0x23) with index := 1 }, by decide +kernel⟩

/-! ## Routines -/

theorem witness_call_saves : ∃ s u : State, s.runs 0 = true ∧ (s.ctxOf 0).callDue = none ∧ (s.ctxOf 0).exec.due = [.frame (.save [9])] ∧
    u.runs 0 = true ∧ (u.ctxOf 0).exec.due = [.frame .restore] :=
  ⟨liveStream true { due := [.frame (.save [9])] }, liveStream true { due := [.frame .restore] }, by decide +kernel⟩
/-- A routine at its end, and one bundle before. -/
theorem witness_return : ∀ k ∈ [7, 8], ∃ (s : State) (f : Frame), s.runs 0 = true ∧ (s.ctxOf 0).exec.due = [] ∧ (s.ctxOf 0).frames = [f] ∧
    (s.ctxOf 0).callDue = none ∧ f.length = 8 ∧ f.pos = k :=
  fun k _ => ⟨liveX (fun x => { x with frames := [⟨1, 0, 8, 0, 0, 0, 0, [], [], k, [], 5⟩] }), ⟨1, 0, 8, 0, 0, 0, 0, [], [], k, [], 5⟩, by
    refine ⟨?_, ?_, ?_, ?_, ?_, ?_⟩ <;> rfl⟩
/-- A state with a patched routine 1 of one bundle that takes no arguments. -/
def withRoutine (s : State) : State := { s with lib := { s.lib with dir := [(1, BitVec.ofNat 512 (0x200000 + 2 ^ 32))] } }
/-- Frames of active routines. -/
def frames (n : Nat) : List Frame := List.replicate n ⟨2, 0, 8, 0, 0, 0, 0, [], [], 0, [], 5⟩
/-- A CALL of routine 1 with three routines active, with four, of an absent routine, and with an argument too many. -/
theorem witness_call : ∃ (s u : State) (e f g : Entry),
    (s.runs 0 = true ∧ (s.ctxOf 0).frames.length = 3 ∧ u.runs 0 = true ∧ (u.ctxOf 0).frames.length = 4 ∧
      (s.ctxOf 0).callDue = some e ∧ (u.ctxOf 0).callDue = some e) ∧
    (s.present (Bundle.routine e.bits) = true ∧ Bundle.nh e.bits = (s.dirEntry (Bundle.routine e.bits)).nh ∧
      Bundle.ns e.bits = (s.dirEntry (Bundle.routine e.bits)).ns) ∧
    s.present (Bundle.routine f.bits) = false ∧
    (s.present (Bundle.routine g.bits) = true ∧ Bundle.nh g.bits ≠ (s.dirEntry (Bundle.routine g.bits)).nh) :=
  ⟨withRoutine (liveX (fun x => { x with callDue := some (entry (bits512 64 0x13)), frames := frames 3 })),
   withRoutine (liveX (fun x => { x with callDue := some (entry (bits512 64 0x13)), frames := frames 4 })),
   entry (bits512 64 0x13), entry (bits512 64 0x23), entry (bits512 64 0x4013), by decide +kernel⟩

/-! ## Counters, predicates and sync flags -/

theorem witness_runs : live.runs 0 = true ∧ live.pageOpen 0 = true ∧ live.owner 0 = some 0 ∧ (live.adminOf 0).state = .live := by decide +kernel
/-- Addition to a counter wraps; CMP reads its counters as signed numbers under condition 2 and as unsigned ones under 4. -/
theorem test_cnt_add_wraps : ∃ t, exec (.cntAdd 0 3 2) (liveX (fun x => { x with counters := [(3, 0xFFFFFFFF#32)] })) = .next t ∧
    (t.ctxOf 0).counter 3 = 1#32 := ⟨_, rfl, by decide +kernel⟩
theorem test_cmp_signs : ∃ t u, exec (.cmp 0 1 3 false 0 2 1) (liveX (fun x => { x with counters := [(3, 0xFFFFFFFF#32)] })) = .next t ∧
    exec (.cmp 0 1 3 false 0 4 1) (liveX (fun x => { x with counters := [(3, 0xFFFFFFFF#32)] })) = .next u ∧
    (t.ctxOf 0).preds = 2#4 ∧ (u.ctxOf 0).preds = 0#4 := ⟨_, _, rfl, rfl, by decide +kernel⟩
/-- The waiting SET: its EPOCH 32,767 ahead of the flag, 32,768 ahead, and behind a macro in flight. -/
theorem witness_set : ∃ (s u v : State) (w : WaitingSet), (s.runs 0 = true ∧ u.runs 0 = true ∧ v.runs 0 = true) ∧
    ((s.ctxOf 0).sets = [w] ∧ (u.ctxOf 0).sets = [w] ∧ (v.ctxOf 0).sets = [w]) ∧ (w.upTo ≤ (s.ctxOf 0).exec.next ∧ (s.ctxOf 0).exec.inflight = []) ∧
    (w.epoch.toNat + 65536 - ((s.ctxOf 0).flag w.flag).toNat) % 65536 = 32767 ∧
    (w.epoch.toNat + 65536 - ((u.ctxOf 0).flag w.flag).toNat) % 65536 = 32768 ∧ ∃ m ∈ (v.ctxOf 0).exec.inflight, m.index < w.upTo :=
  ⟨liveX (fun x => { x with sets := [⟨63, 32767, false, true, 1⟩], exec := { x.exec with next := 1 } }),
   liveX (fun x => { x with sets := [⟨63, 32767, false, true, 1⟩], flags := [(63, 0xFFFF)], exec := { x.exec with next := 1 } }),
   liveX (fun x => { x with sets := [⟨63, 32767, false, true, 1⟩], exec := { x.exec with next := 1, inflight := [macro_ 2 7] } }),
   ⟨63, 32767, false, true, 1⟩, by decide +kernel⟩
theorem witness_phase : live.runs 0 = true ∧ (live.adminOf 0).owned.getLsbD 0 = true ∧ (live.adminOf 0).owned.getLsbD 15 = false := by
  decide +kernel
/-- A stream blocked up to its limit, and one beat less. -/
theorem witness_blocked : ∃ s u : State, (s.runs 0 = true ∧ (s.ctxOf 0).exec.blocks.find? (fun b => b.kind ≠ 7 &&
      s.time.beat ≥ b.since + (s.ctxOf 0).waitLimit true b.kind) = some ⟨5, 0, none⟩ ∧ s.time.beat = 0 + (s.ctxOf 0).waitLimit true 5) ∧
    ((u.ctxOf 0).exec.blocks = [⟨5, 0, none⟩] ∧ u.time.beat + 1 = 0 + (u.ctxOf 0).waitLimit true 5) :=
  ⟨at_ 0x01000000 (liveStream true { blocked := [(5, 0)] }), at_ 0x00FFFFFF (liveStream true { blocked := [(5, 0)] }), by decide +kernel⟩
/-- Both streams blocked for 65,536 beats, and for one less. -/
theorem witness_cross_wait : ∀ n ∈ [65537, 65538], ∃ s : State, s.runs 0 = true ∧ (s.ctxOf 0).access.crossBlock = some ⟨1, 2, none⟩ ∧
    (s.ctxOf 0).exec.crossBlock = some ⟨5, 0, none⟩ ∧ (s.ctxOf 0).hostDriven false = false ∧ (s.ctxOf 0).hostDriven true = false ∧
    (s.ctxOf 0).arrivalPending = false ∧ (s.ctxOf 0).access.inflight = [] ∧ (s.ctxOf 0).exec.inflight = [] ∧
    (s.ctxOf 0).crossSince = none ∧ s.time.beat = n := by
  intro n hn
  refine ⟨at_ n (liveX (fun x => { x with access := { blocked := [(1, 2)] }, exec := { blocked := [(5, 0)] } })), ?_⟩
  simp only [List.mem_cons, List.not_mem_nil, or_false] at hn
  rcases hn with rfl | rfl <;> decide +kernel

/-! ## Macros: the snapshot, tiles, commits -/

/-- A macro of each kind that `State.macroRows` names, in that order: slot and bits. -/
def kinds : List (Nat × Nat) :=
  [(4, 1), (4, 0x11), (4, 0x21), (4, 2), (5, 1), (2, 1), (2, 7), (2, 4)] ++
  (List.range 7).map (fun k => (2, 3 + k * 2 ^ 105)) ++ (List.range 5).map (fun k => (2, 5 + k * 2 ^ 105)) ++ [(2, 0xC)] ++
  (List.range 3).map (fun k => (2, 6 + k * 2 ^ 105)) ++ [(2, 8), (2, 9), (2, 9 + 2 ^ 105), (2, 0xA), (2, 0xA + 2 ^ 105), (2, 0xB), (2, 0xB + 2 ^ 115), (2, 0xD)] ++
  (List.range 14).map (fun k => (3, 1 + 16 * k))
/-- A planned macro of a kind with one executing tile whose row is closed and whose carry has come. -/
def running (k : Nat × Nat) : MacroRun :=
  { macro_ k.1 k.2 with snapped := true, plan := some plan1, closed := [(0, [])], tiles := [(0, { status := .executing, carry := some [] })] }
theorem witness_macro_rows : (State.macroRows 0).length = kinds.length ∧
    ((State.macroRows 0).zip kinds).all (fun q =>
      let s := flying q.1.2.1 (running q.2) []
      s.runs 0 && decide ((running q.2).plan = some plan1) &&
        decide (((s.ctxOf 0).stream q.1.2.1).firstRun (fun m => q.1.2.2.1 m && (match m.plan with | some p => m.mayRun p | none => false)) =
          some (0, running q.2)) &&
        decide (((running q.2).tiles.map Prod.fst).find? (fun k => (running q.2).tileMayRun plan1 k ((running q.2).tileAt k)) = some 0)) = true := by
  decide +kernel
/-- A store from bay 0, its tile waiting on core 0, with line 0 of crew 0 at rest, and pending. -/
def storing : MacroRun := { macro_ 5 0x11 with snapped := true, plan := some plan1, tiles := [(0, { status := .waiting })] }
def storingOn (b : Bool) : State := (flying false storing [0]).setCrew 0 { marked := [(0, b)] }
theorem witness_store_from_bay : ∀ b : Bool, (storingOn b).correctionOn 0 = none ∧ (storingOn b).owner 0 = some 0 ∧
    (storingOn b).chainDue 0 0 = none ∧ ((storingOn b).coreOf 0).held = [(0, false, 5, 0)] ∧ ((storingOn b).coreOf 0).first = none ∧
    (storingOn b).heldTile (0, false, 5, 0) = some (0, 0, storing, plan1, { status := .waiting }) ∧ (storingOn b).runs 0 = true ∧
    storing.target = 1 ∧ storing.isVec 0x05 = false ∧
    (let u := (((storingOn b).setCore 0 { (storingOn b).coreOf 0 with first := none }).setRun 0 false 0 storing).settleLines 0 1
     (u.ctxOf 0).halt = none ∧ (u.evAt 0 storing plan1 0 { status := .waiting }).stEarly.isEmpty = !b) := by
  intro b
  cases b <;> decide +kernel

/-- An FP32 row of 64 elements in window 0. -/
def row64 (base : Nat) : BitVec 1024 :=
  BitVec.ofNat 1024 (base + 2 ^ 64 + 2 ^ 80 + 64 * 2 ^ 160 + (1 + 2 ^ 32 + 2 ^ 64 + 2 ^ 96 + 2 ^ 128) * 2 ^ 192 + 2 ^ 352)
/-- A VCVT from handle 1 to handle 2, and a context that has both. -/
def copy12 : MacroRun := macro_ 2 (7 + 2 * 2 ^ 8 + 1 * 2 ^ 20)
def copyIn (m : MacroRun) : State := liveX (fun x => { x with descs := [(1, row64 4096), (2, row64 8192)], exec := { inflight := [m], next := 1 } })
/-- The macro after its snapshot, and after its plan with its tile on core 0. -/
def copySnapped : MacroRun := copy12.snapshot ((copyIn copy12).ctxOf 0).descs []
def copyPlan : Plan := ((copyIn copySnapped).draft 0 copySnapped).plan copySnapped 1 2048 0
def copyRun (r : TileRun) : MacroRun := { copySnapped with plan := some copyPlan, tiles := [(0, r)] }
def copyOn (r : TileRun) : State := (copyIn (copyRun r)).setCore 0 { held := [(0, true, 2, 0)] }

/-- A tile of the copy whose writes lie in the window of its destination, and one of a window that is closed. -/
theorem witness_macro_windows : ∀ b : Bool,
    let m := copyRun { status := .executing }
    let s := (copyOn { status := .executing }).setAdmin 0 { live.adminOf 0 with winEn := if b then 1 else 0 }
    let n := s.runTiles 0 copyPlan Ev.vcvt m
    (s.ctxOf 0).exec.firstRun (fun m => m.isVec 0x07 && (match m.plan with | some p => m.mayRun p | none => false)) = some (0, m) ∧
      (s.ctxOf 0).exec.firstRun (fun q => q.id = m.id) = some (0, m) ∧ (m.tileAt 0).out = none ∧ (m.tileAt 0).tapSent = false ∧
      (n.tiles.all (fun e => match e.2.out with
        | some o => m.sends o && ((s.setRun 0 true 0 n).storeDomainFail 0 ((s.setRun 0 true 0 n).draft 0 n) o.stores).isNone == b
        | none => false)) = true := by
  intro b
  cases b <;> decide +kernel
/-- A snapshot that passes its checks, and one that fills a handle field which its opcode does not use. -/
theorem witness_snapshot : ∃ (s u : State) (m w : MacroRun), s.runs 0 = true ∧ u.runs 0 = true ∧
    (s.ctxOf 0).exec.firstRun (fun m => !m.snapped && !m.isShort) = some (0, m) ∧ m.fieldFail (s.ctxOf 0).cplMode = none ∧
    (s.setRun 0 true 0 (m.snapshot ((s.ctxOf 0).descsAt s.time.beat) s.mem)).namedFail 0 (m.snapshot ((s.ctxOf 0).descsAt s.time.beat) s.mem) = none ∧
    (u.ctxOf 0).exec.firstRun (fun m => !m.snapped && !m.isShort) = some (0, w) ∧ (w.fieldFail (u.ctxOf 0).cplMode).isSome = true :=
  ⟨copyIn copy12, copyIn (macro_ 2 (7 + 2 ^ 32)), copy12, macro_ 2 (7 + 2 ^ 32), by decide +kernel⟩
/-- A VEW whose program, at handle 3, has still to be read, and has been read; a handle that its snapshot names. -/
def chain12 : MacroRun := macro_ 2 (1 + 2 * 2 ^ 8 + 1 * 2 ^ 20 + 3 * 2 ^ 68)
def program : BitVec 1024 := BitVec.ofNat 1024 (8192 + 5 * 2 ^ 64 + 2 ^ 80 + 64 * 2 ^ 160 + (1 + 2 ^ 32 + 2 ^ 64 + 2 ^ 96 + 2 ^ 128) * 2 ^ 192 + 2 ^ 352)
def chainIn (r : Option BlockRead) : State :=
  liveX (fun x => { x with descs := [(1, row64 4096), (2, row64 8192), (3, program)], exec := { inflight := [{ chain12 with blockRead := r }], next := 1 } })
theorem witness_snapshot_block : (chain12.block.map Prod.snd) = some 3 ∧ (chainIn none).lowestSpan 0 = some 0 ∧
    ∀ r ∈ [none, some ⟨0, [], 0, []⟩], (chainIn r).runs 0 = true ∧
      (let m : MacroRun := { chain12 with blockRead := r }
       let m' := m.snapshot (((chainIn r).ctxOf 0).descsAt 0) ((m.blockRead.map BlockRead.seen).getD (chainIn r).mem)
       ((chainIn r).ctxOf 0).exec.firstRun (fun m => !m.snapped && !m.isShort) = some (0, m) ∧ (m'.descs.find 2).isSome = true ∧
         m.fieldFail ((chainIn r).ctxOf 0).cplMode = none ∧ ((chainIn r).setRun 0 true 0 m').namedFail 0 m' = none) := by
  refine ⟨by decide +kernel, by decide +kernel, ?_⟩
  intro r h
  simp only [List.mem_cons, List.not_mem_nil, or_false] at h
  rcases h with rfl | rfl <;> decide +kernel
/-- A plan that passes, and a plan that fails: the two rows do not have the same size. -/
theorem witness_plan : ∃ (s u : State) (m w : MacroRun), s.runs 0 = true ∧ m.snapped = true ∧ u.runs 0 = true ∧ w.snapped = true ∧
    (s.ctxOf 0).exec.firstRun (fun m => m.plan.isNone && !m.isShort) = some (0, m) ∧
    firstFail [(s.draft 0 m).fail, (s.draft 0 m).overlapFail, (s.ctxOf 0).channelFail (s.draft 0 m), (s.ctxOf 0).queueFail m] = none ∧
    (match (s.draft 0 m).lateFail (s.ctxOf 0) m (s.ctxOf 0).tileArea with | .ok k => k | .error _ => 8) = 0 ∧
    s.seamFail 0 m (s.draft 0 m) 0 = none ∧ (s.draft 0 m).via = 0 ∧
    (u.ctxOf 0).exec.firstRun (fun m => m.plan.isNone && !m.isShort) = some (0, w) ∧ (u.draft 0 w).fail.isSome = true :=
  ⟨copyIn copySnapped, copyIn { copySnapped with descs := [(1, row64 4096), (2, row64 8192 - 2 ^ 160)] }, copySnapped,
   { copySnapped with descs := [(1, row64 4096), (2, row64 8192 - 2 ^ 160)] }, by decide +kernel⟩
/-- The one waiting tile of a core, of a macro that needs no crew; and one of a macro with a hold point, whose row has not closed, on a crew
with a park of 64 lines. -/
theorem witness_execute : ∃ (s : State) (m : MacroRun) (p : Plan) (r : TileRun), s.correctionOn 0 = none ∧ s.owner 0 = some 0 ∧
    s.chainDue 0 0 = none ∧ (s.coreOf 0).held = [(0, true, 2, 0)] ∧
    s.heldTile (0, true, 2, 0) = some (0, 0, m, p, r) ∧ s.runs 0 = true ∧ r.status = .waiting ∧ r.halo = true ∧ r.core = 0 ∧ r.fails = 0 ∧
    m.sorting 0 = false ∧ m.tileAt 0 = r ∧ (s.coreOf 0).first = none ∧
    r.hasParked = false ∧ (p.meBound || p.hold || m.slot == 5 && m.target == 1) = false ∧ m.isVec 0x05 = false ∧ m.isVec 0x0C = false ∧
    m.crewBound p = false ∧ (s.coreOf 0).failures = [] ∧ (s.coreOf 0).swapped = [] ∧ (s.coreOf 0).scheduled = [] ∧ (s.coreOf 0).dueSwaps = [] :=
  ⟨copyOn { status := .waiting }, copyRun { status := .waiting }, copyPlan, { status := .waiting }, by decide +kernel⟩
def holding (r : TileRun) : MacroRun := { copyRun r with plan := some { copyPlan with hold := true } }
def parking : State :=
  let s := (copyIn (holding { status := .waiting })).setCore 0 { held := [(0, true, 2, 0)] }
  s.setCtx 0 { s.ctxOf 0 with bays := [(3, { cfg := BitVec.ofNat 30 (64 * 2 ^ 11 + 4 * 2 ^ 23) })] }
theorem witness_park : ∃ (s : State) (m : MacroRun) (p : Plan) (r : TileRun), s.correctionOn 0 = none ∧ s.owner 0 = some 0 ∧
    s.chainDue 0 0 = none ∧ (s.coreOf 0).held = [(0, true, 2, 0)] ∧
    s.heldTile (0, true, 2, 0) = some (0, 0, m, p, r) ∧ s.runs 0 = true ∧ r.status = .waiting ∧ r.halo = true ∧ p.meBound = false ∧
    m.isVec 0x05 = false ∧ p.hold = true ∧ (∃ row ∈ m.tileRows p 0, m.closed.find row = none) ∧
    m.parkVolume p (s.draft 0 m) 0 ≤ s.parkSize 0 :=
  ⟨parking, holding { status := .waiting }, { copyPlan with hold := true }, { status := .waiting }, by decide +kernel⟩
/-- Staged outputs: one word at bit 65,536 and no event; the same with an OVERFLOW. -/
def staged (events : List Event) : TileRun := { status := .executing, out := some { stores := [.mem 65536 32 5], events := events } }
/-- The tile's one write: behind a read of another context to its lines, without a credit, sent, and accepted. -/
def writing (k : Nat) : State :=
  (copyOn (staged [])).setSpan 0 { reads := if k = 0 then [(0, ⟨1, none, 0, 0, 8192, 8255, 0⟩)] else [],
                                   writes := if k = 3 then [] else [⟨some 0, true, 2, 0, 16, k ≠ 1, 0, false, 1, 0, []⟩] }
theorem witness_commit : ∀ k ∈ [0, 1, 2, 3], ∃ (s : State) (m : MacroRun) (p : Plan) (r : TileRun) (o : TileOut), s.mem = [] ∧
    (s.coreOf 0).held = [(0, true, 2, 0)] ∧ s.heldTile (0, true, 2, 0) = some (0, 0, m, p, r) ∧ (s.adminOf 0).state = .live ∧ r.out = some o ∧
    s.passCarry 0 0 m p 0 = s ∧ m.traps p 0 o = false ∧
    s.storeDomainFail 0 (s.draft 0 m) (if k = 1 then o.stores else []) = none ∧
    o.stores.filter (fun st => (storeBlocks [st]).any
      (((s.spanOf 0).writes.filter (fun w => w.isOf 0 true m.id 0 && !w.sent)).map PierWrite.block).contains) = (if k = 1 then o.stores else []) ∧
    (s.spanOf 0).held (fun w => w.isOf 0 true m.id 0) = decide (k = 0) ∧
    (s.spanOf 0).writes.any (fun w => w.isOf 0 true m.id 0 && !w.sent) = decide (k = 1) := by
  intro k h
  refine ⟨writing k, copyRun (staged []), copyPlan, staged [], { stores := [.mem 65536 32 5] }, ?_⟩
  simp only [List.mem_cons, List.not_mem_nil, or_false] at h
  rcases h with rfl | rfl | rfl | rfl <;> decide +kernel
theorem witness_trapped_commit : ∃ (s : State) (m : MacroRun) (p : Plan) (r : TileRun) (o : TileOut), (s.coreOf 0).held = [(0, true, 2, 0)] ∧
    s.heldTile (0, true, 2, 0) = some (0, 0, m, p, r) ∧ (s.adminOf 0).state = .live ∧ r.out = some o ∧ s.passCarry 0 0 m p 0 = s ∧
    ∃ e ∈ o.events, m.trap.getLsbD e.kind = true :=
  ⟨(copyIn { copyRun (staged [⟨2, 0, 0⟩]) with trap := 4 }).setCore 0 { held := [(0, true, 2, 0)] }, { copyRun (staged [⟨2, 0, 0⟩]) with trap := 4 },
   copyPlan, staged [⟨2, 0, 0⟩], { stores := [.mem 65536 32 5], events := [⟨2, 0, 0⟩] }, by decide +kernel⟩
/-- The commit of the staged word changes its four bytes. -/
theorem test_commit_stores : ∃ t, exec (.tileCommit 0) (copyOn (staged [])) = .next t ∧ t.mem = [(8192, 5#8)] := ⟨_, rfl, by decide +kernel⟩
/-- The same with a write that waits for its credit, and window 0 closed meanwhile. -/
theorem witness_late_commit : let s := (writing 1).setAdmin 0 { live.adminOf 0 with winEn := 0 }
    s.runs 0 = true ∧ s.heldTile (0, true, 2, 0) = some (0, 0, copyRun (staged []), copyPlan, staged []) ∧
      s.passCarry 0 0 (copyRun (staged [])) copyPlan 0 = s ∧
      (s.storeDomainFail 0 (s.draft 0 (copyRun (staged []))) [.mem 65536 32 5]).isSome = true := by decide +kernel
/-- A macro whose tile is committed: in a context whose ring is off; in one whose ring is on, before its record is sent, and after, the record
behind an older read of its line and free; trapped or not. -/
def record0 (n : Nat) : PierWrite := ⟨some 0, true, 2, recordTile, n, true, 0, false, 1, 512 * n, List.replicate 128 0⟩
def completing (k : Nat) (trapped : Bool) : State :=
  (liveX (fun x => { x with doneEn := k ≠ 0, exec := { inflight := [{ copyRun { status := .committed } with trapped := trapped }], next := 1 } })).setSpan 0
    { writes := if k < 2 then [] else [record0 4], reads := if k = 2 then [(0, ⟨1, none, 0, 0, 2048, 2111, 0⟩)] else [] }
theorem witness_complete : ∀ trapped : Bool, ∀ k ∈ [0, 1, 2, 3], ∃ m : MacroRun, (completing k trapped).runs 0 = true ∧
    ((completing k trapped).ctxOf 0).exec.inflight = [m] ∧ (completing k trapped).macroDone 0 m = true ∧ ((completing k trapped).ctxOf 0).traceEn = false ∧
    (completing k trapped).ownWrites 0 traceTile = [] ∧ m.ended = none ∧ m.trapped = trapped ∧ (completing k trapped).lowestSpan 0 = some 0 ∧
    (completing k trapped).ownWrites 0 recordTile = (if k < 2 then [] else [(0, record0 4)]) ∧ (record0 4).index = 8 * m.index + m.slot ∧
    ((completing k trapped).ctxOf 0).doneEn = decide (k ≠ 0) ∧ ((completing k trapped).spanOf 0).held (· == record0 4) = decide (k = 2) := by
  intro trapped k h
  refine ⟨{ copyRun { status := .committed } with trapped := trapped }, ?_⟩
  simp only [List.mem_cons, List.not_mem_nil, or_false] at h
  cases trapped <;> rcases h with rfl | rfl | rfl | rfl <;> decide +kernel

/-! ## Dealing, inputs, stealing, halos, rows -/

/-- An undealt tile of the one macro, on a span that is not idle. -/
theorem witness_deal : ∃ (s : State) (m : MacroRun) (p : Plan), s.owner 0 = some 0 ∧ s.runs 0 = true ∧ s.mayLoad 0 = true ∧
    (s.ctxOf 0).exec.inflight = [m] ∧ (s.ctxOf 0).access.inflight = [] ∧ m.plan = some p ∧ m.isShort = false ∧ p.tiles = 1 ∧ m.tileAt 0 = {} ∧
    m.replay = [] ∧ m.dealSpan p 0 = 0 ∧ m.queuesIn = [] ∧ m.queuesOut = [] ∧ m.grouped p = false ∧ m.chained p = false ∧ m.isLda = false ∧
    m.isRig [9] = false ∧ m.sorts = false ∧ ((s.evAt 0 m p 0 {}).pagedFail).or (m.evalOf (s.evAt 0 m p 0 {})).fail = none ∧
    (∀ k, (s.coreOf k).held.length ≤ 2) ∧ ∃ k ∈ spanCores 0, s.isFenced k = false ∧ (s.coreOf k).held.length < 2 :=
  ⟨copyIn { copyRun {} with tiles := [] }, { copyRun {} with tiles := [] }, copyPlan, by decide +kernel, by decide +kernel, by decide +kernel, rfl, rfl, rfl,
   by decide +kernel, by decide +kernel, rfl, rfl, by decide +kernel, by decide +kernel, by decide +kernel, by decide +kernel, by decide +kernel,
   by decide +kernel, by decide +kernel, by decide +kernel, by decide +kernel, fun _ => Nat.zero_le _, 0, by decide +kernel⟩
theorem witness_no_deal : ∃ s u : State, s.owner 0 = none ∧ u.owner 0 = some 0 ∧ u.runs 0 = false :=
  ⟨State.reset, inState .halted, by decide +kernel⟩
/-- The reads of a loading tile: within the windows; and with window 0 closed. -/
theorem witness_inputs : ∀ b : Bool, ∃ (s : State) (m : MacroRun) (p : Plan) (r : TileRun), (s.coreOf 0).held = [(0, true, 2, 0)] ∧
    s.heldTile (0, true, 2, 0) = some (0, 0, m, p, r) ∧ s.runs 0 = true ∧ r.status = .loading ∧ r.begun = false ∧
    (s.spanOf 0).freeTags.length = 64 ∧ (s.evAt 0 m p 0 r).pierReads (s.draft 0 m) false = [(4096, 4351)] ∧ m.sorting 0 = false ∧
    (s.readDomainFail 0 ((s.evAt 0 m p 0 r).readParts (s.draft 0 m) false)).isSome = b := by
  intro b
  refine ⟨(copyOn { status := .loading }).setAdmin 0 { live.adminOf 0 with winEn := if b then 0 else 1 }, copyRun { status := .loading }, copyPlan,
    { status := .loading }, ?_⟩
  cases b <;> decide +kernel
/-- A read of span 0 under tag 63 that belongs to attempt 0 of the tile, its last one, at a span beat; behind writes. -/
def read63 (tile : Option (Bool × Nat × Nat)) : PierRead := ⟨0, tile, 0, 0, 4096, 4351, 1⟩
def reading (r : TileRun) (beats : Nat) (writes : List PierWrite) : State :=
  (copyOn { r with status := .loading, begun := true, reads := 1 }).setSpan 0 { reads := [(63, read63 (some (true, 2, 0)))], beats := beats, writes := writes }
/-- It comes back for the first attempt and after a failure; in an attempt that is over; and behind an older write to its line. -/
theorem witness_read : ∀ n ∈ [0, 1], ∃ (s : State) (m : MacroRun) (p : Plan), (s.spanOf 0).reads.find 63 = some (read63 (some (true, 2, 0))) ∧
    (s.spanOf 0).ordered 1 4096 4351 true true (fun _ => false) = false ∧ (s.ctxOf 0).exec.byId 2 = some (0, m) ∧ m.plan = some p ∧
    (m.tileAt 0).status = .loading ∧ (m.tileAt 0).begun = true ∧ (m.tileAt 0).attempt = 0 ∧ s.runs 0 = true ∧
    m.crewBound p = false ∧ (m.tileAt 0).fails = n ∧ (s.coreOf (m.tileAt 0).core).dueSwaps = [] ∧ s.spanBeat 0 = 65536 := by
  intro n hn
  refine ⟨reading { fails := n } 65536 [], copyRun { status := .loading, begun := true, reads := 1, fails := n }, copyPlan, ?_⟩
  simp only [List.mem_cons, List.not_mem_nil, or_false] at hn
  rcases hn with rfl | rfl <;> decide +kernel
theorem witness_read_not_taken : ∃ (s u v : State) (m : MacroRun), (s.spanOf 0).reads.find 63 = some (read63 (some (true, 2, 0))) ∧
    s.spanBeat 0 < 65536 ∧
    ((u.spanOf 0).ordered 1 4096 4351 true true (fun _ => false) = false ∧ (u.ctxOf 0).exec.byId 2 = some (0, m) ∧ (m.tileAt 0).attempt = 1) ∧
    (v.spanOf 0).ordered 1 4096 4351 true true (fun _ => false) = true :=
  ⟨reading {} 65535 [], reading { attempt := 1 } 0 [], reading {} 0 [⟨some 0, true, 2, 0, 8, true, 0, false, 0, 0, []⟩],
   copyRun { status := .loading, begun := true, reads := 1, attempt := 1 }, by decide +kernel⟩
/-- A fetch read of one bundle, timed out for the first time and for the second. -/
theorem witness_fetch_read : ∀ b : Bool, ∃ (s : State) (f : FetchRead), (s.spanOf 0).reads.find 63 = some (read63 none) ∧ s.runs 0 = true ∧
    (s.spanOf 0).ordered 1 4096 4351 true true (fun _ => false) = false ∧ (s.ctxOf 0).fetch = some f ∧ f.retried = b ∧ s.spanBeat 0 = 65536 ∧
    s.inWindow 0 f.window.toNat f.addr (f.addr + 64 * f.bundles - 1 : Nat) false = true := by
  intro b
  refine ⟨(liveX (fun x => { x with fetch := some ⟨4096, 1, 0, 0, 63, 0, b⟩ })).setSpan 0 { reads := [(63, read63 none)], beats := 65536 },
    ⟨4096, 1, 0, 0, 63, 0, b⟩, ?_⟩
  cases b <;> decide +kernel
/-- A write of the tile, sent once and sent again once already, at its limit and a beat before; and one of a telemetry record. -/
theorem witness_write_timeout : ∀ b : Bool, ∀ n ∈ [65535, 65536], ∃ (s : State) (w : PierWrite) (m : MacroRun) (p : Plan) (r : TileRun) (o : TileOut),
    (s.spanOf 0).writes[0]? = some w ∧ w.retried = b ∧ w.ctx = some 0 ∧ s.spanBeat 0 = w.beat + n ∧
    s.heldTile (0, w.execute, w.index, w.tile) = some (0, 0, m, p, r) ∧ r.out = some o ∧ s.runs 0 = true ∧ m.slot ≠ 4 := by
  intro b n hn
  refine ⟨(copyOn (staged [])).setSpan 0 { writes := [⟨some 0, true, 2, 0, 16, true, 0, b, 0, 0, []⟩], beats := n }, ⟨some 0, true, 2, 0, 16, true, 0, b, 0, 0, []⟩,
    copyRun (staged []), copyPlan, staged [], { stores := [.mem 65536 32 5] }, ?_⟩
  simp only [List.mem_cons, List.not_mem_nil, or_false] at hn
  cases b <;> rcases hn with rfl | rfl <;> decide +kernel
theorem witness_record_timeout : ∀ q ∈ [none, some 0], ∃ (s : State) (w : PierWrite), (s.spanOf 0).writes[0]? = some w ∧ w.retried = true ∧ w.ctx = q ∧
    recordTile ≤ w.tile ∧ s.runs 0 = true ∧ s.spanBeat 0 = w.beat + 65536 ∧ s.mem.wf = true := by
  intro q h
  refine ⟨live.setSpan 0 { writes := [⟨q, true, 2, recordTile, 4, true, 0, true, 0, 2048, [1, 2]⟩], beats := 65536 },
    ⟨q, true, 2, recordTile, 4, true, 0, true, 0, 2048, [1, 2]⟩, ?_⟩
  simp only [List.mem_cons, List.not_mem_nil, or_false] at h
  rcases h with rfl | rfl <;> decide +kernel
/-- Reads of a parameter block, of the cox by number, and of a fetch that is no more. -/
def otherRead (ctx : Nat) (tile : Option (Bool × Nat × Nat)) (s : State) : State :=
  s.setSpan 0 { reads := [(63, { read63 tile with ctx := ctx })], beats := 65536 }
theorem witness_other_reads : ∀ q ∈ [(0, some (true, 2, blockTile)), (7, some (false, 3, 0)), (0, none)],
    let s := otherRead q.1 q.2 ((chainIn (some ⟨0, [], 1, []⟩)).setGlob { live.glob with coxRead := some { addr := 4096, len := 256, gen := 3, pier := 0, todo := [], out := 1 } })
    (s.spanOf 0).reads.find 63 = some { read63 q.2 with ctx := q.1 } ∧ (s.spanOf 0).ordered 1 4096 4351 true true (fun _ => false) = false ∧
      (s.ctxOf 0).exec.byId 2 = some (0, { chain12 with blockRead := some ⟨0, [], 1, []⟩ }) ∧ (s.glob.coxRead.map CoxRead.gen) = some 3 ∧
      (s.ctxOf 0).fetches 0 63 = false := by
  intro q h
  simp only [List.mem_cons, List.not_mem_nil, or_false] at h
  rcases h with rfl | rfl | rfl <;> decide +kernel
/-- A row all of whose tiles have parked, of a macro with a hold point. -/
theorem witness_row_close : ∃ (s : State) (m : MacroRun) (p : Plan), s.runs 0 = true ∧ m.via = some 0 ∧
    (s.ctxOf 0).execRun (fun m p => m.closesRows p && (m.closed.find 0).isNone && m.rowReady p 0 &&
      (m.via = some 0 || ((s.ctxOf 0).viaResult m 0 s.time.beat).isSome)) = some (0, m, p) :=
  ⟨copyIn { copyRun { status := .parked } with plan := some { copyPlan with hold := true } },
   { copyRun { status := .parked } with plan := some { copyPlan with hold := true } }, { copyPlan with hold := true }, by decide +kernel⟩
/-- A core that has asked, and the one tile on core 0. -/
def thief (core : Nat) : State := (copyOn { status := .waiting }).setCore core { asking := true }
theorem thief_others (core k : Nat) (other : Bool) (h1 : k ≠ core) (h0 : k ≠ 0) : (thief core).prey k other = none := by
  have : (thief core).coreOf k = {} := by
    unfold thief
    rw [State.setCore_coreOf_ne _ _ h1]
    unfold copyOn
    rw [State.setCore_coreOf_ne _ _ h0]
    rfl
  unfold State.prey
  rw [this]
  rfl
/-- Core 1 takes it from its own crew, core 8 from another crew of the span. -/
theorem witness_steal : ∀ q ∈ [(1, false), (8, true)], ∃ (s : State) (m : MacroRun) (p : Plan) (r : TileRun), (s.coreOf q.1).asking = true ∧
    (s.coreOf q.1).held = [] ∧ s.isFenced q.1 = false ∧ (q.2 = false ↔ 0 / 8 = q.1 / 8) ∧ s.prey 0 q.2 = some (0, true, 2, 0) ∧
    s.heldTile (0, true, 2, 0) = some (0, 0, m, p, r) ∧ s.outbid q.1 (0, true, 2, 0) = false ∧
    (∀ k : Nat, k / 8 = q.1 / 8 → k ≠ q.1 → k ≠ 0 → s.prey k false = none) ∧
    (q.2 = true → ∀ k : Nat, k / 128 = q.1 / 128 → k / 8 ≠ q.1 / 8 → k ≠ 0 → s.prey k true = none) := by
  intro q hq
  refine ⟨thief q.1, copyRun { status := .waiting }, copyPlan, { status := .waiting }, ?_⟩
  simp only [List.mem_cons, List.not_mem_nil, or_false] at hq
  rcases hq with rfl | rfl
  · exact ⟨by decide +kernel, by decide +kernel, by decide +kernel, by decide +kernel, by decide +kernel, by decide +kernel, by decide +kernel,
      fun k _ h1 h0 => thief_others 1 k false h1 h0, fun h => nomatch h⟩
  · exact ⟨by decide +kernel, by decide +kernel, by decide +kernel, by decide +kernel, by decide +kernel, by decide +kernel, by decide +kernel,
      fun k _ h1 h0 => thief_others 8 k false h1 h0, fun _ k _ hc h0 => thief_others 8 k true (fun e => hc (by rw [e])) h0⟩
/-- Cores 1 and 2 claim the one tile in the same beat: core 1 goes first. -/
theorem witness_outbid : ((thief 1).setCore 2 { asking := true }).prey 0 false = some (0, true, 2, 0) ∧
    ((thief 1).setCore 2 { asking := true }).outbid 2 (0, true, 2, 0) = true := by decide +kernel
theorem witness_no_steal : (live.coreOf 1).asking = false ∧ ((copyOn {}).coreOf 0).held ≠ [] ∧ ((copyOn {}).coreOf 0).dealtAt = none ∧
    (live.setSpan 0 { fence := 1 }).isFenced 0 = true := by decide +kernel
/-- Two tiles along the outer axis, the first on core 0 with a halo, the second waiting for it on core 8. -/
def haloRun (r : TileRun) : MacroRun :=
  { copySnapped with plan := some { plan2 with halo := 2 }, tiles := [(0, r), (1, { status := .waiting, halo := false, core := 8 })] }
theorem witness_halo : ∀ n ∈ [65535, 65536], ∃ (s : State) (m : MacroRun) (p : Plan) (r : TileRun), (s.coreOf 0).held = [(0, true, 2, 0)] ∧
    s.heldTile (0, true, 2, 0) = some (0, 0, m, p, r) ∧ s.runs 0 = true ∧ p.halo ≠ 0 ∧ r.status = .waiting ∧ r.halo = false ∧
    m.nextAlong p 0 = some 1 ∧ (m.tileAt 1).status = .waiting ∧ (m.tileAt 1).halo = false ∧ s.spanBeat 0 = r.staged + n := by
  intro n hn
  refine ⟨((copyIn (haloRun { status := .waiting, halo := false })).setCore 0 { held := [(0, true, 2, 0)] }).setSpan 0 { beats := n },
    haloRun { status := .waiting, halo := false }, { plan2 with halo := 2 }, { status := .waiting, halo := false }, ?_⟩
  simp only [List.mem_cons, List.not_mem_nil, or_false] at hn
  rcases hn with rfl | rfl <;> decide +kernel
/-- A scan's first tile with its carry, and the next along D1; and the last tile of a scan that spans the seam. -/
def scanRun : MacroRun :=
  { macro_ 2 5 with snapped := true, plan := some plan2, tiles := [(0, { status := .executing, carry := some [1] }), (1, { status := .waiting })] }
def seamRun : MacroRun :=
  { macro_ 2 5 with snapped := true, plan := some { plan1 with seam := true }, tiles := [(0, { status := .executing, carry := some [1] })] }
theorem witness_carry : ∃ (s : State) (m : MacroRun) (p : Plan) (r : TileRun), r.status = .executing ∧ r.carry = some [1] ∧
    (s.coreOf 0).held = [(0, true, 2, 0)] ∧ s.heldTile (0, true, 2, 0) = some (0, 0, m, p, r) ∧ s.runs 0 = true ∧ m.isVec 0x05 = true ∧
    m.nextAlong p 0 = some 1 ∧ m.carries.find 1 = none :=
  ⟨flying true scanRun [0], scanRun, plan2, { status := .executing, carry := some [1] }, by decide +kernel⟩
theorem witness_seam_carry : ∃ (s : State) (m : MacroRun) (p : Plan) (r : TileRun), r.status = .executing ∧ r.carry = some [1] ∧
    (s.coreOf 0).held = [(0, true, 2, 0)] ∧ s.heldTile (0, true, 2, 0) = some (0, 0, m, p, r) ∧ s.runs 0 = true ∧ m.isVec 0x05 = true ∧
    m.nextAlong p 0 = none ∧ p.seam = true ∧ m.mode 6 1 = 0 ∧ m.seamSent.contains 0 = false :=
  ⟨flying true seamRun [0], seamRun, { plan1 with seam := true }, { status := .executing, carry := some [1] }, by decide +kernel⟩

/-! ## Beat-scheduled short operations -/

/-- A VSHORT of one line of 64 elements from bay 0 to bay 1, its macro, and a context with the two bays. -/
def shortBits (code : Nat) : BitVec 128 := BitVec.ofNat 128 (2 + code * 2 ^ 5 + 2 ^ 11 + 64 * 2 ^ 87)
def shortMacro : MacroRun := { macro_ 2 0 with bits := shortBits 0x01 }
def shortIn (k : Crew) : State :=
  (liveX (fun x => { x with exec := { inflight := [shortMacro], next := 1 }
                            bays := [(0, { cfg := BitVec.ofNat 30 (4 * 2 ^ 11 + 2 ^ 23) }), (1, { cfg := BitVec.ofNat 30 (4 + 4 * 2 ^ 11 + 2 ^ 23) })] })).setCrew 0 k
def waiting1 : ShortRun := { ctx := 0, index := 0, bits := shortBits 0x01, gap := 9 }
/-- A started one at its row, which has read its line, or has it still to read. -/
def started1 (got : List (List (List Word))) : ShortRun := { waiting1 with evaluated := true, dest := 4, got := got, landing := [(4, 4)] }
/-- A VSHORT that may start on a free crew; and one behind a started one whose read of beat 0 meets a pending line. -/
theorem witness_short_start : ∀ b : Bool, ∃ s : State, (s.crewOf 0).waiting = [waiting1] ∧ s.runs 0 = true ∧
    (s.crewOf 0).started.all ShortRun.evaluated = true ∧ (s.crewOf 0).lastStart = none ∧
    (s.readsDue 0 (s.spanBeat 0)).runs 0 = !b := by
  intro b
  refine ⟨(shortIn { waiting := [waiting1], started := if b then [started1 []] else [], marked := [(0, b)] }).setSpan 0 { beats := 1 }, ?_⟩
  cases b <;> decide +kernel
/-- A crew whose last VSHORT started 8 beats ago (spacing 9) or 9 beats ago. -/
theorem witness_short_spacing : ∀ n ∈ [8, 9], ∃ s : State, (s.crewOf 0).waiting = [waiting1] ∧ s.runs 0 = true ∧
    (s.crewOf 0).started.all ShortRun.evaluated = true ∧ (s.crewOf 0).lastStart = some (0, 1) ∧ s.spanBeat 0 = n := by
  intro n hn
  refine ⟨(shortIn { waiting := [waiting1], lastStart := some (0, 1) }).setSpan 0 { beats := n }, ?_⟩
  simp only [List.mem_cons, List.not_mem_nil, or_false] at hn
  rcases hn with rfl | rfl <;> decide +kernel
theorem witness_short_rows : ∀ row ∈ State.shortRows 0, ∃ (s : State) (r : ShortRun), (s.crewOf 0).started = [] ++ r :: [] ∧ r.evaluated = false ∧
    Short.sop r.bits = row.2 := by
  intro row h
  refine ⟨shortIn { started := [{ waiting1 with bits := shortBits row.2 }] }, { waiting1 with bits := shortBits row.2 }, rfl, rfl, ?_⟩
  revert row
  decide +kernel
/-- A VSHORT that has started in this beat and whose first source line is pending. -/
theorem witness_short_early : ∃ (s : State) (r : ShortRun) (m : MacroRun), (s.crewOf 0).started = [r] ∧ r.evaluated = false ∧
    (crewsOf (s.adminOf 0).owned).filter (fun k => !((s.setCrew 0 { s.crewOf 0 with started := [{ r with evaluated := true }] }).crewOf k).started.isEmpty) = [0] ∧
    s.runs 0 = true ∧ r.start = s.spanBeat 0 ∧ r.got = [] ∧ r.endAt = none ∧
    0 < Short.count r.bits ∧ r.earlyAt (s.ctxOf 0) (s.crewOf 0) 0 = some (0, 0) ∧ s.shortRun 0 r.index = some (0, m) :=
  ⟨shortIn { started := [waiting1], marked := [(0, true)] }, waiting1, shortMacro, by decide +kernel⟩
/-- A line that lands at beat 4, before and when it is due: free, marked by an LD, and written by an LD tile in that beat. -/
theorem witness_line_land : ∀ k ∈ [0, 1, 2], ∀ n ∈ [3, 4], ∃ (s : State) (r : ShortRun) (m : MacroRun), (s.crewOf 0).started = [r] ∧
    r.evaluated = true ∧ (s.crewOf 0).nextLanding = some (0, r, 4, 4) ∧ s.shortRun 0 r.index = some (0, m) ∧ s.runs 0 = true ∧ s.spanBeat 0 = n ∧
    s.readsNow 0 = s ∧
    (s.crewOf 0).marked.get 4 false = decide (k = 1) ∧ (s.crewOf 0).loads.find 4 = if k = 2 then some 4 else none := by
  intro k hk n hn
  refine ⟨(shortIn { started := [{ started1 [[[7]]] with counted := true }], marked := [(4, k = 1)], loads := if k = 2 then [(4, 4)] else [] }).setSpan 0
    { beats := n }, { started1 [[[7]]] with counted := true }, shortMacro, ?_⟩
  simp only [List.mem_cons, List.not_mem_nil, or_false] at hk hn
  rcases hk with rfl | rfl | rfl <;> rcases hn with rfl | rfl <;> decide +kernel
/-- ADD of 1.0 and 1.0 is 2.0; of the largest number to itself, +∞ with an OVERFLOW; a shift takes the low five bits of its count. -/
theorem test_short_words : ((stageOp 0x02 0 false false 0x3F800000 0x3F800000 0).finish).1 = 0x40000000#32 ∧
    ((stageOp 0x02 0 false false 0x7F7FFFFF 0x7F7FFFFF 0).finish).1 = 0x7F800000#32 ∧
    ((stageOp 0x15 0 false false 3 33 0).finish).1 = 6#32 := by decide +kernel

/-! ## The matrix-engine port -/

/-- Bank 2 of crew 0, which the engine owns. -/
def bankIn (mode : Bool) (b : Bank) (seq : BitVec 8) : State :=
  ((flying true { macro_ 3 1 with snapped := true, plan := some plan1 } []).setCtx 0
    { (flying true { macro_ 3 1 with snapped := true, plan := some plan1 } []).ctxOf 0 with cplMode := mode }).setCrew 0 { banks := [(2, b)], ftqSeq := seq }
theorem witness_ftq : ∃ (s : State) (b : Bank), s.owner 0 = some 0 ∧ s.runs 0 = true ∧ (s.ctxOf 0).cplMode = false ∧
    ((s.crewOf 0).banks.filter (fun e => e.2.finished)).length < 8 ∧ (0 : BitVec 8) = (s.crewOf 0).ftqSeq + 1 ∧ (5 : BitVec 8) ≠ (s.crewOf 0).ftqSeq + 1 ∧
    (s.crewOf 0).cmds = [] ∧ Table.sorted (s.crewOf 0).banks = true ∧
    (s.crewOf 0).banks.find 2 = some b ∧ b.mayFinish = true ∧ (s.bankRun 0 b).isSome = true ∧ (s.crewOf 0).banks.find 3 = none :=
  ⟨bankIn false { accumulating := true, asked := true, index := 3 } 0xFF, { accumulating := true, asked := true, index := 3 }, by decide +kernel⟩
theorem witness_port : ∃ (s u : State) (b d : Bank), s.owner 0 = some 0 ∧ s.runs 0 = true ∧ (s.ctxOf 0).cplMode = true ∧
    (s.crewOf 0).cmds = [] ∧ Table.sorted (s.crewOf 0).banks = true ∧
    (s.crewOf 0).banks.find 2 = some b ∧ b.mayFinish = true ∧ b.crewOwns = false ∧ b.claimed = false ∧ u.owner 0 = some 0 ∧ u.runs 0 = true ∧
    (u.crewOf 0).banks.find 2 = some d ∧ d.mayFinish = false ∧ d.accumulating = false ∧ d.crewOwns = true ∧ (u.crewOf 0).banks.find 3 = none :=
  ⟨bankIn true { accumulating := true, asked := true } 0, bankIn true { crewOwns := true } 0, { accumulating := true, asked := true },
   { crewOwns := true }, by decide +kernel⟩
/-- The port's limits: 65,536 beats on channel 1, 16,384 on the others, and one beat less. -/
def portAt (n : Nat) : State :=
  ((bankIn true { claimed := true, claimedAt := 49152 } 0).setCrew 0
    { banks := [(2, { claimed := true, claimedAt := 49152 }), (3, { meSince := some 49153 })], ftqSince := some 0
      feed := [⟨⟨2, 0, 0⟩, 0, 64, some 49152⟩], sent := [(⟨2, 0, 0⟩, 49152)] }).setSpan 0 { beats := n }
theorem witness_port_timeout : ∀ n ∈ [65535, 65536], (portAt n).owner 0 = some 0 ∧ (portAt n).runs 0 = true ∧ (portAt n).spanBeat 0 = n ∧
    ∀ ch ∈ [0, 1, 2, 3], (((portAt n).crewOf 0).timedOut 0 ch n).isSome = decide (n = 65536) := by decide +kernel
/-- The engine's and the crew's claims: the engine asks for its own bank, for a free one, and for one that the crew holds; the crew claims a
bank before its product has finished, one whose product has finished, and both ask for that one. -/
def grantBanks : List Bank := [{ accumulating := true }, {}, { crewOwns := true }, { finished := true, accumulating := true, index := 3 }]
theorem witness_grant : ∃ s : State, s.owner 0 = some 0 ∧ s.runs 0 = true ∧
    (∀ n ∈ [0, 1, 2, 3], (s.crewOf 0).banks.find n = grantBanks[n]?) ∧
    grantBanks.map Bank.byMe = [true, false, false, false] ∧ grantBanks.map (s.meMay 0) = [true, true, false, true] ∧
    grantBanks.map (fun b => b.finished || b.crewOwns) = [false, false, true, true] ∧ (s.bankRun 0 (grantBanks.getD 3 {})).isSome = true :=
  ⟨(bankIn true {} 0).setCrew 0 { banks := [(0, grantBanks.getD 0 {}), (1, grantBanks.getD 1 {}), (2, grantBanks.getD 2 {}), (3, grantBanks.getD 3 {})] },
   by decide +kernel⟩
/-- Rigs 6 and 7 with one staged correction of their first key tile, whose score bank the crew holds. -/
def attnRun (rig : Nat) : MacroRun :=
  { macro_ 3 (1 + 16 * rig) with snapped := true, plan := some plan1, attn := [(0, { staged := some 0 })] }
theorem witness_attention : ∀ rig ∈ [6, 7], ∃ (s : State) (m : MacroRun) (a : AttnRun) (b : Bank), s.runs 0 = true ∧
    (s.ctxOf 0).exec.inflight = [m] ∧ m.plan = some plan1 ∧ m.attn = [(0, a)] ∧ a.staged = some 0 ∧ (∀ e ∈ m.tiles, e.2.status ≠ .executing) ∧
    Table.sorted (s.crewOf 0).banks = true ∧ (s.crewOf 0).scoreBank 0 m.id 0 a.next = some (5, b) ∧ m.isRig [rig] = true := by
  intro rig h
  refine ⟨(flying true (attnRun rig) []).setCrew 0 { banks := [(5, { crewOwns := true, finished := true, index := (attnRun rig).id, product := 3 })] },
    attnRun rig, { staged := some 0 }, { crewOwns := true, finished := true, index := (attnRun rig).id, product := 3 }, ?_⟩
  simp only [List.mem_cons, List.not_mem_nil, or_false] at h
  rcases h with rfl | rfl <;> decide +kernel

/-! ## The viaduct -/

/-- Channel 0 of kind 0 with tree tag 9, a parent and children 0 and 1, round 0 live with row 3, and budgets of 100 and 1,000 beats. -/
def channel0 (row : ViaRow) : Channel :=
  { regs := { en := true, treeTag := 9, parent := 0x80000, budget := 100 + 1000 * 2 ^ 32, children := [(0, 0x10000), (1, 0x10000)] }
    round := 1, live := [0], rows := [row] }
def viaIn (row : ViaRow) : State := liveX (fun x => x.setChannel 0 (channel0 row))
def frame (kind : Nat) (down : Bool) (round lseq : Nat) : BitVec 256 :=
  (FrameInfo.mk kind down 0 true 0 round (if down then 1 else 0) 3 lseq 9 [1, 2, 3, 4]).encode
theorem witness_bad_frame : frameCrcOk 1 = false ∧ (viaIn { round := 0, row := 3 }).runs 0 = true := by
  decide +kernel
def row3 : ViaRow := { round := 0, row := 3 }
/-- Down frames: of another tree, doubled, early, and the end of row 3; an up frame of child 0. -/
theorem witness_frames : let k := ((viaIn row3).ctxOf 0).channel 0
    frameCrcOk (frame 0 true 0 0) = true ∧ (frameInfo (frame 0 true 0 0)).kind ≤ 4 ∧
    k.discards 0 (frameInfo (frame 3 true 0 0)) = some 0 ∧
    ({ k with lseqGot := [(8, [7])] } : Channel).discards 0 (frameInfo (frame 0 true 0 7)) = some 1 ∧
    (k.discards 0 (frameInfo (frame 0 true 1 0)) = none ∧ k.live.contains 1 = false ∧ k.earlyFull (frameInfo (frame 0 true 1 0)) = false) ∧
    (k.discards 0 (frameInfo (frame 0 true 0 0)) = none ∧ k.live.contains 0 = true ∧ (frameInfo (frame 0 true 0 0)).down = true ∧
      (row3.add (frameInfo (frame 0 true 0 0))).downWhole (((viaIn row3).ctxOf 0).roundKinds 0 0) = true) ∧
    ((({ k with regs := { k.regs with kind := 2 } } : Channel).discards 0 (frameInfo (frame 4 true 0 0)) = none) ∧
      (row3.add (frameInfo (frame 4 true 0 0))).downWhole [2, 4] = false) ∧
    (k.discards 0 (frameInfo (frame 0 false 0 0)) = none ∧ (frameInfo (frame 0 false 0 0)).down = false ∧ k.regs.order = false ∧
      k.rowOf 0 3 = some row3 ∧ row3.ownReady = false) := by
  decide +kernel
theorem eraseDups_nodup (l : List Nat) (h : l.Nodup) : l.eraseDups = l := by
  induction l with
  | nil => rfl
  | cons a l ih =>
    rw [List.eraseDups_cons, List.filter_eq_self.mpr, ih h.of_cons]
    intro b hb
    have : b ≠ a := fun e => h.notMem (e ▸ hb)
    simpa using this
/-- The frame of row r whose other bits are 0, and a channel whose early store has one of each of n rows. -/
def rowFrame (r : Nat) : BitVec 256 := BitVec.ofNat 256 (r * 2 ^ 32)
def fullStore (n : Nat) : Channel := { channel0 row3 with early := (List.range n).map (fun r => (0, rowFrame r)) }
theorem rowFrame_row (r : Nat) (h : r < 2 ^ 32) : (frameInfo (rowFrame r)).row = r := by
  have hr : r * 2 ^ 32 < 2 ^ 256 := Nat.lt_of_lt_of_le (Nat.mul_lt_mul_of_pos_right h (by decide)) (by decide)
  show (BitVec.ofNat 256 (r * 2 ^ 32)).toNat / 2 ^ 32 % 2 ^ 32 = r
  rw [BitVec.toNat_ofNat, Nat.mod_eq_of_lt hr, Nat.mul_div_cancel _ (by decide), Nat.mod_eq_of_lt h]
theorem rowFrames_rows (l : List Nat) (h : ∀ r ∈ l, r < 2 ^ 32) :
    (l.map (fun r => ((0 : Nat), rowFrame r))).map (fun v => (frameInfo v.2).row) = l := by
  induction l with
  | nil => rfl
  | cons a l ih =>
    rw [List.map_cons, List.map_cons, ih (fun r hr => h r (List.mem_cons_of_mem a hr)), rowFrame_row a (h a List.mem_cons_self)]
theorem fullStore_rows (n : Nat) (h : n ≤ 2 ^ 32) : (fullStore n).early.map (fun v => (frameInfo v.2).row) = List.range n :=
  rowFrames_rows _ (fun _ hr => Nat.lt_of_lt_of_le (List.mem_range.mp hr) h)
theorem fullStore_full (n : Nat) (h : n ≤ 2 ^ 32) (hn : 2048 ≤ n) (f : FrameInfo) (hk : n ≤ f.row) : (fullStore n).earlyFull f = true := by
  have : f.row ∉ List.range n := by simpa using hk
  simp [Channel.earlyFull, fullStore_rows n h, eraseDups_nodup _ List.nodup_range, hn, hk]
theorem witness_early_full : ∃ (k : Channel) (f : FrameInfo), k.discards 0 f = none ∧ k.live.contains f.round = false ∧ k.earlyFull f = true :=
  ⟨fullStore 2048, { frameInfo (frame 0 true 1 0) with row := 2048 }, by decide +kernel, by decide +kernel,
   fullStore_full 2048 (by decide) (Nat.le_refl _) _ (Nat.le_refl _)⟩
/-- The control frames of row 3, whose frames have been sent once. -/
theorem witness_control : ∀ n ∈ [5, 6, 7], ∃ r : ViaRow, r.sent ≠ [] ∧
    (((viaIn r).ctxOf 0).channel 0).discards 0 (frameInfo (frame n true 0 0)) = none ∧ frameCrcOk (frame n true 0 0) = true ∧
    (((viaIn r).ctxOf 0).channel 0).rowOf 0 3 = some r ∧ (frameInfo (frame n true 0 0)).kind = n := by
  intro n hn
  refine ⟨{ row3 with sent := [0] }, ?_⟩
  simp only [List.mem_cons, List.not_mem_nil, or_false] at hn
  rcases hn with rfl | rfl | rfl <;> decide +kernel
/-- A RESEND of a child, of a row of which it has been sent the row's down frame, and of one of which it has not. -/
theorem witness_resend : ∀ b : Bool, ∃ r : ViaRow, (((viaIn r).ctxOf 0).channel 0).discards 0 (frameInfo (frame 5 false 0 0)) = none ∧
    (((viaIn r).ctxOf 0).channel 0).rowOf 0 3 = some r ∧
    (r.downSent.filter (fun g => (frameInfo g).slot.testBit (frameInfo (frame 5 false 0 0)).slot)).isEmpty = b := by
  intro b
  refine ⟨{ row3 with downSent := if b then [] else [frame 0 true 0 0] }, ?_⟩
  cases b <;> decide +kernel
/-- A good frame to a context that has halted. -/
theorem witness_frame_not_running : let s := (viaIn row3).setAdmin 0 { live.adminOf 0 with state := .halted }
    s.runs 0 = false ∧ ((s.ctxOf 0).channel 0).discards 0 (frameInfo (frame 0 true 0 0)) = none := by decide +kernel
/-- A row of channel 0 that is ready: VSTAT over the channel, its one tile executing. -/
def viaMacro : MacroRun :=
  { macro_ 2 (4 + 2 ^ 105) with snapped := true, plan := some plan1, tiles := [(0, { status := .executing })] }
theorem witness_up_send : ∃ (s : State) (m : MacroRun), s.runs 0 = true ∧ ((s.ctxOf 0).channel 0).regs.order = false ∧
    ((s.ctxOf 0).channel 0).regs.childValid 0 = true ∧ ((s.ctxOf 0).channel 0).rowOf m.round 0 = none ∧
    (s.ctxOf 0).execRun (fun m p => m.via = some 1 && m.rowReady p 0 &&
      (match ((s.ctxOf 0).channel 0).rowOf m.round 0 with | some r => !r.ownReady | none => true)) = some (0, m, plan1) :=
  ⟨liveX (fun x => { x.setChannel 0 (channel0 row3) with exec := { inflight := [viaMacro], next := 1 } }), viaMacro, by decide +kernel⟩
/-- The ladders: an up wait on child 0 since beat 5, a down wait since beat 5, at each rung. -/
theorem witness_ladder : ∀ n ∈ [0, 1, 2], ∃ s u : State, s.runs 0 = true ∧ u.runs 0 = true ∧ s.upWait 0 0 0 3 0 = some (5, n) ∧ u.downWait 0 0 0 3 = some (5, n) ∧
    (((s.ctxOf 0).channel 0).regs.up = 100 ∧ ((s.ctxOf 0).channel 0).regs.roundBudget = 1000) ∧
    s.glob.portResends.get (s.edgePort ((s.ctxOf 0).channel 0).regs 0 false) 0 = 0 ∧ s.time.beat = 5 + 4 * 100 ∧ u.time.beat = 5 + 4 * 1000 := by
  intro n hn
  refine ⟨at_ 405 (viaIn { row3 with ladder := [(0, (5, n))] }), at_ 4005 (viaIn { row3 with upSent := true, downStart := 5, downRung := n }), ?_⟩
  simp only [List.mem_cons, List.not_mem_nil, or_false] at hn
  rcases hn with rfl | rfl | rfl <;> decide +kernel

/-! ## Time and strokes -/

/-- A seeded timebase. -/
def seeded (t : TimeBase) : State := { live with time := { t with seeded := true } }
/-- A sample 1,000 ns ahead, and one 1,000 ns behind, of local time 1,000: the limits of acceptance. -/
theorem test_sample_limits : ∃ t u, exec (.timeSample 2000 true 0) (seeded { now := 1000 }) = .next t ∧
    exec (.timeSample 0 true 0) (seeded { now := 1000 }) = .next u ∧ t.time.now = 2000#64 ∧ u.time.now = 1000#64 ∧ u.time.lag = 18000 :=
  ⟨_, _, rfl, rfl, by decide +kernel⟩
theorem test_sample_beyond : ∃ t, exec (.timeSample 2001 true 0) (seeded { now := 1000 }) = .next t ∧ t.time.now = 1000#64 ∧ t.time.rejects = 1#16 :=
  ⟨_, rfl, by decide +kernel⟩
theorem witness_sample : ∃ s u v : State, s.time.seeded = true ∧ s.time.resyncArmed = false ∧ s.time.holdover = false ∧ s.time.discards = 7 ∧
    u.time.seeded = true ∧ u.time.resyncArmed = false ∧ u.time.holdover = true ∧ u.time.told = false ∧ u.time.goodRun = 7 ∧
    u.time.beat = u.time.holdSince + 18000000 ∧ v.time.resyncArmed = true :=
  ⟨seeded { discards := 7 }, at_ 18000000 (seeded { holdover := true, goodRun := 7 }), seeded { resyncArmed := true }, by decide +kernel⟩
/-- Not seeded; in holdover for 10 ms, and a beat less. -/
theorem witness_holdover : State.reset.time.seeded = false ∧ ∀ n ∈ [17999999, 18000000], let s := at_ n (seeded { holdover := true })
    s.time.holdover = true ∧ s.time.told = false ∧ s.time.beat = s.time.holdSince + n := by decide +kernel
/-- A sample behind a local time that a resync has stopped. -/
theorem witness_stopped : (seeded { now := 1000, stopped := 36000 }).time.stopped > 0 := by decide +kernel
/-- A later number in the beat of the last boundary, and in another. -/
theorem witness_boundary : ∀ b : Bool, ∃ s : State, (s.adminOf 0).state = .live ∧ (s.ctxOf 0).announced = false ∧
    (s.ctxOf 0).strokeStart.toNat ≤ s.now + 1000000 ∧ (1 : BitVec 48).toNat > s.glob.blockStroke.toNat ∧
    (decide (s.glob.boundaryBeat = some s.time.beat)) = b := by
  intro b
  refine ⟨live.setGlob { live.glob with boundaryBeat := if b then some 0 else none }, ?_⟩
  cases b <;> decide +kernel
/-- An announcement that starts 1,000,000 ns ahead, the farthest that is taken, and one a ns farther. -/
theorem witness_announce : ∃ s u : State, (s.adminOf 0).state = .live ∧ (s.ctxOf 0).announced = false ∧
    (s.ctxOf 0).strokeStart.toNat = s.now + 1000000 ∧ (u.ctxOf 0).strokeStart.toNat = u.now + 1000001 :=
  ⟨liveX (fun x => { x with strokeStart := 1000000 }), liveX (fun x => { x with strokeStart := 1000001 }), by decide +kernel⟩
/-- Two records that wait, whose first has its write behind an older read of its lines, without a credit, sent, and accepted. -/
def recorded : TelemSnap := ⟨1, 0, 0, [1, 2], 4, 15, 8192, 0⟩
def recording (k : Nat) : State :=
  (live.setGlob { live.glob with telem := [recorded, { recorded with id := 5, slot := 0, at_ := 512 }] }).setSpan 0
    { reads := if k = 0 then [(0, ⟨1, none, 0, 0, 8192, 8255, 0⟩)] else []
      writes := if k = 3 then [] else [⟨none, false, 4, 0, 16, k ≠ 1, 0, false, 1, 8192, [1, 2]⟩] }
theorem witness_telemetry : live.glob.telem = [] ∧ ∀ k ∈ [0, 1, 2, 3], (recording k).MemoryCanonical ∧ (recording k).glob.telem.head? = some recorded ∧
    (recording k).start.servicePier = 0 ∧ ((recording k).spanOf 0).held (fun w => w.ctx.isNone && w.index = 4) = decide (k = 0) ∧
    ((recording k).spanOf 0).writes.any (fun w => w.ctx.isNone && w.index = 4 && !w.sent) = decide (k = 1) :=
  ⟨rfl, fun k h => by
    refine ⟨rfl, ?_⟩
    simp only [List.mem_cons, List.not_mem_nil, or_false] at h
    rcases h with rfl | rfl | rfl | rfl <;> decide +kernel⟩

/-! ## Pacing and power -/

/-- A span with an envelope on its way and, in force, floors at 0 and 2 µs, at exactly 2 µs after the marker. -/
theorem witness_points : ∃ s : State, let x := s.spanOf 0
    x.nextEnvelope = some [⟨5, 9, []⟩] ∧ x.part.floors.length = 2 ∧ x.marker + 1800 * (x.part.floors.getD 1 (0, 0)).1 = s.time.beat ∧
    x.pace ≠ 5 ∧ x.target < 16 :=
  ⟨at_ 3600 (live.setSpan 0 { nextEnvelope := some [⟨5, 9, []⟩], envelope := List.replicate 5 ⟨3, 9, [(0, 4), (2, 6)]⟩ }), by decide +kernel⟩
/-- Spans at a point above, below and at the target, with an output below and at its voltage, their regulator on and off. -/
def moving (point vout : Nat) (on : Bool) : State :=
  live.setSpan 0 { point := BitVec.ofNat 4 point, vout := BitVec.ofNat 10 vout, regulatorOn := on,
                   envelope := List.replicate 5 ⟨3, 9, [(0, 4)]⟩, floor := some 0 }
theorem witness_move : let p := ((moving 5 0 true).spanOf 0).target
    p = 4 ∧ ∀ on : Bool, ((moving 5 0 on).spanOf 0).pace ≠ 5 ∧ ((moving 5 0 on).spanOf 0).regulatorOn = on ∧
      ((moving 5 0 on).spanOf 0).undervolt = false ∧ ((moving 5 0 on).spanOf 0).target < ((moving 5 0 on).spanOf 0).point.toNat ∧
      (∀ k ∈ [3, 4], ((moving k 0 on).spanOf 0).point.toNat = k ∧
        ((moving k 0 on).spanOf 0).vout.toNat < (((moving k 0 on).spanOf 0).settingOf p).toNat ∧
        (((moving k 1023 on).spanOf 0).settingOf p).toNat ≤ ((moving k 1023 on).spanOf 0).vout.toNat) := by decide +kernel
/-- A request to make; two requests with 2 grants in the last 64 beats, which are served at once, and with 3, which stagger; a grant 31 and 32
beats ago. -/
theorem witness_surge : ∃ s u v w : State, (s.surgeIdle 0 = true ∧ (s.spanOf 0).surgeWait = false ∧ (s.spanOf 0).granted = false) ∧
    (u.glob.surgeQueue = [(0, 0), (1, 0)] ∧ u.glob.stagger = false ∧ (u.glob.grants.filter (fun b => u.time.beat < b + 64)).length = 2) ∧
    (v.glob.surgeQueue = [(0, 0), (1, 0)] ∧ (v.glob.grants.filter (fun b => v.time.beat < b + 64)).length = 3 ∧
      v.glob.grants.getLast? = some 69 ∧ v.time.beat < 69 + 32) ∧
    (w.glob.surgeQueue = [(0, 0), (1, 0)] ∧ w.glob.stagger = true ∧ w.glob.grants.getLast? = some 68 ∧ 68 + 32 = w.time.beat) :=
  ⟨live.setSpan 0 { beats := 256 }, at_ 100 (live.setGlob { live.glob with surgeQueue := [(0, 0), (1, 0)], grants := [36, 37, 38] }),
   at_ 100 (live.setGlob { live.glob with surgeQueue := [(0, 0), (1, 0)], grants := [37, 38, 69] }),
   at_ 100 (live.setGlob { live.glob with surgeQueue := [(0, 0), (1, 0)], grants := [68], stagger := true }), by decide +kernel⟩
theorem witness_envelope : (live.spanOf 0).nextEnvelope = none := by decide +kernel
/-- After a discarded reading of 35 °C over 20 °C the next of 35 °C is valid; a second discarded one fails the sensor. -/
theorem test_thermal_previous : ∃ t u, let s := live.setSpan 0 { sensors := [(1, { valid := some 40, previous := some 70, discards := 1 })] }
    exec (.thermalSample 0 1 70 0) s = .next t ∧ exec (.thermalSample 0 1 91 0) s = .next u ∧
    (t.spanOf 0).sensors.get 1 {} = { valid := some 70, previous := some 70 } ∧
    (u.spanOf 0).sensors.get 1 {} = { valid := some 40, previous := some 91, discards := 2, failed := true } :=
  ⟨_, _, rfl, rfl, by decide +kernel⟩
/-- Readings: −40 °C and 150 °C are valid, half a degree beyond is not; 10 degrees from the last is valid; 115 °C trips. -/
theorem test_thermal_limits : ∃ t u v w, exec (.thermalSample 0 1 (-80) 0) live = .next t ∧ exec (.thermalSample 0 1 (-81) 0) live = .next u ∧
    exec (.thermalSample 0 1 229 0) live = .next v ∧ exec (.thermalSample 0 1 230 0) live = .next w ∧
    (t.spanOf 0).sensors.get 1 {} = { valid := some (-80), previous := some (-80) } ∧
    (u.spanOf 0).sensors.get 1 {} = { previous := some (-81), discards := 1 } ∧
    (v.ctxOf 0).halt = none ∧ (w.ctxOf 0).halt.map Halting.code = some 0x0A06 :=
  ⟨_, _, _, _, rfl, rfl, rfl, rfl, by decide +kernel⟩
/-- A span above its cap above LO, and one at LO. -/
theorem witness_cap : ∃ s u : State, (s.spanOf 0).lastCap = 0 ∧ (s.spanOf 0).target > (s.spanOf 0).part.lo ∧ s.owner 0 = some 0 ∧
    (u.spanOf 0).lastCap = 0 ∧ (u.spanOf 0).target = (u.spanOf 0).part.lo ∧ 300001 > 1000 * (s.spanOf 0).cap.toNat :=
  ⟨live.setSpan 0 { envelope := List.replicate 5 ⟨3, 9, [(0, 4)]⟩, floor := some 0 }, live, by decide +kernel⟩
/-- Less than a microsecond after the last step, and a microsecond after it, with a span that is stretched and with none, at the limit. -/
theorem witness_peak : ∃ s u v : State, (s.glob.lastPeak ≠ 0 ∧ s.time.beat + 1 = s.glob.lastPeak + 1800) ∧
    (u.glob.lastPeak ≠ 0 ∧ u.time.beat = u.glob.lastPeak + 1800 ∧ (u.spanOf 3).peakStretch > 0 ∧ u.glob.peakW = 300) ∧
    (v.glob.lastPeak = 0 ∧ ∀ p < 16, (v.spanOf p).peakStretch = 0) :=
  ⟨at_ 1800 (live.setGlob { live.glob with lastPeak := 1 }),
   at_ 1801 ((live.setGlob { live.glob with lastPeak := 1, peakW := 300 }).setSpan 3 { peakStretch := 8 }), live, by decide +kernel⟩
/-- The regulator at its limits: 41 mV low for 51 ns is an undervoltage, 40 mV low is none. -/
theorem test_undervoltage : ∃ t, exec (.outputUndervoltage 0 679 51) live = .next t ∧ (live.spanOf 0).setting = 720 ∧
    (t.spanOf 0).uv = true ∧ exec (.outputUndervoltage 0 680 51) live = .next live :=
  ⟨_, rfl, by decide +kernel, by decide +kernel, rfl⟩

/-- The regulator's measures at their bounds and beyond, with the span at 720 mV. -/
theorem witness_regulator : (live.spanOf 0).setting = 720 ∧
    ((679 : Int) < (live.spanOf 0).setting - 40 ∧ 51 > 50 ∧ 9999 < 10000) ∧ ¬((680 : Int) < (live.spanOf 0).setting - 40) ∧
    ((699 : Int) < (live.spanOf 0).setting - 20) ∧ ((700 : Int) ≥ (live.spanOf 0).setting - 20) ∧
    ((781 : Int) > (live.spanOf 0).setting + 60) ∧ ¬((780 : Int) > (live.spanOf 0).setting + 60) ∧ live.runs 0 = true := by decide +kernel

/-! ## Faults and halts -/

/-- A line of a bay of the owner, and one of none. -/
theorem witness_scrub : ∃ s : State, s.mayScrub 0 = true ∧ (s.setSpan 0 { s.spanOf 0 with phase := 1 }).mayScrub 0 = false ∧ s.owner 0 = some 0 ∧ s.runs 0 = true ∧ (s.ctxOf 0).inBay 4 = true ∧ (s.ctxOf 0).inBay 8 = false :=
  ⟨shortIn {}, by decide +kernel⟩
theorem witness_cox : ∃ s : State, s.glob.coxFailed = false ∧ s.time.beat < s.glob.coxUntil ∧ s.glob.coxMismatch = 2 ∧ s.runs 0 = true :=
  ⟨live.setGlob { live.glob with coxUntil := 1, coxMismatch := 2 }, by decide +kernel⟩
theorem witness_cox_first : ∃ s u : State, s.glob.coxFailed = true ∧ u.glob.coxFailed = false ∧ u.time.beat < u.glob.coxUntil ∧ u.glob.coxMismatch = 1 :=
  ⟨live.setGlob { live.glob with coxFailed := true }, live.setGlob { live.glob with coxUntil := 1, coxMismatch := 1 }, by decide +kernel⟩
/-- A walker tried again 16 span beats after its mismatch, and 17. -/
theorem witness_walker : ∃ s u : State, s.owner 0 = some 0 ∧ s.runs 0 = true ∧ (s.spanOf 0).walkerRetries = 2 ∧
    s.spanBeat 0 = (s.spanOf 0).walkerBeat + 16 ∧ (u.spanOf 0).walkerRetries = 1 ∧ u.spanBeat 0 = (u.spanOf 0).walkerBeat + 17 :=
  ⟨live.setSpan 0 { walkerRetries := 2, beats := 16 }, live.setSpan 0 { walkerRetries := 1, beats := 17 }, by decide +kernel⟩
/-- A head whose bundle lies in the shared cache, and one of a routine. -/
theorem witness_refetch : ∀ b : Bool, ∃ (s : State) (e : Entry), (s.ctxOf 0).exec.queue = [e] ∧ s.lowestSpan 0 = some 0 ∧ e.addr.getLsbD 63 = b := by
  intro b
  refine ⟨liveStream true { queue := [{ entry 0 with addr := if b then 0x8000000000000000 else 64 }] },
    { entry 0 with addr := if b then 0x8000000000000000 else 64 }, ?_⟩
  cases b <;> decide +kernel
/-- A CALL that reads its routine's first bundle, and a split of a later one. -/
theorem witness_library : ∃ (s t u v : State), (s.runs 0 = true ∧ (s.ctxOf 0).callDue ≠ none ∧ exec (.call 0 0) s = .next t ∧
      (t.ctxOf 0).frames.length = (s.ctxOf 0).frames.length + 1) ∧
    (u.runs 0 = true ∧ (u.ctxOf 0).frames ≠ [] ∧ exec (.bundleSplit ⟨0, 0⟩) u = .next v ∧ (v.ctxOf 0).split = (u.ctxOf 0).split + 1) :=
  ⟨withRoutine (liveX (fun x => { x with callDue := some (entry (bits512 64 0x13)) })), _, liveX (fun x => { x with frames := [⟨1, 0x200000, 8, 0, 0, 0, 0, [], [], 2, [], 5⟩] }), _,
   ⟨rfl, by decide +kernel, rfl, by decide +kernel⟩, rfl, by decide +kernel, rfl, by decide +kernel⟩
theorem witness_record : ∃ (ctx : Nat) (q : Cause), ctx = 7 ∧ q.code = 0xFFFF ∧ q.slot = 7 ∧ q.coord = 2 ^ 64 - 1 ∧ q.core = 0xFFFF ∧ q.lane = 0xFF ∧
    q.detail = 2 ^ 128 - 1 := ⟨7, { code := 0xFFFF, detail := 2 ^ 128 - 1 }, by decide +kernel⟩
/-- A halt that has begun, one that has settled, and a drained context. -/
theorem witness_halts : ∃ s u v : State,
    (∃ h, (s.ctxOf 0).halt = some h ∧ (s.adminOf 0).state = .live ∧ h.settled = false ∧ s.runAt 0 true 0 = some (copyRun (staged []))) ∧
    (∃ h, (u.ctxOf 0).halt = some h ∧ (u.adminOf 0).state = .live ∧ h.settled = true ∧ u.settledAll 0 = true) ∧
    (v.runs 0 = true ∧ (v.adminOf 0).drain = true ∧ (v.ctxOf 0).access.inflight = [] ∧ (v.ctxOf 0).exec.inflight = []) :=
  ⟨liveX (fun x => { x with halt := some ⟨0, 0x0501, 0, false⟩, exec := { inflight := [copyRun (staged [])], next := 1 } }),
   liveX (fun x => { x with halt := some ⟨0, 0x0501, 0, true⟩ }), live.setAdmin 0 { live.adminOf 0 with drain := true },
   ⟨⟨0, 0x0501, 0, false⟩, by decide +kernel⟩, ⟨⟨0, 0x0501, 0, true⟩, by decide +kernel⟩, by decide +kernel⟩

/-! ## Contexts -/

/-- A FREE context 1 with a request that start allows; one that asks for context 0's span. -/
def asking (mask : BitVec 16) : State :=
  let s := live.setAdmin 1 { mask := mask }
  { s with start := { s.start with st := 2 } }
theorem witness_create : ∃ s u : State, (s.adminOf 1).state = .free ∧ (s.adminOf 1).mask ≠ 0 ∧
    (∀ d, d ≠ 1 → (s.adminOf 1).mask &&& (s.adminOf d).claims = 0) ∧ (s.adminOf 1).mask &&& s.start.fencedSpans = 0 ∧ s.start.st = 2 ∧
    (u.adminOf 1).mask &&& (u.adminOf 0).claims ≠ 0 :=
  ⟨asking 0x8000, asking 1, by decide +kernel⟩
/-- A context in every state that a command of its life names. -/
theorem witness_states : ∀ q ∈ [CtxState.creating, .live, .halted, .resetting, .tearingDown], ((inState q).adminOf 0).state = q ∧
    ((inState q).adminOf 0).owned.getLsbD 0 = true ∧ (State.reset.adminOf 0).state = .free := by decide +kernel
/-- A leaving span with no macro on it, a leaving one in use, and one that does not leave. -/
def leaving (m : List MacroRun) : State :=
  (liveX (fun x => { x with exec := { inflight := m } })).setAdmin 0 { live.adminOf 0 with leaving := 1 }
theorem witness_release : ∃ s u v : State, s.owner 0 = some 0 ∧ (s.adminOf 0).leaving.getLsbD 0 = true ∧
    (s.acceptTrace 0).spanInUse 0 0 = false ∧ u.owner 0 = some 0 ∧ (u.acceptTrace 0).spanInUse 0 0 = true ∧ v.owner 0 = some 0 ∧ (v.adminOf 0).leaving.getLsbD 0 = false :=
  ⟨leaving [], leaving [copyRun {}], live, by decide +kernel⟩
/-- Masks: empty, of another context's span, of a fenced span in a LIVE context, and a good one. -/
theorem witness_mask : ∃ s : State, (s.adminOf 0).state = .live ∧ (2 : BitVec 16) &&& (s.adminOf 1).claims ≠ 0 ∧
    (4 : BitVec 16) &&& s.start.fencedSpans ≠ 0 ∧
    ((0x8001 : BitVec 16) ≠ 0 ∧ (∀ d, d ≠ 0 → (0x8001 : BitVec 16) &&& (s.adminOf d).claims = 0) ∧ (0x8001 : BitVec 16) &&& s.start.fencedSpans = 0) :=
  ⟨{ asking 2 with start := { st := 2, fencedSpans := 4 } }, by decide +kernel⟩

/-! ## Registers -/

/-- A pending bay write: of a LINEAR bay of 4 lines within the quota; of one of no legal mode; and of one beyond a quota of 3 lines. -/
def bayIn (v : BitVec 30) : State := liveX (fun x => { x with bayWrites := [(255, v)], bays := [(255, { pending := true })] })
theorem witness_bay : ∃ (s u w : State) (v e : BitVec 30), (s.pageOpen 0 = true ∧ (s.ctxOf 0).quiet = true ∧ (s.ctxOf 0).bayWrites = [(255, v)] ∧
      (s.ctxOf 0).viaWrites = [] ∧ (s.ctxOf 0).cplPending = none ∧ (s.ctxOf 0).bayRefused 255 v = false ∧
      bayShort (s.ctxOf 0) (s.adminOf 0) 255 v (false, false) = (false, false)) ∧
    ((u.ctxOf 0).bayWrites = [(255, e)] ∧ (u.ctxOf 0).bayRefused 255 e = true) ∧
    (bayShort (w.ctxOf 0) (w.adminOf 0) 255 v (false, false) ≠ (false, false) ∧ (w.ctxOf 0).bayWrites = [(255, v)]) ∧
    ((flying true (copyRun {}) []).ctxOf 0).quiet = false :=
  ⟨bayIn (BitVec.ofNat 30 (4 * 2 ^ 11 + 2 ^ 23)), bayIn (BitVec.ofNat 30 (4 * 2 ^ 11 + 7 * 2 ^ 23)),
   (bayIn (BitVec.ofNat 30 (4 * 2 ^ 11 + 2 ^ 23))).setAdmin 0 { live.adminOf 0 with quotaBay := 3 },
   BitVec.ofNat 30 (4 * 2 ^ 11 + 2 ^ 23), BitVec.ofNat 30 (4 * 2 ^ 11 + 7 * 2 ^ 23), by decide +kernel⟩
/-- A legal write of SLICE on a channel with nothing on it and on one in use; a reserved bit of CFG. -/
theorem witness_channel : ∃ s u : State, s.pageOpen 0 = true ∧ (s.ctxOf 0).viaWrites = [] ∧ (s.ctxOf 0).channelIdle s.mem 0 = true ∧
    ((s.ctxOf 0).channel 0).regs.en = true ∧ (1 : BitVec 64) &&& ~~~(viaFields 1) = 0 ∧
    (((s.ctxOf 0).channel 0).regs.put 1 1).bad (s.adminOf 0).joinId = false ∧
    (u.ctxOf 0).channelIdle u.mem 0 = false ∧ (u.ctxOf 0).viaWrites = [] ∧ (0x800000 : BitVec 64) &&& ~~~(viaFields 0) ≠ 0 :=
  ⟨liveX (fun x => x.setChannel 0 { channel0 row3 with live := [], rows := [], regs := { (channel0 row3).regs with nslices := 1, order := true, children := [(0, 0x10000)] } }),
   liveX (fun x => { x.setChannel 0 (channel0 row3) with exec := { inflight := [viaMacro], next := 1 } }), by decide +kernel⟩
/-- A context whose ring is in force and whose window 0 holds one page. -/
def narrow : State := (liveX (fun x => { x with doneEn := true })).setAdmin 0 { live.adminOf 0 with winLimit := [(0, 0)] }
/-- Bases inside window 0 and in window 1, which is closed; sizes 3, 4, 12 and 13; a ring in force that a new size carries out of its window. -/
theorem witness_ring : (field (1025 : BitVec 64) 1 3 = 0 ∧ field (1025 : BitVec 64) 7 57 = 8 ∧ (live.ctxOf 0).doneLog = 8 ∧
      live.inWindow 0 0 1024 (1024 + 128 * 2 ^ 8 - 1) true = true) ∧
    (field (65539 : BitVec 64) 1 3 = 1 ∧ field (65539 : BitVec 64) 16 48 = 1 ∧ live.inWindow 0 1 65536 (65536 + 65536 - 1) true = false) ∧
    (live.ctxOf 0).doneEn = false ∧
    (field (3 : BitVec 64) 0 4 < 4 ∧ field (4 : BitVec 64) 0 4 = 4 ∧ field (12 : BitVec 64) 0 4 = 12 ∧ field (13 : BitVec 64) 0 4 > 12) ∧
    (narrow.ctxOf 0).doneEn = true ∧ narrow.inWindow 0 0 0 (128 * 2 ^ 5 - 1) true = true ∧ narrow.inWindow 0 0 0 (128 * 2 ^ 6 - 1) true = false ∧
    State.reset.pageOpen 0 = false := by decide +kernel
/-- A ring base takes effect, and a request under both policies. -/
theorem test_ring_and_pace : ∃ t u v, exec (.ringBaseWrite 0 0 1025) live = .next t ∧ exec (.paceReqWrite 0 5 9) live = .next u ∧
    exec (.paceReqWrite 0 2 9) (live.setGlob { live.glob with policy := true }) = .next v ∧ (t.ctxOf 0).doneEn = true ∧ (t.ctxOf 0).doneBase = 8 ∧
    (u.ctxOf 0).paceReq = 1 ∧ (v.ctxOf 0).paceReq = (live.ctxOf 0).paceReq ∧ (v.ctxOf 0).paceIgnored = 1 := ⟨_, _, _, rfl, rfl, rfl, by decide +kernel⟩
/-- Claims: of a held slot; of a free one with room for one more, and with none. -/
theorem witness_claim : ∃ s u : State, s.glob.histClaims = [] ∧ (s.histOf 255).owner = 7 ∧ s.histUsed 0 < (s.adminOf 0).effHist ∧
    (s.histOf 3).owner ≠ 7 ∧ (u.histOf 255).owner = 7 ∧ u.histUsed 0 = (u.adminOf 0).effHist :=
  ⟨live.setHist 3 { owner := 1 }, (live.setHist 3 { owner := 0 }).setAdmin 0 { live.adminOf 0 with quotaHist := 1 }, by decide +kernel⟩
/-- A histogram of another beat, one of this beat with nothing counted in it, and one with a single addition. -/
theorem witness_clear : ∃ (s u v : State) (a : HistAdd), (s.histOf 3).freshBeat ≠ some s.time.beat ∧ (u.histOf 3).freshBeat = some u.time.beat ∧
    (u.histOf 3).fresh = [] ∧ (v.histOf 3).freshBeat = some v.time.beat ∧ (v.histOf 3).fresh = [a] :=
  ⟨live, live.setHist 3 { freshBeat := some live.time.beat }, live.setHist 3 { freshBeat := some live.time.beat, fresh := [⟨3, 5, none, 0⟩] },
   ⟨3, 5, none, 0⟩, by decide +kernel⟩
/-- An advice of −128 is kept as −127, an event of 0x18 as OFF. -/
theorem test_advice_and_event : ∃ t u v, exec (.histAdviceWrite 0 0x80 true) live = .next t ∧ exec (.perfSelWrite 0 63 0x17) live = .next u ∧
    exec (.perfSelWrite 0 63 0x18) live = .next v ∧ (t.histOf 0).exp = 0x81#8 ∧ (u.spanOf 0).perfSel.get 63 0 = 0x17#6 ∧
    (v.spanOf 0).perfSel.get 63 0 = 0#6 := ⟨_, _, _, rfl, rfl, rfl, by decide +kernel⟩
/-- Descriptor writes: misaligned; the last eight bytes and the eight before of descriptor 1; of descriptor 0; of a closed page. -/
theorem witness_descriptor : live.pageOpen (ctxNo live.glob.selCtx.toNat) = true ∧ live.windowDesc (128 + 120) = 1 ∧ live.windowDesc (128 + 112) = 1 ∧
    (live.staging 0 1).2 ≠ BitVec.allOnes 8 ∧ live.windowDesc 120 = 0 ∧ State.reset.pageOpen 0 = false ∧ (121 : BitVec 18).toNat % 8 ≠ 0 := by
  decide +kernel
/-- Handle 1 that an LD has loaded in this beat. -/
theorem witness_descriptor_late : ∃ s : State, (s.ctxOf 0).descBeat = some s.time.beat ∧ 1 ∈ (s.ctxOf 0).descLoaded ∧ (live.ctxOf 0).descBeat = none :=
  ⟨liveX (fun x => { x with descBeat := some 0, descLoaded := [1] }), by decide +kernel⟩
/-- A limit below the base, and one equal to it; the base of a window that is open. -/
theorem witness_window : ∃ s : State, field (0x1001 : BitVec 64) 12 52 < ((s.adminOf 0).winBase.get 2 0#52).toNat ∧
    field (0x2001 : BitVec 64) 12 52 = ((s.adminOf 0).winBase.get 2 0#52).toNat ∧ (s.adminOf 0).winEn.getLsbD 2 = false :=
  ⟨live.setAdmin 0 { live.adminOf 0 with winBase := [(2, 2#52)] }, by decide +kernel⟩
/-- Accesses: a good one, a misaligned one, and one of three bytes; IRQ_ENABLE keeps its six bits. -/
theorem witness_access : accessOk false true 0x2810 8 = true ∧ accessOk false true 0x2811 8 = false ∧ accessOk false true 0x2810 3 = false := by
  decide +kernel
theorem test_irq_enable : ∃ t, exec (.registerWrite false false 0x2810 true 0xFFFFFFFFFFFFFFFF) live = .next t ∧ t.readWindow false 0x2810 8 = 0x3F#64 :=
  ⟨_, rfl, by decide +kernel⟩
/-- A cause that hardware sets in the beat of the write that clears it stands, and one of the beat before goes. -/
theorem test_cause_stands : ∃ t u, exec (.registerWrite false true 0x2808 true 4) (live.setGlob { live.glob with faultIrq := true, setAt := [(2, 0)] }) = .next t ∧
    exec (.registerWrite false true 0x2808 true 4) (at_ 1 (live.setGlob { live.glob with faultIrq := true, setAt := [(2, 0)] })) = .next u ∧
    (t.readWindow false 0x2808 8).getLsbD 2 = true ∧ (u.readWindow false 0x2808 8).getLsbD 2 = false := ⟨_, _, rfl, rfl, by decide +kernel⟩
/-- Privileged writes that are good, misaligned and of no register. -/
theorem witness_privileged : (regAt 0x200).isSome = true ∧ 0x201 % 4 ≠ 0 ∧ 0x1FF8 < 0x2000 ∧ (regAt 0x1FF8).isNone = true := by decide +kernel
/-- Arrivals of a LIVE context and of a halted one; the read pointer up to WR, and beyond. -/
theorem witness_arrival : (live.adminOf 0).state = .live ∧ ((inState .halted).adminOf 0).state ≠ .live := by decide +kernel
/-- Sequence numbers 32,767 ahead of the entry's, 32,768 ahead, and equal to it. -/
theorem witness_arrival_seq : ∃ s : State, (s.adminOf 0).state = .live ∧
    ([(0x8000 : BitVec 16), 0x8001, 1].map (fun q => (q - (s.ctxOf 0).arrivals.get 7 0#16).toNat)) = [32767, 32768, 0] :=
  ⟨liveX (fun x => { x with arrivals := [(7, 1)] }), by decide +kernel⟩
theorem witness_ring_read : ∃ s : State, s.ring.unread.toNat ≤ 256 ∧ ((4 : BitVec 8) - s.ring.rd).toNat = s.ring.unread.toNat ∧
    ((5 : BitVec 8) - s.ring.rd).toNat > s.ring.unread.toNat :=
  ⟨{ live with ring := { rd := 1, wr := 4, unread := 3 } }, by decide +kernel⟩

/-! ## The mailbox -/

/-- A message: opcode, and the number from byte 8. -/
def message (opcode arg : Nat) : Message := BitVec.ofNat 512 (opcode + arg * 2 ^ 64)
def mailed (m : Mailbox) : State := { live with mbox := m }
theorem witness_post : ∃ s u : State, s.mbox.inCount.toNat = 7 ∧ u.mbox.inCount.toNat = 8 :=
  ⟨mailed { inWr := 7, inCount := 7 }, mailed { inCount := 8 }, by decide +kernel⟩
theorem witness_ack : ∃ s u : State, (s.mbox.outCount ≠ 0 ∧ s.mbox.waiting = []) ∧ (u.mbox.outCount = 8 ∧ u.mbox.waiting = [5]) ∧ live.mbox.outCount = 0 :=
  ⟨mailed { outCount := 1 }, mailed { outCount := 8, waiting := [5] }, by decide +kernel⟩
/-- A mailbox with two messages, the older in slot 7. -/
def mail2 (v w : Message) : Mailbox := { inbound := [(0, w), (7, v)], inWr := 1, inCount := 2 }
/-- No message; a cox that has failed, and a warm reset behind another message. -/
theorem witness_mail_failed : live.mbox.front = none ∧ ∃ s : State, s.glob.coxFailed = true ∧ s.mbox.warmAt = some 1 :=
  ⟨by decide +kernel, (mailed (mail2 (message 2 0) (message 10 0))).setGlob { live.glob with coxFailed := true }, by decide +kernel⟩
/-- For each row a message of its opcode; and one of an opcode that no row knows. -/
theorem witness_mail : ∀ row ∈ State.mailRows, ∃ (s u : State) (v w : Message), s.glob.coxFailed = false ∧ s.mbox.front = some v ∧
    v.opcode = row.2.opcode ∧ u.glob.coxFailed = false ∧ u.mbox.front = some w ∧ w.opcode = 12 := by
  intro row h
  refine ⟨mailed { inbound := [(0, message row.2.opcode 0)], inWr := 1, inCount := 1 }, mailed { inbound := [(0, message 12 0)], inWr := 1, inCount := 1 },
    message row.2.opcode 0, message 12 0, rfl, ?_⟩
  revert row
  decide +kernel
/-- A block that is READY, with one patch image loaded; and one whose ST8 has asked for patches. -/
def ready : State := { live with start := { live.start with st := 2 }, lib := { live.lib with images := 1 } }
def askingPatches : State := { live with start := { live.start with st := 1, step := 8, patchAsked := true } }
/-- Messages that are accepted, each at the end of its range, and the journal has room for a record. -/
theorem witness_accepted : ∀ q ∈ [(capHandler, 3, ready), (drainHandler, 3, ready), (policyHandler, 1, ready), (resyncHandler, 0, ready),
    (commitHandler, 0, ready), (unfenceHandler, 15 + 0xFFFF * 2 ^ 16, ready), (clearHandler, 13, ready), (warmHandler, 0, ready),
    (patchHandler, 4, askingPatches)],
    let v := message q.1.opcode q.2.1
    v.opcode = q.1.opcode ∧ v.tidy q.1.fields = true ∧ q.1.inRange v = true ∧ (q.1.reads v).isNone = true ∧ q.1.allowed v [] q.2.2 = true ∧
      q.2.2.journal.canTake = true := by decide +kernel
/-- A value beyond its range, a stray bit, and what the present state does not allow. -/
theorem witness_not_accepted : clearHandler.inRange (message 9 14) = false ∧ (message 4 1).tidy resyncHandler.fields = false ∧
    drainHandler.allowed (message 2 0) [] live = false := by decide +kernel
/-- A message that names a token of n bytes at address 4096, and a read of the cox of its bytes that has ended, failed or not. -/
def tokenMessage (opcode n : Nat) : Message := message opcode (4096 + n * 2 ^ 64)
def tokenRead (n : Nat) (failed : Bool) : CoxRead := { addr := 4096, len := n, gen := 3, pier := 0, todo := [], failed := failed }
theorem witness_token_read : ∀ failed : Bool, ∀ q ∈ [(returnHandler, 7), (restoreHandler, 6)],
    let v := tokenMessage q.2 16
    let r := tokenRead 16 failed
    v.opcode = q.1.opcode ∧ v.tidy q.1.fields = true ∧ q.1.inRange v = true ∧ q.1.reads v = some (4096, 16) ∧ live.glob.coxRead = none ∧
      r.todo = [] ∧ r.out = 0 ∧ r.failed = failed := by decide +kernel
/-- The messages that carry a token are accepted where its signature is good, and the return where its number is not below the counter. -/
theorem witness_token (b : List Byte) (h : Config.signatureOk 1 b = true) : returnHandler.allowed (message 7 0) b live = true ∧
    restoreHandler.allowed (message 6 0) b (live.setGlob { live.glob with rollback := 0xFFFFFFFF, restorable := true }) = true := by
  constructor
  · have hl : live.glob.lifecycle = 1 ∧ live.glob.rollback.toNat = 0 := by decide +kernel
    simp [returnHandler, h, hl.1, hl.2]
  · simp [restoreHandler, h]

/-! ## Start and journal -/

/-- A bank of an ANCHOR and the ledger's END of step 13 with a count. -/
def ledgerBank (k : Nat) : Memory :=
  Memory.writeBytes 32 (recordBytes 0x0012 2 (recBytes (ledgerEntry 13 1 0 1 0 1 0 k))) (Memory.writeBytes 0 (recordBytes 0x0001 1 (leBytes 8 1)) [])
/-- Scans with no valid bank, ST3 failed twice and three times; and with one, step 13 failed twice and three times. -/
theorem witness_scan : ∀ k ∈ [2, 3], (∃ s : State, s.glob.coxFailed = false ∧ s.start.st = 0 ∧ s.journal.mount = none ∧ s.start.first < 14 ∧ s.start.count 3 = k) ∧
    ∃ (s : State) (j : Journal), s.glob.coxFailed = false ∧ s.start.st = 0 ∧ s.start.heldBack = [] ∧ s.start.first < 14 ∧ s.journal.mount = some j ∧
      (ledgerCounts (chain j.bank)) = ([(13, k)], none) := by
  intro k h
  refine ⟨⟨{ live with start := { counts := [(3, k)] } }, ?_⟩, { live with journal := { bankA := ledgerBank k } },
    { bankA := ledgerBank k, mounted := true, epoch := 1, fill := 64, next := 3 }, ?_⟩ <;>
  (simp only [List.mem_cons, List.not_mem_nil, or_false] at h; rcases h with rfl | rfl <;> decide +kernel)
/-- Step 12 running, failed twice; step 13 running; a retry wait of 1,800,000 beats. -/
theorem witness_steps : ∃ s u v : State, (∀ w ∈ [s, u, v], w.glob.coxFailed = false) ∧ (s.start.st = 1 ∧ s.start.step = 12 ∧ s.start.running = true ∧ s.start.form 12 = 0 ∧ s.start.count 12 = 2) ∧
    (u.start.st = 1 ∧ u.start.step = 13 ∧ u.start.running = true) ∧ (v.start.st = 3 ∧ v.time.beat = v.start.waitBegan + 1800000) :=
  ⟨{ live with start := { st := 1, step := 12, running := true, counts := [(12, 2)] } }, { live with start := { st := 1, step := 13, running := true } },
   at_ 1800000 { live with start := { st := 3 } }, by decide +kernel⟩
theorem witness_step_limit : ∃ s : State, s.glob.coxFailed = false ∧ s.start.st = 1 ∧ s.start.running = true ∧ s.start.step.toNat = 12 ∧
    s.time.beat = s.start.stepBegan + s.stepLimit 12 :=
  ⟨at_ (live.stepLimit 12) { live with start := { st := 1, step := 12, running := true } }, by decide +kernel⟩
/-- A record that fills the bank to its last byte. -/
theorem witness_append : ∃ (s : State) (r : JRec), s.glob.coxFailed = false ∧ s.journal.queue = [r] ∧ s.journal.mounted = true ∧ s.journal.bank.wf = true ∧ r.type < 65536 ∧
    r.payload.length ≤ 4080 ∧ s.journal.fill + (16 + (r.payload.length + 15) / 16 * 16) = bankBytes :=
  ⟨{ live with journal := { queue := [⟨1, [1]⟩], mounted := true, fill := bankBytes - 32 } }, ⟨1, [1]⟩, by decide +kernel⟩
theorem witness_compaction : ∃ s u : State, s.glob.coxFailed = false ∧ u.glob.coxFailed = true ∧ s.journal.compacting = true ∧ s.journal.mounted = true :=
  ⟨{ live with journal := { compacting := true, mounted := true } }, live.setGlob { live.glob with coxFailed := true }, by decide +kernel⟩
theorem witness_raw : ∃ s : State, live.glob.lifecycle ≠ 0 ∧ s.glob.lifecycle = 0 ∧ s.glob.jvBank = false ∧ s.journal.bankA.wf = true ∧
    (8 : BitVec 15).toNat % 8 = 0 ∧ (4 : BitVec 15).toNat % 8 ≠ 0 ∧ (4 : BitVec 15).toNat % 4 = 0 :=
  ⟨live.setGlob { live.glob with lifecycle := 0 }, by decide +kernel⟩
/-- CRC-32C of the nine characters 1 to 9. -/
theorem test_crc : crc32c ((List.range 9).map (fun k => BitVec.ofNat 8 (0x31 + k))) = 0xE3069283 := by decide +kernel

end Sys2Proof.Tests
end

/-! PROOFS of the statements of 02_block_boundary.md: resets, flags and read pointers (O58, O55). -/

namespace Sys2Proof.Machine

/-! ## COLD_RESET (02, Resets) -/

theorem reset_adminOf (c : Fin 4) : State.reset.adminOf c = {} := by
  match c with | 0 => rfl | 1 => rfl | 2 => rfl | 3 => rfl

theorem reset_ctxOf (c : Fin 4) : State.reset.ctxOf c = {} := by
  match c with | 0 => rfl | 1 => rfl | 2 => rfl | 3 => rfl

/-- Settles O58: a cold reset starts from the reset state and takes over what lies outside it; the lifecycle is read from the fuses. -/
theorem coldResetKeepsTheJournalAndFuses : Obligations.ColdResetKeepsTheJournalAndFuses := by
  intro s
  refine ⟨s.coldReset, rfl, rfl, rfl, rfl, rfl, fun h => ?_, fun h => ?_, rfl, rfl, rfl, rfl, rfl, rfl, rfl, rfl, rfl, rfl,
    fun c => ⟨reset_adminOf c, reset_ctxOf c⟩⟩
  · exact if_neg fun hb => h (of_decide_eq_true (Bool.and_eq_true_iff.1 hb).1)
  · simp [State.coldReset, h]

/-! ## ARRIVAL_FLAG -/

/-- A flag of good parity in a live context stores a number that is ahead of the entry. -/
theorem State.arrivalFlag_of_ahead {s : State} {c : Fin 4} {i : BitVec 12} {q : BitVec 16} (hl : (s.adminOf c).state = .live)
    (hne : q ≠ (s.ctxOf c).arrivals.get i.toNat 0#16) (hq : reached q ((s.ctxOf c).arrivals.get i.toNat 0#16) = true) :
    ∃ a e, s.arrivalFlag c i q true =
      s.setCtx c { s.ctxOf c with arrivals := (s.ctxOf c).arrivals.set i.toNat q, access := a, exec := e } := by
  simp only [State.arrivalFlag, hl, hne, hq, Bool.not_true, Bool.false_eq_true, ne_eq, not_true_eq_false, decide_false, Bool.or_self, if_false]
  exact ⟨_, _, rfl⟩

/-- … and drops one already reached. -/
theorem State.arrivalFlag_of_reached {s : State} {c : Fin 4} {i : BitVec 12} {q : BitVec 16} (hl : (s.adminOf c).state = .live)
    (hq : q = (s.ctxOf c).arrivals.get i.toNat 0#16 ∨ reached q ((s.ctxOf c).arrivals.get i.toNat 0#16) = false) :
    s.arrivalFlag c i q true = s := by
  rcases hq with hq | hq <;> simp [State.arrivalFlag, hl, hq]

theorem State.arrivalFlag_discards {s : State} {c : Fin 4} {i : BitVec 12} {q : BitVec 16} {ok : Bool}
    (h : ¬(ok = true ∧ (s.adminOf c).state = .live)) : s.arrivalFlag c i q ok = s.discardFlag c (if ok then 2 else 0) := by
  cases ok with
  | false => simp [State.arrivalFlag]
  | true =>
    have : (s.adminOf c).state ≠ .live := fun hl => h ⟨rfl, hl⟩
    simp [State.arrivalFlag, this]

/-! ## FAULT_RING_RD_WRITE (R483) -/

theorem FaultRing.setRd_within {f : FaultRing} {rd : BitVec 8} (h : (rd - f.rd).toNat ≤ f.unread.toNat) :
    (f.setRd rd).rd = rd ∧ (f.setRd rd).unread.toNat = f.unread.toNat - (rd - f.rd).toNat := by
  have hn := (rd - f.rd).isLt
  have he : f.setRd rd = { f with rd := rd, unread := f.unread - BitVec.ofNat 9 (rd - f.rd).toNat } := if_neg (Nat.not_lt.2 h)
  rw [he]
  refine ⟨rfl, ?_⟩
  rw [BitVec.toNat_sub_of_le]
  · rw [BitVec.toNat_ofNat, Nat.mod_eq_of_lt (by omega)]
  · rw [BitVec.le_def, BitVec.toNat_ofNat, Nat.mod_eq_of_lt (by omega)]
    exact h

theorem FaultRing.setRd_beyond {f : FaultRing} {rd : BitVec 8} (h : f.unread.toNat < (rd - f.rd).toNat) :
    f.setRd rd = { f with rd := f.wr, unread := 0 } := if_pos h

theorem FaultRing.setRd_keeps (f : FaultRing) (rd : BitVec 8) : (f.setRd rd).wr = f.wr ∧ (f.setRd rd).records = f.records := by
  unfold FaultRing.setRd
  simp only []
  split <;> exact ⟨rfl, rfl⟩

/-! ## TEST_REQ (R65) -/

theorem testAccess_opens (l : BitVec 2) : ((testAccess l).wrappers = true ↔ l ≠ 1) ∧ ((testAccess l).instruments = true ↔ l ≠ 1) := by
  revert l; decide

/-- Bit 5 of IRQ_CAUSE is the request of the test network (21). -/
theorem State.irqCause_testReq {s : State} (h : s.glob.testReq = true) : s.irqCause.getLsbD 5 = true := by
  have e : ∀ (b0 b1 b2 b3 b4 : Bool) (h : BitVec 4), (packBits [(0, 1, b2n b0), (1, 1, b2n b1), (2, 1, b2n b2), (3, 1, b2n b3), (4, 1, b2n b4),
      (5, 1, b2n true), (8, 4, h.toNat)]).getLsbD 5 = true := by
    decide
  simp only [State.irqCause, h]
  exact e ..

/-- Settles O55, by the cases of each row: a flag is stored, dropped or discarded; RD stays within UNREAD or reaches WR. -/
theorem flagsReadPointersAndPins : Obligations.FlagsReadPointersAndPins := by
  refine ⟨fun c i q ok s => ⟨?_, ?_, ?_⟩, fun rd s hu => ?_, fun s => ?_, fun id s => ⟨rfl, rfl⟩⟩
  · rintro ⟨rfl, hl⟩ ⟨hne, hq⟩
    obtain ⟨a, e, h⟩ := State.arrivalFlag_of_ahead hl hne (decide_eq_true hq)
    refine ⟨_, congrArg Host.Outcome.next h, ?_, ?_, fun k hk => ?_⟩
    · rw [State.OnlyCtx, State.setCtx_ctxOf_self]
    · rw [State.setCtx_ctxOf_self]
      exact Table.get_set_self ..
    · rw [State.setCtx_ctxOf_self]
      exact Table.get_set_ne _ _ _ hk
  · rintro ⟨rfl, hl⟩ ha
    refine congrArg Host.Outcome.next (State.arrivalFlag_of_reached hl ?_)
    by_cases hq : q = (s.ctxOf c).arrivals.get i.toNat 0#16
    · exact .inl hq
    · exact .inr (decide_eq_false fun h => ha ⟨hq, h⟩)
  · intro h
    exact congrArg Host.Outcome.next (State.arrivalFlag_discards h)
  · obtain ⟨hw, hr⟩ := s.ring.setRd_keeps rd
    refine ⟨_, rfl, rfl, hw, hr, FaultRing.setRd_within, fun h => ?_⟩
    simp [FaultRing.setRd_beyond h]
  · exact ⟨_, rfl, rfl, State.irqCause_testReq rfl, rfl, testAccess_opens _⟩
end Sys2Proof.Machine

/-! PROOFS of the statements of 02_block_boundary.md: doorbells and fetch reads (O6). -/

namespace Sys2Proof.Machine

/-! ## Doorbells and fetch reads (R40 to R43) -/

theorem State.runs_pageOpen {s : State} {c : Fin 4} (h : s.runs c = true) : s.pageOpen c = true := by
  simp [State.pageOpen, ((s.runs_iff c).1 h).1]

theorem State.runs_inBeat {s : State} {c : Fin 4} (h : s.runs c = true) : s.inBeat c = true := by
  simp [State.inBeat, h]

/-- A halt that no bundle caused begins the halt of a context that runs, with the cause's own code, slot and DETAIL. -/
theorem State.raiseBare_halts (s : State) {c : Fin 4} (q : Cause) (h : s.runs c = true) :
    s.Halts (s.raiseBare c q) c { q with tag := (s.ctxOf c).oldestBundle.1, addr := (s.ctxOf c).oldestBundle.2 } :=
  s.raise_halts _ h

@[simp] theorem Span.perf_reads (x : Span) (e n : Nat) : (x.perf e n).reads = x.reads := by unfold Span.perf; split <;> rfl
@[simp] theorem Span.perf_writes (x : Span) (e n : Nat) : (x.perf e n).writes = x.writes := by unfold Span.perf; split <;> rfl
@[simp] theorem Span.perf_accesses (x : Span) (e n : Nat) : (x.perf e n).accesses = x.accesses := by unfold Span.perf; split <;> rfl

/-- A record of three fields. -/
theorem pack_three (a m u b n v d o w : Nat) : pack [(a, m, u), (b, n, v), (d, o, w)] =
    u % 256 ^ m * 256 ^ a + v % 256 ^ n * 256 ^ b + w % 256 ^ o * 256 ^ d := by
  simp only [pack, List.foldl, Nat.zero_add]

theorem domainDetail_eq {window role : Nat} (address : Nat) (hw : window < 256) (hr : role < 256) :
    domainDetail window role address = window + 256 * role + 256 ^ 8 * (address % 256 ^ 8) := by
  rw [domainDetail, pack_three, Nat.pow_one, Nat.pow_zero, Nat.mul_one, Nat.mod_eq_of_lt hw, Nat.mod_eq_of_lt hr, Nat.mul_comm role,
    Nat.mul_comm (address % _)]

/-- The bundles that the next fetch read of a list asks for: up to the end of its 512 B block (R42). -/
def CmdList.fetchable (l : CmdList) : Nat := min l.left (8 - l.base / 64 % 8)

/-- A context that may fetch: it runs, no read is outstanding, and its buffer and its queues have room (R42). -/
structure State.MayFetch (s : State) (c : Fin 4) : Prop where
  runs : s.runs c = true
  fetch : (s.ctxOf c).fetch = none
  buffer : (s.ctxOf c).buffer.length ≤ 8
  access : (s.ctxOf c).access.queue.length < 512
  exec : (s.ctxOf c).exec.queue.length < 512

section
variable {s : State} {c : Fin 4} {l : CmdList} {ls : List CmdList} {span : Nat}

theorem State.listFetch_inside {tag : Nat} (h : s.MayFetch c) (hl : (s.ctxOf c).lists = l :: ls) (hs : s.lowestSpan c = some span)
    (ht : (s.spanOf span).freeTag = some tag)
    (hw : s.inWindow c l.window.toNat l.base (l.base + 64 * l.fetchable - 1 : Nat) false = true) :
    s.listFetch c =
      (s.setSpan span (((s.spanOf span).perf 0x08 1).sendRead tag
        ⟨c.val, none, s.spanBeat span, 0, l.base, (l.base + 64 * l.fetchable - 1 : Nat), 0⟩)).setCtx c
        { s.ctxOf c with fetch := some ⟨l.base, l.fetchable, l.window, span, tag, s.spanBeat span, false⟩ } := by
  have hb := State.runs_inBeat h.runs
  unfold CmdList.fetchable at *
  have := h.access
  have := h.exec
  have := h.buffer
  simp only [State.listFetch, hl, hs, hb, h.fetch, hw, ht]
  rw [if_neg (by simp; omega)]
  rfl

theorem State.listFetch_outside (h : s.MayFetch c) (hl : (s.ctxOf c).lists = l :: ls) (hs : s.lowestSpan c = some span)
    (hw : s.inWindow c l.window.toNat l.base (l.base + 64 * l.fetchable - 1 : Nat) false = false) :
    s.listFetch c = s.raiseBare c { code := 0x0901, detail := domainDetail l.window.toNat 3 l.base } := by
  have hb := State.runs_inBeat h.runs
  unfold CmdList.fetchable at hw
  have := h.access
  have := h.exec
  have := h.buffer
  simp only [State.listFetch, hl, hs, hb, h.fetch, hw]
  rw [if_neg (by simp; omega)]
  rfl

end

/-- Settles O6: the doorbell's three answers, and the fetch read inside its window and outside it. -/
theorem listsAreQueuedAndFetched : Obligations.ListsAreQueuedAndFetched := by
  refine ⟨fun c n s hn hr hlen => ?_, fun c n s hn ho h => ?_, fun c n s h => ?_, fun c s l ls span tag hr hl hf hb ha he hs ht => ?_,
    fun c s l ls span hr hl hf hb ha he hs => ?_⟩
  · show Host.Outcome.next (s.doorbell c n) = _
    simp only [State.doorbell, State.runs_pageOpen hr, hr, hn, hlen, Nat.mul_comm 64]
    simp
  · show Host.Outcome.next (s.doorbell c n) = _
    simp only [State.doorbell, ho, hn]
    rw [if_neg (by simp), if_neg (by rcases h with h | h <;> simp [h])]
  · show Host.Outcome.next (s.doorbell c n) = _
    unfold State.doorbell
    rw [if_pos (by rcases h with h | h <;> simp [h])]
  · intro k hi hw
    refine ⟨_, congrArg Host.Outcome.next (State.listFetch_inside ⟨hr, hf, hb, ha, he⟩ hl hs ht hw), ?_, ?_, ?_, ?_, ?_, ?_, ?_, ?_⟩
    · exact State.setCtx_ctxOf_self ..
    · simp only [State.setCtx_spanOf, State.setSpan_spanOf_self, Span.sendRead, Span.perf_reads, Span.perf_accesses]
      rfl
    · simp [Span.sendRead]
    · simp [Span.sendRead]
    · exact fun d hd => State.setCtx_ctxOf_ne _ _ hd
    · exact fun n hn => State.setSpan_spanOf_ne _ _ hn
    · rfl
    · rfl
  · intro k hw
    have h := State.listFetch_outside ⟨hr, hf, hb, ha, he⟩ hl hs hw
    exact ⟨_, _, congrArg Host.Outcome.next h, s.raiseBare_halts _ hr, rfl, rfl, domainDetail_eq _ (by omega) (by omega)⟩
end Sys2Proof.Machine

/-! PROOFS of the statements of 02_block_boundary.md: the context reset (O48). -/

namespace Sys2Proof.Machine

/-! ## What a context reset leaves alone (R58, R444) -/

/-- `t` differs from `s` in nothing but context `c` and the global registers. -/
def State.OnlyCtxGlob (s t : State) (c : Fin 4) : Prop := ∃ x g, t = (s.setCtx c x).setGlob g

theorem State.OnlyCtxGlob.refl (s : State) (c : Fin 4) : s.OnlyCtxGlob s c := ⟨s.ctxOf c, s.glob, by rw [setCtx_same]; rfl⟩

theorem State.OnlyCtxGlob.trans {s t u : State} {c : Fin 4} (h : s.OnlyCtxGlob t c) (k : t.OnlyCtxGlob u c) : s.OnlyCtxGlob u c := by
  obtain ⟨x, g, rfl⟩ := h
  obtain ⟨y, g', rfl⟩ := k
  exact ⟨y, g', by rw [← State.setCtx_setCtx s c x y]; rfl⟩

theorem State.OnlyCtxGlob.foldl {α : Type} {c : Fin 4} {f : State → α → State} (h : ∀ (s : State) a, s.OnlyCtxGlob (f s a) c) (l : List α) (s : State) :
    s.OnlyCtxGlob (l.foldl f s) c :=
  List.foldlRecOn (motive := fun t => s.OnlyCtxGlob t c) l f (.refl s c) fun t ht a _ => ht.trans (h t a)

theorem State.sendFrame_onlyCtxGlob (s : State) (port : Nat) (f : BitVec 256) (c : Fin 4) : s.OnlyCtxGlob (s.sendFrame port f) c :=
  ⟨s.ctxOf c, _, by rw [setCtx_same]; rfl⟩

theorem State.sendControl_onlyCtxGlob (s : State) (c : Fin 4) (ch kind round row edge : Nat) (w : Word) (port : Nat) :
    s.OnlyCtxGlob (s.sendControl c ch kind round row edge w port) c := by
  have h : ∀ x : Ctx, s.OnlyCtxGlob (s.setCtx c x) c := fun x => ⟨x, s.glob, rfl⟩
  exact (h _).trans (.foldl (fun t f => t.sendFrame_onlyCtxGlob port f c) _ _)

/-- The ABORTs of a context that stops go out over the ports and use its channels' sequence numbers; nothing else moves (R404). -/
theorem State.abortRounds_onlyCtxGlob (s : State) (c : Fin 4) (code : Nat) (but : Option (Nat × Nat)) :
    s.OnlyCtxGlob (s.abortRounds c code but) c :=
  .foldl (fun _ _ => .foldl (fun _ _ => .foldl (fun t _ => t.sendControl_onlyCtxGlob ..) _ _) _ _) _ _

/-- What a context's stop leaves to the host: the shared cache, the administration and the contexts. -/
def State.outer (s : State) : Memory × Four Admin × Four Ctx := (s.mem, s.admin, s.ctx)

theorem State.foldl_outer {α : Type} {f : State → α → State} (h : ∀ s a, (f s a).outer = s.outer) (l : List α) (s : State) :
    (l.foldl f s).outer = s.outer :=
  List.foldlRecOn (motive := fun t => t.outer = s.outer) l f rfl fun t ht a _ => (h t a).trans ht

theorem State.wasBusy_outer (s : State) (c : Fin 4) : (s.wasBusy c).outer = s.outer := State.foldl_outer (fun t n => (rfl : (t.busyNow n).outer = t.outer)) _ _

theorem State.dropWrites_outer (s : State) (gone : PierWrite → Bool) : (s.dropWrites gone).outer = s.outer :=
  State.foldl_outer (fun t n => by simp only []; split <;> rfl) _ _

theorem State.absorb_outer (s : State) (n : Nat) (q : Cause) : (s.absorb n q).outer = s.outer := by
  simp [State.outer]

theorem State.swapDue_outer (s : State) (core : Nat) : (s.swapDue core).outer = s.outer := by
  unfold State.swapDue
  simp only []
  split
  · rfl
  · exact State.foldl_outer (fun t l => t.absorb_outer ..) _ _

theorem State.dropHeld_outer (s : State) (c : Fin 4) : (s.dropHeld c).outer = s.outer := by
  unfold State.dropHeld
  rw [State.foldl_outer State.swapDue_outer, State.dropWrites_outer]
  exact s.wasBusy_outer c

/-- `t` differs from `s` in nothing but the power caps of spans. -/
def State.OnlyCaps (s t : State) : Prop :=
  t = { s with spans := t.spans } ∧ ∀ n, t.spanOf n = { s.spanOf n with cap := (t.spanOf n).cap, capWas := (t.spanOf n).capWas }

theorem State.OnlyCaps.refl (s : State) : s.OnlyCaps s := ⟨rfl, fun _ => rfl⟩

theorem State.OnlyCaps.trans {s t u : State} (h : s.OnlyCaps t) (k : t.OnlyCaps u) : s.OnlyCaps u := by
  obtain ⟨h, hs⟩ := h
  obtain ⟨k, ks⟩ := k
  refine ⟨by rw [k, h], fun n => ?_⟩
  rw [ks n, hs n]

theorem State.OnlyCaps.foldl {α : Type} {f : State → α → State} (h : ∀ (s : State) a, s.OnlyCaps (f s a)) (l : List α) (s : State) :
    s.OnlyCaps (l.foldl f s) :=
  List.foldlRecOn (motive := fun t => s.OnlyCaps t) l f (.refl s) fun t ht a _ => ht.trans (h t a)

/-- A new cap of one span. -/
theorem State.onlyCaps_setSpan (s : State) (p : Nat) (cap : BitVec 9) (was : Option (Nat × BitVec 9)) :
    s.OnlyCaps (s.setSpan p { s.spanOf p with cap := cap, capWas := was }) := by
  refine ⟨rfl, fun n => ?_⟩
  by_cases h : n = p
  · subst h
    rw [State.setSpan_spanOf_self]
  · rw [State.setSpan_spanOf_ne s _ h]

/-- A change of the shares writes caps and nothing else (R439, R471). -/
theorem State.writeCaps_onlyCaps (s : State) : s.OnlyCaps s.writeCaps := by
  refine .foldl (fun t c => .foldl (fun u p => ?_) _ _) _ _
  simp only []
  split
  · exact .refl u
  · exact u.onlyCaps_setSpan ..

theorem State.writeCaps_outer (s : State) : s.writeCaps.outer = s.outer := by
  rw [s.writeCaps_onlyCaps.1]; rfl


/-- Both ends of a context's work: its streams, lists and halt are gone and its tiles dropped, in a new state of the context. -/
theorem State.stopped_outer (s : State) (c : Fin 4) (a : Admin) :
    ((((s.setAdmin c a).setCtx c (s.ctxOf c).stop).dropHeld c).writeCaps).outer = (s.mem, s.admin.set c a, s.ctx.set c (s.ctxOf c).stop) := by
  rw [State.writeCaps_outer, State.dropHeld_outer]; rfl

/-- CONTEXT_RESET where it is taken. -/
theorem State.contextReset_outer {s : State} {c : Fin 4} (h : (s.adminOf c).state = .live ∨ (s.adminOf c).state = .halted) :
    ∃ x : Ctx, (s.contextReset c).outer = (s.mem, s.admin.set c { s.adminOf c with state := .resetting }, s.ctx.set c x.stop) := by
  obtain h | h := h
  · obtain ⟨x, g, he⟩ := s.abortRounds_onlyCtxGlob c 0 none
    refine ⟨x, ?_⟩
    simp only [State.contextReset, h, if_true, he, State.stopped_outer]
    simp [State.setCtx, State.ctxOf, State.setGlob]
  · refine ⟨s.ctxOf c, ?_⟩
    simp only [State.contextReset, h, reduceCtorEq, if_false, State.stopped_outer]

theorem State.contextReset_refused {s : State} {c : Fin 4} (hl : (s.adminOf c).state ≠ .live) (hh : (s.adminOf c).state ≠ .halted) :
    s.contextReset c = s.refuseCtl c := by
  unfold State.contextReset
  cases h : (s.adminOf c).state <;> simp_all

/-! ## RESET_COMPLETE -/

/-- A reset complete is a zeroised context, live again, on zeroised crews; then the caps. -/
theorem State.resetComplete_eq {s : State} {c : Fin 4} (h : (s.adminOf c).state = .resetting) :
    s.resetComplete c = (((s.zeroCrews (crewsOf (s.adminOf c).owned)).setCtx c (s.ctxOf c).resetState).setAdmin c
      { s.adminOf c with state := .live, drain := false }).writeCaps := if_pos h

/-- A filtered table still finds an entry that it keeps. -/
theorem Table.find_filter_of_find {α : Type} {p : Nat × α → Bool} {k : Nat} {v : α} {t : Table α} (h : t.find k = some v) (hp : p (k, v) = true) :
    Table.find k (t.filter p) = some v := by
  induction t with
  | nil => cases h
  | cons e t ih =>
    obtain ⟨j, u⟩ := e
    by_cases hj : j = k
    · subst hj
      simp only [Table.find, if_true, Option.some.injEq] at h
      subst h
      simp [hp, Table.find]
    · have hlt : ¬k < j := fun hlt => by simp [Table.find, hj, hlt] at h
      simp only [Table.find, hj, hlt, if_false] at h
      by_cases hpj : p (j, u) = true
      · simpa [List.filter_cons, hpj, Table.find, hj, hlt] using ih h
      · simpa [List.filter_cons, hpj] using ih h

/-- A table whose values are replaced finds the replaced value. -/
theorem Table.find_map {α β : Type} (f : α → β) (k : Nat) (t : Table α) :
    Table.find k (t.map fun e => (e.1, f e.2)) = (t.find k).map f := by
  induction t with
  | nil => rfl
  | cons e t ih =>
    obtain ⟨j, u⟩ := e
    simp only [List.map_cons, Table.find]
    split
    · rfl
    · split
      · rfl
      · exact ih

/-- Every bay is OFF after a context reset, and one that was REFUSED still is (R173, R545). -/
theorem Ctx.resetState_bay (x : Ctx) (n : Nat) : (x.resetState.bay n).cfg = 0 ∧ (x.resetState.bay n).pending = false ∧
    ((x.bay n).refused = true → (x.resetState.bay n).refused = true) := by
  have hb : x.resetState.bay n = ((Table.find n (x.bays.filter fun e => e.2.refused)).map fun _ => { refused := true }).getD {} :=
    congrArg (fun b : Option Bay => b.getD {}) (Table.find_map (fun _ : Bay => ({ refused := true } : Bay)) n _)
  rw [hb]
  refine ⟨?_, ?_, fun h => ?_⟩
  · cases Table.find n (x.bays.filter fun e => e.2.refused) <;> rfl
  · cases Table.find n (x.bays.filter fun e => e.2.refused) <;> rfl
  · cases hf : x.bays.find n with
    | none => simp [Ctx.bay, Table.get, hf] at h
    | some b =>
      have hr : b.refused = true := by simpa [Ctx.bay, Table.get, hf] using h
      rw [Table.find_filter_of_find hf hr]
      rfl

/-- A crew that is zeroised has an empty operand cache, whatever else is zeroised after it. -/
theorem State.zeroCrews_oc {s : State} {k : Nat} {l : List Nat} (h : k ∈ l) : ((s.zeroCrews l).crewOf k).oc = [] := by
  have key : ∀ (l : List Nat) (t : Table Crew), k ∈ l ∨ (t.get k {}).oc = [] →
      ((l.foldl (fun t k => t.set k (Crew.zero (t.get k {}) (s.spanBeat (crewSpan k)))) t).get k {}).oc = [] := by
    intro l
    induction l with
    | nil => exact fun t h => h.resolve_left (by simp)
    | cons j l ih =>
      intro t h
      refine ih _ ?_
      by_cases hj : k = j
      · subst hj
        exact .inr (by rw [Table.get_set_self]; rfl)
      · rw [Table.get_set_ne _ _ _ hj]
        exact h.imp_left fun h => (List.mem_cons.1 h).resolve_left hj
  exact key l s.crews (.inl h)

theorem mem_crewsOf {mask : BitVec 16} {k : Nat} (h : k / 16 < 16) (hb : mask.getLsbD (k / 16) = true) : k ∈ crewsOf mask := by
  refine List.mem_flatMap.2 ⟨k / 16, List.mem_filter.2 ⟨List.mem_range.2 h, hb⟩, List.mem_map.2 ⟨k % 16, ?_, by omega⟩⟩
  exact List.mem_range.2 (Nat.mod_lt _ (by omega))

/-- Settles O48: what the stop of a context leaves alone, and the zeroised context and crews that RESET_COMPLETE puts there. -/
theorem contextResetKeepsOwnership : Obligations.ContextResetKeepsOwnership := by
  intro c s
  refine ⟨fun h => ?_, fun hl hh => ?_, fun h => ?_⟩
  · obtain ⟨x, hx⟩ := State.contextReset_outer h
    obtain ⟨hm, ha, hc⟩ : _ ∧ _ ∧ _ := by simpa only [State.outer, Prod.mk.injEq] using hx
    have hcc : (s.contextReset c).ctxOf c = x.stop := by simp [State.ctxOf, hc]
    refine ⟨s.contextReset c, rfl, ?_⟩
    rw [hcc]
    refine ⟨hm, by simp [State.adminOf, ha], rfl, rfl, rfl, rfl, fun d hd => ?_⟩
    simp only [State.ctxOf, hc, Four.get_set_ne _ _ hd]
  · exact congrArg Host.Outcome.next (State.contextReset_refused hl hh)
  · obtain ⟨hw, hcap⟩ := State.writeCaps_onlyCaps (((s.zeroCrews (crewsOf (s.adminOf c).owned)).setCtx c (s.ctxOf c).resetState).setAdmin c
      { s.adminOf c with state := .live, drain := false })
    rw [← State.resetComplete_eq h] at hw hcap
    have hc : (s.resetComplete c).ctxOf c = (s.ctxOf c).resetState := by rw [hw]; exact State.setCtx_ctxOf_self ..
    refine ⟨s.resetComplete c, rfl, ?_⟩
    rw [hc]
    refine ⟨?_, hcap, ?_, fun d hd => ⟨?_, ?_⟩, rfl, rfl, rfl, rfl, Ctx.resetState_bay _, rfl, rfl, rfl, fun k hk ho => ?_⟩
    · rw [hw]; rfl
    · rw [hw]; exact State.setAdmin_adminOf_self ..
    · rw [hw]; exact State.setAdmin_adminOf_ne _ _ hd
    · rw [hw]; exact State.setCtx_ctxOf_ne _ _ hd
    · rw [hw]; exact State.zeroCrews_oc (mem_crewsOf hk ho)
end Sys2Proof.Machine

/-! PROOFS of the statements of 02_block_boundary.md: thermal readings and power steps (O41). -/

namespace Sys2Proof.Machine

/-! ## Updates of many spans -/

/-- `t` differs from `s` in nothing but spans. -/
def State.OnlySpans (s t : State) : Prop := ∃ x, t = { s with spans := x }

/-- A row of updates, each of one span, touches nothing but spans. -/
theorem State.foldl_onlySpans {f : State → Nat → State} (hf : ∀ (s : State) p, s.OnlySpan (f s p) p) (l : List Nat) (s : State) :
    s.OnlySpans (l.foldl f s) := by
  refine List.foldlRecOn (motive := s.OnlySpans) l f ⟨s.spans, rfl⟩ fun t ht p _ => ?_
  obtain ⟨x, rfl⟩ := ht
  exact ⟨_, hf _ p⟩

theorem State.foldl_spanOf_of_notMem {f : State → Nat → State} (hf : ∀ (s : State) p, s.OnlySpan (f s p) p) {l : List Nat} {n : Nat} (s : State)
    (h : n ∉ l) : (l.foldl f s).spanOf n = s.spanOf n := by
  refine List.foldlRecOn (motive := fun t => t.spanOf n = s.spanOf n) l f rfl fun t ht p hp => ?_
  have hne : n ≠ p := fun e => h (e ▸ hp)
  rw [hf t p, State.setSpan_spanOf_ne _ _ hne, ht]

/-- Each span of the row is updated once, while it still is as before the row. -/
theorem State.foldl_spanOf_of_mem {f : State → Nat → State} (hf : ∀ (s : State) p, s.OnlySpan (f s p) p) {l : List Nat} {n : Nat} (hl : l.Nodup)
    (h : n ∈ l) (s : State) :
    ∃ u : State, s.OnlySpans u ∧ u.spanOf n = s.spanOf n ∧ (l.foldl f s).spanOf n = (f u n).spanOf n := by
  obtain ⟨l₁, l₂, rfl⟩ := List.append_of_mem h
  have hn := List.nodup_middle.1 hl |>.notMem
  refine ⟨l₁.foldl f s, State.foldl_onlySpans hf l₁ s, State.foldl_spanOf_of_notMem hf s fun h => hn (List.mem_append_left _ h), ?_⟩
  rw [List.foldl_append, List.foldl_cons, State.foldl_spanOf_of_notMem hf _ fun h => hn (List.mem_append_right _ h)]

/-! ## The count of span beats (R4) -/

/-- What a span's beat count is computed from. -/
def Span.clock (x : Span) : Nat × Nat × Nat × Nat := (x.beats, x.frac, x.since, x.rate)

theorem Span.beatAt_of_clock {x y : Span} (h : x.clock = y.clock) (b : Nat) : x.beatAt b = y.beatAt b := by
  obtain ⟨hb, hf, hs, hr⟩ : _ ∧ _ ∧ _ ∧ _ := by simpa only [Span.clock, Prod.mk.injEq] using h
  rw [Span.beatAt, Span.beatAt, hb, hf, hs, hr]

/-- Fixing the count keeps it at that beat, whatever the rate then becomes. -/
theorem Span.govern_beatAt (x : Span) (b mode : Nat) : (x.govern b mode).beatAt b = x.beatAt b := by
  have hu : 0 < beatUnit := by decide
  show (x.rebase b).beats + ((x.rebase b).frac + (b - b) * _) / beatUnit = _
  rw [Nat.sub_self, Nat.zero_mul, Nat.add_zero]
  show _ + (x.frac + (b - x.since) * x.rate) % beatUnit / beatUnit = _
  rw [Nat.div_eq_of_lt (Nat.mod_lt _ hu)]
  rfl

/-! ## Junction readings (R63) -/

/-- A reading that counts: in range, and within 10 degrees of the reading before it. -/
def Sensor.Valid (old : Sensor) (r : Int) : Prop := -80 ≤ r ∧ r ≤ 300 ∧ ∀ p, old.previous = some p → r - p ≤ 20 ∧ p - r ≤ 20

theorem senseOne_of_valid {old : Sensor} {r : Int} (h : old.Valid r) :
    senseOne old r = (true, { old with valid := some r, previous := some r, discards := 0 }) := by
  obtain ⟨hlo, hhi, hp⟩ := h
  cases hq : old.previous with
  | none => simp only [senseOne, hq, hlo, hhi, decide_true, Bool.and_self, if_true]
  | some p =>
    obtain ⟨h1, h2⟩ := hp p hq
    simp only [senseOne, hq, hlo, hhi, h1, h2, decide_true, Bool.and_self, if_true]

theorem senseOne_of_not_valid {old : Sensor} {r : Int} (h : ¬old.Valid r) :
    senseOne old r = (false, { old with previous := some r, discards := old.discards + 1, failed := old.failed || decide (old.discards + 1 ≥ 2) }) := by
  have hc : ¬(-80 ≤ r ∧ r ≤ 300 ∧ ∀ p, old.previous = some p → r - p ≤ 20 ∧ p - r ≤ 20) := h
  refine if_neg fun hb => hc ?_
  simp only [Bool.and_eq_true, decide_eq_true_eq] at hb
  obtain ⟨⟨hlo, hhi⟩, hn⟩ := hb
  refine ⟨hlo, hhi, fun p hp => ?_⟩
  simpa [hp] using hn

@[simp] theorem Span.thermStep_sensors (x : Span) (temp : Int) (beat : Nat) : (x.thermStep temp beat).sensors = x.sensors := by
  unfold Span.thermStep
  simp only []
  repeat' split
  all_goals rfl

@[simp] theorem Span.govern_sensors (x : Span) (beat mode : Nat) : (x.govern beat mode).sensors = x.sensors := rfl

/-! ## Halts of the whole block (R476) -/

theorem FaultRing.push_seq (f : FaultRing) (r : BitVec 512) : (f.push r).seq = f.seq + 1 := by
  unfold FaultRing.push
  simp only []
  split <;> rfl

/-- A row of raises leaves a context out that it does not name. -/
theorem State.raiseEach_ctxOf_ne (p : Fin 4 → Bool) (q : Cause) {l : List (Fin 4)} {d : Fin 4} (h : d ∉ l) (s : State) :
    (l.foldl (fun u c => if p c then u.raiseBare c q else u) s).ctxOf d = s.ctxOf d := by
  refine List.foldlRecOn (motive := fun t : State => t.ctxOf d = s.ctxOf d) l _ rfl fun t ht c hc => ?_
  have hne : d ≠ c := fun e => h (e ▸ hc)
  split
  · rw [State.raiseBare_ctxOf_ne t q hne, ht]
  · exact ht

theorem State.raiseEach_admin (p : Fin 4 → Bool) (q : Cause) (l : List (Fin 4)) (s : State) :
    (l.foldl (fun u c => if p c then u.raiseBare c q else u) s).admin = s.admin :=
  List.foldlRecOn (motive := fun t : State => t.admin = s.admin) l _ rfl fun t ht c _ => by
    split
    · rw [State.raiseBare_admin, ht]
    · exact ht

theorem State.raiseEach_ring (p : Fin 4 → Bool) (q : Cause) (l : List (Fin 4)) (s : State) :
    (l.foldl (fun u c => if p c then u.raiseBare c q else u) s).ring = s.ring :=
  List.foldlRecOn (motive := fun t : State => t.ring = s.ring) l _ rfl fun t ht c _ => by
    split
    · rw [State.raiseBare_ring, ht]
    · exact ht

/-- One block record. -/
theorem State.raiseAll_seq (s : State) (p : Fin 4 → Bool) (q : Cause) : (s.raiseAll p q).ring.seq = s.ring.seq + 1 := by
  obtain ⟨r, h⟩ := State.raiseAll_eq s p q
  rw [h, State.raiseEach_ring, State.ringWrite_ring, FaultRing.push_seq]

/-- Every named context that runs begins its halt. -/
theorem State.raiseAll_halts {s : State} {p : Fin 4 → Bool} {c : Fin 4} (q : Cause) (hp : p c = true) (hr : s.runs c = true) :
    ∃ h, ((s.raiseAll p q).ctxOf c).halt = some h ∧ h.code = q.code := by
  obtain ⟨r, he⟩ := State.raiseAll_eq s p q
  obtain ⟨l₁, l₂, hl⟩ := List.append_of_mem ((by decide : ∀ c : Fin 4, c ∈ allCtx) c)
  have hd : (l₁ ++ c :: l₂).Nodup := hl ▸ (by decide : allCtx.Nodup)
  have hn := (List.nodup_middle.1 hd).notMem
  rw [he, hl, List.foldl_append, List.foldl_cons, State.raiseEach_ctxOf_ne p q fun h => hn (List.mem_append_right _ h), if_pos hp]
  have hu : (l₁.foldl (fun u c => if p c then u.raiseBare c q else u) (s.ringWrite r)).runs c = true := by
    have hr' := (s.runs_iff c).1 hr
    rw [State.runs_iff, State.raiseEach_ctxOf_ne p q fun h => hn (List.mem_append_left _ h), State.adminOf, State.raiseEach_admin,
      State.ringWrite_ctxOf, State.ringWrite_admin]
    exact hr'
  rw [show _ = _ from State.raiseBare_halts _ q hu, State.setCtx_ctxOf_self]
  exact ⟨_, rfl, rfl⟩

/-! ## THERMAL_SAMPLE (R63, R64) -/

theorem putBit_getLsbD {w : Nat} (v : BitVec w) {n : Nat} (h : n < w) : (putBit v n true).getLsbD n = true := by
  rw [putBit, if_pos rfl, BitVec.getLsbD_or, BitVec.getLsbD_ofNat, Nat.testBit_two_pow_self]
  simp [h]

/-- The regulator of a span goes off. -/
def State.regulatorOff (s : State) (p : Nat) : State := s.setSpan p { s.spanOf p with regulatorOn := false }

theorem State.regulatorOff_onlySpan (s : State) (p : Nat) : s.OnlySpan (s.regulatorOff p) p := by
  rw [State.OnlySpan, State.regulatorOff, State.setSpan_spanOf_self]

/-- Every regulator goes off (R64). -/
def State.regulatorsOff (s : State) : State := (List.range 16).foldl State.regulatorOff s

theorem State.regulatorsOff_onlySpans (s : State) : s.OnlySpans s.regulatorsOff := State.foldl_onlySpans State.regulatorOff_onlySpan _ s

@[simp] theorem State.regulatorsOff_mem (s : State) : s.regulatorsOff.mem = s.mem := by
  obtain ⟨x, h⟩ := s.regulatorsOff_onlySpans; rw [h]

@[simp] theorem State.regulatorsOff_ring (s : State) : s.regulatorsOff.ring = s.ring := by
  obtain ⟨x, h⟩ := s.regulatorsOff_onlySpans; rw [h]

@[simp] theorem State.regulatorsOff_ctx (s : State) : s.regulatorsOff.ctx = s.ctx := by
  obtain ⟨x, h⟩ := s.regulatorsOff_onlySpans; rw [h]

theorem State.regulatorsOff_regulatorOn (s : State) {p : Nat} (h : p < 16) : (s.regulatorsOff.spanOf p).regulatorOn = false := by
  obtain ⟨u, -, -, he⟩ := State.foldl_spanOf_of_mem State.regulatorOff_onlySpan List.nodup_range (List.mem_range.2 h) s
  rw [State.regulatorsOff, he, State.regulatorOff, State.setSpan_spanOf_self]

theorem State.regulatorsOff_sensors (s : State) (p : Nat) : (s.regulatorsOff.spanOf p).sensors = (s.spanOf p).sensors := by
  by_cases h : p ∈ List.range 16
  · obtain ⟨u, -, hu, he⟩ := State.foldl_spanOf_of_mem State.regulatorOff_onlySpan List.nodup_range h s
    rw [State.regulatorsOff, he, State.regulatorOff, State.setSpan_spanOf_self, ← hu]
  · rw [State.regulatorsOff, State.foldl_spanOf_of_notMem State.regulatorOff_onlySpan s h]

/-- A span whose sensor `k` has been read. -/
def Span.sampled (x : Span) (k : Nat) (r : Int) : Span :=
  let e := senseOne (x.sensors.get k {}) r
  { x with sensors := x.sensors.set k e.2, tempMax := if e.1 then some ((x.tempMax.map (max r)).getD r) else x.tempMax }

@[simp] theorem Span.sampled_sensors (x : Span) (k : Nat) (r : Int) :
    (x.sampled k r).sensors = x.sensors.set k (senseOne (x.sensors.get k {}) r).2 := rfl

/-- What a span's governor does with the hottest reading (R470). -/
def State.governHeat (s : State) (n : Nat) (x : Span) : State :=
  match s.hottest n with
  | none => s
  | some t =>
    let y := (x.thermStep t s.time.beat).govern s.time.beat (s.mode n)
    if y.throttle && !x.throttle then (s.setSpan n y).alert 1 none (some n) else s.setSpan n y

/-- The span may be governed, and an alert may go out. -/
theorem State.governHeat_cases (s : State) (n : Nat) (x : Span) : s.governHeat n x = s ∨
    ∃ y : Span, y.sensors = x.sensors ∧ (s.governHeat n x = s.setSpan n y ∨ s.governHeat n x = (s.setSpan n y).alert 1 none (some n)) := by
  unfold State.governHeat
  cases s.hottest n with
  | none => exact .inl rfl
  | some t =>
    refine .inr ⟨(x.thermStep t s.time.beat).govern s.time.beat (s.mode n), by simp, ?_⟩
    simp only []
    split
    · exact .inr rfl
    · exact .inl rfl

/-- A trip: the block record and its halts, every regulator off, the alert (R64). -/
def State.thermalTrip (s : State) (n k : Nat) : State :=
  (s.raiseAll (fun _ => true) { code := 0x0A06, detail := hwDetail 15 k 0xFFFF 0 0 }).regulatorsOff.alert 2 none (some n)

theorem State.thermalSample_eq (s : State) (n k : Nat) (r : Int) : s.thermalSample n k r =
    if (senseOne ((s.spanOf n).sensors.get k {}) r).1 && decide (r ≥ 230) then (s.setSpan n ((s.spanOf n).sampled k r)).thermalTrip n k
    else (s.setSpan n ((s.spanOf n).sampled k r)).governHeat n ((s.spanOf n).sampled k r) := by
  simp only [State.thermalSample, Span.sampled]
  cases senseOne ((s.spanOf n).sensors.get k {}) r with
  | mk ok e => rfl

theorem State.thermalSample_trip {s : State} {n k : Nat} {r : Int} (h : ((s.spanOf n).sensors.get k {}).Valid r) (hr : 230 ≤ r) :
    s.thermalSample n k r = (s.setSpan n ((s.spanOf n).sampled k r)).thermalTrip n k := by
  rw [State.thermalSample_eq, senseOne_of_valid h, decide_eq_true hr]; rfl

theorem State.thermalSample_steady {s : State} {n k : Nat} {r : Int} (h : ¬((s.spanOf n).sensors.get k {}).Valid r ∨ r < 230) :
    s.thermalSample n k r = (s.setSpan n ((s.spanOf n).sampled k r)).governHeat n ((s.spanOf n).sampled k r) := by
  rw [State.thermalSample_eq]
  rcases h with h | h
  · rw [senseOne_of_not_valid h]; rfl
  · rw [decide_eq_false (Int.not_le.2 h), Bool.and_false]; rfl

/-- The trip's record and halts leave spans alone, and the regulators nothing else than spans. -/
theorem State.thermalTrip_parts (s : State) (n k : Nat) :
    ∃ q : Cause, q.code = 0x0A06 ∧ (s.thermalTrip n k).mem = s.mem ∧ (s.thermalTrip n k).ring = (s.raiseAll (fun _ => true) q).ring ∧
      (s.thermalTrip n k).ctx = (s.raiseAll (fun _ => true) q).ctx ∧ (s.thermalTrip n k).glob.alerts.getLsbD 2 = true ∧
      (∀ p < 16, ((s.thermalTrip n k).spanOf p).regulatorOn = false) ∧
      ∀ p, ((s.thermalTrip n k).spanOf p).sensors = (s.spanOf p).sensors := by
  unfold State.thermalTrip
  refine ⟨{ code := 0x0A06, detail := hwDetail 15 k 0xFFFF 0 0 }, rfl, ?_, ?_, ?_, ?_, fun p hp => ?_, fun p => ?_⟩
  · rw [State.alert_mem, State.regulatorsOff_mem, State.raiseAll_mem]
  · rw [State.alert_ring, State.regulatorsOff_ring]
  · rw [State.alert_ctx, State.regulatorsOff_ctx]
  · rw [State.alert_alerts]; exact putBit_getLsbD _ (by decide)
  · rw [State.spanOf, State.alert_spans]; exact State.regulatorsOff_regulatorOn _ hp
  · rw [State.spanOf, State.alert_spans, ← State.spanOf, State.regulatorsOff_sensors, State.spanOf, State.raiseAll_spans, ← State.spanOf]

/-- Every sample writes its sensor; it leaves the other sensors and the shared cache alone. -/
theorem State.thermalSample_sensors (s : State) (n k : Nat) (r : Int) :
    (s.thermalSample n k r).mem = s.mem ∧
      ((s.thermalSample n k r).spanOf n).sensors = (s.spanOf n).sensors.set k (senseOne ((s.spanOf n).sensors.get k {}) r).2 := by
  have hs : ((s.setSpan n ((s.spanOf n).sampled k r)).spanOf n).sensors = ((s.spanOf n).sampled k r).sensors := by
    rw [State.setSpan_spanOf_self]
  by_cases h : ((s.spanOf n).sensors.get k {}).Valid r ∧ 230 ≤ r
  · obtain ⟨-, -, hm, -, -, -, -, ht⟩ := (s.setSpan n ((s.spanOf n).sampled k r)).thermalTrip_parts n k
    rw [State.thermalSample_trip h.1 h.2]
    exact ⟨hm, (ht n).trans hs⟩
  · rw [State.thermalSample_steady ((not_and_or.1 h).imp_right Int.not_le.1)]
    rcases State.governHeat_cases (s.setSpan n ((s.spanOf n).sampled k r)) n ((s.spanOf n).sampled k r) with he | ⟨y, hy, he | he⟩ <;> rw [he]
    · exact ⟨rfl, hs⟩
    · exact ⟨rfl, by rw [State.setSpan_spanOf_self, hy]; rfl⟩
    · exact ⟨rfl, by rw [State.spanOf, State.alert_spans]; exact (congrArg Span.sensors (State.setSpan_spanOf_self ..)).trans hy⟩

/-- A reading that is discarded touches no context. -/
theorem State.thermalSample_ctx {s : State} {n k : Nat} {r : Int} (h : ¬((s.spanOf n).sensors.get k {}).Valid r) :
    (s.thermalSample n k r).ctx = s.ctx := by
  rw [State.thermalSample_steady (.inl h)]
  rcases State.governHeat_cases (s.setSpan n ((s.spanOf n).sampled k r)) n ((s.spanOf n).sampled k r) with he | ⟨y, hy, he | he⟩ <;> rw [he] <;> rfl

/-! ## POWER_CAP_STEP and BLOCK_PEAK_STEP (R471) -/

theorem Span.sense_clock (x : Span) (mw : Nat) : (x.sense mw).clock = x.clock := rfl

theorem Span.capStep_clock (x : Span) (mw beat : Nat) : (x.capStep mw beat).clock = x.clock := by
  unfold Span.capStep
  simp only []
  repeat' split
  all_goals rfl

/-- Above the cap, on the first step: one point toward LO, or at LO one more stretch. -/
theorem Span.capStep_above {x : Span} {mw beat : Nat} (h : mw > (x.capBefore beat).toNat * 1000) (hl : x.lastCap = 0) :
    x.capStep mw beat = if x.target > x.part.lo then { x with underSince := none, capPoints := x.capPoints + 1, lastCap := beat }
      else { x with underSince := none, capStretch := min 8 (x.capStretch + 1), lastCap := beat } := by
  have hd : ∀ us : Nat, (x.lastCap = 0 || decide (beat ≥ x.lastCap + us * usBeats)) = true := fun us => by simp [hl]
  unfold Span.capStep
  simp only [if_pos h, hd, if_true]
  rfl

theorem mem_spansOf_of_owner {s : State} {n : Nat} {c : Fin 4} (hn : n < 16) (h : s.owner n = some c) : n ∈ spansOf (s.adminOf c).owned :=
  List.mem_filter.2 ⟨List.mem_range.2 hn, List.find?_some (p := fun c => bit (s.adminOf c).owned n) h⟩

/-- A span after a cap step (R468, R471). -/
def State.capped (s : State) (n mw : Nat) : Span := (((s.spanOf n).sense mw).capStep mw s.time.beat).govern s.time.beat (s.mode n)

/-- The cap step writes its span and its owner's OVER_POWER, which is set where a cap of the context holds its span down. -/
theorem State.powerCap_cases (s : State) (n mw : Nat) :
    (s.owner n = none ∧ s.powerCap n mw = s.setSpan n (s.capped n mw)) ∨
    ∃ c o, s.owner n = some c ∧ s.powerCap n mw = (s.setSpan n (s.capped n mw)).setCtx c { s.ctxOf c with overPower := o } ∧
      (n < 16 → (s.capped n mw).capped = true → o = true) := by
  cases h : s.owner n with
  | none => exact .inl ⟨rfl, by simp only [State.powerCap, State.setSpan_owner, h]; rfl⟩
  | some c =>
    refine .inr ⟨c, (spansOf (s.adminOf c).owned).any fun p => ((s.setSpan n (s.capped n mw)).spanOf p).capped, rfl, ?_, fun hn hc => ?_⟩
    · simp only [State.powerCap, State.setSpan_owner, h]; rfl
    · exact List.any_eq_true.2 ⟨n, mem_spansOf_of_owner hn h, by rw [State.setSpan_spanOf_self]; exact hc⟩

theorem State.powerCap_spans (s : State) (n mw : Nat) : (s.powerCap n mw).spans = (s.setSpan n (s.capped n mw)).spans ∧
    (s.powerCap n mw).time = s.time ∧ (s.powerCap n mw).mem = s.mem := by
  rcases s.powerCap_cases n mw with ⟨-, he⟩ | ⟨c, o, -, he, -⟩ <;> rw [he] <;> exact ⟨rfl, rfl, rfl⟩

theorem State.capped_clock (s : State) (n mw : Nat) : (s.capped n mw).beatAt s.time.beat = s.spanBeat n :=
  (Span.govern_beatAt ..).trans (Span.beatAt_of_clock ((Span.capStep_clock ..).trans (Span.sense_clock ..)) _)

/-- Above the cap, on the first step. -/
theorem State.capped_above {s : State} {n mw : Nat} (h : mw > 1000 * ((s.spanOf n).capBefore s.time.beat).toNat) (hl : (s.spanOf n).lastCap = 0) :
    let x := s.spanOf n
    let y := s.capped n mw
    y.capped = true ∧ (x.target > x.part.lo → y.capPoints = x.capPoints + 1 ∧ y.capStretch = x.capStretch) ∧
      (x.target ≤ x.part.lo → y.capStretch = min 8 (x.capStretch + 1) ∧ y.capPoints = x.capPoints) := by
  have hs : ((s.spanOf n).sense mw).capStep mw s.time.beat = _ := Span.capStep_above (Nat.mul_comm .. ▸ h) hl
  simp only [State.capped, hs]
  split
  · rename_i ht
    exact ⟨decide_eq_true (Nat.succ_pos _ |>.trans_le (Nat.le_add_right _ _)), fun _ => ⟨rfl, rfl⟩, fun hle => absurd ht (Nat.not_lt.2 hle)⟩
  · rename_i ht
    exact ⟨decide_eq_true (show 0 < (s.spanOf n).capPoints + min 8 ((s.spanOf n).capStretch + 1) by omega), fun hlt => absurd hlt ht,
      fun _ => ⟨rfl, rfl⟩⟩

/-- One span in a step of the block peak. -/
def State.peakSpan (s : State) (exceeds : Bool) (p : Nat) : State :=
  s.setSpan p ({ s.spanOf p with
    peakStretch := if exceeds then min 8 ((s.spanOf p).peakStretch + 1) else (s.spanOf p).peakStretch - 1 }.govern s.time.beat (s.mode p))

theorem State.peakSpan_onlySpan (exceeds : Bool) (s : State) (p : Nat) : s.OnlySpan (s.peakSpan exceeds p) p := by
  rw [State.OnlySpan, State.peakSpan, State.setSpan_spanOf_self]

theorem State.peakSpan_spanOf (s : State) (exceeds : Bool) (p : Nat) : ((s.peakSpan exceeds p).spanOf p).peakStretch =
      (if exceeds then min 8 ((s.spanOf p).peakStretch + 1) else (s.spanOf p).peakStretch - 1) ∧
    ((s.peakSpan exceeds p).spanOf p).beatAt s.time.beat = s.spanBeat p := by
  rw [State.peakSpan, State.setSpan_spanOf_self]
  exact ⟨rfl, Span.govern_beatAt ..⟩

/-- Does the block's mean exceed PEAK_W, or has it not fallen below it since it did (R471)? -/
def State.peakExceeds (s : State) (mw : Nat) : Bool :=
  decide (mw > s.glob.peakW.toNat * 1000) ||
    ((List.range 16).any (fun p => (s.spanOf p).peakStretch > 0) && decide (mw = s.glob.peakW.toNat * 1000))

theorem State.peakExceeds_iff (s : State) (mw : Nat) : s.peakExceeds mw = true ↔
    mw > 1000 * s.glob.peakW.toNat ∨ (∃ p < 16, (s.spanOf p).peakStretch > 0) ∧ mw = 1000 * s.glob.peakW.toNat := by
  simp [State.peakExceeds, Nat.mul_comm 1000]

theorem State.blockPeak_early {s : State} (mw : Nat) (h : s.glob.lastPeak ≠ 0) (hb : s.time.beat < s.glob.lastPeak + 1800) :
    s.blockPeak mw = s := if_pos (by simp [h, usBeats, hb])

theorem State.blockPeak_due {s : State} (mw : Nat) (h : s.glob.lastPeak = 0 ∨ s.glob.lastPeak + 1800 ≤ s.time.beat) :
    s.blockPeak mw = (List.range 16).foldl (fun u p => u.peakSpan (s.peakExceeds mw) p) (s.setGlob { s.glob with lastPeak := s.time.beat }) :=
  if_neg (by
    rw [Bool.and_eq_true, decide_eq_true_eq, decide_eq_true_eq]
    rintro ⟨h0, hb⟩
    exact h.elim h0 fun hle => absurd hb (Nat.not_lt.2 hle))

/-- Settles O41: what a reading does to its sensor and, from 115 degrees on, to the block; what a cap step and a block-peak step do to a span. -/
theorem thermalAndPowerLimits : Obligations.ThermalAndPowerLimits := by
  refine ⟨fun n k r s => ?_, fun n mw s => ⟨?_, fun h hb => ?_, fun h => ?_⟩⟩
  · obtain ⟨hm, hs⟩ := s.thermalSample_sensors n.val k.val r
    have hothers : ∀ j, j ≠ k.val → ((s.thermalSample n.val k.val r).spanOf n.val).sensors.get j {} = (s.spanOf n.val).sensors.get j {} :=
      fun j hj => by rw [hs]; exact Table.get_set_ne _ _ _ hj
    have he : exec (.thermalSample n k r s.time.beat) s = .next (s.thermalSample n.val k.val r) := by
      show Host.Outcome.next ((s.advanceTo s.time.beat).thermalSample n.val k.val r) = _
      rw [State.advanceTo_now]
    refine ⟨fun hv => ⟨_, he, hm, hothers, ?_⟩, fun hv => ⟨_, he, hm, hothers, State.thermalSample_ctx hv, ?_⟩, fun hv hr => ⟨_, he, hm, ?_⟩⟩
    · rw [hs, senseOne_of_valid hv, Table.get_set_self]
    · rw [hs, senseOne_of_not_valid hv, Table.get_set_self]
    · rw [State.thermalSample_trip hv hr]
      obtain ⟨q, hq, -, hring, hctx, ha, hoff, -⟩ := (s.setSpan n.val ((s.spanOf n.val).sampled k.val r)).thermalTrip_parts n.val k.val
      refine ⟨by rw [hring]; exact State.raiseAll_seq .., hoff, ha, fun c hc => ?_⟩
      obtain ⟨h, hh, hcode⟩ := State.raiseAll_halts (s := s.setSpan n.val ((s.spanOf n.val).sampled k.val r)) (p := fun _ => true) (c := c) q rfl hc
      exact ⟨h, by rw [State.ctxOf, hctx]; exact hh, hcode.trans hq⟩
  · have he : exec (.powerCapStep n mw s.time.beat) s = .next (s.powerCap n.val mw) := by
      show Host.Outcome.next ((s.advanceTo s.time.beat).powerCap n.val mw) = _
      rw [State.advanceTo_now]
    obtain ⟨hspans, htime, hmem⟩ := s.powerCap_spans n.val mw
    have hn : (s.powerCap n.val mw).spanOf n.val = s.capped n.val mw := by
      rw [State.spanOf, hspans]; exact State.setSpan_spanOf_self ..
    refine ⟨_, he, hmem, ?_, fun k hk => ?_, fun hmw hl => ?_⟩
    · rw [State.spanBeat, hn, htime]; exact s.capped_clock ..
    · rw [State.spanOf, hspans]; exact State.setSpan_spanOf_ne _ _ hk
    · rw [hn]
      obtain ⟨hc, hup, hlo⟩ := State.capped_above hmw hl
      refine ⟨hc, hup, hlo, fun c ho => ?_⟩
      rcases s.powerCap_cases n.val mw with ⟨hnone, -⟩ | ⟨d, o, hd, heq, ho'⟩
      · rw [hnone] at ho; cases ho
      · rw [hd] at ho; cases ho
        rw [heq, State.setCtx_ctxOf_self]
        exact ho' n.isLt hc
  · show Host.Outcome.next ((s.advanceTo s.time.beat).blockPeak mw) = _
    rw [State.advanceTo_now, State.blockPeak_early mw h hb]
  · intro active exceeds
    have he : exec (.blockPeakStep mw s.time.beat) s = .next (s.blockPeak mw) := by
      show Host.Outcome.next ((s.advanceTo s.time.beat).blockPeak mw) = _
      rw [State.advanceTo_now]
    rw [State.blockPeak_due mw h] at he
    obtain ⟨y, hy⟩ := State.foldl_onlySpans (State.peakSpan_onlySpan (s.peakExceeds mw)) (List.range 16)
      (s.setGlob { s.glob with lastPeak := s.time.beat })
    obtain ⟨u, ⟨v, hu⟩, hun, hn⟩ := State.foldl_spanOf_of_mem (State.peakSpan_onlySpan (s.peakExceeds mw)) List.nodup_range (List.mem_range.2 n.isLt)
      (s.setGlob { s.glob with lastPeak := s.time.beat })
    obtain ⟨hpeak, hbeat⟩ := u.peakSpan_spanOf (s.peakExceeds mw) n.val
    have hut : u.time = s.time := by rw [hu]; rfl
    rw [← hn, hun] at hpeak
    rw [← hn, State.spanBeat, hun, hut] at hbeat
    refine ⟨_, he, by rw [hy]; rfl, by rw [hy]; rfl, ?_, fun hx => ?_, fun hx => ?_⟩
    · rw [State.spanBeat, hy]
      rw [hy] at hbeat
      exact hbeat
    · rw [hpeak, if_pos ((s.peakExceeds_iff mw).2 hx)]; rfl
    · rw [hpeak, if_neg (mt (s.peakExceeds_iff mw).1 hx)]; rfl

end Sys2Proof.Machine

/-! PROOFS of the statements of 02_block_boundary.md: pier reads and their answers (O24). -/

namespace Sys2Proof.Machine

/-! ## Macros in flight -/

/-- A macro that is found in a stream stands at its place there. -/
theorem Stream.firstRun_some {t : Stream} {p : MacroRun → Bool} {i : Nat} {m : MacroRun} (h : t.firstRun p = some (i, m)) :
    t.inflight[i]? = some m ∧ p m = true := by
  refine ⟨?_, List.find?_some (p := fun e : Nat × MacroRun => p e.2) h⟩
  obtain ⟨j, hj, he⟩ := List.getElem_of_mem (List.mem_of_find?_eq_some h)
  simp only [List.getElem_zip, List.getElem_range, Prod.mk.injEq] at he
  obtain ⟨rfl, rfl⟩ := he
  exact List.getElem?_eq_getElem _

@[simp] theorem MacroRun.tileAt_setTile (m : MacroRun) (t : Nat) (r : TileRun) : (m.setTile t r).tileAt t = r := Table.get_set_self ..

/-! ## Reads that go out under the free tags of a pier (R45) -/

theorem Span.freeTags_nodup (x : Span) : x.freeTags.Nodup := List.nodup_range.filter _

@[simp] theorem Span.perf_freeTags (x : Span) (e n : Nat) : (x.perf e n).freeTags = x.freeTags := by
  simp [Span.freeTags]

section
variable (ctx : Nat) (tile : Bool × Nat × Nat) (beat attempt : Nat)

/-- One read of a tile. -/
def Span.sendTile (x : Span) (q : Nat × Int × Int) : Span := x.sendRead q.1 ⟨ctx, some tile, beat, attempt, q.2.1, q.2.2, 0⟩

/-- Reads under tags of their own: each stands under its tag, at its place in the pier's order, and no other tag has moved. -/
theorem Span.sendTile_find (l : List (Nat × Int × Int)) (x : Span) (h : (l.map Prod.fst).Nodup) :
    (∀ (j : Nat) (hj : j < l.length), (l.foldl (Span.sendTile ctx tile beat attempt) x).reads.find l[j].1 =
      some ⟨ctx, some tile, beat, attempt, l[j].2.1, l[j].2.2, x.accesses + j⟩) ∧
    (∀ g, g ∉ l.map Prod.fst → (l.foldl (Span.sendTile ctx tile beat attempt) x).reads.find g = x.reads.find g) := by
  induction l generalizing x with
  | nil => exact ⟨fun j hj => absurd hj (Nat.not_lt_zero j), fun _ _ => rfl⟩
  | cons q l ih =>
    obtain ⟨hq, hl⟩ := List.nodup_cons.1 h
    obtain ⟨hj, hg⟩ := ih (x.sendTile ctx tile beat attempt q) hl
    refine ⟨fun j hlt => ?_, fun g hn => ?_⟩
    · cases j with
      | zero => exact (hg _ hq).trans (Table.find_set_self ..)
      | succ j =>
        have hacc : (x.sendTile ctx tile beat attempt q).accesses + j = x.accesses + (j + 1) := by
          show x.accesses + 1 + j = _; omega
        have hread := hj j (Nat.lt_of_succ_lt_succ hlt)
        rw [hacc] at hread
        exact hread
    · obtain ⟨hne, hn⟩ := not_or.1 (mt List.mem_cons.2 hn)
      exact (hg g hn).trans (Table.find_set_ne _ _ hne)

theorem Span.sendReads_eq (x : Span) (l : List (Int × Int)) :
    x.sendReads ctx tile beat attempt l = (x.freeTags.zip l).foldl (Span.sendTile ctx tile beat attempt) x := rfl

/-- Reads go out under the lowest free tags, as far as tags are free. -/
theorem Span.sendReads_find (x : Span) (l : List (Int × Int)) :
    let tags := x.freeTags.take l.length
    (∀ (j : Nat) (hj : j < tags.length), (x.sendReads ctx tile beat attempt l).reads.find tags[j] =
      some ⟨ctx, some tile, beat, attempt, (l.getD j (0, 0)).1, (l.getD j (0, 0)).2, x.accesses + j⟩) ∧
    (∀ g, g ∉ tags → (x.sendReads ctx tile beat attempt l).reads.find g = x.reads.find g) := by
  have htags : (x.freeTags.zip l).map Prod.fst = x.freeTags.take l.length := by
    refine List.ext_getElem (by simp [Nat.min_comm]) fun j _ _ => ?_
    rw [List.getElem_map, List.getElem_zip, List.getElem_take]
  have hnd : ((x.freeTags.zip l).map Prod.fst).Nodup := htags ▸ x.freeTags_nodup.sublist (List.take_sublist ..)
  obtain ⟨hj, hg⟩ := Span.sendTile_find ctx tile beat attempt (x.freeTags.zip l) x hnd
  refine ⟨fun j hlt => ?_, fun g hn => hg g (htags ▸ hn)⟩
  have hlt' : j < (x.freeTags.zip l).length := by simpa [Nat.min_comm] using hlt
  have hl : j < l.length := (List.length_zip (l₁ := x.freeTags) (l₂ := l) ▸ hlt').trans_le (Nat.min_le_right ..)
  have := hj j hlt'
  rw [List.getElem_zip] at this
  rw [List.getElem_take, List.getD_eq_getElem _ _ hl]
  exact this

end

/-! ## TILE_INPUT_READ (R44, R45, R205) -/

/-- An entry of a core that is a tile of macro `m` at place `i` of its stream. -/
theorem State.heldTile_some {s : State} {h : Nat × Bool × Nat × Nat} {c : Fin 4} {i : Nat} {m : MacroRun} {p : Plan} {r : TileRun}
    (he : s.heldTile h = some (c, i, m, p, r)) : (s.runAt c h.2.1 i) = some m ∧ r = m.tileAt h.2.2.2 := by
  unfold State.heldTile at he
  simp only [] at he
  cases hb : ((s.ctxOf (ctxNo h.1)).stream h.2.1).byId h.2.2.1 with
  | none => rw [hb] at he; cases he
  | some q =>
    obtain ⟨j, n⟩ := q
    rw [hb] at he
    obtain ⟨p', hp, heq⟩ := Option.map_eq_some_iff.1 he
    cases heq
    exact ⟨(Stream.firstRun_some hb).1, rfl⟩

section
variable {s : State} {core : Nat} {h : Nat × Bool × Nat × Nat} {c : Fin 4} {i : Nat} {m : MacroRun} {p : Plan} {r : TileRun}

/-- The byte ranges of the reads of a tile that are outstanding at a pier. -/
def Span.rangesOf (x : Span) (ctx : Nat) (tile : Bool × Nat × Nat) : List (Int × Int) :=
  (x.reads.filter (fun q => q.2.ctx = ctx && q.2.tile = some tile)).map (fun q => (q.2.lo, q.2.hi))

/-- A core's only tile whose reads have not begun asks for what it may ask for now. -/
theorem State.readInputs_begins (hh : (s.coreOf core).held = [h]) (ht : s.heldTile h = some (c, i, m, p, r)) (hr : s.runs c = true)
    (hl : r.status = .loading) (hb : r.begun = false)
    (hd : s.readDomainFail c ((s.evAt c m p h.2.2.2 r).readParts (s.draft c m) (m.sorting h.2.2.2)) = none) :
    let sp := s.spanOf (coreSpan core)
    let reads := (s.evAt c m p h.2.2.2 r).pierReads (s.draft c m) (m.sorting h.2.2.2)
    let next := m.nextReads reads (sp.rangesOf c.val (h.2.1, h.2.2.1, h.2.2.2))
    let n := min next.length sp.freeTags.length
    s.readInputs core = (s.setSpan (coreSpan core) ((sp.perf 0x06 (m.pieces p h.2.2.2 (m.pierInputs (s.draft c m)))).sendReads c.val
        (h.2.1, h.2.2.1, h.2.2.2) (s.spanBeat (coreSpan core)) r.attempt next)).setRun c h.2.1 i (m.setTile h.2.2.2 { r with
      begun := true, reads := r.reads + n, todo := reads.drop n
      status := if reads.isEmpty then .waiting else .loading
      seen := if r.seen.isSome then r.seen else some s.mem, staged := s.spanBeat (coreSpan core) }) := by
  simp only [State.readInputs, hh, List.find?, ht, hl, hb, hd, State.runs_inBeat hr, decide_true, Bool.not_false, Bool.not_true, Bool.true_or,
    Bool.and_self, Bool.false_eq_true, if_false]
  rfl

/-- A read outside the windows halts the context before any goes out (R106). -/
theorem State.readInputs_outside {f : Fail} (hh : (s.coreOf core).held = [h]) (ht : s.heldTile h = some (c, i, m, p, r)) (hr : s.runs c = true)
    (hl : r.status = .loading) (hb : r.begun = false)
    (hd : s.readDomainFail c ((s.evAt c m p h.2.2.2 r).readParts (s.draft c m) (m.sorting h.2.2.2)) = some f) :
    s.readInputs core = s.raise c { m.cause f.code with coord := m.coordOf p h.2.2.2, core := core, detail := f.detail } := by
  simp only [State.readInputs, hh, List.find?, ht, hl, hb, hd, State.runs_inBeat hr, decide_true, Bool.not_false, Bool.not_true, Bool.true_or,
    Bool.and_self, Bool.false_eq_true, if_false]

end

/-! ## PIER_READ_RESPONSE (R45 to R47) -/

/-- A pier's read under a tag has ended. -/
def State.endRead (s : State) (span tag : Nat) : State := s.setSpan span { s.spanOf span with reads := (s.spanOf span).reads.erase tag }

@[simp] theorem State.endRead_reads (s : State) (span tag : Nat) : ((s.endRead span tag).spanOf span).reads = (s.spanOf span).reads.erase tag := by
  rw [State.endRead, State.setSpan_spanOf_self]

@[simp] theorem State.endRead_spanBeat (s : State) (span tag n : Nat) : (s.endRead span tag).spanBeat n = s.spanBeat n := by
  by_cases h : n = span
  · subst h; rw [State.spanBeat, State.endRead, State.setSpan_spanOf_self]; rfl
  · rw [State.spanBeat, State.endRead, State.setSpan_spanOf_ne _ _ h]; rfl

/-- A span that is put back as it is reads as before. -/
theorem State.setSpan_same_spanOf (s : State) (n k : Nat) : (s.setSpan n (s.spanOf n)).spanOf k = s.spanOf k := by
  by_cases h : k = n
  · subst h; exact State.setSpan_spanOf_self ..
  · exact State.setSpan_spanOf_ne _ _ h

section
variable {s : State} {span tag : Nat} {d : PierRead}

/-- No response comes before an older access of the pier to one of its lines has ended (R46). -/
theorem State.readResponse_waits (hd : (s.spanOf span).reads.find tag = some d)
    (ho : (s.spanOf span).ordered d.seq d.lo d.hi true true (fun _ => false) = true) (poison : Bool) : s.readResponse span tag poison = s := by
  simp only [State.readResponse, hd, ho, if_true]

/-- A good response ends its read, for the cox, the fetch or a macro. -/
theorem State.readResponse_good (hd : (s.spanOf span).reads.find tag = some d)
    (ho : (s.spanOf span).ordered d.seq d.lo d.hi true true (fun _ => false) = false) :
    (d.ctx = 7 → s.readResponse span tag false = (s.endRead span tag).coxTakes ((d.tile.map (·.2.1)).getD 0) d true) ∧
    (d.ctx ≠ 7 → d.tile = none → s.readResponse span tag false = if (s.ctxOf (ctxNo d.ctx)).fetches span tag then
      (s.endRead span tag).setCtx (ctxNo d.ctx) ((s.ctxOf (ctxNo d.ctx)).takeFetch s.mem) else s.endRead span tag) ∧
    (∀ e id t i m, d.ctx ≠ 7 → d.tile = some (e, id, t) → ((s.ctxOf (ctxNo d.ctx)).stream e).byId id = some (i, m) →
      s.readResponse span tag false =
        if t = blockTile then (s.endRead span tag).setRun (ctxNo d.ctx) e i { m with blockRead := m.blockRead.map (fun b =>
          { b with out := b.out - 1, seen := Memory.overlay d.lo d.hi s.mem b.seen }) }
        else if (m.tileAt t).status ≠ .loading || !(m.tileAt t).begun || d.attempt ≠ (m.tileAt t).attempt then s.endRead span tag
        else (s.endRead span tag).setRun (ctxNo d.ctx) e i (m.setTile t { m.tileAt t with
          reads := (m.tileAt t).reads - 1, staged := s.spanBeat span
          seen := some (Memory.overlay d.lo d.hi s.mem ((m.tileAt t).seen.getD []))
          status := if (m.tileAt t).reads ≤ 1 && (m.tileAt t).todo = [] then .waiting else .loading })) := by
  refine ⟨fun h7 => ?_, fun h7 ht => ?_, fun e id t i m h7 ht hm => ?_⟩
  · simp only [State.readResponse, hd, ho, h7, Bool.false_eq_true, if_false, if_true]
    rfl
  · simp only [State.readResponse, hd, ho, h7, ht, Bool.false_eq_true, if_false]
    rfl
  · have hb := s.endRead_spanBeat span tag span
    rw [State.endRead] at hb
    simp only [State.readResponse, hd, ho, h7, ht, State.setSpan_ctxOf, hm, hb, Bool.false_eq_true, if_false]
    rfl

end

/-- A piece of the cox's read whose other pieces have all been sent. -/
theorem State.coxTakes_last {s : State} {r : CoxRead} (d : PierRead) (hr : s.glob.coxRead = some r) (ht : r.todo = []) :
    s.coxTakes r.gen d true = (s.setSpan r.pier (s.spanOf r.pier)).setGlob { s.glob with
      coxRead := some { r with out := r.out - 1, seen := Memory.overlay d.lo d.hi s.mem r.seen } } := by
  have hz : (s.spanOf r.pier).sendReads 7 (false, r.gen, 0) (s.spanBeat r.pier) 0 [] = s.spanOf r.pier := by
    rw [Span.sendReads_eq, List.zip_nil_right]; rfl
  simp only [State.coxTakes, hr, State.coxSend, ht, hz, ne_eq, not_true_eq_false, if_false, if_true]
  rfl

theorem State.coxTakes_stale {s : State} {r : CoxRead} {gen : Nat} (d : PierRead) (good : Bool) (hr : s.glob.coxRead = some r)
    (hg : gen ≠ r.gen) : s.coxTakes gen d good = s := by
  simp only [State.coxTakes, hr]
  exact if_pos hg.symm

theorem Ctx.fetches_of_fetch {x : Ctx} {f : FetchRead} (h : x.fetch = some f) : x.fetches f.span f.tag = true := by
  simp [Ctx.fetches, h]

/-- The answer of a fetch read: its bundles join the buffer in order, each with its address (R42). -/
theorem Ctx.takeFetch_buffer {x : Ctx} {f : FetchRead} (m : Memory) (h : x.fetch = some f) :
    (x.takeFetch m).fetch = none ∧ ∃ got, (x.takeFetch m).buffer = x.buffer ++ got ∧ got.length = f.bundles ∧
      ∀ (j : Nat) (hj : j < got.length), got[j].addr = BitVec.ofNat 64 (f.addr + 64 * j) ∧
        got[j].bits = BitVec.ofNat 512 (ofLe (m.readBytes (f.addr + 64 * j) 64)) := by
  unfold Ctx.takeFetch
  rw [h]
  refine ⟨rfl, _, rfl, by simp, fun j hj => ?_⟩
  rw [List.getElem_map, List.getElem_range]
  exact ⟨rfl, rfl⟩

/-- Settles O24: the reads that go out under the lowest free tags, and by whose read it was, what a good response does. -/
theorem tileInputsAreReadAndAnswered : Obligations.TileInputsAreReadAndAnswered := by
  refine ⟨fun core s h c i m p r hh ht hr hl hb => ?_, fun span tag s d hd => ?_⟩
  · intro sp e parts reads out next tags
    refine ⟨fun hd => ?_, fun f hd => ?_⟩
    · obtain ⟨hrun, hrt⟩ := State.heldTile_some ht
      have heq := State.readInputs_begins hh ht hr hl hb hd
      have hn : min next.length sp.freeTags.length = tags.length := (List.length_take ..).symm
      refine ⟨_, _, congrArg Host.Outcome.next heq, rfl, State.setRun_runAt _ _ (show (s.runAt c h.2.1 i).isSome = true by rw [hrun]; rfl), ?_⟩
      rw [MacroRun.tileAt_setTile]
      obtain ⟨hsent, hothers⟩ := Span.sendReads_find c.val (h.2.1, h.2.2.1, h.2.2.2) (s.spanBeat (coreSpan core.val)) r.attempt
        (sp.perf 0x06 (m.pieces p h.2.2.2 (m.pierInputs (s.draft c m)))) next
      simp only [Span.perf_freeTags, Span.perf_reads, Span.perf_accesses] at hsent hothers
      refine ⟨rfl, ?_, ?_, ?_, fun j hj => ?_, fun g hg => ?_⟩
      · exact congrArg (r.reads + ·) hn
      · exact congrArg (reads.drop ·) hn
      · exact if_congr List.isEmpty_iff rfl rfl
      · refine (congrArg (fun x : Span => x.reads.find tags[j]) (State.setSpan_spanOf_self ..)).trans (hsent j hj)
      · refine (congrArg (fun x : Span => x.reads.find g) (State.setSpan_spanOf_self ..)).trans (hothers g hg)
    · have heq := State.readInputs_outside hh ht hr hl hb hd
      exact ⟨_, _, congrArg Host.Outcome.next heq, s.raise_halts _ hr, rfl, rfl, rfl⟩
  · intro sp u first
    refine ⟨fun ho poison => congrArg Host.Outcome.next (State.readResponse_waits hd ho poison), fun e id k i m ho h7 htile hk hm => ⟨?_, ?_⟩,
      fun e id i m ho h7 htile hm => ?_, fun r ho h7 hr => ⟨fun hg => ?_, fun hg htodo => ?_⟩, fun ho h7 htile hf => ?_,
      fun f ho h7 htile hf hspan htag => ?_⟩
    · intro hp hl hb ha
      refine congrArg Host.Outcome.next (((State.readResponse_good hd ho).2.2 e id k i m h7 htile hm).trans ?_)
      rw [if_neg hk, if_neg (by simp [hl, hb, ha])]
      simp only [Bool.and_eq_true, decide_eq_true_eq]
      rfl
    · intro ha
      refine congrArg Host.Outcome.next (((State.readResponse_good hd ho).2.2 e id k i m h7 htile hm).trans ?_)
      rw [if_neg hk, if_pos (by simp [ha])]
      rfl
    · refine congrArg Host.Outcome.next (((State.readResponse_good hd ho).2.2 e id _ i m h7 htile hm).trans ?_)
      rw [if_pos rfl]
      rfl
    · exact congrArg Host.Outcome.next (((State.readResponse_good hd ho).1 h7).trans (State.coxTakes_stale d true hr hg))
    · have heq := (State.readResponse_good hd ho).1 h7
      rw [hg, State.coxTakes_last d (s := s.endRead span tag) hr htodo] at heq
      refine ⟨_, congrArg Host.Outcome.next heq, rfl, rfl, ?_⟩
      rw [State.setGlob_spanOf, State.setSpan_same_spanOf, State.endRead_reads]
    · refine congrArg Host.Outcome.next (((State.readResponse_good hd ho).2.1 h7 htile).trans ?_)
      rw [hf]
      rfl
    · have heq := (State.readResponse_good hd ho).2.1 h7 htile
      rw [← hspan, ← htag, Ctx.fetches_of_fetch hf, if_pos rfl, hspan, htag] at heq
      obtain ⟨hnone, got, hbuf, hlen, hgot⟩ := Ctx.takeFetch_buffer s.mem hf
      refine ⟨_, got, congrArg Host.Outcome.next heq, rfl, ?_, ?_, ?_, hlen, hgot⟩
      · rw [State.setCtx_spanOf, State.endRead_reads]
      · rw [State.setCtx_ctxOf_self]; exact hnone
      · rw [State.setCtx_ctxOf_self]; exact hbuf

end Sys2Proof.Machine

/-! PROOFS of the statements of 02_block_boundary.md: what the rows of the matrix port leave alone (for O33). -/

namespace Sys2Proof.Machine

/-! ## Tables -/

@[simp] theorem Table.set_set {α : Type} (k : Nat) (u v : α) (t : Table α) : Table.set k v (Table.set k u t) = Table.set k v t := by
  induction t with
  | nil => simp [Table.set]
  | cons e t ih =>
    obtain ⟨j, w⟩ := e
    by_cases hlt : k < j
    · simp [Table.set, hlt]
    · by_cases heq : k = j
      · simp [Table.set, heq]
      · simp [Table.set, hlt, heq, ih]

@[simp] theorem State.setCrew_setCrew (s : State) (n : Nat) (x y : Crew) : (s.setCrew n x).setCrew n y = s.setCrew n y := by
  simp [State.setCrew]

/-! ## A cause and its context -/

/-- A cause writes HALT and SECONDARY of its context (R474, R478). -/
theorem State.raise_ctxOf (s : State) (c : Fin 4) (q : Cause) :
    ∃ h n, (s.raise c q).ctxOf c = { s.ctxOf c with halt := h, secondary := n } := by
  unfold State.raise State.raiseAt
  simp only []
  cases (s.adminOf c).state with
  | live =>
    simp only []
    split
    · exact ⟨_, _, by rw [State.setCtx_ctxOf_self]⟩
    · exact ⟨_, _, by rw [State.setCtx_ctxOf_self]⟩
  | halted => exact ⟨_, _, by rw [State.setCtx_ctxOf_self]⟩
  | free => exact ⟨_, _, rfl⟩
  | creating => exact ⟨_, _, rfl⟩
  | resetting => exact ⟨_, _, rfl⟩
  | tearingDown => exact ⟨_, _, rfl⟩

theorem State.runs_judges {s : State} {c : Fin 4} (h : s.runs c = true) : s.judges c = true := by
  obtain ⟨hl, hh⟩ := (s.runs_iff c).1 h
  simp [State.judges, hl, hh]

/-! ## The frame of the port's rows -/

/-- A crew's place in the finished-tile queue (R51). -/
def Crew.place (k : Crew) : BitVec 8 × Bool := (k.ftqSeq, k.ftqRefused)

/-- `t` differs from `s` in nothing but crew `crew`, whose place in the finished-tile queue stands, and contexts, of which `c` has at most begun
to halt. -/
structure State.PortFrame (s t : State) (c : Fin 4) (crew : Nat) : Prop where
  rest : t = { s with ctx := t.ctx, crews := t.crews }
  ctx : ∃ h n, t.ctxOf c = { s.ctxOf c with halt := h, secondary := n }
  others : ∀ j, j ≠ crew → t.crewOf j = s.crewOf j
  place : (t.crewOf crew).place = (s.crewOf crew).place

namespace State.PortFrame

variable {s t u : State} {c : Fin 4} {crew : Nat}

theorem refl (s : State) (c : Fin 4) (crew : Nat) : s.PortFrame s c crew := ⟨rfl, ⟨_, _, rfl⟩, fun _ _ => rfl, rfl⟩

theorem trans (h : s.PortFrame t c crew) (k : t.PortFrame u c crew) : s.PortFrame u c crew := by
  obtain ⟨x, n, hx⟩ := h.ctx
  obtain ⟨y, m, hy⟩ := k.ctx
  refine ⟨by rw [k.rest, h.rest], ⟨y, m, by rw [hy, hx]⟩, fun j hj => (k.others j hj).trans (h.others j hj), k.place.trans h.place⟩

theorem setCrew (s : State) (c : Fin 4) {k : Crew} (hk : k.place = (s.crewOf crew).place) :
    s.PortFrame (s.setCrew crew k) c crew :=
  ⟨rfl, ⟨_, _, rfl⟩, fun _ hj => State.setCrew_crewOf_ne _ _ hj, by rw [State.setCrew_crewOf_self, hk]⟩

theorem raise (s : State) (c : Fin 4) (crew : Nat) (q : Cause) : s.PortFrame (s.raise c q) c crew := by
  have hc : ∀ j, (s.raise c q).crewOf j = s.crewOf j := fun j => by rw [State.crewOf, State.raise_crews]; rfl
  refine ⟨?_, s.raise_ctxOf c q, fun j _ => hc j, by rw [hc]⟩
  rw [State.raise_eq_setCtx]; rfl

theorem mem (h : s.PortFrame t c crew) : t.mem = s.mem := by rw [h.rest]
theorem cores (h : s.PortFrame t c crew) : t.cores = s.cores := by rw [h.rest]
theorem spans (h : s.PortFrame t c crew) : t.spans = s.spans := by rw [h.rest]

theorem meWaits (h : s.PortFrame t c crew) : (t.ctxOf c).meWaits = (s.ctxOf c).meWaits := by
  obtain ⟨x, n, hx⟩ := h.ctx
  rw [hx]

theorem exec (h : s.PortFrame t c crew) : (t.ctxOf c).exec = (s.ctxOf c).exec := by
  obtain ⟨x, n, hx⟩ := h.ctx
  rw [hx]

theorem runAt (h : s.PortFrame t c crew) (i : Nat) : t.runAt c true i = s.runAt c true i :=
  congrArg (fun e : Stream => e.inflight[i]?) h.exec

theorem bankRun (h : s.PortFrame t c crew) (b : Bank) : t.bankRun c b = s.bankRun c b := by
  unfold State.bankRun
  rw [h.exec]

end State.PortFrame

/-! ## Matrix commands that go out (R38, R328) -/

/-- Of the banks of a crew only ASKED has moved. -/
def Crew.OnlyAsked (k k' : Crew) : Prop := Table.sorted k.banks = true →
  Table.sorted k'.banks = true ∧ ∀ n b, k.banks.find n = some b → ∃ a, k'.banks.find n = some { b with asked := a }

theorem Crew.OnlyAsked.of_same {k k' : Crew} (h : k'.banks = k.banks) : k.OnlyAsked k' := by
  intro hs
  rw [h]
  exact ⟨hs, fun n b hb => ⟨b.asked, hb⟩⟩

theorem Crew.OnlyAsked.trans {k l m : Crew} (h : k.OnlyAsked l) (h' : l.OnlyAsked m) : k.OnlyAsked m := by
  intro hs
  obtain ⟨hl, hf⟩ := h hs
  obtain ⟨hm, hg⟩ := h' hl
  refine ⟨hm, fun n b hb => ?_⟩
  obtain ⟨a, ha⟩ := hf n b hb
  obtain ⟨a', ha'⟩ := hg n _ ha
  exact ⟨a', ha'⟩

/-- A command that goes out marks the bank of its product. -/
theorem Crew.onlyAsked_ask (k : Crew) (c : Fin 4) (cmd : MeCmd) : k.OnlyAsked (k.ask c cmd) := by
  unfold Crew.ask
  cases hb : k.bankOf c cmd.index cmd.key with
  | none => exact .of_same rfl
  | some e =>
    obtain ⟨n, b⟩ := e
    intro hs
    have hn : k.banks.find n = some b := (Table.find_eq_some hs).2 (List.mem_of_find?_eq_some hb)
    refine ⟨Table.sorted_set _ _ hs, fun j x hx => ?_⟩
    by_cases hj : j = n
    · subst hj
      rw [hn] at hx
      cases hx
      exact ⟨true, Table.find_set_self ..⟩
    · exact ⟨x.asked, (Table.find_set_ne _ _ hj).trans hx⟩

@[simp] theorem Crew.ask_place (k : Crew) (c : Fin 4) (cmd : MeCmd) : (k.ask c cmd).place = k.place := by
  unfold Crew.ask; split <;> rfl

/-- One command of those that wait goes out, where a credit is free. -/
def State.sendCmd (s : State) (c : Fin 4) (crew beat : Nat) : State :=
  let k := s.crewOf crew
  match k.cmds with
  | [] => s
  | cmd :: rest =>
    if k.sent.length ≥ 4 || !s.runs c then s
    else match ((s.ctxOf c).exec.byId cmd.index).bind (fun q => q.2.plan.map (fun p => (q.2, p))) with
    | none => s.setCrew crew { k with cmds := rest }
    | some (m, p) => match s.commandFail c m p cmd with
      | some f => s.raise c { m.cause f.code with coord := m.coordOf p (keyTile cmd.key), detail := f.detail }
      | none =>
        let rows := m.feedRows cmd
        let k := { k.ask c cmd with cmds := rest, sent := k.sent ++ [(cmd, beat)]
                                    ftqSince := if (s.ctxOf c).cplMode then k.ftqSince else k.ftqSince.or (some beat)
                                    feed := if rows = 0 then k.feed else k.feed ++ [({ cmd := cmd, pushed := 0, rows := rows, since := none } : FeedRun)] }
        s.setCrew crew (k.pushFeed beat)

theorem State.sendCmds_eq (s : State) (c : Fin 4) (crew : Nat) :
    s.sendCmds c crew = (List.range 4).foldl (fun t _ => t.sendCmd c crew (s.spanBeat (crewSpan crew))) s := rfl

/-- A command that goes out, is dropped or fails its check moves the crew's credits, marks its bank, or begins a halt. -/
theorem State.sendCmd_spec (s : State) (c : Fin 4) (crew beat : Nat) :
    s.PortFrame (s.sendCmd c crew beat) c crew ∧ (s.crewOf crew).OnlyAsked ((s.sendCmd c crew beat).crewOf crew) := by
  unfold State.sendCmd
  simp only []
  split
  · exact ⟨.refl .., .of_same rfl⟩
  split
  · exact ⟨.refl .., .of_same rfl⟩
  split
  · refine ⟨.setCrew s c rfl, ?_⟩
    rw [State.setCrew_crewOf_self]
    exact .of_same rfl
  split
  · refine ⟨.raise .., .of_same ?_⟩
    rw [State.crewOf, State.raise_crews]; rfl
  · refine ⟨.setCrew s c (Crew.ask_place ..), ?_⟩
    rw [State.setCrew_crewOf_self]
    exact Crew.OnlyAsked.trans (Crew.onlyAsked_ask _ _ _) (.of_same rfl)

theorem State.sendCmds_spec (s : State) (c : Fin 4) (crew : Nat) :
    s.PortFrame (s.sendCmds c crew) c crew ∧ (s.crewOf crew).OnlyAsked ((s.sendCmds c crew).crewOf crew) := by
  rw [State.sendCmds_eq]
  refine List.foldlRecOn (motive := fun t : State => s.PortFrame t c crew ∧ (s.crewOf crew).OnlyAsked (t.crewOf crew)) _ _
    ⟨.refl .., .of_same rfl⟩ fun t ht n _ => ?_
  obtain ⟨hf, ha⟩ := t.sendCmd_spec c crew (s.spanBeat (crewSpan crew))
  exact ⟨ht.1.trans hf, ht.2.trans ha⟩

/-- Nothing goes out where nothing waits. -/
theorem State.sendCmds_of_nil {s : State} {crew : Nat} (c : Fin 4) (h : (s.crewOf crew).cmds = []) : s.sendCmds c crew = s := by
  rw [State.sendCmds_eq]
  refine List.foldlRecOn (motive := fun t : State => t = s) _ _ rfl fun t ht n _ => ?_
  rw [ht, State.sendCmd, h]

/-! ## A product that has finished -/

theorem State.afterProduct_spec (s : State) (c : Fin 4) (crew : Nat) (b : Bank) :
    s.PortFrame (s.afterProduct c crew b) c crew ∧ (s.crewOf crew).OnlyAsked ((s.afterProduct c crew b).crewOf crew) := by
  obtain ⟨hf, ha⟩ := State.sendCmds_spec (s.setCrew crew ((s.crewOf crew).answered b (s.spanBeat (crewSpan crew)))) c crew
  rw [State.setCrew_crewOf_self] at ha
  have hk : s.PortFrame (s.setCrew crew ((s.crewOf crew).answered b (s.spanBeat (crewSpan crew)))) c crew := .setCrew s c rfl
  have hb : (s.crewOf crew).OnlyAsked ((s.crewOf crew).answered b (s.spanBeat (crewSpan crew))) := .of_same rfl
  exact ⟨hk.trans hf, hb.trans ha⟩

theorem State.afterProduct_of_nil {s : State} {crew : Nat} (c : Fin 4) (b : Bank) (h : (s.crewOf crew).cmds = []) :
    s.afterProduct c crew b = s.setCrew crew ((s.crewOf crew).answered b (s.spanBeat (crewSpan crew))) :=
  State.sendCmds_of_nil c (by rw [State.setCrew_crewOf_self]; exact h)


/-! ## The macro of a bank -/

/-- The macro of a bank's product stands in its stream, under its own number. -/
theorem State.bankRun_some {s : State} {c : Fin 4} {b : Bank} {i : Nat} {m : MacroRun} {p : Plan} (h : s.bankRun c b = some (i, m, p)) :
    s.runAt c true i = some m ∧ m.plan = some p ∧ (s.ctxOf c).exec.byId b.index = some (i, m) := by
  unfold State.bankRun at h
  cases hb : (s.ctxOf c).exec.byId b.index with
  | none => rw [hb] at h; cases h
  | some q =>
    obtain ⟨j, n⟩ := q
    rw [hb] at h
    obtain ⟨p', hp, heq⟩ := Option.map_eq_some_iff.1 h
    cases heq
    exact ⟨(Stream.firstRun_some hb).1, hp, rfl⟩

/-- The first macro of a stream for which `p` holds. -/
theorem Stream.firstRun_eq_some {t : Stream} {p : MacroRun → Bool} {i : Nat} {m : MacroRun} : t.firstRun p = some (i, m) ↔
    ∃ hi : i < t.inflight.length, t.inflight[i] = m ∧ p m = true ∧ ∀ (j : Nat) (hj : j < i), p t.inflight[j] = false := by
  unfold Stream.firstRun
  rw [List.find?_eq_some_iff_getElem]
  constructor
  · rintro ⟨hp, j, hj, he, hb⟩
    rw [List.getElem_zip, List.getElem_range, Prod.mk.injEq] at he
    obtain ⟨rfl, rfl⟩ := he
    refine ⟨by simpa using hj, rfl, hp, fun k hk => ?_⟩
    simpa using hb k hk
  · rintro ⟨hi, rfl, hp, hb⟩
    refine ⟨hp, i, by simpa using hi, by simp, fun k hk => ?_⟩
    simpa using hb k hk

/-- A macro's number does not move with its run. -/
theorem Stream.byId_set {t : Stream} {n i : Nat} {m m' : MacroRun} (h : t.byId n = some (i, m)) (hid : m'.id = m.id) :
    ({ t with inflight := t.inflight.set i m' } : Stream).byId n = some (i, m') := by
  obtain ⟨hi, hm, hp, hb⟩ := Stream.firstRun_eq_some.1 h
  refine Stream.firstRun_eq_some.2 ⟨by simpa using hi, by simp, ?_, fun j hj => ?_⟩
  · rw [hid]; exact hp
  · have hne : i ≠ j := by omega
    simpa [List.getElem_set_ne hne] using hb j hj

theorem State.bankRun_setRun {s : State} {c : Fin 4} {b : Bank} {i : Nat} {m m' : MacroRun} {p : Plan} (h : s.bankRun c b = some (i, m, p))
    (hid : m'.id = m.id) (hplan : m'.plan = m.plan) : (s.setRun c true i m').bankRun c b = some (i, m', p) := by
  obtain ⟨-, hp, hb⟩ := State.bankRun_some h
  have he : ((s.setRun c true i m').ctxOf c).exec = { (s.ctxOf c).exec with inflight := (s.ctxOf c).exec.inflight.set i m' } := by
    rw [State.setRun, State.setCtx_ctxOf_self]; rfl
  rw [State.bankRun, he, Stream.byId_set hb hid]
  simp only [hplan, hp, Option.map_some]

/-! ## The crew takes a product (R331 to R333, R350) -/

theorem Crew.turnBank_place (k : Crew) (n : Nat) (b : Bank) (next : Option Nat) : (k.turnBank n b next).place = k.place := by
  cases next <;> rfl

theorem Crew.foldl_place {α : Type} {f : Crew → α → Crew} (h : ∀ k a, (f k a).place = k.place) (l : List α) (k : Crew) :
    (l.foldl f k).place = k.place :=
  List.foldlRecOn (motive := fun k' : Crew => k'.place = k.place) l f rfl fun k' hk a _ => (h k' a).trans hk

/-- In rig 5 the first phase goes on, on this crew. -/
theorem State.turnGate_frame (s : State) (c : Fin 4) (m : MacroRun) (p : Plan) (crew key : Nat) : s.PortFrame (s.turnGate c m p crew key) c crew := by
  unfold State.turnGate
  simp only []
  split
  · exact .refl ..
  · refine .trans (.setCrew s c ?_) (State.sendCmds_spec ..).1
    split
    · rw [Crew.foldl_place, Crew.foldl_place]
      · intro k q; split
        · exact Crew.turnBank_place ..
        · rfl
      · intro k q; split
        · split
          · rfl
          · exact Crew.turnBank_place ..
        · rfl
    · rw [Crew.foldl_place]
      intro k q; split
      · exact Crew.turnBank_place ..
      · rfl

/-- The macro of a bank after the crew has taken its product. -/
def State.tookProduct (s : State) (c : Fin 4) (b : Bank) (m : MacroRun) (p : Plan) : MacroRun :=
  { m with
    finished := m.finished.set b.product (b.invalid || m.finished.get b.product false)
    counts := if b.invalid then
        { m.counts with events := m.counts.events ++ [⟨3, s.minvIndex c m p b.product, keyCode b.product⟩] }
      else m.counts
    trapped := m.trapped || (b.invalid && bit m.trap 3) }

section
variable {s : State} {c : Fin 4} {b : Bank} {i : Nat} {m : MacroRun} {p : Plan}

theorem State.productDone_eq (crew : Nat) (h : s.bankRun c b = some (i, m, p)) : s.productDone c crew b =
    if m.isRig [5] && decide (keyCode b.product < 2) then
      (s.setRun c true i (s.tookProduct c b m p)).turnGate c (s.tookProduct c b m p) p crew b.product
    else s.setRun c true i (s.tookProduct c b m p) := by
  simp only [State.productDone, h]
  rfl

theorem State.productDone_of_none (crew : Nat) (h : s.bankRun c b = none) : s.productDone c crew b = s := by
  simp only [State.productDone, h]

/-- The macro has its product, with one event more where its sticky bit stands; else at most the crew has moved. -/
theorem State.productDone_frame (crew : Nat) (h : s.bankRun c b = some (i, m, p)) :
    (s.setRun c true i (s.tookProduct c b m p)).PortFrame (s.productDone c crew b) c crew := by
  rw [State.productDone_eq crew h]
  split
  · exact State.turnGate_frame ..
  · exact .refl ..

theorem State.productDone_runAt (crew : Nat) (h : s.bankRun c b = some (i, m, p)) :
    (s.productDone c crew b).runAt c true i = some (s.tookProduct c b m p) := by
  rw [(State.productDone_frame crew h).runAt, State.setRun_runAt _ _ (by rw [(State.bankRun_some h).1]; rfl)]

theorem State.tookProduct_finished (s : State) (c : Fin 4) (b : Bank) (m : MacroRun) (p : Plan) :
    ((s.tookProduct c b m p).finished.find b.product).isSome = true := by
  rw [State.tookProduct, Table.find_set_self]; rfl

theorem State.tookProduct_events (s : State) (c : Fin 4) (b : Bank) (m : MacroRun) (p : Plan) :
    (s.tookProduct c b m p).counts.events.length = m.counts.events.length + if b.invalid then 1 else 0 := by
  cases hb : b.invalid <;> simp [State.tookProduct, hb]

end

end Sys2Proof.Machine

/-! PROOFS of the statements of 02_block_boundary.md: the matrix port (O33). -/

namespace Sys2Proof.Machine

/-! ## Finished entries and finish signals (R51, R331, R332) -/

/-- The ME acts on a bank that it does not own: the context halts (R473). -/
theorem State.bankProtocol_halts {s : State} {c : Fin 4} (crew bank rig : Nat) (h : s.runs c = true) :
    ∃ q, s.Halts (s.bankProtocol c crew bank rig) c q ∧ q.code = 0x0702 :=
  ⟨_, s.raiseBare_halts _ h, rfl⟩

theorem State.Halts.halt {s t : State} {c : Fin 4} {q : Cause} (h : s.Halts t c q) : ∃ x, (t.ctxOf c).halt = some x ∧ x.code = q.code := by
  rw [show t = _ from h, State.setCtx_ctxOf_self]
  exact ⟨_, rfl, rfl⟩

/-- A crew whose entries are taken: its span's owner runs, in Queued mode, and it holds fewer than 8 finished products (R51). -/
structure State.TakesEntries (s : State) (crew : Nat) (c : Fin 4) : Prop where
  owner : s.owner (crewSpan crew) = some c
  runs : s.runs c = true
  queued : (s.ctxOf c).cplMode = false
  room : ((s.crewOf crew).banks.filter (fun e => e.2.finished)).length < 8

section
variable {s : State} {crew bank : Nat} {c : Fin 4} {seq : BitVec 8}

theorem State.TakesEntries.guard (h : s.TakesEntries crew c) :
    (!s.judges c || (s.ctxOf c).cplMode || decide (((s.crewOf crew).banks.filter (fun e => e.2.finished)).length ≥ 8)) = false := by
  rw [State.runs_judges h.runs, h.queued, decide_eq_false (Nat.not_le.2 h.room)]; rfl

/-- An entry that follows in sequence, and names a bank whose product the ME may finish. -/
theorem State.ftqEntry_takes {b : Bank} (invalid : Bool) (h : s.TakesEntries crew c) (hseq : seq = (s.crewOf crew).ftqSeq + 1)
    (hb : (s.crewOf crew).banks.find bank = some b) (hf : b.mayFinish = true) :
    let q := { b with finished := true, asked := false, accumulating := false, crewOwns := true, invalid := invalid }
    s.ftqEntry crew bank seq true invalid = ((s.setCrew crew { s.crewOf crew with
      ftqSeq := seq, ftqRefused := false, banks := (s.crewOf crew).banks.set bank q }).afterProduct c crew q).productDone c crew q := by
  have hok : (!true || decide (seq ≠ (s.crewOf crew).ftqSeq + 1)) = false := by simp [hseq]
  simp only [State.ftqEntry, h.owner, h.guard, hok, hb, hf, Bool.false_eq_true, if_false, if_true]

/-- An entry that follows in sequence, and names any other bank. -/
theorem State.ftqEntry_protocol (invalid : Bool) (h : s.TakesEntries crew c) (hseq : seq = (s.crewOf crew).ftqSeq + 1)
    (hb : ∀ b, (s.crewOf crew).banks.find bank = some b → b.mayFinish = false) :
    ∃ rig, s.ftqEntry crew bank seq true invalid =
      (s.setCrew crew { s.crewOf crew with ftqSeq := seq, ftqRefused := false }).bankProtocol c crew bank rig := by
  have hok : (!true || decide (seq ≠ (s.crewOf crew).ftqSeq + 1)) = false := by simp [hseq]
  cases hfind : (s.crewOf crew).banks.find bank with
  | none =>
    refine ⟨0, ?_⟩
    simp only [State.ftqEntry, h.owner, h.guard, hok, hfind, Bool.false_eq_true, if_false]
  | some b =>
    refine ⟨s.rigOf c (some b), ?_⟩
    simp only [State.ftqEntry, h.owner, h.guard, hok, hfind, hb b hfind, Bool.false_eq_true, if_false]

/-- An entry of bad parity or out of sequence: refused and counted, and after a refused one a halt. -/
theorem State.ftqEntry_refused {parityOk : Bool} (bank : Nat) (invalid : Bool) (h : s.TakesEntries crew c)
    (hbad : ¬(parityOk = true ∧ seq = (s.crewOf crew).ftqSeq + 1)) :
    let counted := s.setCtx c { s.ctxOf c with ftqRetry := satAdd (s.ctxOf c).ftqRetry 1 }
    ((s.crewOf crew).ftqRefused = false →
      s.ftqEntry crew bank seq parityOk invalid = counted.setCrew crew { s.crewOf crew with ftqRefused := true }) ∧
    ((s.crewOf crew).ftqRefused = true →
      ∃ q : Cause, q.code = 0x0701 ∧ s.ftqEntry crew bank seq parityOk invalid = counted.raiseBare c q) := by
  have hno : (!parityOk || decide (seq ≠ (s.crewOf crew).ftqSeq + 1)) = true := by
    cases parityOk with
    | false => rfl
    | true => exact decide_eq_true fun he => hbad ⟨rfl, he⟩
  refine ⟨fun hr => ?_, fun hr => ?_⟩
  · simp only [State.ftqEntry, h.owner, h.guard, hno, hr, Bool.false_eq_true, if_false, if_true]
  · simp only [State.ftqEntry, h.owner, h.guard, hno, hr, Bool.false_eq_true, if_false, if_true]
    exact ⟨{ code := 0x0701, detail := _ }, rfl, rfl⟩

/-- In Direct mode, the signal of a bank whose product the ME may finish. -/
theorem State.finishSignal_takes {b : Bank} (invalid : Bool) (ho : s.owner (crewSpan crew) = some c) (hr : s.runs c = true)
    (hm : (s.ctxOf c).cplMode = true) (hb : (s.crewOf crew).banks.find bank = some b) (hf : b.mayFinish = true) :
    let q := { b with finished := true, asked := false, accumulating := false, invalid := invalid, claimed := true
                      claimedAt := if b.claimed then b.claimedAt else s.spanBeat (crewSpan crew) }
    s.finishSignal crew bank invalid =
      (s.setCrew crew { s.crewOf crew with banks := (s.crewOf crew).banks.set bank q }).afterProduct c crew q := by
  simp only [State.finishSignal, ho, State.runs_judges hr, hm, hb, hf, Bool.not_true, Bool.or_self, Bool.false_eq_true, if_false, if_true]

/-- … and of any other bank. -/
theorem State.finishSignal_protocol (invalid : Bool) (ho : s.owner (crewSpan crew) = some c) (hr : s.runs c = true)
    (hm : (s.ctxOf c).cplMode = true) (hb : ∀ b, (s.crewOf crew).banks.find bank = some b → b.mayFinish = false) :
    ∃ rig, s.finishSignal crew bank invalid = s.bankProtocol c crew bank rig := by
  cases hfind : (s.crewOf crew).banks.find bank with
  | none =>
    refine ⟨0, ?_⟩
    simp only [State.finishSignal, ho, State.runs_judges hr, hm, hfind, Bool.not_true, Bool.or_self, Bool.false_eq_true, if_false]
  | some b =>
    refine ⟨s.rigOf c (some b), ?_⟩
    simp only [State.finishSignal, ho, State.runs_judges hr, hm, hfind, hb b hfind, Bool.not_true, Bool.or_self, Bool.false_eq_true, if_false]

end

/-- A product that finishes in a bank `q` of crew `k`: the port's credits move on, the commands that wait may go out, and of `q` only ASKED may
move then. -/
theorem State.afterProduct_bank {s : State} {k : Crew} {crew bank : Nat} {c : Fin 4} (q : Bank) (hb : k.banks.find bank = some q) :
    let t := (s.setCrew crew k).afterProduct c crew q
    (s.setCrew crew k).PortFrame t c crew ∧ (k.cmds = [] → t = s.setCrew crew (k.answered q (s.spanBeat (crewSpan crew)))) ∧
    (k.cmds = [] ∨ Table.sorted k.banks = true → ∃ asked, (k.cmds = [] → asked = q.asked) ∧
      (t.crewOf crew).banks.find bank = some { q with asked := asked }) := by
  intro t
  obtain ⟨hf, ha⟩ := State.afterProduct_spec (s.setCrew crew k) c crew q
  have hnil : k.cmds = [] → t = s.setCrew crew (k.answered q (s.spanBeat (crewSpan crew))) := fun h => by
    have := State.afterProduct_of_nil (s := s.setCrew crew k) c q (by rw [State.setCrew_crewOf_self]; exact h)
    rwa [State.setCrew_crewOf_self, State.setCrew_setCrew] at this
  refine ⟨hf, hnil, fun h => ?_⟩
  by_cases hc : k.cmds = []
  · refine ⟨q.asked, fun _ => rfl, ?_⟩
    rw [hnil hc, State.setCrew_crewOf_self]
    exact hb
  · rw [State.setCrew_crewOf_self] at ha
    obtain ⟨-, hfind⟩ := ha (h.resolve_left hc)
    obtain ⟨a, hq⟩ := hfind bank q hb
    exact ⟨a, fun h => absurd h hc, hq⟩

/-! ## Claims, releases and grants (R50, R321, R332) -/

/-- A property of what a key holds lasts where everything that is written over it has it. -/
theorem Table.find_foldl_set {α β : Type} {P : α → Prop} {key : β → Nat} {f : β → α} {n : Nat} (l : List β) (t : Table α)
    (hl : ∀ e ∈ l, P (f e)) (ht : ∃ v, t.find n = some v ∧ P v) :
    ∃ v, (l.foldl (fun t e => Table.set (key e) (f e) t) t).find n = some v ∧ P v := by
  refine List.foldlRecOn (motive := fun t : Table α => ∃ v, t.find n = some v ∧ P v) _ _ ht fun t ht e he => ?_
  by_cases h : n = key e
  · subst h
    exact ⟨_, Table.find_set_self .., hl e he⟩
  · rw [Table.find_set_ne _ _ h]
    exact ht

/-- What a grant leaves alone: memory, the other crews, and the count of the ME's waits. -/
structure State.GrantFrame (s t : State) (c : Fin 4) (crew : Nat) : Prop where
  mem : t.mem = s.mem
  others : ∀ j, j ≠ crew → t.crewOf j = s.crewOf j
  waits : (t.ctxOf c).meWaits = (s.ctxOf c).meWaits

namespace State.GrantFrame

variable {s t u : State} {c : Fin 4} {crew : Nat}

theorem refl (s : State) (c : Fin 4) (crew : Nat) : s.GrantFrame s c crew := ⟨rfl, fun _ _ => rfl, rfl⟩

theorem trans (h : s.GrantFrame t c crew) (k : t.GrantFrame u c crew) : s.GrantFrame u c crew :=
  ⟨k.mem.trans h.mem, fun j hj => (k.others j hj).trans (h.others j hj), k.waits.trans h.waits⟩

theorem setCrew (s : State) (c : Fin 4) (crew : Nat) (k : Crew) : s.GrantFrame (s.setCrew crew k) c crew :=
  ⟨rfl, fun _ hj => State.setCrew_crewOf_ne _ _ hj, rfl⟩

theorem setRun (s : State) (c : Fin 4) (crew i : Nat) (m : MacroRun) : s.GrantFrame (s.setRun c true i m) c crew :=
  ⟨rfl, fun _ _ => rfl, by rw [State.setRun, State.setCtx_ctxOf_self]; rfl⟩

end State.GrantFrame

theorem State.PortFrame.grant {s t : State} {c : Fin 4} {crew : Nat} (h : s.PortFrame t c crew) : s.GrantFrame t c crew :=
  ⟨h.mem, h.others, h.meWaits⟩

/-- The accumulation of P_jV_j, once the last output bank of its chain has come back (R319). -/
def State.chainBack (s : State) (c : Fin 4) (crew : Nat) (b : Bank) : State :=
  match s.chainOf c b with
  | some (i, m, p, low) =>
    let all := (s.crewOf crew).outBanks c m.id low
    if keyCode b.product = 4 && all.all (fun e => e.2.crewOwns && e.2.finished) then
      let k := s.crewOf crew
      let s := s.setCrew crew { k with banks := all.foldl (fun t e => t.set e.1 { e.2 with finished := false }) k.banks }
      let a := m.attn.get low {}
      let e := s.evAt c m p low (m.tileAt low)
      s.setRun c true i { m with attn := m.attn.set low (e.attnAccumulate a) }
    else s
  | none => s

/-- Bank `n` of a crew is written. -/
def State.putBank (s : State) (crew n : Nat) (b : Bank) : State :=
  s.setCrew crew { s.crewOf crew with banks := (s.crewOf crew).banks.set n b }

@[simp] theorem State.putBank_find (s : State) (crew n : Nat) (b : Bank) : ((s.putBank crew n b).crewOf crew).banks.find n = some b := by
  rw [State.putBank, State.setCrew_crewOf_self, Table.find_set_self]

@[simp] theorem State.putBank_bankRun (s : State) (c : Fin 4) (crew n : Nat) (b x : Bank) : (s.putBank crew n x).bankRun c b = s.bankRun c b := rfl

@[simp] theorem State.setCrew_runAt (s : State) (c : Fin 4) (n i : Nat) (k : Crew) : (s.setCrew n k).runAt c true i = s.runAt c true i := rfl

@[simp] theorem State.setRun_crewOf (s : State) (c : Fin 4) (i j : Nat) (m : MacroRun) : (s.setRun c true i m).crewOf j = s.crewOf j := rfl

/-- A bank that the crew is granted. -/
def Bank.toCrew (b : Bank) : Bank := { b with crewOwns := true, claimed := false, accumulating := false }

theorem State.toCrew_eq (s : State) (c : Fin 4) (crew bank : Nat) (b : Bank) : s.toCrew c crew bank b =
    if !b.finished || b.crewOwns then s.putBank crew bank b.toCrew
    else ((s.putBank crew bank b.toCrew).productDone c crew b).chainBack c crew b := rfl

theorem State.chainOf_some {s : State} {c : Fin 4} {b : Bank} {i low : Nat} {m : MacroRun} {p : Plan} (h : s.chainOf c b = some (i, m, p, low)) :
    s.bankRun c b = some (i, m, p) := by
  unfold State.chainOf at h
  split at h
  · next j n q hb =>
    split at h
    · cases h; exact hb
    · cases h
  · cases h

section
variable {s : State} {c : Fin 4} {b : Bank} {i : Nat} {m : MacroRun} {p : Plan}

theorem State.chainBack_frame (crew : Nat) (b : Bank) : s.GrantFrame (s.chainBack c crew b) c crew := by
  unfold State.chainBack
  simp only []
  split
  · split
    · exact (State.GrantFrame.setCrew ..).trans (.setRun ..)
    · exact .refl ..
  · exact .refl ..

/-- The banks of the chain stay the crew's; those of any other product are not touched. -/
theorem State.chainBack_bank {crew bank : Nat}
    (h : ∃ x, (s.crewOf crew).banks.find bank = some x ∧ x.crewOwns = true ∧
      (b.product % 16 ≠ 4 → x.claimed = false ∧ x.accumulating = false)) :
    ∃ x, ((s.chainBack c crew b).crewOf crew).banks.find bank = some x ∧ x.crewOwns = true ∧
      (b.product % 16 ≠ 4 → x.claimed = false ∧ x.accumulating = false) := by
  unfold State.chainBack
  simp only []
  split
  · split
    · next hall =>
      obtain ⟨hkey, hall⟩ := Bool.and_eq_true_iff.1 hall
      rw [State.setRun_crewOf, State.setCrew_crewOf_self]
      refine Table.find_foldl_set _ _ (fun e he => ?_) h
      exact ⟨(Bool.and_eq_true_iff.1 (List.all_eq_true.1 hall e he)).1, fun hne => absurd (of_decide_eq_true hkey) hne⟩
    · exact h
  · exact h

/-- The macro keeps its products. -/
theorem State.chainBack_finished (crew : Nat) (h : s.bankRun c b = some (i, m, p)) :
    ∃ m', (s.chainBack c crew b).runAt c true i = some m' ∧ m'.finished = m.finished := by
  have hrun := (State.bankRun_some h).1
  unfold State.chainBack
  simp only []
  split
  · next j n q low hc =>
    have hsame := (State.chainOf_some hc).symm.trans h
    cases hsame
    split
    · exact ⟨_, State.setRun_runAt _ _ (by rw [State.setCrew_runAt, hrun]; rfl), rfl⟩
    · exact ⟨m, hrun, rfl⟩
  · exact ⟨m, hrun, rfl⟩

theorem State.productDone_grant (s : State) (c : Fin 4) (crew : Nat) (b : Bank) : s.GrantFrame (s.productDone c crew b) c crew := by
  cases h : s.bankRun c b with
  | none => rw [State.productDone_of_none crew h]; exact .refl ..
  | some q =>
    obtain ⟨i, m, p⟩ := q
    exact (State.GrantFrame.setRun ..).trans (State.productDone_frame crew h).grant

theorem State.productDone_crewOf (crew : Nat) (h : ∀ i m p, s.bankRun c b = some (i, m, p) → m.isRig [5] = false) (j : Nat) :
    (s.productDone c crew b).crewOf j = s.crewOf j := by
  cases hb : s.bankRun c b with
  | none => rw [State.productDone_of_none crew hb]
  | some q =>
    obtain ⟨i, m, p⟩ := q
    rw [State.productDone_eq crew hb, h i m p hb]
    rfl

theorem State.toCrew_frame (s : State) (c : Fin 4) (crew bank : Nat) (b : Bank) : s.GrantFrame (s.toCrew c crew bank b) c crew := by
  rw [State.toCrew_eq]
  split
  · exact .setCrew ..
  · exact (State.GrantFrame.setCrew ..).trans ((State.productDone_grant ..).trans (State.chainBack_frame ..))

/-- The claimed bank is the crew's. -/
theorem State.toCrew_bank (crew bank : Nat) (h : ∀ i m p, s.bankRun c b = some (i, m, p) → m.isRig [5] = false) :
    ∃ x, ((s.toCrew c crew bank b).crewOf crew).banks.find bank = some x ∧ x.crewOwns = true ∧
      (b.product % 16 ≠ 4 → x.claimed = false ∧ x.accumulating = false) := by
  have hput : ((s.putBank crew bank b.toCrew).crewOf crew).banks.find bank = some b.toCrew := State.putBank_find ..
  rw [State.toCrew_eq]
  split
  · exact ⟨_, hput, rfl, fun _ => ⟨rfl, rfl⟩⟩
  · refine State.chainBack_bank ?_
    rw [State.productDone_crewOf (s := s.putBank crew bank b.toCrew) crew h]
    exact ⟨_, hput, rfl, fun _ => ⟨rfl, rfl⟩⟩

/-- A bank that comes back finished gives its product to its macro. -/
theorem State.toCrew_finished (crew bank : Nat) (hf : b.finished = true) (ho : b.crewOwns = false) (h : s.bankRun c b = some (i, m, p)) :
    ∃ m', (s.toCrew c crew bank b).runAt c true i = some m' ∧ (m'.finished.find b.product).isSome = true := by
  have hdone : ((s.putBank crew bank b.toCrew).productDone c crew b).bankRun c b =
      some (i, (s.putBank crew bank b.toCrew).tookProduct c b m p, p) :=
    ((State.productDone_frame (s := s.putBank crew bank b.toCrew) crew h).bankRun b).trans (State.bankRun_setRun h rfl rfl)
  obtain ⟨m', hrun, hsame⟩ := State.chainBack_finished crew hdone
  rw [State.toCrew_eq, hf, ho, if_neg (by decide)]
  exact ⟨m', hrun, hsame ▸ State.tookProduct_finished ..⟩

end

/-- The ME has the bank. -/
def Bank.toMe (b : Bank) : Bank := { b with crewOwns := false, accumulating := true, meSince := none }

/-- The crew's claim of the bank stands, since `beat` or before. -/
def Bank.keepClaim (b : Bank) (beat : Nat) : Bank := { b with claimed := true, claimedAt := if b.claimed then b.claimedAt else beat }

section
variable {s : State} {crew bank : Nat} {c : Fin 4} {b : Bank}

/-- What BANK_CLAIM_GRANT does with the requests and claims of one bank, after a release. -/
def State.grant (s : State) (c : Fin 4) (crew bank : Nat) (me cr : Bool) : State :=
  let k := s.crewOf crew
  match k.banks.find bank with
  | none => s
  | some b =>
    let kept := if cr then k.keepClaim bank (s.spanBeat (crewSpan crew)) else k
    if me && b.byMe then s.setCrew crew (kept.toMe bank)
    else if cr then
      if b.byMe then s.setCrew crew kept
      else
        let s := if me then s.meWaits c crew bank else s
        s.toCrew c crew bank ((s.crewOf crew).banks.get bank {})
    else if me then (if s.meMay c b && !b.finished then s.setCrew crew (k.toMe bank) else s.meWaits c crew bank)
    else s

theorem State.claimGrant_eq (me cr rel : Bool) (ho : s.owner (crewSpan crew) = some c) (hr : s.runs c = true) :
    s.claimGrant crew bank me cr rel = (if rel then s.meRelease c crew bank else s).grant c crew bank me cr := by
  simp only [State.claimGrant, ho, State.runs_judges hr, Bool.not_true, Bool.false_eq_true, if_false]
  rfl

/-- A bank that no macro has taken is granted and given back in the beat (log 103). -/
theorem State.grant_of_none (c : Fin 4) (me cr : Bool) (h : (s.crewOf crew).banks.find bank = none) : s.grant c crew bank me cr = s := by
  simp only [State.grant, h]

theorem State.grant_idle (s : State) (c : Fin 4) (crew bank : Nat) : s.grant c crew bank false false = s := by
  simp only [State.grant, Bool.false_and, Bool.false_eq_true, if_false]
  split <;> rfl

theorem Table.get_of_find {α : Type} {t : Table α} {n : Nat} {v : α} (d : α) (h : t.find n = some v) : t.get n d = v := by
  rw [Table.get, h]; rfl

theorem State.setCrew_toMe (h : (s.crewOf crew).banks.find bank = some b) :
    s.setCrew crew ((s.crewOf crew).toMe bank) = s.putBank crew bank b.toMe := by
  rw [Crew.toMe, Table.get_of_find _ h]; rfl

theorem State.setCrew_keepClaim (beat : Nat) (h : (s.crewOf crew).banks.find bank = some b) :
    s.setCrew crew ((s.crewOf crew).keepClaim bank beat) = s.putBank crew bank (b.keepClaim beat) := by
  rw [Crew.keepClaim, Table.get_of_find _ h]; rfl

theorem State.setCrew_keepClaim_toMe (beat : Nat) (h : (s.crewOf crew).banks.find bank = some b) :
    s.setCrew crew (((s.crewOf crew).keepClaim bank beat).toMe bank) = s.putBank crew bank (b.keepClaim beat).toMe := by
  simp only [Crew.toMe, Crew.keepClaim, Table.get_of_find _ h, Table.get_set_self, Table.set_set]
  rfl

/-- The ME's request of a bank that it has is granted, and the crew's claim stands. -/
theorem State.grant_byMe (c : Fin 4) (cr : Bool) (h : (s.crewOf crew).banks.find bank = some b) (hb : b.byMe = true) :
    s.grant c crew bank true cr = s.putBank crew bank (if cr then b.keepClaim (s.spanBeat (crewSpan crew)) else b).toMe := by
  simp only [State.grant, h, hb, Bool.and_self, if_true]
  cases cr with
  | false => exact State.setCrew_toMe h
  | true => exact State.setCrew_keepClaim_toMe _ h

/-- … and that of a bank that it may have. -/
theorem State.grant_meMay (h : (s.crewOf crew).banks.find bank = some b) (hm : s.meMay c b = true) (hf : b.finished = false) :
    s.grant c crew bank true false = s.putBank crew bank b.toMe := by
  cases hb : b.byMe with
  | true => exact State.grant_byMe c false h hb
  | false =>
    simp only [State.grant, h, hb, hm, hf, Bool.and_false, Bool.not_false, Bool.and_true, Bool.false_eq_true, if_false, if_true]
    exact State.setCrew_toMe h

/-- The ME waits for any other bank. -/
theorem State.grant_waits (h : (s.crewOf crew).banks.find bank = some b) (hb : b.byMe = false)
    (hm : s.meMay c b = false ∨ b.finished = true) : s.grant c crew bank true false = s.meWaits c crew bank := by
  have hno : (s.meMay c b && !b.finished) = false := by
    rcases hm with hm | hm <;> simp [hm]
  simp only [State.grant, h, hb, hno, Bool.and_false, Bool.false_eq_true, if_false, if_true]

/-- The crew's claim stands while the product accumulates. -/
theorem State.grant_kept (c : Fin 4) (h : (s.crewOf crew).banks.find bank = some b) (hb : b.byMe = true) :
    s.grant c crew bank false true = s.putBank crew bank (b.keepClaim (s.spanBeat (crewSpan crew))) := by
  simp only [State.grant, h, hb, Bool.false_and, Bool.false_eq_true, if_false, if_true]
  exact State.setCrew_keepClaim _ h

/-- The crew's claim of a bank that the ME has given up is granted. -/
theorem State.grant_claim (c : Fin 4) (me : Bool) (h : (s.crewOf crew).banks.find bank = some b) (hb : b.byMe = false) :
    s.grant c crew bank me true =
      let t := if me then s.meWaits c crew bank else s
      t.toCrew c crew bank ((t.crewOf crew).banks.get bank {}) := by
  simp only [State.grant, h, hb, Bool.and_false, Bool.false_eq_true, if_false, if_true]

/-- A bank for which the ME waits, since `beat` or before. -/
def Bank.waits (b : Bank) (beat : Nat) : Bank := { b with meSince := b.meSince.or (some beat) }

theorem State.meWaits_eq (c : Fin 4) (h : (s.crewOf crew).banks.find bank = some b) : s.meWaits c crew bank =
    (s.setCtx c { s.ctxOf c with meWaits := satAdd (s.ctxOf c).meWaits 1 }).putBank crew bank (b.waits (s.spanBeat (crewSpan crew))) := by
  simp only [State.meWaits, Table.get_of_find _ h]
  rfl

/-- The claim granted, with the ME's request of the same bank, if any, counted and timed. -/
theorem State.grant_claim_cases (c : Fin 4) (me : Bool) (h : (s.crewOf crew).banks.find bank = some b) (hb : b.byMe = false) :
    ∃ (u : State) (x : Bank), s.grant c crew bank me true = u.toCrew c crew bank x ∧ u.mem = s.mem ∧
      (∀ j, j ≠ crew → u.crewOf j = s.crewOf j) ∧
      (u.ctxOf c).meWaits = (if me then satAdd (s.ctxOf c).meWaits 1 else (s.ctxOf c).meWaits) ∧ u.bankRun c x = s.bankRun c b ∧
      x.product = b.product ∧ x.finished = b.finished ∧ x.crewOwns = b.crewOwns := by
  rw [State.grant_claim c me h hb]
  cases me with
  | false => exact ⟨s, b, by simp only [Bool.false_eq_true, if_false, Table.get_of_find _ h], rfl, fun _ _ => rfl, rfl, rfl, rfl, rfl, rfl⟩
  | true =>
    refine ⟨s.meWaits c crew bank, b.waits (s.spanBeat (crewSpan crew)), ?_, rfl, fun j hj => ?_, ?_, ?_, rfl, rfl, rfl⟩
    · have hx : ((s.meWaits c crew bank).crewOf crew).banks.get bank {} = b.waits (s.spanBeat (crewSpan crew)) := by
        rw [State.meWaits_eq c h]
        exact Table.get_of_find _ (State.putBank_find ..)
      simp only [if_true, hx]
    · rw [State.meWaits_eq c h]
      exact State.setCrew_crewOf_ne _ _ hj
    · rw [State.meWaits_eq c h, State.putBank, State.setCrew_ctxOf, State.setCtx_ctxOf_self]; rfl
    · rw [State.meWaits_eq c h, State.putBank_bankRun]
      unfold State.bankRun
      rw [State.setCtx_ctxOf_self]; rfl

/-- A release of a bank that the ME does not own is against the protocol. -/
theorem State.meRelease_protocol (c : Fin 4)
    (h : ∀ b, (s.crewOf crew).banks.find bank = some b → b.crewOwns = true ∨ (b.accumulating = false ∧ b.finished = false)) :
    ∃ rig, s.meRelease c crew bank = s.bankProtocol c crew bank rig := by
  cases hfind : (s.crewOf crew).banks.find bank with
  | none => exact ⟨0, by simp only [State.meRelease, hfind]⟩
  | some b =>
    have hno : (b.crewOwns || !(b.accumulating || b.finished)) = true := by
      rcases h b hfind with hb | ⟨ha, hf⟩
      · simp [hb]
      · simp [ha, hf]
    exact ⟨s.rigOf c (some b), by simp only [State.meRelease, hfind, hno, if_true]⟩

/-- The ME gives up a bank that it owns and that the crew does not claim. -/
theorem State.meRelease_gives (c : Fin 4) (h : (s.crewOf crew).banks.find bank = some b) (ho : b.crewOwns = false)
    (ha : b.accumulating = true ∨ b.finished = true) (hc : b.claimed = false) :
    s.meRelease c crew bank = s.putBank crew bank { b with accumulating := false } := by
  have hno : (b.crewOwns || !(b.accumulating || b.finished)) = false := by
    rcases ha with ha | ha <;> simp [ho, ha]
  simp only [State.meRelease, h, hno, hc, Bool.false_eq_true, if_false]
  rfl

end

/-! ## Timeouts of the port (R52, R321) -/

/-- A record whose first two fields are a byte each. -/
theorem pack_two_bytes (u v w x y m n o j l : Nat) : pack [(0, 1, u), (1, 1, v), (2, m, w), (2 + j, n, x), (2 + l, o, y)] =
    u % 256 + 256 * (v % 256 + 256 * (w % 256 ^ m + x % 256 ^ n * 256 ^ j + y % 256 ^ o * 256 ^ l)) := by
  simp only [pack, List.foldl, Nat.zero_add, Nat.pow_zero, Nat.pow_one, Nat.mul_one, Nat.pow_add]
  ring

/-- The first byte of such a record is the unit concerned, the second its index (R481). -/
theorem hwDetail_unit_index (u v w x y : Nat) : hwDetail u v w x y % 256 = u % 256 ∧ hwDetail u v w x y / 256 % 256 = v % 256 := by
  rw [show hwDetail u v w x y = _ from pack_two_bytes u v w x y 2 4 8 2 6]
  have h : ∀ a b r : Nat, a < 256 → b < 256 → (a + 256 * (b + 256 * r)) % 256 = a ∧ (a + 256 * (b + 256 * r)) / 256 % 256 = b := by omega
  exact h _ _ _ (Nat.mod_lt _ (by decide)) (Nat.mod_lt _ (by decide))

/-- A wait for a bank that has lasted 16,384 beats: the crew's claim, or the ME's request. -/
def Bank.late (b : Bank) (beat : Nat) : Prop :=
  (b.claimed = true ∧ b.claimedAt + 16384 ≤ beat) ∨ ∃ u, b.meSince = some u ∧ u + 16384 ≤ beat

/-- A wait on a channel of the port that has lasted its time. -/
def Crew.late (k : Crew) (beat : Nat) : Fin 4 → Prop
  | 0 => ∃ e ∈ k.banks, e.2.late beat
  | 1 => ∃ u, k.ftqSince = some u ∧ u + 65536 ≤ beat
  | 2 => ∃ f ∈ k.feed, ∃ u, f.since = some u ∧ u + 16384 ≤ beat
  | 3 => ∃ q ∈ k.sent, q.2 + 16384 ≤ beat

theorem since_late {o : Option Nat} {n beat : Nat} :
    (match o with | some t => decide (beat ≥ t + n) | none => false) = true ↔ ∃ u, o = some u ∧ u + n ≤ beat := by
  cases o <;> simp

theorem Bank.late_iff {b : Bank} {beat : Nat} : (b.claimed && decide (beat ≥ b.claimedAt + 16384) ||
    (match b.meSince with | some t => decide (beat ≥ t + 16384) | none => false)) = true ↔ b.late beat := by
  rw [Bool.or_eq_true, Bool.and_eq_true, decide_eq_true_iff, since_late, Bank.late]

theorem find?_map_eq_none_iff {α β : Type} {p : α → Bool} {P : α → Prop} (h : ∀ a, p a = true ↔ P a) (f : α → β) (l : List α) :
    (l.find? p).map f = none ↔ ¬∃ a ∈ l, P a := by
  simp [h]

/-- A timeout of a channel is due exactly where a wait on it has lasted its time. -/
theorem Crew.timedOut_eq_none (k : Crew) (c : Fin 4) (beat : Nat) : ∀ ch : Fin 4, k.timedOut c ch.val beat = none ↔ ¬k.late beat ch
  | 0 => find?_map_eq_none_iff (fun _ => Bank.late_iff) _ _
  | 1 => by cases hf : k.ftqSince <;> simp [Crew.timedOut, Crew.late, hf]
  | 2 => find?_map_eq_none_iff (fun _ => since_late) _ _
  | 3 => find?_map_eq_none_iff (fun _ => decide_eq_true_iff) _ _

/-- That of a claim names a bank that waits. -/
theorem Crew.timedOut_bank {k : Crew} {c : Fin 4} {beat n : Nat} (h : k.timedOut c 0 beat = some n) :
    ∃ e ∈ k.banks, e.2.late beat ∧ e.1 = n := by
  obtain ⟨e, he, rfl⟩ := Option.map_eq_some_iff.1 h
  have hlate := List.find?_some he
  exact ⟨e, List.mem_of_find?_eq_some he, Bank.late_iff.1 hlate, rfl⟩

section
variable {s : State} {crew : Nat} {c : Fin 4}

theorem State.portTimeout_none {ch : Fin 4} (ho : s.owner (crewSpan crew) = some c) (hr : s.runs c = true)
    (h : ¬(s.crewOf crew).late (s.spanBeat (crewSpan crew)) ch) : s.portTimeout crew ch.val = s := by
  simp only [State.portTimeout, ho, State.runs_judges hr, (Crew.timedOut_eq_none ..).2 h, if_true]

theorem State.portTimeout_halts {ch : Fin 4} (ho : s.owner (crewSpan crew) = some c) (hr : s.runs c = true)
    (h : (s.crewOf crew).late (s.spanBeat (crewSpan crew)) ch) :
    ∃ n q, (s.crewOf crew).timedOut c ch.val (s.spanBeat (crewSpan crew)) = some n ∧
      s.Halts (s.portTimeout crew ch.val) c q ∧ q.code = 0x0A02 ∧ q.detail = hwDetail 8 n 0xFFFF 0 0 := by
  obtain ⟨n, hn⟩ := Option.ne_none_iff_exists'.1 fun hnone => (Crew.timedOut_eq_none _ c _ ch).1 hnone h
  have hp : s.portTimeout crew ch.val = s.raiseBare c { code := 0x0A02, detail := hwDetail 8 n 0xFFFF 0 0 } := by
    simp only [State.portTimeout, ho, State.runs_judges hr, hn, if_true]
  rw [hp]
  exact ⟨n, _, hn, s.raiseBare_halts _ hr, rfl, rfl⟩

end

/-! ## Corrections that commit (R318 to R320) -/

/-- The score bank of a correction is the ME's again; while key tiles follow, for the scores of the next but one. -/
def Bank.spent (b : Bank) (more : Bool) : Bank :=
  { b with crewOwns := false, finished := false, claimed := false, meSince := none, accumulating := more }

/-- The state of a correction that commits, before its commands go out. -/
def State.rescaled (s : State) (c : Fin 4) (i : Nat) (m : MacroRun) (p : Plan) (low core : Nat) : State :=
  let a := m.attn.get low {}
  let crew := coreCrew core
  let a' := (s.evAt c m p low (m.tileAt low)).attnStep a
  let rose : Bool := a'.rows.any (fun r => r.rises.getLastD false)
  let more : Bool := decide (a.next + 2 < m.keyTiles p low)
  let k := s.crewOf crew
  let banks := match k.scoreBank c m.id low a.next with
    | some (n, b) => k.banks.set n (b.spent more)
    | none => k.banks
  let pv : List MeCmd := (k.outBanks c m.id low).map (fun e => ⟨m.id, e.2.product, a.next⟩)
  let cmds := pv ++ (if more then [(⟨m.id, prodKey low (a.next % 2) 3, a.next + 2⟩ : MeCmd)] else [])
  let s := s.setCrew crew { k with banks := banks, cmds := k.cmds ++ cmds }
  let x := s.ctxOf c
  let s := s.setCtx c { x with rescales := if rose then satAdd x.rescales (ceilDiv (at6 p.sizes 0) 64) else x.rescales }
  s.setRun c true i { m with attn := m.attn.set low a' }

section
variable {s : State} {c : Fin 4} {m : MacroRun} {p : Plan} {low core i : Nat}

theorem State.correctChain_eq (s : State) (c : Fin 4) (i : Nat) (m : MacroRun) (p : Plan) (low core : Nat) :
    s.correctChain c i m p low core = ((s.rescaled c i m p low core).sendCmds c (coreCrew core)).swapDue core := rfl

theorem State.rescaled_inflight (s : State) (c : Fin 4) (i : Nat) (m : MacroRun) (p : Plan) (low core : Nat) :
    ((s.rescaled c i m p low core).ctxOf c).exec.inflight = (s.ctxOf c).exec.inflight.set i
      { m with attn := m.attn.set low ((s.evAt c m p low (m.tileAt low)).attnStep (m.attn.get low {})) } := by
  unfold State.rescaled
  simp only []
  rw [State.setRun, State.setCtx_ctxOf_self, State.setCtx_ctxOf_self]
  rfl

theorem State.rescaled_banks {n : Nat} {b : Bank} (h : (s.crewOf (coreCrew core)).scoreBank c m.id low (m.attn.get low {}).next = some (n, b)) :
    ((s.rescaled c i m p low core).crewOf (coreCrew core)).banks =
      (s.crewOf (coreCrew core)).banks.set n (b.spent (decide ((m.attn.get low {}).next + 2 < m.keyTiles p low))) := by
  simp only [State.rescaled, State.setRun, State.setCtx_crewOf, State.setCrew_crewOf_self, h]

theorem State.swapDue_of_nil (h : (s.coreOf core).dueSwaps = []) : s.swapDue core = s := by
  simp only [State.swapDue, h, decide_true, Bool.true_or, if_true]

theorem MacroRun.tileMayRun_executing {t : Nat} {r : TileRun} (h : m.tileMayRun p t r = true) : r.status = .executing := by
  simp only [MacroRun.tileMayRun, Bool.and_eq_true, decide_eq_true_iff] at h
  obtain ⟨⟨⟨⟨hstatus, -⟩, -⟩, -⟩, -⟩ := h
  exact hstatus

/-- A row of a macro kind does nothing while no tile of the stream executes. -/
theorem State.runKind_of_none {execute : Bool} (is : MacroRun → Bool) (f : Ev → TileOut)
    (h : ∀ m ∈ ((s.ctxOf c).stream execute).inflight, ∀ e ∈ m.tiles, e.2.status ≠ .executing) : s.runKind c execute is f = s := by
  unfold State.runKind
  split
  · rfl
  split
  · rfl
  next i m hrun =>
    obtain ⟨hat, hp⟩ := Stream.firstRun_some hrun
    obtain ⟨-, hp⟩ := Bool.and_eq_true_iff.1 hp
    split at hp
    · next q hq =>
      obtain ⟨e, he, hmay⟩ := List.any_eq_true.1 hp
      exact absurd (MacroRun.tileMayRun_executing hmay) (h m (List.mem_of_getElem? hat) e he)
    · cases hp

/-- The one macro in flight has one correction staged: it is the one that commits. -/
theorem State.corrections_one {rig : Nat} {a : AttnRun} (hr : s.runs c = true) (hin : (s.ctxOf c).exec.inflight = [m]) (hp : m.plan = some p)
    (ha : m.attn = [(low, a)]) (hst : a.staged = some core) (hrig : m.isRig [rig] = true) :
    s.corrections c rig = s.correctChain c 0 m p low core := by
  have hb := State.runs_inBeat hr
  have hid : (s.ctxOf c).exec.byId m.id = some (0, m) := by
    simp [Stream.byId, Stream.firstRun, hin]
  simp only [State.corrections, hb, hin, hrig, ha, hst, List.flatMap_cons, List.flatMap_nil, List.append_nil, List.filterMap, Option.map_some,
    if_true, List.foldl_cons, List.foldl_nil, hid, hp, Bool.not_true, Bool.false_eq_true, if_false]

/-- The commands of the next products may go out, and with them begin a halt; the rest of the committed correction stands, and of the banks only
ASKED may move then. -/
theorem State.correctChain_spec {n : Nat} {a : AttnRun} {b : Bank} (ha : m.attn.get low {} = a)
    (hsw : (s.coreOf core).dueSwaps = []) (hs : Table.sorted (s.crewOf (coreCrew core)).banks = true)
    (hb : (s.crewOf (coreCrew core)).scoreBank c m.id low a.next = some (n, b)) :
    let t := s.correctChain c i m p low core
    (t.mem = s.mem ∧ t.cores = s.cores ∧ t.spans = s.spans) ∧
    (t.ctxOf c).exec.inflight = (s.ctxOf c).exec.inflight.set i
      { m with attn := m.attn.set low ((s.evAt c m p low (m.tileAt low)).attnStep a) } ∧
    ∃ asked, (t.crewOf (coreCrew core)).banks.find n = some { b.spent (decide (a.next + 2 < m.keyTiles p low)) with asked := asked } := by
  subst ha
  obtain ⟨hf, hasked⟩ := (s.rescaled c i m p low core).sendCmds_spec c (coreCrew core)
  have hcores : ((s.rescaled c i m p low core).sendCmds c (coreCrew core)).cores = s.cores := hf.cores
  have heq : s.correctChain c i m p low core = (s.rescaled c i m p low core).sendCmds c (coreCrew core) := by
    rw [State.correctChain_eq]
    exact State.swapDue_of_nil (by rw [State.coreOf, hcores]; exact hsw)
  have hbanks := State.rescaled_banks (i := i) (p := p) hb
  obtain ⟨-, hfind⟩ := hasked (by rw [hbanks]; exact Table.sorted_set _ _ hs)
  obtain ⟨asked, hq⟩ := hfind n _ (by rw [hbanks, Table.find_set_self])
  rw [heq]
  exact ⟨⟨hf.mem, hcores, hf.spans⟩, (congrArg Stream.inflight hf.exec).trans (State.rescaled_inflight ..), asked, hq⟩

end

/-! ## The rows of the port (O33) -/

section
variable {s : State} {crew bank : Nat} {c : Fin 4} {seq : BitVec 8} {b : Bank} {i : Nat} {m : MacroRun} {p : Plan}

/-- A bank whose finished entry is taken: the product is the crew's. -/
def Bank.entered (b : Bank) (invalid : Bool) : Bank :=
  { b with finished := true, asked := false, accumulating := false, crewOwns := true, invalid := invalid }

/-- A crew that takes an entry. -/
def Crew.entered (k : Crew) (seq : BitVec 8) (bank : Nat) (b : Bank) : Crew :=
  { k with ftqSeq := seq, ftqRefused := false, banks := k.banks.set bank b }

/-- The entry that is taken gives the bank to the crew and the product to its macro. -/
theorem State.ftqEntry_finishes (invalid : Bool) (h : s.TakesEntries crew c) (hseq : seq = (s.crewOf crew).ftqSeq + 1)
    (hb : (s.crewOf crew).banks.find bank = some b) (hf : b.mayFinish = true) (hrun : s.bankRun c b = some (i, m, p)) :
    ∃ u : State, (s.setCrew crew ((s.crewOf crew).entered seq bank (b.entered invalid))).PortFrame u c crew ∧
      u.bankRun c (b.entered invalid) = some (i, m, p) ∧
      s.ftqEntry crew bank seq true invalid = u.productDone c crew (b.entered invalid) ∧
      ((s.crewOf crew).cmds = [] → (u.ctxOf c).halt = none) ∧
      ((s.crewOf crew).cmds = [] ∨ Table.sorted (s.crewOf crew).banks = true → ∃ asked, ((s.crewOf crew).cmds = [] → asked = false) ∧
        (u.crewOf crew).banks.find bank = some { b.entered invalid with asked := asked }) := by
  obtain ⟨hframe, hnil, hbank⟩ := State.afterProduct_bank (s := s) (crew := crew) (c := c)
    (k := (s.crewOf crew).entered seq bank (b.entered invalid)) (b.entered invalid) (Table.find_set_self bank _ _)
  refine ⟨_, hframe, (hframe.bankRun _).trans hrun, State.ftqEntry_takes invalid h hseq hb hf, fun hc => ?_, fun hs => hbank ?_⟩
  · rw [hnil hc]
    exact ((s.runs_iff c).1 h.runs).2
  · exact hs.imp id (Table.sorted_set _ _)

theorem State.onlyCtx_setCtx (s : State) (c : Fin 4) (x : Ctx) : s.OnlyCtx (s.setCtx c x) c := by
  rw [State.OnlyCtx, State.setCtx_ctxOf_self]

/-- A bad entry after a refused one halts the context, and counts. -/
theorem State.ftqEntry_refused_again {parityOk : Bool} (bank : Nat) (invalid : Bool) (h : s.TakesEntries crew c)
    (hbad : ¬(parityOk = true ∧ seq = (s.crewOf crew).ftqSeq + 1)) (href : (s.crewOf crew).ftqRefused = true) :
    ∃ t x, s.ftqEntry crew bank seq parityOk invalid = t ∧ s.OnlyCtx t c ∧ (t.ctxOf c).ftqRetry = satAdd (s.ctxOf c).ftqRetry 1 ∧
      (t.ctxOf c).halt = some x ∧ x.code = 0x0701 := by
  obtain ⟨q, hcode, heq⟩ := (State.ftqEntry_refused bank invalid h hbad).2 href
  have hr : (s.setCtx c { s.ctxOf c with ftqRetry := satAdd (s.ctxOf c).ftqRetry 1 }).runs c = true := by
    rw [State.runs_iff, State.setCtx_ctxOf_self]
    exact (s.runs_iff c).1 h.runs
  have hq := State.raiseBare_halts _ q hr
  obtain ⟨x, hx, hxc⟩ := hq.halt
  refine ⟨_, x, heq, ?_, ?_, hx, hxc.trans hcode⟩
  · rw [show _ = _ from hq, State.setCtx_setCtx]
    exact State.onlyCtx_setCtx ..
  · rw [show _ = _ from hq, State.setCtx_ctxOf_self, State.setCtx_ctxOf_self]

/-- In rig 5 the first phase may go on; in any other the crew, and the rest of the context, stay as they were. -/
theorem State.productDone_otherRig (h : s.bankRun c b = some (i, m, p)) (hrig : m.isRig [5] = false) :
    (∀ j, (s.productDone c crew b).crewOf j = s.crewOf j) ∧ ((s.productDone c crew b).ctxOf c).halt = (s.ctxOf c).halt := by
  rw [State.productDone_eq crew h, hrig]
  refine ⟨fun _ => rfl, ?_⟩
  rw [Bool.false_and, if_neg Bool.false_ne_true, State.setRun, State.setCtx_ctxOf_self]
  rfl

end

/-- Settles O33: each row of the port is its own lemma above; this assembles them. -/
theorem matrixPortMovesBanks : Obligations.MatrixPortMovesBanks := by
  refine ⟨?_, ?_, ?_, ?_, ?_, ?_⟩
  · intro crew bank seq parityOk invalid s c k ok ho hr hm hroom
    have htakes : s.TakesEntries crew.val c := ⟨ho, hr, hm, hroom⟩
    refine ⟨fun b i m p hok hb hf hrun => ?_, fun hok hb => ?_, fun hbad href => ?_, fun hbad href => ?_⟩
    · obtain ⟨rfl, hseq⟩ := hok
      obtain ⟨u, hframe, hurun, heq, hhalt, hbank⟩ := State.ftqEntry_finishes invalid htakes hseq hb hf hrun
      have hgrant := State.productDone_grant u c crew.val (b.entered invalid)
      have hplace := ((State.productDone_frame crew.val hurun).place).trans hframe.place
      rw [State.setCrew_crewOf_self] at hplace
      obtain ⟨hs, hrf⟩ := Prod.mk.inj hplace
      refine ⟨_, _, congrArg Host.Outcome.next heq, hgrant.mem.trans hframe.mem, fun j hj => ?_, hs, hrf, fun hrig hc => ?_, fun hrig hc => ?_,
        State.productDone_runAt _ hurun, State.tookProduct_finished u c (b.entered invalid) m p,
        State.tookProduct_events u c (b.entered invalid) m p⟩
      · rw [hgrant.others j hj, hframe.others j hj, State.setCrew_crewOf_ne _ _ hj]
      · rw [(State.productDone_otherRig hurun hrig).2, hhalt hc]
      · obtain ⟨asked, hno, hfind⟩ := hbank hc
        refine ⟨asked, hno, ?_⟩
        rw [(State.productDone_otherRig hurun hrig).1]
        exact hfind
    · obtain ⟨rfl, hseq⟩ := hok
      obtain ⟨rig, heq⟩ := State.ftqEntry_protocol invalid htakes hseq hb
      obtain ⟨q, hq, hcode⟩ := State.bankProtocol_halts crew.val bank.val rig
        (s := s.setCrew crew.val { k with ftqSeq := seq, ftqRefused := false }) hr
      obtain ⟨x, hx, hxc⟩ := hq.halt
      refine ⟨_, x, congrArg Host.Outcome.next heq, by rw [show _ = _ from hq]; rfl, ?_, hx, hxc.trans hcode⟩
      rw [show _ = _ from hq, State.setCtx_crewOf, State.setCrew_crewOf_self]
    · exact congrArg Host.Outcome.next ((State.ftqEntry_refused bank.val invalid htakes hbad).1 href)
    · obtain ⟨t, x, heq, hagain⟩ := State.ftqEntry_refused_again bank.val invalid htakes hbad href
      exact ⟨t, x, congrArg Host.Outcome.next heq, hagain⟩
  · intro crew bank invalid s c ho hr hm k
    refine ⟨fun b hb hf => ?_, fun hb => ?_⟩
    · obtain ⟨hframe, hnil, hbank⟩ := State.afterProduct_bank (s := s) (crew := crew.val) (c := c) (bank := bank.val)
        (k := { k with banks := k.banks.set bank.val { b with
             finished := true, asked := false, accumulating := false, invalid := invalid, claimed := true
             claimedAt := if b.claimed then b.claimedAt else s.spanBeat (crewSpan crew.val) } }) _ (Table.find_set_self bank.val _ _)
      refine ⟨_, congrArg Host.Outcome.next (State.finishSignal_takes invalid ho hr hm hb hf), hframe.mem, fun hc => ?_, fun hc => hbank ?_⟩
      · rw [hnil hc, State.OnlyCrew, State.setCrew_crewOf_self]
      · exact hc.imp id (Table.sorted_set _ _)
    · obtain ⟨rig, heq⟩ := State.finishSignal_protocol invalid ho hr hm hb
      obtain ⟨q, hq, hcode⟩ := State.bankProtocol_halts crew.val bank.val rig hr
      exact ⟨_, q, congrArg Host.Outcome.next heq, hq, hcode⟩
  · intro crew bank me cr s c b ho hr hb k beat put counted kept
    have hgrant : ∀ me cr, exec (.bankClaimGrant crew bank ⟨me, false⟩ cr) s = .next (s.grant c crew.val bank.val me cr) := fun me cr =>
      congrArg Host.Outcome.next (State.claimGrant_eq me cr false ho hr)
    have hrelease : exec (.bankClaimGrant crew bank ⟨false, true⟩ false) s = .next (s.meRelease c crew.val bank.val) :=
      congrArg Host.Outcome.next ((State.claimGrant_eq false false true ho hr).trans (State.grant_idle ..))
    refine ⟨?_, ?_, ?_, ?_, ?_, ?_, ?_⟩
    · rintro rfl hmay
      rw [hgrant]
      rcases hmay with hby | ⟨rfl, hmay, hf⟩
      · rw [State.grant_byMe c cr hb hby]; rfl
      · rw [State.grant_meMay hb hmay hf]; rfl
    · rintro rfl rfl hby hmay
      rw [hgrant, State.grant_waits hb hby hmay, State.meWaits_eq c hb]; rfl
    · rintro rfl rfl hby
      rw [hgrant, State.grant_kept c hb hby]; rfl
    · rintro rfl hby
      obtain ⟨u, x, heq, hmem, hothers, hwaits, hrun, hprod, hfin, hown⟩ := State.grant_claim_cases c me hb hby
      have hframe := State.toCrew_frame u c crew.val bank.val x
      refine ⟨_, (hgrant me true).trans (congrArg Host.Outcome.next heq), hframe.mem.trans hmem,
        fun j hj => (hframe.others j hj).trans (hothers j hj), hframe.waits.trans hwaits, fun hrig => ?_, fun hf hc i m p hbr => ?_⟩
      · rw [← hprod]
        exact State.toCrew_bank _ _ (by rw [hrun]; exact hrig)
      · rw [← hprod]
        exact State.toCrew_finished _ _ (hfin.trans hf) (hown.trans hc) (hrun.trans hbr)
    · rintro rfl rfl
      rw [hgrant, State.grant_idle]
    · rintro rfl rfl hno
      obtain ⟨rig, heq⟩ := State.meRelease_protocol (s := s) (crew := crew.val) (bank := bank.val) c fun b' hb' => by
        rw [hb] at hb'; cases hb'; exact hno
      obtain ⟨q, hq, hcode⟩ := State.bankProtocol_halts crew.val bank.val rig hr
      exact ⟨_, q, hrelease.trans (congrArg Host.Outcome.next heq), hq, hcode⟩
    · rintro rfl rfl hown hacc hcl
      rw [hrelease, State.meRelease_gives c hb hown hacc hcl]; rfl
  · intro crew bank me cr s c ho hr hnone
    refine ⟨congrArg Host.Outcome.next ((State.claimGrant_eq me cr false ho hr).trans (State.grant_of_none c me cr hnone)), ?_⟩
    obtain ⟨rig, heq⟩ := State.meRelease_protocol (s := s) (crew := crew.val) (bank := bank.val) c fun b' hb' => by
      rw [hnone] at hb'; cases hb'
    obtain ⟨q, hq, hcode⟩ := State.bankProtocol_halts crew.val bank.val rig hr
    refine ⟨_, q, congrArg Host.Outcome.next ((State.claimGrant_eq me cr true ho hr).trans ?_), hq, hcode⟩
    rw [if_pos rfl, heq]
    refine State.grant_of_none c me cr ?_
    rw [show _ = _ from hq, State.setCtx_crewOf, hnone]
  · intro crew ch beat s c ho hr k now waits late
    have ho' : (s.advanceTo beat).owner (crewSpan crew.val) = some c := by rw [State.advanceTo_owner]; exact ho
    have hr' : (s.advanceTo beat).runs c = true := by rw [State.advanceTo_runs]; exact hr
    have hlate : ((s.advanceTo beat).crewOf crew.val).late now ch ↔ late := by
      rw [State.advanceTo_crewOf]
      dsimp only [late]
      split <;> rfl
    refine ⟨fun h => ?_, fun h => congrArg Host.Outcome.next (State.portTimeout_none ho' hr' (mt hlate.1 h))⟩
    obtain ⟨n, q, hn, hq, hcode, hdetail⟩ := State.portTimeout_halts ho' hr' (hlate.2 h)
    obtain ⟨hunit, hindex⟩ := hwDetail_unit_index 8 n 0xFFFF 0 0
    refine ⟨_, q, rfl, hq, hcode, by rw [hdetail, hunit], ?_⟩
    rintro rfl
    obtain ⟨e, he, hl, rfl⟩ := Crew.timedOut_bank hn
    rw [State.advanceTo_crewOf] at he
    exact ⟨e, he, hl, by rw [hdetail, hindex]⟩
  · intro c s m p low core n a b hr hin hp ha hst htiles hsw hsorted hb row hrow hrig
    have hget : m.attn.get low {} = a := by rw [ha]; exact Table.get_set_self low a {} []
    obtain ⟨⟨hmem, hcores, hspans⟩, hinflight, asked, hbank⟩ := State.correctChain_spec (i := 0) (p := p) hget hsw hsorted hb
    rw [hin] at hinflight
    have hidle : ∀ q ∈ (((s.correctChain c 0 m p low core).ctxOf c).stream true).inflight, ∀ e ∈ q.tiles, e.2.status ≠ .executing := by
      intro q hq
      rw [List.mem_singleton.1 (hinflight ▸ hq : q ∈ [_])]
      exact htiles
    have hcor : ∀ rig, m.isRig [rig] = true → (s.corrections c rig).runKind c true (fun m => m.isRig [rig]) Ev.mmulAttention =
        s.correctChain c 0 m p low core := fun rig hrig => by
      rw [State.corrections_one hr hin hp ha hst hrig, State.runKind_of_none _ _ hidle]
    have hexec : exec row.1 s = .next (s.correctChain c 0 m p low core) := by
      rcases List.mem_pair.1 hrow with rfl | rfl
      · exact congrArg Host.Outcome.next (hcor 6 hrig)
      · exact congrArg Host.Outcome.next (hcor 7 hrig)
    exact ⟨_, hexec, hmem, hcores, hspans, congrArg (·[0]?) hinflight, _, hbank, rfl, rfl, rfl, rfl, rfl, rfl⟩

end Sys2Proof.Machine

/-! PROOFS of the statements of 04_tensor_descriptors.md: the snapshot and the plan of a macro (O19). -/

namespace Sys2Proof.Machine

/-! ## A macro of a stream and its context's halt -/

@[simp] theorem State.setRun_halt (s : State) (c : Fin 4) (e : Bool) (i : Nat) (m : MacroRun) :
    ((s.setRun c e i m).ctxOf c).halt = (s.ctxOf c).halt := by
  rw [State.setRun, State.setCtx_ctxOf_self, Ctx.setRun, Ctx.setStream_halt]

@[simp] theorem State.setRun_runs (s : State) (c : Fin 4) (e : Bool) (i : Nat) (m : MacroRun) : (s.setRun c e i m).runs c = s.runs c := by
  rw [State.runs, State.setRun_halt]; rfl

/-- A macro that a stream's search finds is in flight there. -/
theorem State.runAt_of_firstRun {s : State} {c : Fin 4} {e : Bool} {i : Nat} {m : MacroRun} {p : MacroRun → Bool}
    (h : ((s.ctxOf c).stream e).firstRun p = some (i, m)) : s.runAt c e i = some m := (Stream.firstRun_some h).1

/-- The halt that begins carries the cause's code and this beat. -/
theorem State.Halts.began {s t : State} {c : Fin 4} {q : Cause} (h : s.Halts t c q) :
    (t.ctxOf c).halt = some ⟨s.record c.val true q, q.code, s.time.beat, false⟩ := by
  rw [show t = _ from h, State.setCtx_ctxOf_self]

theorem State.Halts.mem {s t : State} {c : Fin 4} {q : Cause} (h : s.Halts t c q) : t.mem = s.mem := by
  rw [show t = _ from h, State.setCtx_mem]

theorem State.Halts.spanOf {s t : State} {c : Fin 4} {q : Cause} (h : s.Halts t c q) (n : Nat) : t.spanOf n = s.spanOf n := by
  rw [show t = _ from h, State.setCtx_spanOf]

/-- A halt that begins leaves the macros in flight as they are. -/
theorem State.Halts.runAt {s t : State} {c : Fin 4} {q : Cause} (h : s.Halts t c q) (e : Bool) (i : Nat) : t.runAt c e i = s.runAt c e i := by
  rw [show t = _ from h, State.runAt, State.setCtx_ctxOf_self]
  cases e <;> rfl

/-- A failed check of a context that runs begins its halt with the check's code. -/
theorem State.raiseFail_halts {s : State} {c : Fin 4} (m : MacroRun) (f : Fail) (h : s.runs c = true) :
    s.Halts (s.raiseFail c m f) c { m.cause f.code with detail := f.detail } := s.raise_halts _ h

theorem firstFail_pair (a b : Option Fail) : firstFail [a, b] = a.or b := by
  cases a <;> cases b <;> rfl

/-! ## DESCRIPTOR_SNAPSHOT (R96, R228) -/

/-- The snapshot that the row takes of a macro in this beat. -/
def State.snapshotOf (s : State) (c : Fin 4) (m : MacroRun) : MacroRun :=
  m.snapshot ((s.ctxOf c).descsAt s.time.beat) ((m.blockRead.map BlockRead.seen).getD s.mem)

/-- The first check of a macro's fields and of the descriptors it names that fails. -/
def State.snapshotFail (s : State) (c : Fin 4) (x : Bool) (i : Nat) (m : MacroRun) : Option Fail :=
  firstFail [m.fieldFail (s.ctxOf c).cplMode, (s.setRun c x i (s.snapshotOf c m)).namedFail c (s.snapshotOf c m)]

/-- A check that finds no error leaves the state alone. -/
theorem State.storeRead_clean (s : State) (c : Fin 4) (m : MacroRun) (handle : Nat) : s.storeRead c m 0 handle = (s, false) := by
  unfold State.storeRead
  cases s.lowestSpan c <;> rfl

/-- The state after a double-bit error of the descriptor store: the span counts it, and the context halts (R488). -/
def State.storeLost (s : State) (c : Fin 4) (m : MacroRun) (span handle : Nat) : State :=
  (s.takeFree.2.setSpan span { s.spanOf span with uncorr := satAdd (s.spanOf span).uncorr 1 }).raise c
    { m.cause 0x0A05 with detail := hwDetail 4 span 0xFFFF s.takeFree.1.toNat handle }

theorem State.storeRead_double {s : State} {c : Fin 4} {m : MacroRun} {span handle : Nat} (hs : s.lowestSpan c = some span)
    (hd : (m.descs.find handle).isSome = true) : s.storeRead c m 2 handle = (s.storeLost c m span handle, true) := by
  obtain ⟨d, hd⟩ := Option.isSome_iff_exists.1 hd
  simp only [State.storeRead, hs, hd]
  rfl

section
variable {s : State} {c : Fin 4} {x : Bool} {i : Nat} {m : MacroRun}

/-- The row takes a macro without a snapshot that is the oldest of its stream, or next to it. -/
structure State.TakesSnapshot (s : State) (c : Fin 4) (x : Bool) (i : Nat) (m : MacroRun) : Prop where
  runs : s.runs c = true
  first : ((s.ctxOf c).stream x).firstRun (fun m => !m.snapped && !m.isShort) = some (i, m)
  near : i ≤ 1

theorem State.TakesSnapshot.guard (h : s.TakesSnapshot c x i m) : ¬(!s.inBeat c || decide (i > 1)) = true := by
  have := h.near
  simp [State.runs_inBeat h.runs]
  omega

theorem State.snapshotNext_fails {f : Fail} (errors : Fin 3) (handle : Nat) (h : s.TakesSnapshot c x i m)
    (hf : s.snapshotFail c x i m = some f) :
    s.snapshotNext c x errors handle = (s.setRun c x i (s.snapshotOf c m)).raiseFail c m f := by
  unfold State.snapshotFail State.snapshotOf at *
  simp only [State.snapshotNext, h.first, hf]
  rw [if_neg h.guard]

theorem State.snapshotNext_double {span handle : Nat} (h : s.TakesSnapshot c x i m) (hf : s.snapshotFail c x i m = none)
    (hd : ((s.snapshotOf c m).descs.find handle).isSome = true) (hs : s.lowestSpan c = some span) :
    s.snapshotNext c x 2 handle = s.storeLost c (s.snapshotOf c m) span handle := by
  have hread := State.storeRead_double hs hd
  unfold State.snapshotFail State.snapshotOf at *
  simp only [State.snapshotNext, h.first, hf, hread]
  rw [if_neg h.guard]

/-- A macro without a block, or whose block has been read, gets its snapshot. -/
theorem State.snapshotNext_latches (handle : Nat) (h : s.TakesSnapshot c x i m) (hf : s.snapshotFail c x i m = none)
    (hb : m.block = none ∧ m.blockRead = none ∨ ∃ r, m.blockRead = some r ∧ r.todo = [] ∧ r.out = 0) :
    s.snapshotNext c x 0 handle = s.setRun c x i (s.snapshotOf c m) := by
  unfold State.snapshotFail State.snapshotOf at *
  simp only [State.snapshotNext, h.first, hf, State.storeRead_clean]
  rw [if_neg h.guard]
  rcases hb with ⟨hblock, hread⟩ | ⟨r, hread, htodo, hout⟩
  · simp only [hblock, hread]
  · simp only [hread, htodo, hout, List.isEmpty_nil, decide_true, Bool.and_self, if_true]

/-- A macro whose block has not been read asks for it through the pier of the lowest span. -/
theorem State.snapshotNext_reads {k : BlockKind} {b span : Nat} (handle : Nat) (h : s.TakesSnapshot c x i m)
    (hf : s.snapshotFail c x i m = none) (hblock : m.block = some (k, b)) (hb : b ≠ 0) (hread : m.blockRead = none)
    (hs : s.lowestSpan c = some span) :
    s.snapshotNext c x 0 handle = s.readBlock c x i (8 * m.index + m.slot) m
      { pier := span, todo := blockRanges ((s.snapshotOf c m).descs.get b 0) k.bytes } := by
  unfold State.snapshotFail State.snapshotOf at *
  simp only [State.snapshotNext, h.first, hf, State.storeRead_clean]
  rw [if_neg h.guard]
  simp only [hblock, hread, hs, if_neg hb]

/-- The reads that have gone out and those left over are together the block's. -/
theorem State.readBlock_spec (id : Nat) (r : BlockRead) (h : (s.runAt c x i).isSome = true) :
    ∃ r', (s.readBlock c x i id m r).runAt c x i = some { m with blockRead := some r' } ∧ r'.pier = r.pier ∧
      r'.out + r'.todo.length = r.out + r.todo.length ∧ (s.readBlock c x i id m r).mem = s.mem ∧
      ((s.readBlock c x i id m r).ctxOf c).halt = (s.ctxOf c).halt := by
  refine ⟨_, State.setRun_runAt _ _ h, rfl, ?_, rfl, State.setRun_halt ..⟩
  simp only [List.length_drop]
  omega

/-- A double-bit error of a context that runs halts it, and is counted; no snapshot is latched (R488). -/
theorem State.storeLost_spec (q : MacroRun) (span handle : Nat) (h : s.runs c = true) :
    ∃ k, ((s.storeLost c q span handle).ctxOf c).halt = some k ∧ k.code = 0x0A05 ∧ (s.storeLost c q span handle).mem = s.mem ∧
      ((s.storeLost c q span handle).spanOf span).uncorr = satAdd (s.spanOf span).uncorr 1 ∧
      (s.storeLost c q span handle).runAt c x i = s.runAt c x i := by
  have hh := (s.takeFree.2.setSpan span { s.spanOf span with uncorr := satAdd (s.spanOf span).uncorr 1 }).raise_halts
    { q.cause 0x0A05 with detail := hwDetail 4 span 0xFFFF s.takeFree.1.toNat handle } h
  refine ⟨_, hh.began, rfl, hh.mem, ?_, hh.runAt x i⟩
  rw [State.storeLost, hh.spanOf, State.setSpan_spanOf_self]

end

/-! ## WALKER_PLAN (R191, R194, R215) -/

section
variable {s : State} {c : Fin 4} {x : Bool} {i : Nat} {m : MacroRun}

/-- The row plans the oldest macro of a stream without a plan, once it has its snapshot. -/
structure State.TakesPlan (s : State) (c : Fin 4) (x : Bool) (i : Nat) (m : MacroRun) : Prop where
  runs : s.runs c = true
  snapped : m.snapped = true
  first : ((s.ctxOf c).stream x).firstRun (fun m => m.plan.isNone && !m.isShort) = some (i, m)

/-- The first of the checks before the shape that fails. -/
def State.planFail (s : State) (c : Fin 4) (m : MacroRun) : Option Fail :=
  firstFail [(s.draft c m).fail, (s.draft c m).overlapFail, (s.ctxOf c).channelFail (s.draft c m), (s.ctxOf c).queueFail m]

theorem State.TakesPlan.guard (h : s.TakesPlan c x i m) : ¬(!s.inBeat c || !m.snapped) = true := by
  simp [State.runs_inBeat h.runs, h.snapped]

theorem State.planNext_fails {f : Fail} (h : s.TakesPlan c x i m) (hf : s.planFail c m = some f) : s.planNext c x = s.raiseFail c m f := by
  unfold State.planFail at hf
  simp only [State.planNext, h.first, hf]
  rw [if_neg h.guard]

theorem State.planNext_plans {k : Nat} (h : s.TakesPlan c x i m) (hf : s.planFail c m = none)
    (hl : (s.draft c m).lateFail (s.ctxOf c) m (s.ctxOf c).tileArea = .ok k) (hs : s.seamFail c m (s.draft c m) k = none) :
    s.planNext c x = s.planned c x i m (s.draft c m) ((s.draft c m).plan m (s.spansFor c) (s.ctxOf c).tileArea k) := by
  unfold State.planFail at hf
  simp only [State.planNext, h.first, hf, hl, hs]
  rw [if_neg h.guard]

/-- A macro set after its context's registers: it reads back, and both lie in the context. -/
theorem State.setCtx_setRun_onlyCtx (s : State) (c : Fin 4) (y : Ctx) (x : Bool) (i : Nat) (m : MacroRun) :
    s.OnlyCtx ((s.setCtx c y).setRun c x i m) c := by
  rw [State.setRun, State.setCtx_setCtx]
  exact s.onlyCtx_setCtx c _

@[simp] theorem Ctx.setRun_planShape (y : Ctx) (e : Bool) (i : Nat) (m : MacroRun) : (y.setRun e i m).planShape = y.planShape := by
  cases e <;> rfl

@[simp] theorem Ctx.setRun_planStream (y : Ctx) (e : Bool) (i : Nat) (m : MacroRun) : (y.setRun e i m).planStream = y.planStream := by
  cases e <;> rfl

/-- Without the viaduct, the record of a plan stays in its context: the macro's latches and CTX_PLAN (R384, R412). -/
theorem State.planned_spec {d : Draft} (p : Plan) (hm : s.runAt c x i = some m) (hv : d.via = 0) :
    ∃ m', s.OnlyCtx (s.planned c x i m d p) c ∧ (s.planned c x i m d p).runAt c x i = some m' ∧ m'.plan = some p ∧
      m'.trap = (s.ctxOf c).trap ∧
      m'.key.take 4 = [(s.ctxOf c).rngLo.extractLsb' 0 32, (s.ctxOf c).rngLo.extractLsb' 32 32, (s.ctxOf c).rngHi.extractLsb' 0 32,
        (s.ctxOf c).rngHi.extractLsb' 32 32] ∧
      ((s.planned c x i m d p).ctxOf c).planShape.toNat = p.shape % 8 ∧ ((s.planned c x i m d p).ctxOf c).planStream = x := by
  unfold State.planned
  simp only [hv, if_true]
  refine ⟨_, State.setCtx_setRun_onlyCtx .., State.setRun_runAt _ _ ?_, rfl, rfl, rfl, ?_, ?_⟩
  · rw [State.runAt, State.setCtx_ctxOf_self]
    have : (s.runAt c x i).isSome = true := by rw [hm]; rfl
    cases x <;> exact this
  · rw [State.setRun, State.setCtx_ctxOf_self, Ctx.setRun_planShape, State.setCtx_ctxOf_self, BitVec.toNat_ofNat]
  · rw [State.setRun, State.setCtx_ctxOf_self, Ctx.setRun_planStream, State.setCtx_ctxOf_self]

end

/-- Settles O19: each answer of the two rows, by the first check that fails and by what the block's read and the descriptor store give. -/
theorem snapshotAndPlan : Obligations.SnapshotAndPlan := by
  refine ⟨fun c x handle s i m hr hfirst hi => ?_, fun c x s i k m hr hsnap hfirst => ?_⟩
  · have htake : s.TakesSnapshot c x i m := ⟨hr, hfirst, hi⟩
    have hrun := State.runAt_of_firstRun hfirst
    have hsome : (s.runAt c x i).isSome = true := by rw [hrun]; rfl
    intro m' s' fails
    have hfail : s.snapshotFail c x i m = fails := firstFail_pair ..
    refine ⟨rfl, fun hf hb => ?_, fun k b span hf hblock hb hread hs => ?_, fun f hf => ?_, fun span hf hd hs => ?_⟩
    · exact congrArg Host.Outcome.next (State.snapshotNext_latches handle.toNat htake (hfail.trans hf) hb)
    · have heq := State.snapshotNext_reads handle.toNat htake (hfail.trans hf) hblock hb hread hs
      obtain ⟨r, hr', hpier, hlen, hmem, hhalt⟩ := State.readBlock_spec (m := m) (8 * m.index + m.slot)
        { pier := span, todo := blockRanges (m'.descs.get b 0) k.bytes } hsome
      exact ⟨_, r, congrArg Host.Outcome.next heq, hmem, hr', hpier, hhalt.trans ((s.runs_iff c).1 hr).2, by simpa using hlen⟩
    · have hh := State.raiseFail_halts (s := s') m f ((State.setRun_runs ..).trans hr)
      exact ⟨_, _, congrArg Host.Outcome.next (State.snapshotNext_fails 0 handle.toNat htake (hfail.trans hf)), hh.mem, hh.began, rfl, rfl⟩
    · obtain ⟨h, hhalt, hcode, hmem, hcount, hsame⟩ := State.storeLost_spec (x := x) (i := i) m' span handle.toNat hr
      exact ⟨_, h, congrArg Host.Outcome.next (State.snapshotNext_double htake (hfail.trans hf) hd hs), hmem, hhalt, hcode, hcount,
        hsame.trans hrun⟩
  · have htake : s.TakesPlan c x i m := ⟨hr, hsnap, hfirst⟩
    have hrun := State.runAt_of_firstRun hfirst
    intro d fails
    refine ⟨fun f hf => ?_, fun hf hl hs hv => ?_⟩
    · have hh := State.raiseFail_halts m f hr
      exact ⟨_, _, congrArg Host.Outcome.next (State.planNext_fails htake hf), hh.began, rfl, (hh.runAt x i).trans hrun⟩
    · obtain ⟨m', hplanned⟩ := State.planned_spec (d.plan m (s.spansFor c) (s.ctxOf c).tileArea k) hrun hv
      exact ⟨_, m', congrArg Host.Outcome.next (State.planNext_plans htake hf hl hs), hplanned⟩

end Sys2Proof.Machine

/-! PROOFS of the statements of 05_bundles_and_streams.md: the split, the issue, heads that are held (O7, O8, O9). -/

namespace Sys2Proof.Machine

/-! ## The split (R142, R143) -/

/-- A stream reaches its head: the release time is latched where none is (R127). -/
theorem Ctx.reach_eq {x : Ctx} {b : Bool} {e : Entry} {es : List Entry} (h : (x.stream b).queue = e :: es) :
    x.reach b = x.setStream b { x.stream b with holdUntil := some ((x.stream b).holdUntil.getD (x.releaseTime e)) } := by
  cases hu : (x.stream b).holdUntil with
  | none => simp [Ctx.reach, h, hu]
  | some u =>
    have hs : { x.stream b with holdUntil := some u } = x.stream b := by rw [← hu]
    simp only [Ctx.reach, hu, Option.getD_some, hs]
    cases b <;> rfl

/-- Whatever its queue holds, reaching the head writes a release time and nothing else. -/
theorem Ctx.reach_holdUntil (x : Ctx) (b : Bool) : ∃ u, x.reach b = x.setStream b { x.stream b with holdUntil := u } := by
  unfold Ctx.reach
  simp only []
  split
  · exact ⟨_, rfl⟩
  · exact ⟨(x.stream b).holdUntil, by cases b <;> rfl⟩

/-- A stream once an entry has joined its queue; where the entry is the first, the stream has reached it. -/
def Stream.joined (t : Stream) (x : Ctx) (e : Entry) : Stream :=
  { t with queue := t.queue ++ [e], holdUntil := some (t.holdUntil.getD (x.releaseTime ((t.queue ++ [e]).headD e))) }

/-- An entry at the end of both queues. -/
def Ctx.queued (x : Ctx) (e : Entry) : Ctx :=
  { x with access := { x.access with queue := x.access.queue ++ [e] }, exec := { x.exec with queue := x.exec.queue ++ [e] } }

theorem Ctx.enqueue_eq (x : Ctx) (e : Entry) : x.enqueue e = { x with access := x.access.joined x e, exec := x.exec.joined x e } := by
  have hq : ∀ l : List Entry, ∃ es, l ++ [e] = (l ++ [e]).headD e :: es := fun l => by cases l <;> exact ⟨_, rfl⟩
  obtain ⟨as, ha⟩ := hq x.access.queue
  obtain ⟨es, he⟩ := hq x.exec.queue
  have hx : x.enqueue e = ((x.queued e).reach false).reach true := rfl
  rw [hx, Ctx.reach_eq (x := x.queued e) (b := false) ha, Ctx.reach_eq (x := (x.queued e).setStream false _) (b := true) he]
  rfl

/-- The entry that the split makes of a bundle of a command list. -/
def Ctx.entryOf (x : Ctx) (g : Fetched) : Entry :=
  { bits := g.bits, addr := g.addr, tag := Bundle.tag g.bits, index := x.split, bad := checkBundle x g.bits 0
    depth := 0, isCall := Bundle.isCall g.bits, acts := [], pred := none }

section
variable {s : State} {c : Fin 4} {g : Fetched} {rest : List Fetched}

/-- Outside any routine the next bundle is the first buffered one. -/
theorem State.nextBundle_of_buffer (hf : (s.ctxOf c).frames = []) (hb : (s.ctxOf c).buffer = g :: rest) :
    s.nextBundle c = some ((s.ctxOf c).entryOf g, { s.ctxOf c with buffer := rest, split := (s.ctxOf c).split + 1 }) := by
  simp [State.nextBundle, Ctx.entryOf, Ctx.activeFrames, hf, hb]

theorem State.splitBundle_of_buffer (errors : Fin 4) (hr : s.runs c = true) (hf : (s.ctxOf c).frames = []) (hc : (s.ctxOf c).callDue = none)
    (hb : (s.ctxOf c).buffer = g :: rest) (ha : (s.ctxOf c).access.queue.length < 512) (he : (s.ctxOf c).exec.queue.length < 512) :
    let e := (s.ctxOf c).entryOf g
    let y : Ctx := { s.ctxOf c with buffer := rest, split := (s.ctxOf c).split + 1 }
    s.splitBundle c errors = s.setCtx c (if e.isCall && e.bad.isNone then { y with callDue := some e } else y.enqueue e) := by
  simp only [State.splitBundle, State.runs_inBeat hr, hc, State.nextBundle_of_buffer hf hb, State.readRoutine, hf]
  rw [if_neg (by simp; omega)]
  split <;> rfl

end

/-- Settles O7: the entry of the first buffered bundle waits for its CALL step or joins both queues. -/
theorem splitPutsOneEntryInEachStream : Obligations.SplitPutsOneEntryInEachStream := by
  intro c errors s g rest hr hf hc hb ha he x put
  refine ⟨_, x.entryOf g, congrArg Host.Outcome.next (State.splitBundle_of_buffer errors hr hf hc hb ha he), State.onlyCtx_setCtx .., ?_⟩
  simp only [State.setCtx_ctxOf_self]
  by_cases hcall : (x.entryOf g).isCall && (x.entryOf g).bad.isNone
  · rw [if_pos hcall]
    obtain ⟨h₁, h₂⟩ := Bool.and_eq_true_iff.1 hcall
    exact ⟨rfl, rfl, rfl, rfl, rfl, rfl, rfl, .inl ⟨h₁, Option.isNone_iff_eq_none.1 h₂, rfl, rfl, rfl⟩⟩
  · rw [if_neg hcall, Ctx.enqueue_eq]
    refine ⟨rfl, rfl, rfl, rfl, rfl, rfl, rfl, .inr ⟨?_, hc, rfl, rfl⟩⟩
    by_cases h : Bundle.isCall g.bits = true
    · exact .inr fun hn => hcall (Bool.and_eq_true_iff.2 ⟨h, Option.isNone_iff_eq_none.2 hn⟩)
    · exact .inl (Bool.eq_false_iff.2 h)

/-! ## What BUNDLE_ISSUE does with the head of a stream (R126, R140, R144, R146) -/

/-- The issue unit looks at the head of a stream: the context runs and does not drain, and what the stream has issued has acted. -/
structure State.AtHead (s : State) (c : Fin 4) (x : Bool) (e : Entry) (es : List Entry) : Prop where
  runs : s.runs c = true
  drain : (s.adminOf c).drain = false
  queue : ((s.ctxOf c).stream x).queue = e :: es
  due : ((s.ctxOf c).stream x).due = []

/-- The local time before which a stream holds its head (R127). -/
def Ctx.holdTime (y : Ctx) (x : Bool) (e : Entry) : Nat := (y.stream x).holdUntil.getD (y.releaseTime e)

/-- NOT_BEFORE holds the head (R127). -/
def State.early (s : State) (c : Fin 4) (x : Bool) (e : Entry) : Bool :=
  Bundle.notBefore e.bits ≠ 0 && !((s.ctxOf c).stream x).timeOk && s.now < (s.ctxOf c).holdTime x e

/-- The run-ahead limit holds the head (R144). -/
def Ctx.runsAhead (y : Ctx) (x : Bool) (e : Entry) : Bool := !x && decide (e.index > y.exec.oldestIndex + 448)

/-- A block begins in the beat in which it first holds (R159). -/
theorem Stream.block_eq (t : Stream) (kind beat : Nat) :
    t.block kind beat = { t with blocked := if (t.blocked.find kind).isSome then t.blocked else t.blocked.set kind beat } := by
  unfold Stream.block
  split <;> rfl

theorem Stream.blockIf_eq (t : Stream) (kind beat : Nat) {b : Bool} {P : Prop} [Decidable P] (h : b = true ↔ P) :
    t.blockIf kind b beat = { t with blocked := if P then (if (t.blocked.find kind).isSome then t.blocked else t.blocked.set kind beat)
                                                else t.blocked.erase kind } := by
  unfold Stream.blockIf
  by_cases hP : P
  · rw [if_pos (h.2 hP), if_pos hP, Stream.block_eq]
  · rw [if_neg (mt h.1 hP), if_neg hP]
    rfl

/-- A head's stream with the blocks of kinds 7, 4 and 5 as they now hold. -/
def State.blockHead (s : State) (c : Fin 4) (x : Bool) (e : Entry) : Stream :=
  ((({ (s.ctxOf c).stream x with holdUntil := some ((s.ctxOf c).holdTime x e) }.blockIf 7 (s.early c x e) s.time.beat).blockIf 4
    ((s.ctxOf c).predHeld x e) s.time.beat).blockIf 5 ((s.ctxOf c).runsAhead x e) s.time.beat)

/-- BUNDLE_ISSUE where the read of the entry finds no error. -/
theorem exec_bundleIssue_clean {s t : State} {c : Fin 4} {x : Bool} (h : s.issue c x = t) : exec (.bundleIssue c x 0) s = .next t := by
  have hread : s.readEntry c x 0 = s := by
    unfold State.readEntry
    split
    · contradiction
    · contradiction
    · rfl
  exact congrArg Host.Outcome.next ((congrArg (State.issue · c x) hread).trans h)

section
variable {s : State} {c : Fin 4} {x : Bool} {e : Entry} {es : List Entry}

theorem State.AtHead.guard (h : s.AtHead c x e es) :
    (!(s.runs c || (s.haltsNow c && e.bad.isSome)) || (s.adminOf c).drain || !((s.ctxOf c).stream x).due.isEmpty) = false := by
  simp [h.runs, h.drain, h.due]

theorem State.issue_bad {b : Bad} (h : s.AtHead c x e es) (hb : e.bad = some b) : s.issue c x = s.raise c (b.cause e) := by
  have hg := h.guard
  rw [hb] at hg
  simp only [State.issue, h.queue, hb, hg, Bool.false_eq_true, if_false]

/-- A head with no failed check that no waiting write holds: blocked, held by its sync slot, or issued. -/
theorem State.issue_good (h : s.AtHead c x e es) (hb : e.bad = none) (hh : (s.ctxOf c).held s.mem x e.bits = false) :
    s.issue c x =
      if s.early c x e || (s.ctxOf c).predHeld x e || (s.ctxOf c).runsAhead x e then s.setCtx c ((s.ctxOf c).setStream x (s.blockHead c x e))
      else if (s.ctxOf c).syncHolds x e then
        s.setCtx c ((s.ctxOf c).setStream x (((((s.ctxOf c).stream x).unblock 7).unblock 4).unblock 5))
      else s.issueHead c x e := by
  have hg := h.guard
  rw [hb] at hg
  simp only [State.issue, h.queue, hb, hg, hh, Bool.false_eq_true, if_false]
  rw [← h.queue]
  rfl

end

/-! ## Issue -/

@[simp] theorem State.sendShort_ctxOf (s : State) (c d : Fin 4) (e : Entry) (gap : Nat) : (s.sendShort c e gap).ctxOf d = s.ctxOf d := rfl

/-- Beats since the last VSHORT of a context issued (R185). -/
def State.shortGap (s : State) (c : Fin 4) : Nat := match (s.ctxOf c).lastShort with | some b => s.time.beat - b | none => 0

/-- The sync operations of a head that act (R123). -/
def Ctx.syncPart (y : Ctx) (x : Bool) (e : Entry) : List Due := if y.syncActs e then syncDue e.bits x e.index else []

/-- The stream of a head once it has issued, up to the release time of the next head. -/
def State.issuedStream (s : State) (c : Fin 4) (x : Bool) (e : Entry) : Stream :=
  let y := s.ctxOf c
  let t := y.stream x
  { t with
    blocked := [], queue := t.queue.tail, next := e.index + 1, waitOk := false, fenceOk := false, timeOk := false, holdUntil := none
    due := if x then (if y.acts e then scalarDue e.bits else []) ++ e.acts.map Due.frame ++ y.syncPart x e else y.syncPart x e
    inflight := t.inflight ++ (if y.acts e then issuedRuns e x (s.shortGap c) y.trap else []) }

/-- The head issues a VSHORT (R185). -/
def Ctx.issuesShort (y : Ctx) (x : Bool) (e : Entry) : Bool := x && y.acts e && !e.isCall && field (Bundle.vector e.bits) 0 5 = 2

/-- What the execute stream's issue does besides: it counts in ISSUED, gives the access stream's part of the bundle the predicate that it
saw (R124), and notes the beat of a VSHORT. -/
def Ctx.latch (y : Ctx) (e : Entry) (acts : Bool) (last : Option Nat) : Ctx :=
  { y with issued := y.issued + 1, lastShort := last
           access := { y.access with queue := y.access.queue.map fun a => if a.index = e.index then { a with pred := some acts } else a } }

/-- The context `y` of an issued head, with what the execute stream adds; a VSHORT also goes to the crews. -/
def State.issueWith (s : State) (c : Fin 4) (x : Bool) (e : Entry) (y : Ctx) : State :=
  let short := (s.ctxOf c).issuesShort x e
  let z := if x then y.latch e ((s.ctxOf c).acts e) (if short then some s.time.beat else y.lastShort) else y
  if short then (s.setCtx c z).sendShort c e (s.shortGap c) else s.setCtx c z

theorem State.issueHead_eq (s : State) (c : Fin 4) (x : Bool) (e : Entry) :
    ∃ u, s.issueHead c x e = s.issueWith c x e ((s.ctxOf c).setStream x { s.issuedStream c x e with holdUntil := u }) := by
  obtain ⟨u, hu⟩ := Ctx.reach_holdUntil ((s.ctxOf c).setStream x (s.issuedStream c x e)) x
  have hreach : s.issueHead c x e = s.issueWith c x e (((s.ctxOf c).setStream x (s.issuedStream c x e)).reach x) := by cases x <;> rfl
  refine ⟨u, hreach.trans ?_⟩
  rw [hu]
  cases x <;> rfl

/-- An issue touches its context and, for a VSHORT, the crews. -/
theorem State.issueWith_frame (s : State) (c : Fin 4) (x : Bool) (e : Entry) (y : Ctx) :
    let t := s.issueWith c x e y
    t.mem = s.mem ∧ t.admin = s.admin ∧ t.spans = s.spans ∧ ∀ d, d ≠ c → t.ctxOf d = s.ctxOf d := by
  unfold State.issueWith
  simp only []
  split <;> exact ⟨rfl, rfl, rfl, fun d hd => State.setCtx_ctxOf_ne _ _ hd⟩

theorem State.issueWith_ctxOf (s : State) (c : Fin 4) (x : Bool) (e : Entry) (y : Ctx) :
    ∃ b, (s.issueWith c x e y).ctxOf c = if x then y.latch e ((s.ctxOf c).acts e) b else y := by
  unfold State.issueWith
  simp only []
  split <;> exact ⟨_, State.setCtx_ctxOf_self ..⟩

/-- The latch gives the predicate to the entry of its own bundle and leaves every bundle's bits. -/
theorem Ctx.latch_access (y : Ctx) (e : Entry) (acts : Bool) (b : Option Nat) :
    (y.latch e acts b).access.queue.map Entry.bits = y.access.queue.map Entry.bits ∧
    ∀ a ∈ (y.latch e acts b).access.queue, a.index = e.index → a.pred = some acts := by
  constructor
  · rw [Ctx.latch, List.map_map]
    refine List.map_congr_left fun a _ => ?_
    show Entry.bits (if _ then _ else _) = _
    split <;> rfl
  · intro a ha hi
    obtain ⟨q, -, rfl⟩ := List.mem_map.1 ha
    by_cases hq : q.index = e.index
    · rw [if_pos hq]
    · rw [if_neg hq] at hi
      exact absurd hi hq

/-- Settles O8: no condition holds the head, so it issues; its context and its stream are then as its issue makes them. -/
theorem issueTakesTheHeadOfItsStream : Obligations.IssueTakesTheHeadOfItsStream := by
  intro c x s e es hr hd hq hdue hb hh htime hsync hacc acts gap sync
  have hearly : s.early c x e = false := by
    rcases htime with h | h <;> simp [State.early, h]
  have hpred : (s.ctxOf c).predHeld x e = false := by
    cases x with
    | true => rfl
    | false =>
      cases hp : Bundle.predEn e.bits with
      | false => simp [Ctx.predHeld, hp]
      | true => simp [Ctx.predHeld, (hacc rfl).1 hp]
  have hahead : (s.ctxOf c).runsAhead x e = false := by
    cases x with
    | true => rfl
    | false => simpa [Ctx.runsAhead] using (hacc rfl).2
  have hissue : s.issue c x = s.issueHead c x e := by
    simp [State.issue_good ⟨hr, hd, hq, hdue⟩ hb hh, hearly, hpred, hahead, hsync]
  obtain ⟨u, hu⟩ := s.issueHead_eq c x e
  obtain ⟨hm, ha, hs, hne⟩ := s.issueWith_frame c x e ((s.ctxOf c).setStream x { s.issuedStream c x e with holdUntil := u })
  obtain ⟨b, hc⟩ := s.issueWith_ctxOf c x e ((s.ctxOf c).setStream x { s.issuedStream c x e with holdUntil := u })
  refine ⟨_, exec_bundleIssue_clean (hissue.trans hu), hm, ha, hs, hne, ?_⟩
  rw [hc]
  cases x with
  | true => exact ⟨congrArg List.tail hq, rfl, rfl, rfl, rfl, rfl, fun _ => Ctx.latch_access ..⟩
  | false => exact ⟨congrArg List.tail hq, rfl, rfl, rfl, rfl, rfl, nofun⟩

/-- Settles O9: the head's blocks as they hold, and the halt of a failed check. -/
theorem heldAndFailedHeads : Obligations.HeldAndFailedHeads := by
  refine ⟨fun c x s e es hr hd hq hdue hb hh ht => ?_, fun c x s e es b hr hd hq hdue hb => ?_⟩
  · intro until_ early unknown ahead blocks hheld
    have hearly : s.early c x e = true ↔ early := by
      show _ ↔ Bundle.notBefore e.bits ≠ 0 ∧ s.now < (s.ctxOf c).holdTime x e
      simp [State.early, ht]
    have hpred : (s.ctxOf c).predHeld x e = true ↔ unknown := by simp [Ctx.predHeld, unknown, and_assoc]
    have hahead : (s.ctxOf c).runsAhead x e = true ↔ ahead := by simp [Ctx.runsAhead, ahead]
    have hany : (s.early c x e || (s.ctxOf c).predHeld x e || (s.ctxOf c).runsAhead x e) = true := by
      rw [Bool.or_eq_true, Bool.or_eq_true, hearly, hpred, hahead, or_assoc]
      exact hheld
    have hissue := (State.issue_good ⟨hr, hd, hq, hdue⟩ hb hh).trans (if_pos hany)
    have hblock : s.blockHead c x e = { (s.ctxOf c).stream x with
        holdUntil := some until_, blocked := blocks 5 ahead (blocks 4 unknown (blocks 7 early ((s.ctxOf c).stream x).blocked)) } := by
      rw [State.blockHead, Stream.blockIf_eq _ 7 _ hearly, Stream.blockIf_eq _ 4 _ hpred, Stream.blockIf_eq _ 5 _ hahead]
      rfl
    refine ⟨_, exec_bundleIssue_clean hissue, State.onlyCtx_setCtx .., ?_⟩
    rw [State.setCtx_ctxOf_self, Ctx.setStream_stream_self, Ctx.setStream_stream_other _ _ (by cases x <;> decide), hblock]
    exact ⟨hq, rfl, rfl, rfl, rfl⟩
  · exact ⟨_, exec_bundleIssue_clean (State.issue_bad ⟨hr, hd, hq, hdue⟩ hb), s.raise_halts _ hr⟩

end Sys2Proof.Machine

/-! PROOFS of the statements of 05_bundles_and_streams.md: released streams, counters, predicates and SETs (O10, O13, O14). -/

namespace Sys2Proof.Machine

/-! ## NOT_BEFORE, WAIT and FENCE (R127, R153, R156) -/

/-- Epochs are compared modulo 2^16: `f` has reached `t` where it is less than 2^15 ahead (R152). -/
theorem reached_iff (f t : BitVec 16) : reached f t = true ↔ (f.toNat + 65536 - t.toNat) % 65536 < 32768 := by
  have := f.isLt
  have := t.isLt
  rw [reached, decide_eq_true_iff, BitVec.toNat_sub]
  omega

theorem Stream.doneUpTo_iff (t : Stream) (n : Nat) : t.doneUpTo n = true ↔ n ≤ t.next ∧ ∀ m ∈ t.inflight, n ≤ m.index := by
  simp [Stream.doneUpTo]

section
variable {s : State} {c : Fin 4} {x : Bool} {e : Entry}

theorem State.releaseTimed_eq {es : List Entry} {u : Nat} (hr : s.runs c = true) (hq : ((s.ctxOf c).stream x).queue = e :: es)
    (hu : ((s.ctxOf c).stream x).holdUntil.getD ((s.ctxOf c).releaseTime e) = u) :
    s.releaseTimed c x =
      if u ≤ s.now then s.setCtx c ((s.ctxOf c).setStream x { ((s.ctxOf c).stream x).unblock 7 with timeOk := true }) else s := by
  simp [State.releaseTimed, hq, hr, hu]

/-- SYNC_WAIT and WAIT_SATISFIED at a head whose WAIT acts. -/
theorem State.wait_eq (hr : s.runs c = true) (h : (s.ctxOf c).headSync x 2 = some e) :
    let t := (s.ctxOf c).stream x
    let free := s.setCtx c ((s.ctxOf c).setStream x { t.unblock 1 with waitOk := true })
    (s.syncWait c x = if (s.ctxOf c).waitMet e then free else s.setCtx c ((s.ctxOf c).setStream x (t.block 1 s.time.beat))) ∧
    (s.waitSatisfied c x = if (s.ctxOf c).waitMet e then free else s) := by
  constructor
  · simp only [State.syncWait, h, hr]
    cases (s.ctxOf c).waitMet e <;> rfl
  · simp only [State.waitSatisfied, h, hr, Bool.true_and]

/-- SYNC_FENCE and FENCE_RELEASE at a head whose FENCE acts. -/
theorem State.fence_eq (hr : s.runs c = true) (h : (s.ctxOf c).headSync x 3 = some e) :
    let t := (s.ctxOf c).stream x
    let free := s.setCtx c ((s.ctxOf c).setStream x { t.unblock 2 with fenceOk := true })
    (s.syncFence c x = if (s.ctxOf c).fenceMet x e then free else s.setCtx c ((s.ctxOf c).setStream x (t.block 2 s.time.beat))) ∧
    (s.fenceRelease c x = if (s.ctxOf c).fenceMet x e then free else s) := by
  constructor
  · simp only [State.syncFence, h, hr]
    cases (s.ctxOf c).fenceMet x e <;> rfl
  · simp only [State.fenceRelease, h, hr, Bool.true_and]

end

/-- A FENCE is met once every earlier macro of its stream, or of both, has completed (R156). -/
theorem Ctx.fenceMet_iff (y : Ctx) (x : Bool) (e : Entry) :
    let before (t : Stream) : Prop := e.index ≤ t.next ∧ ∀ m ∈ t.inflight, e.index ≤ m.index
    y.fenceMet x e = true ↔ if Bundle.syncStream e.bits = 3 then before y.access ∧ before y.exec else before (y.stream x) := by
  unfold Ctx.fenceMet
  split
  · rw [Bool.and_eq_true, Stream.doneUpTo_iff, Stream.doneUpTo_iff]
  · exact Stream.doneUpTo_iff ..

/-- A row that acts at the head and the row that releases it, by whether the condition `P` of the head holds. -/
theorem release_by_condition {i j : Instr} {s free held : State} {b : Bool} {P : Prop} (h : b = true ↔ P)
    (hi : exec i s = .next (if b then free else held)) (hj : exec j s = .next (if b then free else s)) :
    (P → exec i s = .next free ∧ exec j s = .next free) ∧ (¬P → exec i s = .next held ∧ exec j s = .next s) := by
  refine ⟨fun hP => ?_, fun hP => ?_⟩
  · rw [if_pos (h.2 hP)] at hi hj
    exact ⟨hi, hj⟩
  · rw [if_neg (mt h.1 hP)] at hi hj
    exact ⟨hi, hj⟩

/-- Settles O10: each row by whether its condition holds. -/
theorem heldStreamsAreReleased : Obligations.HeldStreamsAreReleased := by
  refine ⟨?_, ?_, ?_⟩
  · intro c x s e es u old hr hq hu
    have hu' : old.holdUntil.getD ((s.ctxOf c).releaseTime e) = u := by
      rcases hu with h | ⟨h, ha, hs, rfl⟩
      · rw [h]; rfl
      · rw [h, Option.getD_none, Ctx.releaseTime, if_pos ha, hs]; rfl
    have hexec : exec (.notBeforeRelease c x s.time.beat) s = .next (s.releaseTimed c x) :=
      congrArg Host.Outcome.next (congrArg (State.releaseTimed · c x) s.advanceTo_now)
    rw [hexec, State.releaseTimed_eq hr hq hu']
    exact ⟨fun h => congrArg Host.Outcome.next (if_pos h), fun h => congrArg Host.Outcome.next (if_neg (Nat.not_le.2 h))⟩
  · intro c x s e hr h epochs met old put
    have hmet : (s.ctxOf c).waitMet e = true ↔ met := reached_iff ..
    obtain ⟨hw, hs⟩ := State.wait_eq hr h
    rw [Stream.block_eq] at hw
    exact release_by_condition hmet (congrArg Host.Outcome.next hw) (congrArg Host.Outcome.next hs)
  · intro c x s e hr h old before met put
    have hmet : (s.ctxOf c).fenceMet x e = true ↔ met := Ctx.fenceMet_iff ..
    obtain ⟨hw, hs⟩ := State.fence_eq hr h
    rw [Stream.block_eq] at hw
    exact release_by_condition hmet (congrArg Host.Outcome.next hw) (congrArg Host.Outcome.next hs)

/-! ## CNT and CMP (R130, R131) -/

theorem State.scalar_of_runs {s : State} {c : Fin 4} (d : Due) (f : Ctx → Ctx) (h : s.runs c = true) :
    s.scalar c d f = s.setCtx c (f ((s.ctxOf c).settle true d)) := (s.scalar_spec c d f).1 h

/-- A CNT operation writes its counter and drops its due entry. -/
theorem State.cnt_spec {s : State} {c : Fin 4} {i : Instr} (d : Due) (n : Nat) (v : Word)
    (hi : exec i s = .next (s.setCtx c (((s.ctxOf c).settle true d).setCounter n v))) :
    ∃ t, exec i s = .next t ∧ s.OnlyCtx t c ∧ (t.ctxOf c).counter n = v ∧
      (∀ k, k ≠ n → (t.ctxOf c).counter k = (s.ctxOf c).counter k) ∧
      t.ctxOf c = { s.ctxOf c with counters := (t.ctxOf c).counters
                                   exec := { (s.ctxOf c).exec with due := (t.ctxOf c).exec.due } } := by
  refine ⟨_, hi, State.onlyCtx_setCtx .., ?_⟩
  rw [State.setCtx_ctxOf_self]
  exact ⟨Table.get_set_self .., fun k hk => Table.get_set_ne _ _ _ hk, rfl⟩

theorem condHolds_iff (cond : Fin 6) (u v : Word) : condHolds cond.val u v = true ↔ match cond with
    | 0 => u = v
    | 1 => u ≠ v
    | 2 => u.toInt < v.toInt
    | 3 => u.toInt ≥ v.toInt
    | 4 => u.toNat < v.toNat
    | 5 => u.toNat ≥ v.toNat := by
  match cond with
  | 0 => exact decide_eq_true_iff
  | 1 => exact decide_eq_true_iff
  | 2 => exact BitVec.slt_iff_toInt_lt
  | 3 => exact BitVec.sle_iff_toInt_le
  | 4 => exact BitVec.ult_iff_toNat_lt
  | 5 => exact BitVec.ule_iff_toNat_le

theorem putBit_getLsbD_self {w : Nat} (v : BitVec w) {n : Nat} (b : Bool) (h : n < w) : (putBit v n b).getLsbD n = b := by
  cases b with
  | true => exact putBit_getLsbD v h
  | false =>
    rw [putBit, if_neg Bool.false_ne_true, BitVec.getLsbD_and, BitVec.getLsbD_not, BitVec.getLsbD_ofNat, Nat.testBit_two_pow_self]
    simp [h]

theorem putBit_getLsbD_ne {w : Nat} (v : BitVec w) {n k : Nat} (b : Bool) (h : k ≠ n) : (putBit v n b).getLsbD k = v.getLsbD k := by
  have hk : (BitVec.ofNat w (2 ^ n)).getLsbD k = false := by
    rw [BitVec.getLsbD_ofNat, Nat.testBit_two_pow_of_ne (Ne.symm h), Bool.and_false]
  cases b with
  | true => rw [putBit, if_pos rfl, BitVec.getLsbD_or, hk, Bool.or_false]
  | false =>
    rw [putBit, if_neg Bool.false_ne_true, BitVec.getLsbD_and, BitVec.getLsbD_not, hk]
    by_cases hw : k < w
    · simp [hw]
    · simp [BitVec.getLsbD_of_ge v k (Nat.not_lt.1 hw)]

/-- Settles O13: the four functions of CNT by the value they write, CMP by the bit that it writes. -/
theorem countersAndPredicates : Obligations.CountersAndPredicates := by
  refine ⟨fun c d src imm s hr p hp => ?_, ?_⟩
  · simp only [List.mem_cons, List.not_mem_nil, or_false] at hp
    rcases hp with rfl | rfl | rfl | rfl
    · exact State.cnt_spec (.cntLoad d.val imm) d.val imm (congrArg Host.Outcome.next (State.scalar_of_runs _ _ hr))
    · exact State.cnt_spec (.cntAdd d.val imm) d.val _ (congrArg Host.Outcome.next (State.scalar_of_runs _ _ hr))
    · exact State.cnt_spec (.cntCopy d.val src.val) d.val _ (congrArg Host.Outcome.next (State.scalar_of_runs _ _ hr))
    · exact State.cnt_spec (.cntStroke d.val) d.val _ (congrArg Host.Outcome.next (State.scalar_of_runs _ _ hr))
  · intro c p a b useB cond imm s hr u v holds
    refine ⟨_, congrArg Host.Outcome.next (State.scalar_of_runs _ _ hr), State.onlyCtx_setCtx .., ?_⟩
    rw [State.setCtx_ctxOf_self]
    refine ⟨?_, fun k hk => putBit_getLsbD_ne _ _ hk, rfl⟩
    have hbit : _ = condHolds cond.val u v := putBit_getLsbD_self (s.ctxOf c).preds (condHolds cond.val u v) p.isLt
    exact (Bool.eq_iff_iff.1 hbit).trans (condHolds_iff cond u v)

/-! ## SETs (R153, R154) -/

/-- A SET joins the waiting ones; with nothing due it waits for the bundles that its streams have issued. -/
theorem State.syncSet_spec {s : State} {c : Fin 4} (a x : Bool) (flag : Nat) (epoch : BitVec 16) (hr : s.runs c = true) :
    ∃ due n, s.syncSet c a x flag epoch =
        s.setCtx c { (s.ctxOf c).setStream x { (s.ctxOf c).stream x with due := due } with
                     sets := ((s.ctxOf c).setStream x { (s.ctxOf c).stream x with due := due }).sets ++ [⟨flag, epoch, a, x, n⟩] } ∧
      (((s.ctxOf c).stream x).due = [] → n = max (if a then (s.ctxOf c).access.next else 0) (if x then (s.ctxOf c).exec.next else 0)) := by
  simp only [State.syncSet, hr, Bool.not_true, Bool.false_eq_true, if_false]
  exact ⟨_, _, rfl, fun hd => by rw [hd]; rfl⟩

theorem Ctx.setMet_iff (y : Ctx) (w : WaitingSet) :
    let before (t : Stream) : Prop := w.upTo ≤ t.next ∧ ∀ m ∈ t.inflight, w.upTo ≤ m.index
    y.setMet w = true ↔ (w.access = true → before y.access) ∧ (w.execute = true → before y.exec) := by
  have himp : ∀ (p : Bool) (t : Stream),
      (!p || t.doneUpTo w.upTo) = true ↔ (p = true → w.upTo ≤ t.next ∧ ∀ m ∈ t.inflight, w.upTo ≤ m.index) := by
    intro p t
    rw [← Stream.doneUpTo_iff]
    cases p <;> simp
  unfold Ctx.setMet
  rw [Bool.and_eq_true, himp, himp]

/-- The one waiting SET is taken where its conditions are met. -/
theorem State.setFlagWrite_one {s : State} {c : Fin 4} {w : WaitingSet} (hr : s.runs c = true) (hs : (s.ctxOf c).sets = [w]) :
    s.setFlagWrite c = if (s.ctxOf c).setMet w then s.setCtx c ({ s.ctxOf c with sets := [] }.writeFlag w.flag w.epoch) else s := by
  have hpick : ([w].find? fun w => !w.execute).or [w].head? = some w := by
    cases h : w.execute <;> simp [h]
  have herase : [w].erase w = [] := List.erase_cons_head ..
  cases hm : (s.ctxOf c).setMet w with
  | true =>
    have hfilter : [w].filter (s.ctxOf c).setMet = [w] := List.filter_cons_of_pos hm
    simp only [State.setFlagWrite, hs, hfilter, hpick, herase, hr, if_true]
  | false =>
    have hfilter : [w].filter (s.ctxOf c).setMet = [] := List.filter_cons_of_neg (by rw [hm]; decide)
    simp only [State.setFlagWrite, hs, hfilter]
    rfl

/-- Settles O14: a SET joins the waiting ones; the one that waits is taken once met, and writes where its EPOCH is ahead. -/
theorem setsWaitAndWriteForward : Obligations.SetsWaitAndWriteForward := by
  refine ⟨fun c a x f epoch s hr => ?_, fun c f v s ho => ?_, fun c w s hr hs => ?_⟩
  · obtain ⟨due, n, heq, hn⟩ := State.syncSet_spec a x f.val epoch hr
    refine ⟨_, n, congrArg Host.Outcome.next heq, State.onlyCtx_setCtx .., ?_⟩
    rw [State.setCtx_ctxOf_self]
    refine ⟨by cases x <;> rfl, Ctx.setStream_flags .., ?_, ?_⟩
    · rintro ⟨hd, rfl, rfl⟩
      simpa using hn hd
    · rintro ⟨hd, rfl, rfl⟩
      simpa using hn hd
  · refine ⟨_, congrArg Host.Outcome.next (if_pos ho), ?_⟩
    rw [State.setCtx_ctxOf_self]
    exact ⟨Table.get_set_self .., rfl, rfl⟩
  · intro x before met forward
    have hmet : x.setMet w = true ↔ met := Ctx.setMet_iff ..
    have hforward : reached w.epoch (x.flag w.flag) = true ↔ forward := reached_iff ..
    refine ⟨_, congrArg Host.Outcome.next (State.setFlagWrite_one hr hs), ?_, ?_, fun hn => if_neg (mt hmet.1 hn)⟩
    · rintro ⟨hm, hf⟩
      have hwrite : { x with sets := [] }.writeFlag w.flag w.epoch = { x with sets := [], flags := x.flags.set w.flag w.epoch } :=
        if_pos (hforward.2 hf)
      rw [if_pos (hmet.2 hm), hwrite, State.setCtx_ctxOf_self]
      exact ⟨State.onlyCtx_setCtx .., Table.get_set_self .., rfl, fun k hk => Table.get_set_ne _ _ _ hk, rfl⟩
    · rintro ⟨hm, hf⟩
      rw [if_pos (hmet.2 hm)]
      exact congrArg (s.setCtx c) (if_neg (mt hforward.1 hf))

end Sys2Proof.Machine

/-! PROOFS of the statements of 05_bundles_and_streams.md: PHASE and the timeouts of blocked streams (O15, O16). -/

namespace Sys2Proof.Machine

/-! ## PHASE (R157, R463) -/

/-- A span with the code of a new phase, its offsets counted from a control beat. -/
def Span.mark (x : Span) (p beat : Nat) : Span := { x.note with phase := BitVec.ofNat 3 p, marker := beat }

/-- A span once PHASE has given it the code in a control beat. -/
def Span.enterPhase (x : Span) (p beat : Nat) : Span := (x.mark p beat).takeUp beat

/-- A fold that keeps its choice or takes the next element chooses an element of the list. -/
theorem foldl_choice_mem {α : Type} (f : Option α → α → Option α) (hf : ∀ b a, f b a = b ∨ f b a = some a) (l : List α) :
    ∀ i, l.foldl f none = some i → i ∈ l := by
  refine List.foldlRecOn (motive := fun b => ∀ i, b = some i → i ∈ l) l f nofun fun b hb a ha i hi => ?_
  rcases hf b a with h | h
  · exact hb i (h ▸ hi)
  · rw [h, Option.some.injEq] at hi
    exact hi ▸ ha

/-- The floor entry in force is one whose offset from the marker has passed (R463). -/
theorem Span.latestFloor_passed {x : Span} {beat i : Nat} (h : x.latestFloor beat = some i) :
    x.marker + usBeats * (x.part.floors.getD i (0, 0)).1 ≤ beat := by
  have hmem := foldl_choice_mem _ (fun b a => ?_) _ i h
  · exact of_decide_eq_true (List.mem_filter.1 hmem).2
  · cases b with
    | none => exact .inr rfl
    | some j =>
      show ite _ _ _ = _ ∨ ite _ _ _ = _
      split
      · exact .inr rfl
      · exact .inl rfl

/-- Taking up a part leaves the floor entries of the phase. -/
theorem Span.takeUp_floors (x : Span) (beat : Nat) : (x.takeUp beat).part.floors = x.part.floors := by
  show (x.envelope.getD x.phase.toNat _).floors = (x.envelope.getD x.phase.toNat _).floors
  rw [List.getD_eq_getElem?_getD, List.getD_eq_getElem?_getD]
  cases x.envelope[x.phase.toNat]? <;> rfl

/-- Right after PHASE no floor entry of a later offset has passed. -/
theorem Span.enterPhase_floor {x : Span} {p beat i : Nat} (h : (x.enterPhase p beat).floor = some i) :
    ((x.enterPhase p beat).part.floors.getD i (0, 0)).1 = 0 := by
  have hzero : ∀ k, beat + 1800 * k ≤ beat → k = 0 := by omega
  rw [Span.enterPhase, Span.takeUp_floors]
  exact hzero _ (Span.latestFloor_passed (x := x.mark p beat) h)

section
variable (s : State) (c : Fin 4) (p : Nat)

theorem State.enterPhase_onlySpan (t : State) (n : Nat) : t.OnlySpan (t.setSpan n ((t.spanOf n).enterPhase p t.time.beat)) n := by
  rw [State.OnlySpan, State.setSpan_spanOf_self]

theorem State.setPhase_eq : s.setPhase c p =
    (spansOf (s.adminOf c).owned).foldl (fun t n => t.setSpan n ((t.spanOf n).enterPhase p t.time.beat))
      (s.setCtx c { s.ctxOf c with phase := some p }) := rfl

theorem State.setPhase_onlySpans : (s.setCtx c { s.ctxOf c with phase := some p }).OnlySpans (s.setPhase c p) :=
  State.foldl_onlySpans (State.enterPhase_onlySpan p) ..

variable {s c} {n : Nat}

theorem State.setPhase_spanOf_owned (hn : n < 16) (h : (s.adminOf c).owned.getLsbD n = true) :
    (s.setPhase c p).spanOf n = (s.spanOf n).enterPhase p s.time.beat := by
  obtain ⟨u, ⟨sp, hu⟩, hun, heq⟩ := State.foldl_spanOf_of_mem (State.enterPhase_onlySpan p) (l := spansOf (s.adminOf c).owned)
    (List.nodup_range.filter _) (List.mem_filter.2 ⟨List.mem_range.2 hn, h⟩) (s.setCtx c { s.ctxOf c with phase := some p })
  have ht : u.time = s.time := by rw [hu]; rfl
  rw [State.setPhase_eq, heq, State.setSpan_spanOf_self, hun, ht]
  rfl

theorem State.setPhase_spanOf_other (h : (s.adminOf c).owned.getLsbD n = false) : (s.setPhase c p).spanOf n = s.spanOf n :=
  State.foldl_spanOf_of_notMem (State.enterPhase_onlySpan p) (s.setCtx c { s.ctxOf c with phase := some p })
    fun hm => Bool.eq_false_iff.1 h (List.mem_filter.1 hm).2

end

/-- Settles O15: every owned span enters the phase in this beat. -/
theorem phaseReachesTheContextsSpans : Obligations.PhaseReachesTheContextsSpans := by
  intro c p s hr
  refine ⟨_, congrArg Host.Outcome.next (if_pos hr), ?_⟩
  obtain ⟨sp, h⟩ := State.setPhase_onlySpans (s.setCtx c ((s.ctxOf c).settle true (.phase p.val))) c p.val
  refine ⟨?_, by rw [h]; rfl, by rw [h]; rfl, fun n hn ho => ?_, fun n _ ho => State.setPhase_spanOf_other _ ho⟩
  · rw [h]
    exact congrArg Ctx.phase (State.setCtx_ctxOf_self ..)
  · have hspan : _ = (s.spanOf n).enterPhase p.val s.time.beat :=
      State.setPhase_spanOf_owned (s := s.setCtx c ((s.ctxOf c).settle true (.phase p.val))) p.val hn ho
    rw [hspan]
    exact ⟨rfl, rfl, fun i => Span.enterPhase_floor⟩

/-! ## Timeouts (R159, R160, R481) -/

/-- Fields from byte `n` on add a multiple of 256^n to a record. -/
theorem pack_append_above {n : Nat} (l r : List (Nat × Nat × Nat)) (h : ∀ g ∈ r, n ≤ g.1) : ∃ k, pack (l ++ r) = pack l + 256 ^ n * k := by
  rw [pack, List.foldl_append]
  refine List.foldlRecOn (motive := fun v => ∃ k, v = pack l + 256 ^ n * k) r _ ⟨0, rfl⟩ fun v hv g hg => ?_
  obtain ⟨k, rfl⟩ := hv
  obtain ⟨j, hj⟩ := Nat.exists_eq_add_of_le (h g hg)
  exact ⟨k + g.2.2 % 256 ^ g.2.1 * 256 ^ j, by rw [hj, Nat.pow_add]; ring⟩

/-- The second field of a record that begins with two fields of a byte. -/
theorem pack_second_byte (u v : Nat) (l : List (Nat × Nat × Nat)) (h : ∀ g ∈ l, 2 ≤ g.1) :
    pack ((0, 1, u) :: (1, 1, v) :: l) / 256 % 256 = v % 256 := by
  obtain ⟨k, hk⟩ := pack_append_above [(0, 1, u), (1, 1, v)] l h
  have hpair : pack [(0, 1, u), (1, 1, v)] = u % 256 + v % 256 * 256 := by simp [pack]
  rw [List.cons_append, List.cons_append, List.nil_append] at hk
  rw [hk, hpair]
  omega

/-- The second byte of a WAIT_TIMEOUT's DETAIL is the kind that blocks (R481). -/
theorem Ctx.waitDetail_kind (y : Ctx) (x : Bool) {kind : Nat} (h : kind < 256) : y.waitDetail x kind / 256 % 256 = kind := by
  unfold Ctx.waitDetail
  split
  · exact pack_second_byte _ 1 _ (by simp)
  · rw [pack_second_byte _ _ _ (by simp), Nat.mod_eq_of_lt h]

section
variable {s : State} {c : Fin 4}

theorem State.waitTimeout_some {x : Bool} {b : StreamBlock} (hr : s.runs c = true)
    (h : ((s.ctxOf c).stream x).blocks.find? (fun b => b.kind ≠ 7 && s.time.beat ≥ b.since + (s.ctxOf c).waitLimit x b.kind) = some b) :
    s.waitTimeout c x = s.raise c { code := 0x0501, tag := (((s.ctxOf c).stream x).blockedBundle b).1
                                    addr := (((s.ctxOf c).stream x).blockedBundle b).2, detail := (s.ctxOf c).waitDetail x b.kind } := by
  simp only [State.waitTimeout, h, State.runs_judges hr, if_true]

theorem State.waitTimeout_none {x : Bool}
    (h : ∀ b ∈ ((s.ctxOf c).stream x).blocks, b.kind = 7 ∨ s.time.beat < b.since + (s.ctxOf c).waitLimit x b.kind) : s.waitTimeout c x = s := by
  have hn : ((s.ctxOf c).stream x).blocks.find? (fun b => b.kind ≠ 7 && s.time.beat ≥ b.since + (s.ctxOf c).waitLimit x b.kind) = none := by
    refine List.find?_eq_none.2 fun b hb => ?_
    rcases h b hb with h | h <;> simp [h]
  simp only [State.waitTimeout, hn]

/-- Both streams are blocked by kinds 1 to 5, with nothing under way that could free one (R160). -/
structure State.CrossBlocked (s : State) (c : Fin 4) (p q : StreamBlock) : Prop where
  runs : s.runs c = true
  access : (s.ctxOf c).access.crossBlock = some p
  exec : (s.ctxOf c).exec.crossBlock = some q
  hostAccess : (s.ctxOf c).hostDriven false = false
  hostExec : (s.ctxOf c).hostDriven true = false
  arrival : (s.ctxOf c).arrivalPending = false
  tiles : ∀ m ∈ (s.ctxOf c).access.inflight ++ (s.ctxOf c).exec.inflight, m.tileInFlight = false

/-- DETAIL of CROSS_WAIT (R481). -/
def Ctx.crossDetail (y : Ctx) (p q : StreamBlock) : Nat :=
  pack [(0, 4, (y.access.blockedBundle p).1.toNat), (4, 1, p.kind), (5, 1, q.kind), (8, 8, (y.access.blockedBundle p).2.toNat)]

theorem State.crossWait_eq {p q : StreamBlock} (h : s.CrossBlocked c p q) :
    s.crossWait c =
      if max (max p.since q.since) ((s.ctxOf c).crossSince.getD 0) + 65536 ≤ s.time.beat then
        s.raise c { code := 0x0502, tag := ((s.ctxOf c).exec.blockedBundle q).1, addr := ((s.ctxOf c).exec.blockedBundle q).2
                    detail := (s.ctxOf c).crossDetail p q }
      else s := by
  have ht : ((s.ctxOf c).access.inflight ++ (s.ctxOf c).exec.inflight).any MacroRun.tileInFlight = false :=
    List.any_eq_false.2 fun m hm => by rw [h.tiles m hm]; decide
  simp only [State.crossWait, h.access, h.exec, State.runs_judges h.runs, h.hostAccess, h.hostExec, h.arrival, ht, Bool.not_false,
    Bool.true_and, decide_eq_true_eq]
  rfl

theorem Ctx.crossDetail_tag (y : Ctx) (p q : StreamBlock) : y.crossDetail p q % 2 ^ 32 = (y.access.blockedBundle p).1.toNat := by
  obtain ⟨k, hk⟩ := pack_append_above (n := 4) [(0, 4, (y.access.blockedBundle p).1.toNat)]
    [(4, 1, p.kind), (5, 1, q.kind), (8, 8, (y.access.blockedBundle p).2.toNat)] (by simp)
  have htag : pack [(0, 4, (y.access.blockedBundle p).1.toNat)] = (y.access.blockedBundle p).1.toNat % 256 ^ 4 := by simp [pack]
  have hlt := (y.access.blockedBundle p).1.isLt
  rw [List.singleton_append, htag] at hk
  rw [Ctx.crossDetail, hk]
  omega

end

/-- Settles O16: each row by whether the beats of its limit have passed. -/
theorem blockedStreamsTimeOut : Obligations.BlockedStreamsTimeOut := by
  have hwait : ∀ (c : Fin 4) (x : Bool) (s : State), exec (.waitTimeout c x s.time.beat) s = .next (s.waitTimeout c x) :=
    fun c x s => congrArg Host.Outcome.next (congrArg (State.waitTimeout · c x) s.advanceTo_now)
  have hcross : ∀ (c : Fin 4) (s : State), exec (.crossWait c s.time.beat) s = .next (s.crossWait c) :=
    fun c s => congrArg Host.Outcome.next (congrArg (State.crossWait · c) s.advanceTo_now)
  refine ⟨fun c x s b hr => ?_, fun c x s h => ?_, fun c s p q hr => ?_⟩
  · intro t h
    exact ⟨_, _, (hwait c x s).trans (congrArg Host.Outcome.next (State.waitTimeout_some hr h)), s.raise_halts _ hr, rfl, rfl,
      Ctx.waitDetail_kind _ _⟩
  · exact (hwait c x s).trans (congrArg Host.Outcome.next (State.waitTimeout_none h))
  · intro a e ha he hha hhe harr htiles
    have h := State.crossWait_eq ⟨hr, ha, he, hha, hhe, harr, htiles⟩
    refine ⟨fun hb => ?_, fun hb => ?_⟩
    · rw [hcross, h, if_pos hb]
      exact ⟨_, _, rfl, s.raise_halts _ hr, rfl, rfl, Ctx.crossDetail_tag ..⟩
    · rw [hcross, h, if_neg (Nat.not_le.2 hb)]

end Sys2Proof.Machine

/-! PROOFS of the statements of 06_operand_cache_and_short_operations.md: what reads and landings of lines leave alone (for O18, O29, O30, O32). -/

namespace Sys2Proof.Machine

/-! ## A cause that arose at some beat (R474, R478) -/

/-- A cause writes HALT and SECONDARY of its context, whatever beat it arose at. -/
theorem State.raiseAt_eq (s : State) (c : Fin 4) (q : Cause) (beat : Nat) :
    ∃ h n, s.raiseAt c q beat = s.setCtx c { s.ctxOf c with halt := h, secondary := n } := by
  have hs : s = s.setCtx c { s.ctxOf c with halt := (s.ctxOf c).halt, secondary := (s.ctxOf c).secondary } := (s.setCtx_same c).symm
  unfold State.raiseAt
  simp only []
  cases (s.adminOf c).state with
  | live =>
    simp only []
    split
    · exact ⟨_, _, rfl⟩
    · exact ⟨_, _, rfl⟩
  | halted => exact ⟨_, _, rfl⟩
  | free => exact ⟨_, _, hs⟩
  | creating => exact ⟨_, _, hs⟩
  | resetting => exact ⟨_, _, hs⟩
  | tearingDown => exact ⟨_, _, hs⟩

/-- A cause of a context that runs begins its halt, at the beat at which it arose. -/
theorem State.raiseAt_begins (s : State) {c : Fin 4} (q : Cause) (beat : Nat) (h : s.runs c = true) :
    s.raiseAt c q beat = s.setCtx c { s.ctxOf c with halt := some ⟨s.recordAt c.val true q (s.nowAt beat), q.code, beat, false⟩ } := by
  obtain ⟨hl, hn⟩ := (s.runs_iff c).1 h
  simp [State.raiseAt, hl, hn]

/-! ## What moves with the lines -/

/-- `t` differs from `s` in nothing but crews and contexts, whose streams hold as many macros in flight as before. -/
structure State.LinesFrame (s t : State) : Prop where
  rest : t = { s with ctx := t.ctx, crews := t.crews }
  flight : ∀ c e, ((t.ctxOf c).stream e).inflight.length = ((s.ctxOf c).stream e).inflight.length

/-- What no read of a VSHORT changes in it. -/
def ShortRun.fixed (r : ShortRun) : Bool × BitVec 128 × Nat × Nat := (r.evaluated, r.bits, r.start, r.dest)

/-- And the cache words stay, and every crew has the VSHORTs started that it had. -/
structure State.ReadsFrame (s t : State) : Prop extends s.LinesFrame t where
  oc : ∀ k, (t.crewOf k).oc = (s.crewOf k).oc
  started : ∀ k, (t.crewOf k).started.map ShortRun.fixed = (s.crewOf k).started.map ShortRun.fixed

namespace State.LinesFrame

variable {s t u : State}

theorem refl (s : State) : s.LinesFrame s := ⟨rfl, fun _ _ => rfl⟩

theorem trans (h : s.LinesFrame t) (k : t.LinesFrame u) : s.LinesFrame u :=
  ⟨by rw [k.rest, h.rest], fun c e => (k.flight c e).trans (h.flight c e)⟩

theorem foldl {α : Type} {f : State → α → State} (h : ∀ (s : State) a, s.LinesFrame (f s a)) (l : List α) (s : State) :
    s.LinesFrame (l.foldl f s) :=
  List.foldlRecOn (motive := fun t => s.LinesFrame t) l f (.refl s) fun t ht a _ => ht.trans (h t a)

theorem setCrew (s : State) (n : Nat) (k : Crew) : s.LinesFrame (s.setCrew n k) := ⟨rfl, fun _ _ => rfl⟩

theorem setCtx (s : State) {c : Fin 4} {x : Ctx} (h : ∀ e, (x.stream e).inflight.length = ((s.ctxOf c).stream e).inflight.length) :
    s.LinesFrame (s.setCtx c x) := by
  refine ⟨rfl, fun d e => ?_⟩
  by_cases hd : d = c
  · rw [hd, State.setCtx_ctxOf_self, h]
  · rw [State.setCtx_ctxOf_ne _ _ hd]

theorem mem (h : s.LinesFrame t) : t.mem = s.mem := by rw [h.rest]
theorem time (h : s.LinesFrame t) : t.time = s.time := by rw [h.rest]
theorem spans (h : s.LinesFrame t) : t.spans = s.spans := by rw [h.rest]
theorem cores (h : s.LinesFrame t) : t.cores = s.cores := by rw [h.rest]
theorem admin (h : s.LinesFrame t) : t.admin = s.admin := by rw [h.rest]
theorem hists (h : s.LinesFrame t) : t.hists = s.hists := by rw [h.rest]
theorem glob (h : s.LinesFrame t) : t.glob = s.glob := by rw [h.rest]

/-- A place of a stream that holds a macro still holds one. -/
theorem runAt_isSome (h : s.LinesFrame t) {c : Fin 4} {e : Bool} {i : Nat} (hi : (s.runAt c e i).isSome = true) :
    (t.runAt c e i).isSome = true := by
  simpa [State.runAt, h.flight c e] using hi

end State.LinesFrame

theorem Ctx.setRun_flight (x : Ctx) (e f : Bool) (i : Nat) (m : MacroRun) :
    ((x.setRun e i m).stream f).inflight.length = (x.stream f).inflight.length := by
  cases e <;> cases f <;> simp [Ctx.setRun, Ctx.setStream, Ctx.stream]

namespace State.ReadsFrame

variable {s t u : State}

theorem refl (s : State) : s.ReadsFrame s := ⟨.refl s, fun _ => rfl, fun _ => rfl⟩

theorem trans (h : s.ReadsFrame t) (k : t.ReadsFrame u) : s.ReadsFrame u :=
  ⟨h.toLinesFrame.trans k.toLinesFrame, fun n => (k.oc n).trans (h.oc n), fun n => (k.started n).trans (h.started n)⟩

theorem foldl {α : Type} {f : State → α → State} (h : ∀ (s : State) a, s.ReadsFrame (f s a)) (l : List α) (s : State) :
    s.ReadsFrame (l.foldl f s) :=
  List.foldlRecOn (motive := fun t => s.ReadsFrame t) l f (.refl s) fun t ht a _ => ht.trans (h t a)

theorem setCtx (s : State) {c : Fin 4} {x : Ctx} (h : ∀ e, (x.stream e).inflight.length = ((s.ctxOf c).stream e).inflight.length) :
    s.ReadsFrame (s.setCtx c x) := ⟨.setCtx s h, fun _ => rfl, fun _ => rfl⟩

theorem setRun (s : State) (c : Fin 4) (e : Bool) (i : Nat) (m : MacroRun) : s.ReadsFrame (s.setRun c e i m) :=
  .setCtx s fun f => Ctx.setRun_flight _ e f i m

theorem raiseAt (s : State) (c : Fin 4) (q : Cause) (beat : Nat) : s.ReadsFrame (s.raiseAt c q beat) := by
  obtain ⟨h, n, he⟩ := s.raiseAt_eq c q beat
  rw [he]
  exact .setCtx s fun e => by cases e <;> rfl

/-- One VSHORT of a crew moves on. -/
theorem setStarted {crew i : Nat} {r r' : ShortRun} (h : (s.crewOf crew).started[i]? = some r) (hf : r'.fixed = r.fixed) :
    s.ReadsFrame (s.setCrew crew { s.crewOf crew with started := (s.crewOf crew).started.set i r' }) := by
  refine ⟨.setCrew .., fun k => ?_, fun k => ?_⟩
  · by_cases hk : k = crew
    · rw [hk, State.setCrew_crewOf_self]
    · rw [State.setCrew_crewOf_ne _ _ hk]
  · by_cases hk : k = crew
    · rw [hk, State.setCrew_crewOf_self]
      show List.map _ (List.set _ i r') = _
      obtain ⟨hi, rfl⟩ := List.getElem?_eq_some_iff.1 h
      have he : (s.crewOf crew).started[i].fixed = ((s.crewOf crew).started.map ShortRun.fixed)[i]'(by simpa using hi) := (List.getElem_map ..).symm
      rw [List.map_set, hf, he, List.set_getElem_self]
    · rw [State.setCrew_crewOf_ne _ _ hk]

/-- The VSHORT at a place is the one that was there. -/
theorem getElem? (h : s.ReadsFrame t) {crew i : Nat} {r : ShortRun} (hr : (s.crewOf crew).started[i]? = some r) :
    ∃ r', (t.crewOf crew).started[i]? = some r' ∧ r'.fixed = r.fixed := by
  have hm := congrArg (fun l => l[i]?) (h.started crew)
  simp only [List.getElem?_map, hr, Option.map_some] at hm
  exact Option.map_eq_some_iff.1 hm

end State.ReadsFrame

/-! ## A VSHORT that ends (R190) -/

/-- A VSHORT as a violation leaves it: the one of that number of that context makes nothing after a span beat. -/
def ShortRun.endIf (r : ShortRun) (c : Fin 4) (index last : Nat) : ShortRun :=
  if r.ctx = c.val && r.index = index then r.endBy last else r

theorem ShortRun.endBy_fixed (r : ShortRun) (last : Nat) : (r.endBy last).fixed = r.fixed := rfl

theorem ShortRun.endIf_fixed (r : ShortRun) (c : Fin 4) (index last : Nat) : (r.endIf c index last).fixed = r.fixed := by
  unfold ShortRun.endIf
  split <;> rfl

theorem ShortRun.endBy_landing (r : ShortRun) (last : Nat) : ∀ l ∈ (r.endBy last).landing, l ∈ r.landing ∧ l.2 ≤ last := by
  intro l hl
  obtain ⟨hm, hb⟩ := List.mem_filter.1 hl
  refine ⟨hm, ?_⟩
  have hb := of_decide_eq_true hb
  split at hb <;> omega

theorem ShortRun.endIf_landing (r : ShortRun) (c : Fin 4) (index last : Nat) : ∀ l ∈ (r.endIf c index last).landing, l ∈ r.landing := by
  intro l hl
  unfold ShortRun.endIf at hl
  split at hl
  · exact (r.endBy_landing last l hl).1
  · exact hl

/-- A table whose entries are replaced in place finds the replaced entry. -/
theorem Table.find_map_key {α β : Type} (f : Nat → α → β) (k : Nat) (t : Table α) :
    Table.find k (t.map fun e => (e.1, f e.1 e.2)) = (t.find k).map (f k) := by
  induction t with
  | nil => rfl
  | cons e t ih =>
    simp only [List.map_cons, Table.find]
    split
    · next h => rw [h]; rfl
    · split
      · rfl
      · exact ih

/-- Every VSHORT of a crew as a violation leaves it. -/
def Crew.endRuns (k : Crew) (c : Fin 4) (index last : Nat) : Crew := { k with started := k.started.map fun r => r.endIf c index last }

theorem Crew.endRuns_of_none {k : Crew} {c : Fin 4} {index : Nat} (last : Nat)
    (h : ¬k.started.any (fun r => r.ctx = c.val && r.index = index) = true) : k.endRuns c index last = k := by
  have hr : ∀ r ∈ k.started, r.endIf c index last = r := fun r hr => if_neg fun e => h (List.any_eq_true.2 ⟨r, hr, e⟩)
  rw [Crew.endRuns, List.map_congr_left hr, List.map_id']

theorem State.endShort_crewOf (s : State) (c : Fin 4) (index beat k : Nat) :
    (s.endShort c index beat).crewOf k = (s.crewOf k).endRuns c index ((s.spanOf (crewSpan k)).beatAt beat) := by
  have hc : (s.endShort c index beat).crews =
      s.crews.map fun e => (e.1, e.2.endRuns c index ((s.spanOf (crewSpan e.1)).beatAt beat)) := by
    refine List.map_congr_left fun e _ => ?_
    simp only []
    split
    · rfl
    · next h => rw [Crew.endRuns_of_none _ h]
  rw [State.crewOf, Table.get, hc, Table.find_map_key (fun n k => Crew.endRuns k c index ((s.spanOf (crewSpan n)).beatAt beat)), State.crewOf, Table.get]
  cases Table.find k s.crews <;> rfl

theorem State.endShort_reads (s : State) (c : Fin 4) (index beat : Nat) : s.ReadsFrame (s.endShort c index beat) := by
  refine ⟨⟨rfl, fun _ _ => rfl⟩, fun k => by rw [State.endShort_crewOf]; rfl, fun k => ?_⟩
  rw [State.endShort_crewOf, Crew.endRuns, List.map_map]
  exact List.map_congr_left fun r _ => r.endIf_fixed ..

/-! ## Reads (R186, R188, R190, R408) -/

theorem State.readBeat_reads (s : State) (crew i b : Nat) : s.ReadsFrame (s.readBeat crew i b) := by
  unfold State.readBeat
  simp only []
  split
  · exact .refl s
  · next r hr =>
    split
    · exact .refl s
    · split
      · next q _ =>
        have h := (State.ReadsFrame.setStarted hr (r.endBy_fixed (r.start + b))).trans (State.endShort_reads _ (ctxNo r.ctx) r.index
          ((s.spanOf (crewSpan crew)).controlAt (r.start + b) s.time.beat))
        split
        · exact h.trans (.raiseAt ..)
        · exact h
      · exact .setStarted hr rfl

theorem State.countShort_reads (s : State) (crew i : Nat) : s.ReadsFrame (s.countShort crew i) := by
  unfold State.countShort
  simp only []
  split
  · exact .refl s
  · next r hr =>
    split
    · exact .refl s
    · have h : s.ReadsFrame (s.setCrew crew { s.crewOf crew with started := (s.crewOf crew).started.set i { r with counted := true } }) :=
        .setStarted hr rfl
      split
      · exact h
      · exact h.trans (.setRun ..)

theorem State.readsDue_reads (s : State) (crew upto : Nat) : s.ReadsFrame (s.readsDue crew upto) :=
  .foldl (fun t i => by
    split
    · exact .refl t
    · exact (State.ReadsFrame.foldl (fun u b => u.readBeat_reads crew i b) _ _).trans (State.countShort_reads ..)) _ _

theorem State.readsNow_reads (s : State) (c : Fin 4) : s.ReadsFrame (s.readsNow c) :=
  .foldl (fun t _ => t.readsDue_reads ..) _ _

/-! ## Landings (R186, R189, R190) -/

theorem State.landOne_lines (s : State) (crew upto : Nat) : s.LinesFrame (s.landOne crew upto) := by
  unfold State.landOne
  simp only []
  split
  · exact .setCrew ..
  · next at_ r line due _ =>
    split
    · exact .refl s
    · split
      · have h (k : Crew) (b : Nat) := (State.LinesFrame.setCrew s crew k).trans (State.endShort_reads _ (ctxNo r.ctx) r.index b).toLinesFrame
        split
        · exact ((h ..).trans (.setCrew ..)).trans (State.ReadsFrame.raiseAt ..).toLinesFrame
        · exact (h ..).trans (.setCrew ..)
      · exact .setCrew ..

/-- What settles a context's lines touches crews and contexts alone. -/
theorem State.settleLines_lines (s : State) (c : Fin 4) (more : Nat) : s.LinesFrame (s.settleLines c more) :=
  .foldl (fun t _ => (t.readsDue_reads ..).toLinesFrame.trans (.foldl (fun u _ => by
    split
    · exact .refl u
    · exact u.landOne_lines ..) _ _)) _ _

end Sys2Proof.Machine

/-! PROOFS of the statements of 06_operand_cache_and_short_operations.md: the sub-operations and their rows (O31, O30). -/

namespace Sys2Proof.Machine

/-! ## The sub-operations on words (R182, R183) -/

/-- Settles O31: each of these codes answers a word, with no event, whatever its operands. -/
theorem vshortWordResults : Obligations.VshortWordResults := by
  intro a b
  simp only [List.forall_mem_cons, List.not_mem_nil, false_imp_iff, implies_true, and_true]
  refine ⟨?iadd, ?isub, ?and, ?or, ?xor, ?shl, ?shrl, ?shra, ?abs, ?neg, ?copy⟩
  all_goals exact ⟨rfl, rfl⟩

/-! ## The rows (R182) -/

/-- The oldest entry of a list with a property, and its place. -/
theorem find?_zip_range_append {α : Type} {p : α → Bool} {pre post : List α} {a : α} (hpre : ∀ b ∈ pre, p b = false) (ha : p a = true) :
    ((List.range (pre ++ a :: post).length).zip (pre ++ a :: post)).find? (fun e => p e.2) = some (pre.length, a) := by
  refine List.find?_eq_some_iff_getElem.2 ⟨ha, pre.length, by simp, by simp, fun j hj => ?_⟩
  have hm : pre[j] ∈ pre := List.getElem_mem hj
  simp [List.getElem_append_left hj, hpre _ hm]

/-- A row takes the oldest started VSHORT of its code whose row has not come: it runs, and the reads that are due are made. -/
theorem State.runShort_eq {s : State} {crew code : Nat} {r : ShortRun} {pre post : List ShortRun}
    (hs : (s.crewOf crew).started = pre ++ r :: post) (hpre : ∀ q ∈ pre, q.evaluated = true ∨ Short.sop q.bits ≠ code)
    (he : r.evaluated = false) (hc : Short.sop r.bits = code) :
    s.runShort crew code =
      (s.setCrew crew { s.crewOf crew with started := pre ++ { r with evaluated := true } :: post }).readsNow (ctxNo r.ctx) := by
  have hf := find?_zip_range_append (p := fun r => !r.evaluated && decide (Short.sop r.bits = code)) (post := post)
    (fun q hq => by simpa [or_iff_not_imp_left] using hpre q hq) (by simp [he, hc] : (!r.evaluated && decide (Short.sop r.bits = code)) = true)
  simp only [State.runShort, hs, hf, List.set_append_right _ _ (Nat.le_refl pre.length), Nat.sub_self, List.set_cons_zero]

/-- The 26 rows differ in their codes alone. -/
theorem exec_shortRow (crew : Fin 256) (s : State) : ∀ row ∈ State.shortRows crew, exec row.1 s = .next (s.runShort crew.val row.2) :=
  List.forall_iff_forall_mem.1 (by repeat' constructor)

/-! ## Result words (R183, R184) -/

theorem ShortRun.lineWords_getElem? {r : ShortRun} {j w : Nat} (hf : Short.folds r.bits = false) (hw : w < 64)
    (h : 64 * j + w < Short.count r.bits) : (r.lineWords j)[w]? = some (r.element (64 * j + w)).1 := by
  have hm : w < min 64 (Short.count r.bits - 64 * j) := by omega
  simp [ShortRun.lineWords, hf, List.getElem?_range hm]

/-! ## An early read (R188, R190) -/

section
variable {s : State} {crew i b n : Nat} {r : ShortRun} {q : Nat × Nat} {m : MacroRun}

/-- A VSHORT that meets a pending line reads some line in that beat. -/
theorem ShortRun.linesAt_of_early {x : Ctx} {k : Crew} (h : r.earlyAt x k b = some q) : r.linesAt b ≠ [] := by
  intro he
  have hn : (Short.sources r.bits).flatMap (fun q => (r.linesAt b).map fun j => (q.1, q.2 + j)) = [] :=
    List.flatMap_eq_nil_iff.2 fun _ _ => by rw [he]; rfl
  rw [ShortRun.earlyAt, hn] at h
  cases h

theorem ShortRun.unread_of_nil (hg : r.got = []) (hc : 0 < Short.count r.bits) : r.allRead = false := by
  simp [ShortRun.allRead, hg, Short.lines]
  omega

theorem ShortRun.endIf_allRead (r : ShortRun) (c : Fin 4) (index last : Nat) : (r.endIf c index last).allRead = r.allRead := by
  unfold ShortRun.endIf
  split <;> rfl

/-- An early read ends its VSHORT on every crew and halts a context that runs, at the control beat of the read. -/
theorem State.readBeat_early (hr : (s.crewOf crew).started[i]? = some r) (he : r.endAt = none) (hrun : s.runs (ctxNo r.ctx) = true)
    (hq : r.earlyAt (s.ctxOf (ctxNo r.ctx)) (s.crewOf crew) b = some q) (hm : s.shortRun (ctxNo r.ctx) r.index = some (n, m))
    {beat : Nat} (hat : (s.spanOf (crewSpan crew)).controlAt (r.start + b) s.time.beat = beat) :
    ∃ x h, x.halt = some h ∧ h.code = 0x0401 ∧ h.beat = beat ∧ s.readBeat crew i b =
      ((s.setCrew crew { s.crewOf crew with started := (s.crewOf crew).started.set i (r.endBy (r.start + b)) }).endShort
        (ctxNo r.ctx) r.index beat).setCtx (ctxNo r.ctx) x := by
  have hl : ¬(decide (r.linesAt b = []) || r.endAt.any (· < r.start + b)) = true := by
    simp [ShortRun.linesAt_of_early hq, he]
  generalize hu : (s.setCrew crew { s.crewOf crew with started := (s.crewOf crew).started.set i (r.endBy (r.start + b)) }).endShort
    (ctxNo r.ctx) r.index beat = u
  have hm' : u.shortRun (ctxNo r.ctx) r.index = some (n, m) := hu ▸ hm
  have hrun' : u.runs (ctxNo r.ctx) = true := hu ▸ hrun
  simp only [State.readBeat, hr, if_neg hl, hq, hat, hu, hm', State.raiseAt_begins u _ _ hrun']
  exact ⟨_, _, rfl, rfl, rfl, rfl⟩

theorem State.countShort_unread (hr : (s.crewOf crew).started[i]? = some r) (hn : r.allRead = false) : s.countShort crew i = s := by
  simp [State.countShort, hr, hn]

/-- The reads of the first beat of the one VSHORT of a crew. -/
theorem State.readsDue_first (hs : (s.crewOf crew).started = [r]) :
    s.readsDue crew (r.start + 1) = (s.readBeat crew 0 0).countShort crew 0 := by
  simp [State.readsDue, hs]

theorem Span.controlAt_beatAt (x : Span) (now : Nat) : x.controlAt (x.beatAt now) now = now := if_pos (Nat.le_refl _)

/-- A context whose one started VSHORT has started in this beat and meets a pending line halts in this beat, and the VSHORT is ended. -/
theorem State.readsNow_early (hs : (s.crewOf crew).started = [r])
    (hk : (crewsOf (s.adminOf (ctxNo r.ctx)).owned).filter (fun k => !(s.crewOf k).started.isEmpty) = [crew])
    (hrun : s.runs (ctxNo r.ctx) = true) (hst : r.start = s.spanBeat (crewSpan crew)) (hg : r.got = []) (he : r.endAt = none)
    (hc : 0 < Short.count r.bits) (hq : r.earlyAt (s.ctxOf (ctxNo r.ctx)) (s.crewOf crew) 0 = some q)
    (hm : s.shortRun (ctxNo r.ctx) r.index = some (n, m)) :
    ∃ h r', ((s.readsNow (ctxNo r.ctx)).ctxOf (ctxNo r.ctx)).halt = some h ∧ h.code = 0x0401 ∧ h.beat = s.time.beat ∧
      ((s.readsNow (ctxNo r.ctx)).crewOf crew).started = [r'] ∧ ∀ l ∈ r'.landing, l.2 ≤ r.start := by
  have hr : (s.crewOf crew).started[0]? = some r := by rw [hs]; rfl
  have hat : (s.spanOf (crewSpan crew)).controlAt (r.start + 0) s.time.beat = s.time.beat := by
    rw [Nat.add_zero, hst]
    exact Span.controlAt_beatAt ..
  obtain ⟨x, h, hx, hcode, hbeat, hread⟩ := State.readBeat_early hr he hrun hq hm hat
  have hnow : s.readsNow (ctxNo r.ctx) = (s.readBeat crew 0 0).countShort crew 0 := by
    rw [State.readsNow, hk, ← State.readsDue_first hs, hst]
    rfl
  have hstarted : ((s.readBeat crew 0 0).crewOf crew).started =
      [(r.endBy r.start).endIf (ctxNo r.ctx) r.index (s.spanBeat (crewSpan crew))] := by
    rw [hread, State.setCtx_crewOf, State.endShort_crewOf, State.setCrew_crewOf_self, hs]
    rfl
  have hunread : ((r.endBy r.start).endIf (ctxNo r.ctx) r.index (s.spanBeat (crewSpan crew))).allRead = false := by
    rw [ShortRun.endIf_allRead]
    exact ShortRun.unread_of_nil hg hc
  rw [hnow, State.countShort_unread (by rw [hstarted]; rfl) hunread]
  refine ⟨h, _, ?_, hcode, hbeat, hstarted, fun l hl => (r.endBy_landing _ l (ShortRun.endIf_landing _ _ _ _ l hl)).2⟩
  rw [hread, State.setCtx_ctxOf_self, hx]

end

/-- Settles O30: a row makes the reads that are due; those change neither words nor what a VSHORT is, and a first read of a pending line halts. -/
theorem vshortRowsEvaluateTheirCode : Obligations.VshortRowsEvaluateTheirCode := by
  intro crew s row hrow r pre post hs hpre he hc c u
  have hexec : exec row.1 s = .next (u.readsNow c) := by
    rw [exec_shortRow crew s row hrow, State.runShort_eq hs hpre he hc]
  refine ⟨?runs, ?words, ?early⟩
  case runs =>
    have hf := u.readsNow_reads c
    have hr : (u.crewOf crew.val).started[pre.length]? = some { r with evaluated := true } := by
      rw [State.setCrew_crewOf_self]
      simp
    obtain ⟨r', hr', hfix⟩ := hf.getElem? hr
    simp only [ShortRun.fixed, Prod.mk.injEq] at hfix
    obtain ⟨he', hb', hst', hd'⟩ := hfix
    refine ⟨_, r', hexec, rfl, hf.mem, hf.cores, hf.spans, hf.admin, hf.hists, hf.glob, fun k => (hf.oc k).trans ?_, hr', he', hb', hst', hd'⟩
    by_cases hk : k = crew.val
    · rw [hk, State.setCrew_crewOf_self]
    · rw [State.setCrew_crewOf_ne _ _ hk]
  case words =>
    intro j w hf hw hj
    rw [ShortRun.lineWords_getElem? hf hw hj, ShortRun.element, hc]
  case early =>
    intro i m q hpre0 hpost0 hk hrun hst hg hend hcount hq hm
    subst hpre0 hpost0
    have hu : (u.crewOf crew.val).started = [{ r with evaluated := true }] := by rw [State.setCrew_crewOf_self]; rfl
    have hq' : ({ r with evaluated := true } : ShortRun).earlyAt (u.ctxOf c) (u.crewOf crew.val) 0 = some q := by
      rw [State.setCrew_crewOf_self]
      exact hq
    obtain ⟨h, r', hh, hcode, hbeat, hs', hl⟩ := State.readsNow_early hu hk hrun hst hg hend hcount hq' hm
    exact ⟨_, h, r', hexec, (u.readsNow_reads c).mem, hh, hcode, hbeat, hs', hl⟩

end Sys2Proof.Machine

/-! PROOFS of the statements of 06_operand_cache_and_short_operations.md: the landing of lines (O32). -/

namespace Sys2Proof.Machine

/-! ## Tables that take a row of entries -/

section
variable {α β : Type} {key : β → Nat} {val : β → α} {l : List β}

theorem Table.foldl_set_get_of_notMem {k : Nat} (d : α) (t : Table α) (h : ∀ e ∈ l, k ≠ key e) :
    Table.get (l.foldl (fun t e => Table.set (key e) (val e) t) t) k d = t.get k d :=
  List.foldlRecOn (motive := fun u : Table α => u.get k d = t.get k d) l _ rfl fun u hu e he => by
    rw [Table.get_set_ne _ _ _ (h e he), hu]

/-- Of entries under distinct keys each reads back. -/
theorem Table.foldl_set_get_of_mem {e : β} (d : α) (t : Table α) (hn : (l.map key).Nodup) (he : e ∈ l) :
    Table.get (l.foldl (fun t e => Table.set (key e) (val e) t) t) (key e) d = val e := by
  obtain ⟨l₁, l₂, rfl⟩ := List.append_of_mem he
  rw [List.map_append, List.map_cons] at hn
  have hk := (List.nodup_middle.1 hn).notMem
  rw [List.foldl_append, List.foldl_cons, Table.foldl_set_get_of_notMem, Table.get_set_self]
  intro f hf hkf
  exact hk (List.mem_append_right _ (hkf ▸ List.mem_map_of_mem hf))

end

/-! ## The words of a line (R184) -/

/-- A crew's words with those of a line replaced from its first word on. -/
def putWords (oc : Table Word) (line : Nat) (words : List Word) : Table Word :=
  ((List.range words.length).zip words).foldl (fun t e => Table.set (64 * line + e.1) e.2 t) oc

theorem putWords_get_of_lt (oc : Table Word) (line : Nat) {words : List Word} {w : Nat} (hw : w < words.length) :
    (putWords oc line words).get (64 * line + w) 0 = words.getD w 0 := by
  have hn : (((List.range words.length).zip words).map fun e => 64 * line + e.1).Nodup := by
    have hm : ((List.range words.length).zip words).map (fun e => 64 * line + e.1) = (List.range words.length).map (64 * line + ·) := by
      rw [show (fun e : Nat × Word => 64 * line + e.1) = (64 * line + ·) ∘ Prod.fst from rfl, ← List.map_map, List.map_fst_zip (by simp)]
    rw [hm]
    exact List.nodup_range.map fun a b h => by simpa using h
  have hmem : (w, words[w]) ∈ (List.range words.length).zip words := List.mem_iff_getElem.2 ⟨w, by simpa using hw, by simp⟩
  have := Table.foldl_set_get_of_mem (key := fun e : Nat × Word => 64 * line + e.1) (val := Prod.snd) 0 oc hn hmem
  rw [putWords, this, List.getD_eq_getElem _ _ hw]

theorem putWords_get_of_ne (oc : Table Word) {line k : Nat} {words : List Word} (h : ∀ w < words.length, k ≠ 64 * line + w) :
    (putWords oc line words).get k 0 = oc.get k 0 :=
  Table.foldl_set_get_of_notMem (key := fun e : Nat × Word => 64 * line + e.1) (val := Prod.snd) 0 oc fun e he =>
    h e.1 (List.mem_range.1 (List.of_mem_zip he).1)

theorem ShortRun.lineWords_length_le (r : ShortRun) (j : Nat) : (r.lineWords j).length ≤ 64 := by
  unfold ShortRun.lineWords
  split
  · simp
  · simp

/-! ## VSHORT_LINE_LAND (R186, R189, R190) -/

section
variable {s : State} {crew i line due : Nat} {r : ShortRun}

theorem State.landLine_waits (ha : (s.crewOf crew).awaits = false) (hn : (s.crewOf crew).nextLanding = some (i, r, line, due))
    (hd : s.spanBeat (crewSpan crew) < due) : s.landLine crew = s := by
  simp only [State.landLine, ha, Bool.false_eq_true, if_false, hn]
  exact if_pos hd

theorem State.landLine_due (ha : (s.crewOf crew).awaits = false) (hn : (s.crewOf crew).nextLanding = some (i, r, line, due))
    (hd : due ≤ s.spanBeat (crewSpan crew)) (hr : s.readsNow (ctxNo r.ctx) = s) :
    s.landLine crew = s.landOne crew (s.spanBeat (crewSpan crew) + 1) := by
  simp only [State.landLine, ha, Bool.false_eq_true, if_false, hn, hr]
  exact if_neg (Nat.not_lt.2 hd)

/-- A VSHORT at its row is not waited for. -/
theorem Crew.awaits_of_evaluated {k : Crew} (hs : k.started = [r]) (he : r.evaluated = true) : k.awaits = false := by
  simp [Crew.awaits, hs, he]

/-- The first VSHORT of a crew meets no other's line: of the lines of LDs the write conflicts. -/
theorem Crew.conflict_first (k : Crew) (line due : Nat) : (k.conflict 0 line due).isSome = true ↔
    k.marked.get line false = true ∨ k.loads.find line = some due := by
  unfold Crew.conflict
  rw [List.take_zero, List.findSome?_nil]
  by_cases hm : k.marked.get line false = true
  · simp [hm]
  · by_cases hl : k.loads.find line = some due <;> simp [hm, hl]

theorem State.landOne_lands {upto : Nat} (hn : (s.crewOf crew).nextLanding = some (i, r, line, due)) (hd : due < upto)
    (hc : (s.crewOf crew).conflict i line due = none) :
    ∃ k : Crew, k.oc = putWords (s.crewOf crew).oc line (r.lineWords (line - r.dest)) ∧ s.landOne crew upto = s.setCrew crew k := by
  simp only [State.landOne, hn, if_neg (Nat.not_le.2 hd), hc]
  exact ⟨_, rfl, rfl⟩

/-- A write conflict halts a context that runs; the words stay. -/
theorem State.landOne_conflicts {upto n stamp : Nat} {m : MacroRun} (hn : (s.crewOf crew).nextLanding = some (i, r, line, due)) (hd : due < upto)
    (hc : (s.crewOf crew).conflict i line due = some stamp) (hm : s.shortRun (ctxNo r.ctx) r.index = some (n, m))
    (hrun : s.runs (ctxNo r.ctx) = true) :
    ∃ h, ((s.landOne crew upto).ctxOf (ctxNo r.ctx)).halt = some h ∧ h.code = 0x0402 ∧
      ((s.landOne crew upto).crewOf crew).oc = (s.crewOf crew).oc := by
  generalize hb : (s.spanOf (crewSpan crew)).controlAt due s.time.beat = beat
  generalize hu : (s.setCrew crew { s.crewOf crew with started := (s.crewOf crew).started.set i { r with landing := [] } }).endShort
    (ctxNo r.ctx) r.index beat = u
  have hm' : (u.setCrew crew (u.crewOf crew).tidy).shortRun (ctxNo r.ctx) r.index = some (n, m) := hu ▸ hm
  have hrun' : (u.setCrew crew (u.crewOf crew).tidy).runs (ctxNo r.ctx) = true := hu ▸ hrun
  have hoc : (u.crewOf crew).oc = (s.crewOf crew).oc := by
    rw [← hu, (State.endShort_reads ..).oc, State.setCrew_crewOf_self]
  simp only [State.landOne, hn, if_neg (Nat.not_le.2 hd), hc, hb, hu, hm', State.raiseAt_begins _ _ _ hrun']
  refine ⟨_, by rw [State.setCtx_ctxOf_self], rfl, ?_⟩
  rw [State.setCtx_crewOf, State.setCrew_crewOf_self]
  exact hoc

end

/-- Settles O32: the one line due is written word by word, unless a write conflict withholds it. -/
theorem vshortLineLandsOrConflicts : Obligations.VshortLineLandsOrConflicts := by
  intro crew s r line due k beat c words hs he hn
  have ha : (s.crewOf crew.val).awaits = false := Crew.awaits_of_evaluated hs he
  have hexec : exec (.vshortLineLand crew s.time.beat) s = .next (s.landLine crew.val) := by
    show Host.Outcome.next ((s.advanceTo s.time.beat).landLine crew.val) = _
    rw [State.advanceTo_now]
  refine ⟨fun hd => ?waits, fun hd hr hm hl => ?lands, fun i m hd hr hmet hrun hlive => ?conflicts⟩
  case waits => rw [hexec, State.landLine_waits ha hn hd]
  case lands =>
    have hc : (s.crewOf crew.val).conflict 0 line due = none := by
      rw [← Option.not_isSome_iff_eq_none, Crew.conflict_first]
      rintro (h | h)
      · exact Bool.noConfusion (hm.symm.trans h)
      · exact hl h
    obtain ⟨k', hoc, he'⟩ := State.landOne_lands hn (Nat.lt_succ_of_le hd) hc
    have hlen := r.lineWords_length_le (line - r.dest)
    refine ⟨s.setCrew crew.val k', ?_, ?_, ?_⟩
    · rw [hexec, State.landLine_due ha hn hd hr]
      exact congrArg _ he'
    · rw [State.OnlyCrew, State.setCrew_crewOf_self]
    · rw [State.setCrew_crewOf_self, hoc]
      refine ⟨fun l w hw hne => putWords_get_of_ne _ fun j hj => ?_, fun w hw => putWords_get_of_lt _ _ hw,
        fun w (hw : (r.lineWords (line - r.dest)).length ≤ w) _ => putWords_get_of_ne _ fun j hj => ?_⟩
      · omega
      · omega
  case conflicts =>
    obtain ⟨stamp, hc⟩ := Option.isSome_iff_exists.1 ((Crew.conflict_first _ _ _).2 hmet)
    obtain ⟨h, hh, hcode, hoc⟩ := State.landOne_conflicts hn (Nat.lt_succ_of_le hd) hc hrun hlive
    refine ⟨s.landOne crew.val (beat + 1), h, ?_, (s.landOne_lines ..).mem, hoc, hh, hcode⟩
    rw [hexec, State.landLine_due ha hn hd hr]
    rfl

end Sys2Proof.Machine

/-! PROOFS of the statements of 06_operand_cache_and_short_operations.md: the start of a VSHORT (O29). -/

namespace Sys2Proof.Machine

/-! ## VSHORT_START (R185, R186, R188) -/

/-- The VSHORT that starts at a beat, with the beats at which its lines land. -/
def ShortRun.begins (w : ShortRun) (x : Ctx) (beat : Nat) : ShortRun :=
  let dest := (x.bay (Short.dBay w.bits)).base + Short.dOff w.bits
  { w with start := beat, dest := dest, landing := (List.range (Short.dstLines w.bits)).map fun j => (dest + j, beat + Short.landAt w.bits j) }

/-- The crew on which it starts: the lines take their stamps. -/
def Crew.starts (k : Crew) (run : ShortRun) (rest : List ShortRun) : Crew :=
  { k with waiting := rest, started := k.started ++ [run]
           stamps := run.landing.foldl (fun t l => Table.set l.1 (BitVec.ofNat 32 l.2) t) k.stamps
           lastStart := some (run.start, Short.occupancy run.bits) }

theorem Crew.starts_stamps_of_lt (k : Crew) (w : ShortRun) (x : Ctx) (beat : Nat) (rest : List ShortRun) {j : Nat}
    (hj : j < Short.dstLines w.bits) :
    (k.starts (w.begins x beat) rest).stamps.get ((x.bay (Short.dBay w.bits)).base + Short.dOff w.bits + j) 0 =
      BitVec.ofNat 32 (beat + Short.landAt w.bits j) := by
  have hn : ((w.begins x beat).landing.map Prod.fst).Nodup := by
    rw [ShortRun.begins, List.map_map]
    exact List.nodup_range.map fun a b h => by simpa using h
  have hm : ((x.bay (Short.dBay w.bits)).base + Short.dOff w.bits + j, beat + Short.landAt w.bits j) ∈ (w.begins x beat).landing :=
    List.mem_map_of_mem (List.mem_range.2 hj)
  exact Table.foldl_set_get_of_mem (val := fun l : Nat × Nat => BitVec.ofNat 32 l.2) 0 k.stamps hn hm

theorem Crew.starts_stamps_of_ne (k : Crew) (w : ShortRun) (x : Ctx) (beat : Nat) (rest : List ShortRun) {l : Nat}
    (hl : ∀ j < Short.dstLines w.bits, l ≠ (x.bay (Short.dBay w.bits)).base + Short.dOff w.bits + j) :
    (k.starts (w.begins x beat) rest).stamps.get l 0 = k.stamps.get l 0 :=
  Table.foldl_set_get_of_notMem (key := Prod.fst) (val := fun l : Nat × Nat => BitVec.ofNat 32 l.2) 0 k.stamps fun e he => by
    obtain ⟨j, hj, rfl⟩ := List.mem_map.1 he
    exact hl j (List.mem_range.1 hj)

/-- The occupancy of the VSHORT before and the spacing have passed (R185). -/
def Crew.Spaced (k : Crew) (w : ShortRun) (beat : Nat) : Prop := ∀ q, k.lastStart = some q → q.1 + q.2 ≤ beat ∧ q.1 + w.gap ≤ beat

section
variable {s : State} {crew : Nat} {w : ShortRun} {rest : List ShortRun}

@[simp] theorem State.loads_mem (s : State) (span upTo : Nat) : (s.loads span upTo).mem = s.mem := rfl
@[simp] theorem State.loads_ctxOf (s : State) (span upTo : Nat) (c : Fin 4) : (s.loads span upTo).ctxOf c = s.ctxOf c := rfl
@[simp] theorem State.loads_crewOf (s : State) (span upTo k : Nat) : (s.loads span upTo).crewOf k = s.crewOf k := rfl
@[simp] theorem State.works_mem (s : State) (span n which attempt : Nat) : (s.works span n which attempt).mem = s.mem := rfl
@[simp] theorem State.works_ctxOf (s : State) (span n which attempt : Nat) (c : Fin 4) : (s.works span n which attempt).ctxOf c = s.ctxOf c := rfl
@[simp] theorem State.works_crewOf (s : State) (span n which attempt k : Nat) : (s.works span n which attempt).crewOf k = s.crewOf k := rfl

/-- Nothing of the crew or of its span holds its oldest VSHORT back. -/
structure State.ShortReady (s : State) (crew : Nat) (w : ShortRun) : Prop where
  runs : s.runs (ctxNo w.ctx) = true
  row : (s.crewOf crew).awaits = false
  load : s.mayLoad (crewSpan crew) = true
  spaced : (s.crewOf crew).Spaced w (s.spanBeat (crewSpan crew))

theorem State.startShort_held (hw : (s.crewOf crew).waiting = w :: rest) (h : ¬s.ShortReady crew w) : s.startShort crew = s := by
  simp only [State.startShort, hw]
  refine if_pos ?_
  by_contra hc
  simp only [Bool.or_eq_true, not_or, Bool.not_eq_true', Bool.not_eq_false, Bool.not_eq_true] at hc
  obtain ⟨⟨⟨hr, hs⟩, ha⟩, hl⟩ := hc
  refine h ⟨hr, ha, hl, fun q hq => ?_⟩
  simpa [hq] using hs

/-- A ready VSHORT starts once the reads before this beat are made, unless one of them has halted its context. -/
theorem State.startShort_ready (hw : (s.crewOf crew).waiting = w :: rest) (h : s.ShortReady crew w) :
    let beat := s.spanBeat (crewSpan crew)
    let u := s.readsDue crew beat
    (u.runs (ctxNo w.ctx) = false → s.startShort crew = u) ∧
    (u.runs (ctxNo w.ctx) = true → (s.startShort crew).mem = s.mem ∧
      ((s.startShort crew).ctxOf (ctxNo w.ctx)).halt = (u.ctxOf (ctxNo w.ctx)).halt ∧
      (s.startShort crew).crewOf crew = (u.crewOf crew).starts (w.begins (u.ctxOf (ctxNo w.ctx)) beat) rest) := by
  intro beat u
  have hf := s.readsDue_reads crew beat
  simp only [State.startShort, hw]
  rw [if_neg]
  · refine ⟨fun hu => if_pos (by rw [hu]; rfl), fun hu => ?_⟩
    rw [if_neg (by rw [hu]; decide)]
    split
    · rw [State.works_mem, State.works_ctxOf, State.works_crewOf, State.loads_mem, State.loads_ctxOf, State.loads_crewOf,
        State.setCrew_crewOf_self]
      exact ⟨hf.mem, rfl, rfl⟩
    · rw [State.setRun_mem, State.setRun_halt, State.setRun_crewOf, State.works_mem, State.works_ctxOf, State.works_crewOf, State.loads_mem,
        State.loads_ctxOf, State.loads_crewOf, State.setCrew_crewOf_self]
      exact ⟨hf.mem, rfl, rfl⟩
  · rw [h.runs, h.row, h.load]
    cases hq : (s.crewOf crew).lastStart with
    | none => simp
    | some q =>
      obtain ⟨ho, hg⟩ := h.spaced q hq
      simp [ho, hg]

end

/-- Settles O29: the reads before the start come first; they halt the context, or the VSHORT starts and its lines are stamped. -/
theorem vshortStartsWaitsOrHalts : Obligations.VshortStartsWaitsOrHalts := by
  have hexec (crew : Fin 256) (s : State) : exec (.vshortStart crew s.time.beat) s = .next (s.startShort crew.val) := by
    show Host.Outcome.next ((s.advanceTo s.time.beat).startShort crew.val) = _
    rw [State.advanceTo_now]
  refine ⟨?starts, ?waits, ?halts⟩
  case starts =>
    intro crew s w rest beat u k dest hw hr ha hl hs hu
    obtain ⟨hmem, hhalt, hcrew⟩ := (State.startShort_ready hw ⟨hr, ha, hl, hs⟩).2 hu
    refine ⟨_, w.begins (u.ctxOf (ctxNo w.ctx)) beat, hexec crew s, hmem, ?_⟩
    rw [hhalt, hcrew]
    exact ⟨((u.runs_iff _).1 hu).2, rfl, rfl, rfl, rfl, rfl, rfl, rfl, fun j hj => Crew.starts_stamps_of_lt _ _ _ _ _ hj,
      fun l hl => Crew.starts_stamps_of_ne _ _ _ _ _ hl⟩
  case waits =>
    intro crew s w rest k beat hw h
    rw [hexec, State.startShort_held hw]
    rintro ⟨-, ha, hl, hs⟩
    rcases h with h | h | ⟨q, hq, h⟩
    · exact Bool.noConfusion (ha.symm.trans h)
    · exact Bool.noConfusion (h.symm.trans hl)
    · obtain ⟨ho, hg⟩ := hs q hq
      exact h.elim (Nat.not_lt.2 ho) (Nat.not_lt.2 hg)
  case halts =>
    intro crew s w rest beat hw hr ha hl hs hu
    rw [hexec, (State.startShort_ready hw ⟨hr, ha, hl, hs⟩).1 hu]
    rfl

end Sys2Proof.Machine

/-! PROOFS of the statements of 06_operand_cache_and_short_operations.md: a tile of an ST from a bay starts (O18). -/

namespace Sys2Proof.Machine

/-! ## TILE_EXECUTE of an ST from a bay (R178, R180, R205) -/

theorem State.checkTile_passes (s : State) (c : Fin 4) (m : MacroRun) (p : Plan) (t core lane first : Nat) (bank queue : Bool)
    (failed : State → Nat → Nat → Nat → Nat → State) : s.checkTile c m p t core 0 lane first bank queue failed = .pass s := rfl

/-- The one tile of a core is one of an ST from a bay that may start, and no correction comes before it. -/
structure State.BayStoreDue (s : State) (core : Nat) (h : Nat × Bool × Nat × Nat) (c : Fin 4) (i : Nat) (m : MacroRun) (p : Plan) (r : TileRun) :
    Prop where
  correction : s.correctionOn core = none
  chain : ∀ d, s.owner (coreSpan core) = some d → s.chainDue d (coreCrew core) = none
  held : (s.coreOf core).held = [h]
  first : ∀ g, (s.coreOf core).first = some g → g = h
  tile : s.heldTile h = some (c, i, m, p, r)
  runs : s.runs c = true
  waiting : r.status = .waiting
  halo : r.halo = true
  slot : m.slot = 5
  bay : m.target = 1
  port : p.meBound = false
  hold : p.hold = false

section
variable {s : State} {core : Nat} {h : Nat × Bool × Nat × Nat} {c : Fin 4} {i : Nat} {m : MacroRun} {p : Plan} {r : TileRun}

theorem MacroRun.isVec_of_store (h : m.slot = 5) (op : Nat) : m.isVec op = false := by
  simp [MacroRun.isVec, h]

theorem State.stageCorrection_none (check lane : Nat) (h : ∀ d, s.owner (coreSpan core) = some d → s.chainDue d (coreCrew core) = none) :
    s.stageCorrection core check lane = none := by
  unfold State.stageCorrection
  cases ho : s.owner (coreSpan core) with
  | none => rfl
  | some d => simp only [h d ho]

/-- The state in which the tile reads its words: no stolen tile of its core goes first, and the lines due by now are settled. -/
def State.bayStoreView (s : State) (core : Nat) (h : Nat × Bool × Nat × Nat) (c : Fin 4) (i : Nat) (m : MacroRun) : State :=
  ((s.setCore core { s.coreOf core with first := none }).setRun c h.2.1 i m).settleLines c 1

/-- The tile as it starts there, before its words. -/
def State.bayStoreTile (s : State) (core t : Nat) (m : MacroRun) : TileRun :=
  { m.tileAt t with status := .executing, started := s.spanBeat (coreSpan core) }

theorem State.executeTile_bayStore (d : s.BayStoreDue core h c i m p r) (lane : Nat) :
    let u := s.bayStoreView core h c i m
    let r' := u.issueSt c m p h.2.2.2 (u.bayStoreTile core h.2.2.2 m)
    s.executeTile core 0 lane = ((u.checkSt c m p h.2.2.2).works (coreSpan core) m.index h.2.2.2 r'.attempt).setRun c h.2.1 i
      (m.setTile h.2.2.2 r') := by
  obtain ⟨hcorr, hchain, hheld, hfirst, htile, hruns, hwait, hhalo, hslot, hbay, hport, hhold⟩ := d
  have hv := MacroRun.isVec_of_store hslot
  have hmay : s.mayStart c m p h.2.2.2 r = true := by
    simp [State.mayStart, State.runs_inBeat hruns, hwait, hhalo, hport, hv]
  have hfree : ((s.coreOf core).first.isNone || decide ((s.coreOf core).first = some h)) = true := by
    cases hf : (s.coreOf core).first with
    | none => rfl
    | some g => simp [hfirst g hf]
  have hsort : m.sorting h.2.2.2 = false := by simp [MacroRun.sorting, MacroRun.sorts, hv]
  intro u r'
  simp only [State.executeTile, hcorr, hheld, htile, hwait, List.any_cons, List.any_nil, Option.isSome_none, reduceCtorEq, decide_false,
    Bool.false_and, Bool.or_false, Bool.false_eq_true, if_false, State.stageCorrection_none 0 lane hchain, List.filter_cons, hfree, if_true,
    List.filter_nil, List.findSome?_cons, hmay, hv, hport, State.checkTile_passes, hhold, hsort, hslot, hbay,
    decide_true, Bool.and_self]
  rw [← hheld]
  rfl

theorem State.issueSt_bay (s : State) (t : Nat) (r : TileRun) (hs : m.slot = 5) (hb : m.target = 1) :
    s.issueSt c m p t r = { r with words := (s.evAt c m p t r).stWords } := if_pos (by simp [hs, hb])

/-! ## The read that the record names (R188, R190) -/

/-- A read of a lower crew, or of a line of the same crew that is not higher. -/
def ReadBefore (a b : Nat × Nat × Nat × Nat) : Prop := a.1 ≤ b.1 ∧ (a.1 = b.1 → a.2.1 ≤ b.2.1)

theorem ReadBefore.refl (a : Nat × Nat × Nat × Nat) : ReadBefore a a := ⟨Nat.le_refl _, fun _ => Nat.le_refl _⟩

theorem ReadBefore.trans {a b d : Nat × Nat × Nat × Nat} (h : ReadBefore a b) (k : ReadBefore b d) : ReadBefore a d := by
  unfold ReadBefore at *
  omega

/-- One comparison keeps a read that comes before both. -/
theorem ReadBefore.pick (a b : Nat × Nat × Nat × Nat) :
    let d := if a.1 < b.1 || (a.1 = b.1 && a.2.1 < b.2.1) then a else b
    (d = a ∨ d = b) ∧ ReadBefore d a ∧ ReadBefore d b := by
  intro d
  by_cases h : a.1 < b.1 ∨ a.1 = b.1 ∧ a.2.1 < b.2.1
  · have hd : d = a := if_pos (by simpa using h)
    rw [hd]
    refine ⟨.inl rfl, .refl a, ?_⟩
    unfold ReadBefore
    omega
  · have hd : d = b := if_neg (by simpa using h)
    rw [hd]
    refine ⟨.inr rfl, ?_, .refl b⟩
    unfold ReadBefore
    omega

/-- The read that the record names is one of the list, and comes before every other. -/
theorem lowestRead_cons (b : Nat × Nat × Nat × Nat) (l : List (Nat × Nat × Nat × Nat)) :
    ∃ d, lowestRead (b :: l) = some d ∧ d ∈ b :: l ∧ ∀ q ∈ b :: l, ReadBefore d q := by
  unfold lowestRead
  rw [List.foldl_cons]
  induction l generalizing b with
  | nil => exact ⟨b, rfl, by simp, by simpa using ReadBefore.refl b⟩
  | cons a l ih =>
    obtain ⟨hd, ha, hb⟩ := ReadBefore.pick a b
    obtain ⟨d, he, hm, hl⟩ := ih (if a.1 < b.1 || (a.1 = b.1 && a.2.1 < b.2.1) then a else b)
    have hhead := hl _ List.mem_cons_self
    refine ⟨d, ?_, ?_, ?_⟩
    · rw [List.foldl_cons]
      exact (congrArg (List.foldl _ · l) (apply_ite some _ a b).symm).trans he
    · rcases List.mem_cons.1 hm with hm | hm
      · rw [hm]
        rcases hd with hd | hd <;> rw [hd] <;> simp
      · exact List.mem_cons_of_mem _ (List.mem_cons_of_mem _ hm)
    · intro q hq
      rcases List.mem_cons.1 hq with rfl | hq
      · exact hhead.trans hb
      · rcases List.mem_cons.1 hq with rfl | hq
        · exact hhead.trans ha
        · exact hl q (List.mem_cons_of_mem _ hq)

/-- With no pending line the check is passed. -/
theorem State.checkSt_clean {t : Nat} (he : (s.evAt c m p t (m.tileAt t)).stEarly = []) : s.checkSt c m p t = s := by
  unfold State.checkSt
  rw [he]
  exact ite_self _

/-- A pending line begins the halt of a context that runs; its record names the lowest read. -/
theorem State.checkSt_early {t : Nat} (hs : m.slot = 5) (hb : m.target = 1) (hr : s.runs c = true)
    (he : (s.evAt c m p t (m.tileAt t)).stEarly ≠ []) :
    ∃ b ∈ (s.evAt c m p t (m.tileAt t)).stEarly, (∀ q ∈ (s.evAt c m p t (m.tileAt t)).stEarly, ReadBefore b q) ∧
      s.Halts (s.checkSt c m p t) c
        { m.cause 0x0401 with coord := m.coordOf p t, detail := lineDetail b.1 m.bay b.2.1 b.2.2.1 b.2.2.2 } := by
  obtain ⟨a, l, hl⟩ := List.exists_cons_of_ne_nil he
  obtain ⟨b, hb', hm, hall⟩ := lowestRead_cons a l
  rw [← hl] at hb' hm hall
  have hc : s.checkSt c m p t = s.raise c
      { m.cause 0x0401 with coord := m.coordOf p t, detail := lineDetail b.1 m.bay b.2.1 b.2.2.1 b.2.2.2 } := by
    simp only [State.checkSt, hs, hb, hb', decide_true, Bool.and_self, if_true]
  exact ⟨b, hm, hall, hc ▸ s.raise_halts _ hr⟩

/-- The rest of the start touches neither the cache nor a halt; the tile is put back as it has started. -/
theorem State.startedStore_spec (t : State) (span n tile attempt : Nat) (e : Bool) (hi : (t.runAt c e i).isSome = true) :
    let v := (t.works span n tile attempt).setRun c e i m
    v.mem = t.mem ∧ (v.ctxOf c).halt = (t.ctxOf c).halt ∧ v.runAt c e i = some m :=
  ⟨rfl, State.setRun_halt .., State.setRun_runAt _ m hi⟩

end

/-- Settles O18: the tile reads its words in the state whose lines are settled, and the lowest of its pending lines halts the context. -/
theorem storeFromBayHaltsOnPendingLines : Obligations.StoreFromBayHaltsOnPendingLines := by
  intro core lane s h c i m p r hcorr hchain hheld hfirst _ htile hruns hwait hhalo hslot hbay hport hhold _ u r' early hlive
  have d : s.BayStoreDue core.val h c i m p r :=
    ⟨hcorr, hchain, hheld, hfirst, htile, hruns, hwait, hhalo, hslot, hbay, hport, hhold⟩
  have hexec : s.executeTile core.val 0 lane.toNat = ((u.checkSt c m p h.2.2.2).works (coreSpan core.val) m.index h.2.2.2 r'.attempt).setRun
      c h.2.1 i (m.setTile h.2.2.2 { r' with words := (u.evAt c m p h.2.2.2 r').stWords }) :=
    (State.executeTile_bayStore d lane.toNat).trans (by rw [State.issueSt_bay _ _ _ hslot hbay]; rfl)
  have hf : State.LinesFrame (State.setRun (s.setCore core.val { s.coreOf core.val with first := none }) c h.2.1 i m) u := State.settleLines_lines ..
  have hthere : (s.runAt c h.2.1 i).isSome = true := by rw [(State.heldTile_some htile).1]; rfl
  have hat : (u.runAt c h.2.1 i).isSome = true := hf.runAt_isSome (by
    rw [State.setRun_runAt (s.setCore core.val { s.coreOf core.val with first := none }) m hthere]
    rfl)
  have hur : u.runs c = true := by
    refine (u.runs_iff c).2 ⟨?_, hlive⟩
    rw [State.adminOf, hf.admin]
    exact ((s.runs_iff c).1 hruns).1
  by_cases he : early = []
  · rw [State.checkSt_clean he] at hexec
    obtain ⟨hmem, hhalt, hrun⟩ := State.startedStore_spec (m := m.setTile h.2.2.2 { r' with words := (u.evAt c m p h.2.2.2 r').stWords })
      u (coreSpan core.val) m.index h.2.2.2 r'.attempt h.2.1 hat
    refine ⟨_, _, congrArg Host.Outcome.next hexec, hmem.trans hf.mem, hrun, MacroRun.tileAt_setTile .., fun _ => hhalt.trans hlive, ?_⟩
    rw [he]
    exact nofun
  · obtain ⟨⟨crew, line, stamp, beat⟩, hb, hlow, hh⟩ := State.checkSt_early hslot hbay hur he
    obtain ⟨hmem, hhalt, hrun⟩ := State.startedStore_spec (m := m.setTile h.2.2.2 { r' with words := (u.evAt c m p h.2.2.2 r').stWords })
      (u.checkSt c m p h.2.2.2) (coreSpan core.val) m.index h.2.2.2 r'.attempt h.2.1 (by rwa [hh.runAt])
    refine ⟨_, _, congrArg Host.Outcome.next hexec, hmem.trans (hh.mem.trans hf.mem), hrun, MacroRun.tileAt_setTile .., fun e => absurd e he, ?_⟩
    intro q hq
    obtain ⟨hcrew, hline⟩ := hlow q hq
    exact ⟨_, hhalt.trans hh.began, rfl, congrArg TimeBase.beat hf.time, crew, line, stamp, beat, hb, hcrew, hline, rfl⟩

end Sys2Proof.Machine

/-! PROOFS of the statements of 06_operand_cache_and_short_operations.md: bay, coupling and channel writes (O50). -/

namespace Sys2Proof.Machine

/-! ## Bay writes (R170 to R172) -/

/-- A context with one bay entry replaced. -/
def Ctx.setBay (x : Ctx) (n : Nat) (b : Bay) : Ctx := { x with bays := x.bays.set n b }

theorem Ctx.setBay_bay_self (x : Ctx) (n : Nat) (b : Bay) : (x.setBay n b).bay n = b := Table.get_set_self ..
theorem Ctx.setBay_bay_ne (x : Ctx) {n k : Nat} (b : Bay) (h : k ≠ n) : (x.setBay n b).bay k = x.bay k := Table.get_set_ne _ _ _ h

section
variable {s : State} {c : Fin 4} {n : Nat} {v : BitVec 30}

theorem State.bayWrite_eq (n : Nat) (v : BitVec 30) (h : s.pageOpen c = true) : s.bayWrite c n v =
    s.setCtx c (Ctx.setBay { s.ctxOf c with bayWrites := (s.ctxOf c).bayWrites.filter (fun w => w.1 ≠ n) ++ [(n, v)] } n
      { (s.ctxOf c).bay n with pending := true }) := if_pos h

theorem State.cplWrite_eq (mode : Bool) (h : s.pageOpen c = true) :
    s.cplWrite c mode = s.setCtx c { s.ctxOf c with cplPending := some mode }.settleCpl := if_pos h

end

theorem settleBays_refused {a : Admin} {x : Ctx} {n : Nat} {v : BitVec 30} (h : x.bayRefused n v = true) :
    settleBays a x (false, false) [(n, v)] =
      (x.setBay n { x.bay n with refused := true, pending := false }, []) := by
  simp only [settleBays, h, if_true, Ctx.setBay]

theorem settleBays_legal {a : Admin} {x : Ctx} {n : Nat} {v : BitVec 30} (h : x.bayRefused n v = false) :
    settleBays a x (false, false) [(n, v)] =
      if bayShort x a n v (false, false) = (false, false) then (x.setBay n { x.bay n with cfg := v, pending := false }, [])
      else (x, [(n, v)]) := by
  have hs : ((bayShort x a n v (false, false)).1 || (bayShort x a n v (false, false)).2) = true ↔
      ¬bayShort x a n v (false, false) = (false, false) := by
    obtain ⟨l, q⟩ := bayShort x a n v (false, false)
    cases l <;> cases q <;> decide
  simp only [settleBays, h, Bool.false_eq_true, if_false, Ctx.setBay]
  by_cases hq : bayShort x a n v (false, false) = (false, false)
  · rw [if_pos hq, if_neg fun e => hs.1 e hq]
  · rw [if_neg hq, if_pos (hs.2 hq)]

theorem Ctx.settleCpl_of_none {x : Ctx} (h : x.cplPending = none) : x.settleCpl = x := by
  rw [Ctx.settleCpl, h]

theorem State.serveVia_of_nil {s : State} {c : Fin 4} (h : (s.ctxOf c).viaWrites = []) : s.serveVia c = s := by
  rw [State.serveVia, h]
  exact s.setCtx_same c

/-- With no other write waiting, the one bay write of an idle context is judged and nothing else happens. -/
theorem State.bayApply_eq {s : State} {c : Fin 4} {w : Nat × BitVec 30} {x : Ctx} {l : List (Nat × BitVec 30)} (hq : (s.ctxOf c).quiet = true)
    (hw : (s.ctxOf c).bayWrites = [w]) (hb : settleBays (s.adminOf c) (s.ctxOf c) (false, false) [w] = (x, l)) (hv : x.viaWrites = [])
    (hp : x.cplPending = none) : s.bayApply c = s.setCtx c { x with bayWrites := l } := by
  have hx : (s.setCtx c { x with bayWrites := l }).ctxOf c = { x with bayWrites := l } := s.setCtx_ctxOf_self c _
  simp only [State.bayApply, hq, if_true, hw, hb, State.serveIdle]
  rw [State.serveVia_of_nil (by rw [hx]; exact hv), hx, Ctx.settleCpl_of_none (x := { x with bayWrites := l }) hp, State.setCtx_setCtx]

/-! ## Channel writes (R387 to R389) -/

@[simp] theorem Ctx.setChannel_channel_self (x : Ctx) (ch : Nat) (q : Channel) : (x.setChannel ch q).channel ch = q := Table.get_set_self ..

@[simp] theorem Ctx.setChannel_viaWrites (x : Ctx) (ch : Nat) (q : Channel) : (x.setChannel ch q).viaWrites = x.viaWrites := rfl

theorem Ctx.setChannel_channel_ne (x : Ctx) {ch n : Nat} (q : Channel) (h : n ≠ ch) : (x.setChannel ch q).channel n = x.channel n :=
  Table.get_set_ne _ _ _ h

/-- A count over a table's entries, to which the default adds nothing, stays when an entry is put that gives what the table already gives. -/
theorem Table.foldl_set_get {α β : Type} {f : β → Nat × α → β} {d : α} (hd : ∀ b k, f b (k, d) = b) (k : Nat) (t : Table α) (b : β) :
    (Table.set k (t.get k d) t).foldl f b = t.foldl f b := by
  induction t generalizing b with
  | nil => exact hd b k
  | cons e t ih =>
    obtain ⟨j, u⟩ := e
    by_cases hlt : k < j
    · have hj : j ≠ k := by omega
      simp [Table.set, Table.get, Table.find, hlt, hj, hd]
    · by_cases heq : k = j
      · simp [Table.set, Table.get, Table.find, heq]
      · have hg : Table.get ((j, u) :: t) k d = Table.get t k d := by simp [Table.get, Table.find, hlt, Ne.symm heq]
        simp only [hg, Table.set, hlt, heq, if_false, List.foldl_cons]
        exact ih _

theorem Ctx.setChannel_same_viaUsed (x : Ctx) (ch : Nat) : (x.setChannel ch (x.channel ch)).viaUsed = x.viaUsed :=
  Table.foldl_set_get (fun _ _ => rfl) ch x.channels 0

/-- One channel write that waits for nothing but its own channel. -/
theorem settleVia_one (a : Admin) (mem : Memory) (x : Ctx) (ch k : Nat) (v : BitVec 64) :
    settleVia a mem x [] false [(ch, k, v)] =
      if x.channelIdle mem ch = false ∨ ((x.channel ch).regs.put k v).en = true ∧ (x.channel ch).regs.en = false ∧ a.effVia ≤ x.viaUsed then
        (x, [(ch, k, v)])
      else (x.setChannel ch ((x.channel ch).setRegs ((x.channel ch).regs.put k v)), []) := by
  simp only [settleVia, List.contains_nil, Bool.false_or]
  refine if_congr ?_ rfl rfl
  simp [and_assoc]

/-- A write that waits stays as it is. -/
theorem settleAllVia_waits {a : Admin} {mem : Memory} {x : Ctx} {w : Nat × Nat × BitVec 64} (hw : x.viaWrites = [w])
    (h : settleVia a mem x [] false [w] = (x, [w])) : settleAllVia a mem 1 x = x := by
  simp only [settleAllVia, hw, h, if_true]

theorem settleAllVia_acts {a : Admin} {mem : Memory} {x y : Ctx} {w : Nat × Nat × BitVec 64} (hw : x.viaWrites = [w])
    (h : settleVia a mem x [] false [w] = (y, [])) : settleAllVia a mem 1 x = { y with viaWrites := [] } := by
  simp [settleAllVia, hw, h]

@[simp] theorem Channel.setRegs_regs (q : Channel) (r : ViaRegs) : (q.setRegs r).regs = r := by
  unfold Channel.setRegs
  split <;> rfl

section
variable {s : State} {c : Fin 4} {ch k : Nat} {v : BitVec 64}

/-- A channel write is refused: a bit outside the register's fields, or registers that R389 forbids. -/
def State.viaRefuses (s : State) (c : Fin 4) (ch k : Nat) (v : BitVec 64) : Prop :=
  v &&& ~~~(viaFields k) ≠ 0 ∨ (((s.ctxOf c).channel ch).regs.put k v).bad (s.adminOf c).joinId = true

/-- A channel write reaches a register of its own, on an open page, with no write before it and no clearing of REFUSED. -/
structure State.TakesVia (s : State) (c : Fin 4) (k : Nat) (v : BitVec 64) : Prop where
  page : s.pageOpen c = true
  register : k < 5 ∨ 8 ≤ k
  first : (s.ctxOf c).viaWrites = []
  keeps : k = 0 → v.getLsbD 62 = false

/-- The context with a channel write that waits; the write has given its channel an entry. -/
def Ctx.withVia (x : Ctx) (ch k : Nat) (v : BitVec 64) : Ctx := { x.setChannel ch (x.channel ch) with viaWrites := [(ch, k, v)] }

theorem Ctx.withVia_channelIdle (x : Ctx) (ch k : Nat) (v : BitVec 64) (mem : Memory) (n : Nat) :
    (x.withVia ch k v).channelIdle mem n = x.channelIdle mem n := rfl
theorem Ctx.withVia_viaUsed (x : Ctx) (ch k : Nat) (v : BitVec 64) : (x.withVia ch k v).viaUsed = x.viaUsed := x.setChannel_same_viaUsed ch

theorem Ctx.setChannel_same_channel (x : Ctx) (ch n : Nat) : (x.setChannel ch (x.channel ch)).channel n = x.channel n := by
  by_cases h : n = ch
  · rw [h, Ctx.setChannel_channel_self]
  · exact Ctx.setChannel_channel_ne _ _ h

theorem Ctx.withVia_channel (x : Ctx) (ch k : Nat) (v : BitVec 64) (n : Nat) : (x.withVia ch k v).channel n = x.channel n :=
  x.setChannel_same_channel ch n

theorem State.viaWrite_judged (h : s.TakesVia c k v) :
    (s.viaRefuses c ch k v → s.viaWrite c ch k v =
      s.setCtx c (((s.ctxOf c).setChannel ch ((s.ctxOf c).channel ch)).setChannel ch { (s.ctxOf c).channel ch with refused := true })) ∧
    (¬s.viaRefuses c ch k v → s.viaWrite c ch k v = (s.setCtx c ((s.ctxOf c).withVia ch k v)).serveVia c) := by
  obtain ⟨hp, hk, hf, hb⟩ := h
  have hg : ¬(!s.pageOpen c || (decide (5 ≤ k) && decide (k ≤ 7))) = true := by
    simp [hp]; omega
  have hc : ¬(decide (k = 0) && bit v 62) = true := by
    simpa [bit] using hb
  have hview : ((s.ctxOf c).setChannel ch ((s.ctxOf c).channel ch)).viaView ch = ((s.ctxOf c).channel ch).regs := by
    rw [Ctx.viaView, Ctx.setChannel_channel_self]
    simp only [Ctx.setChannel, hf, List.filter_nil, List.foldl_nil]
  have hw : ((s.ctxOf c).setChannel ch ((s.ctxOf c).channel ch)).viaWrites = [] := hf
  have hj : (decide (v &&& ~~~(viaFields k) ≠ 0) || (((s.ctxOf c).channel ch).regs.put k v).bad (s.adminOf c).joinId) = true ↔
      s.viaRefuses c ch k v := by
    simp [State.viaRefuses]
  simp only [State.viaWrite, if_neg hg, if_neg hc, hview, hw, List.nil_append]
  exact ⟨fun hr => if_pos (hj.2 hr), fun hr => if_neg fun e => hr (hj.1 e)⟩

theorem State.serveVia_one {y : Ctx} (hy : y.viaWrites = [(ch, k, v)]) :
    (s.setCtx c y).serveVia c = s.setCtx c (settleAllVia (s.adminOf c) s.mem 1 y) := by
  simp only [State.serveVia, State.setCtx_ctxOf_self, hy, List.length_singleton, State.setCtx_setCtx]
  rfl

/-- A legal channel write waits: its channel is in use, or it would enable a channel beyond the quota. -/
def State.viaHeld (s : State) (c : Fin 4) (ch k : Nat) (v : BitVec 64) : Prop :=
  (s.ctxOf c).channelIdle s.mem ch = false ∨
    (((s.ctxOf c).channel ch).regs.put k v).en = true ∧ ((s.ctxOf c).channel ch).regs.en = false ∧ (s.adminOf c).effVia ≤ (s.ctxOf c).viaUsed

theorem State.not_viaHeld (hi : (s.ctxOf c).channelIdle s.mem ch = true)
    (hq : ((s.ctxOf c).channel ch).regs.en = true ∨ (s.ctxOf c).viaUsed < (s.adminOf c).effVia) : ¬s.viaHeld c ch k v := by
  rintro (hn | ⟨-, hn, hl⟩)
  · exact Bool.noConfusion (hi.symm.trans hn)
  · exact hq.elim (fun he => Bool.noConfusion (he.symm.trans hn)) (Nat.not_lt.2 hl)

theorem State.viaWrite_waits (h : s.TakesVia c k v) (hr : ¬s.viaRefuses c ch k v) (hh : s.viaHeld c ch k v) :
    s.viaWrite c ch k v = s.setCtx c ((s.ctxOf c).withVia ch k v) := by
  rw [(State.viaWrite_judged h).2 hr, State.serveVia_one rfl, settleAllVia_waits rfl]
  rw [settleVia_one, if_pos]
  rwa [Ctx.withVia_channelIdle, Ctx.withVia_channel, Ctx.withVia_viaUsed]

theorem State.viaWrite_acts (h : s.TakesVia c k v) (hr : ¬s.viaRefuses c ch k v) (hh : ¬s.viaHeld c ch k v) :
    ∃ q : Channel, q.regs = ((s.ctxOf c).channel ch).regs.put k v ∧
      s.viaWrite c ch k v = s.setCtx c { ((s.ctxOf c).withVia ch k v).setChannel ch q with viaWrites := [] } := by
  refine ⟨((s.ctxOf c).channel ch).setRegs (((s.ctxOf c).channel ch).regs.put k v), Channel.setRegs_regs .., ?_⟩
  rw [(State.viaWrite_judged h).2 hr, State.serveVia_one rfl, settleAllVia_acts rfl]
  rw [settleVia_one, if_neg, Ctx.withVia_channel]
  rwa [Ctx.withVia_channelIdle, Ctx.withVia_channel, Ctx.withVia_viaUsed]

end

/-- Settles O50: the waiting bay write is judged by `settleBays`, the one channel write by `settleVia`. -/
theorem bayAndChannelWritesWaitForIdle : Obligations.BayAndChannelWritesWaitForIdle := by
  refine ⟨fun c b v mode s hp => ⟨?write, ?busy, ?apply, ?cpl, ?cplWaits⟩, fun c ch k v s => ?via⟩
  case write =>
    refine ⟨_, rfl, ?_⟩
    rw [State.bayWrite_eq _ _ hp, State.setCtx_ctxOf_self]
    exact ⟨s.onlyCtx_setCtx .., (congrArg Bay.cfg (Ctx.setBay_bay_self ..)).trans rfl,
      (congrArg Bay.pending (Ctx.setBay_bay_self ..)).trans rfl, List.getLast?_concat .., fun n hn => Ctx.setBay_bay_ne _ _ hn⟩
  case busy =>
    exact fun hq => congrArg Host.Outcome.next (if_neg (by rw [hq]; decide))
  case apply =>
    intro hq hb hv hc
    by_cases hr : (s.ctxOf c).bayRefused b.val v = true
    · have he := State.bayApply_eq hq hb (settleBays_refused hr) hv hc
      refine ⟨_, congrArg Host.Outcome.next he, s.onlyCtx_setCtx .., ?_⟩
      rw [State.setCtx_ctxOf_self]
      exact ⟨fun n hn => Ctx.setBay_bay_ne _ _ hn, fun _ => ⟨rfl, Ctx.setBay_bay_self ..⟩, fun e => absurd hr (by rw [e]; decide),
        fun e => absurd hr (by rw [e]; decide)⟩
    · have hr' := Bool.eq_false_iff.2 hr
      by_cases hs : bayShort (s.ctxOf c) (s.adminOf c) b.val v (false, false) = (false, false)
      · have he := State.bayApply_eq hq hb ((settleBays_legal hr').trans (if_pos hs)) hv hc
        refine ⟨_, congrArg Host.Outcome.next he, s.onlyCtx_setCtx .., ?_⟩
        rw [State.setCtx_ctxOf_self]
        exact ⟨fun n hn => Ctx.setBay_bay_ne _ _ hn, fun e => absurd e hr, fun _ _ => ⟨rfl, Ctx.setBay_bay_self ..⟩, fun _ e => absurd hs e⟩
      · have he := State.bayApply_eq hq hb ((settleBays_legal hr').trans (if_neg hs)) hv hc
        rw [← hb] at he
        refine ⟨s, congrArg Host.Outcome.next (he.trans (s.setCtx_same c)), (s.setCtx_same c).symm, fun _ _ => rfl, fun e => absurd e hr,
          fun _ e => absurd e hs, fun _ _ => rfl⟩
  case cpl =>
    exact fun hq => congrArg Host.Outcome.next ((State.cplWrite_eq mode hp).trans (congrArg (s.setCtx c) (if_pos hq)))
  case cplWaits =>
    exact fun hq => congrArg Host.Outcome.next ((State.cplWrite_eq mode hp).trans (congrArg (s.setCtx c) (if_neg (by
      rw [Bool.not_eq_true]; exact hq))))
  case via =>
    intro x q bad hp hk hv h0
    have ht : s.TakesVia c k.val v := ⟨hp, hk, hv, fun e => h0 (Fin.ext e)⟩
    by_cases hb : bad
    · refine ⟨_, congrArg Host.Outcome.next ((State.viaWrite_judged ht).1 hb), s.onlyCtx_setCtx .., ?_⟩
      rw [State.setCtx_ctxOf_self]
      have hw := (Ctx.setChannel_viaWrites _ ch.val { q with refused := true }).trans (Ctx.setChannel_viaWrites x ch.val q)
      exact ⟨fun _ => ⟨Ctx.setChannel_channel_self .., hw.trans hv⟩, fun e => absurd hb e, fun e => absurd hb e,
        fun n hn => (Ctx.setChannel_channel_ne _ _ hn).trans (Ctx.setChannel_channel_ne _ _ hn)⟩
    · by_cases hh : s.viaHeld c ch.val k.val v
      · refine ⟨_, congrArg Host.Outcome.next (State.viaWrite_waits ht hb hh), s.onlyCtx_setCtx .., ?_⟩
        rw [State.setCtx_ctxOf_self]
        exact ⟨fun e => absurd e hb, fun _ _ => ⟨rfl, Ctx.withVia_channel ..⟩, fun _ hi hq => absurd hh (State.not_viaHeld hi hq),
          fun n _ => Ctx.withVia_channel ..⟩
      · obtain ⟨q', hregs, he⟩ := State.viaWrite_acts ht hb hh
        refine ⟨_, congrArg Host.Outcome.next he, s.onlyCtx_setCtx .., ?_⟩
        rw [State.setCtx_ctxOf_self]
        exact ⟨fun e => absurd e hb, fun _ hi => absurd (.inl hi) hh,
          fun _ _ _ => ⟨rfl, (congrArg Channel.regs (Ctx.setChannel_channel_self ..)).trans hregs⟩,
          fun n hn => (Ctx.setChannel_channel_ne _ _ hn).trans (Ctx.withVia_channel ..)⟩

end Sys2Proof.Machine

/-! PROOFS of the statements of 07_tile_walker.md: halos and carries (O28). -/

namespace Sys2Proof.Machine

/-! ## A context's macros after an update of its other registers -/

/-- An update of a context that leaves a stream alone leaves its macros in flight. -/
theorem State.setCtx_runAt {s : State} {c : Fin 4} {x : Ctx} {e : Bool} (h : x.stream e = (s.ctxOf c).stream e) (i : Nat) :
    (s.setCtx c x).runAt c e i = s.runAt c e i := by
  rw [State.runAt, State.setCtx_ctxOf_self, h, State.runAt]

/-- What a core lists is read from the contexts alone. -/
theorem State.heldTile_congr {s t : State} (h : t.ctx = s.ctx) (e : Nat × Bool × Nat × Nat) : t.heldTile e = s.heldTile e := by
  simp only [State.heldTile, State.ctxOf, h]

theorem State.runAt_congr {s t : State} (h : t.ctx = s.ctx) (c : Fin 4) (e : Bool) (i : Nat) : t.runAt c e i = s.runAt c e i := by
  simp only [State.runAt, State.ctxOf, h]

/-! ## Transfers between crews (R220, R487) -/

@[simp] theorem Span.perf_parity (x : Span) (e n : Nat) : (x.perf e n).parity = x.parity := by unfold Span.perf; split <;> rfl

section
variable (s : State) (c : Fin 4) (m : MacroRun) (p : Plan) (t core n : Nat)

/-- `t` agrees with `s` in all but spans, the free values and what a fault record writes. -/
structure State.RecordFrame (s t : State) : Prop where
  mem : t.mem = s.mem
  ctx : t.ctx = s.ctx
  admin : t.admin = s.admin
  start : t.start = s.start
  glob : ∃ f a, t.glob = { s.glob with faultIrq := f, setAt := a }

/-- A transfer whose parity has failed leaves a record and a higher count (R487). -/
theorem State.linkParity_frame : s.RecordFrame (s.linkParity c m p t core n) := by
  unfold State.linkParity
  simp only []
  split
  · exact ⟨rfl, rfl, rfl, rfl, _, _, rfl⟩
  · exact ⟨State.absorb_mem .., State.absorb_ctx .., State.absorb_admin .., State.absorb_start .., _, _, State.absorb_glob ..⟩

theorem State.linkParity_parity : ((s.linkParity c m p t core n).spanOf (coreSpan core)).parity =
    if n = 0 then (s.spanOf (coreSpan core)).parity else satAdd (s.spanOf (coreSpan core)).parity n := by
  unfold State.linkParity
  simp only []
  split
  · rfl
  · rw [State.spanOf, State.absorb_spans]
    exact congrArg Span.parity (State.setSpan_spanOf_self ..)

end

namespace State.RecordFrame

variable {s t : State}

theorem ctxOf (h : s.RecordFrame t) (c : Fin 4) : t.ctxOf c = s.ctxOf c := by rw [State.ctxOf, h.ctx]; rfl

theorem seamOut (h : s.RecordFrame t) : t.glob.seamOut = s.glob.seamOut := by
  obtain ⟨f, a, hg⟩ := h.glob
  rw [hg]

/-- The links of a package are open as before. -/
theorem trestleOpen (h : s.RecordFrame t) (c : Fin 4) (a b : Nat) : t.trestleOpen c a b = s.trestleOpen c a b := by
  simp only [State.trestleOpen, State.adminOf, h.start, h.admin]

theorem seamOpen (h : s.RecordFrame t) (high : Bool) : t.seamOpen high = s.seamOpen high := by
  obtain ⟨f, a, hg⟩ := h.glob
  simp only [State.seamOpen, State.owner, State.adminOf, h.start, h.admin, hg]
  rfl

end State.RecordFrame

/-! ## HALO_SEND and HALO_TIMEOUT (R219) -/

@[simp] theorem Ctx.setRun_haloReload (x : Ctx) (e : Bool) (i : Nat) (m : MacroRun) : (x.setRun e i m).haloReload = x.haloReload := by
  cases e <;> rfl

section
variable {s : State} {core : Nat} {h : Nat × Bool × Nat × Nat} {c : Fin 4} {e : Bool} {i n : Nat} {m : MacroRun} {p : Plan} {r : TileRun}

/-- A halo that arrives lets its tile start; a reload is counted. -/
theorem State.haloArrives_spec (span : Nat) (reload : Bool) (hi : (s.runAt c e i).isSome = true) :
    let u := s.haloArrives c e i m n span reload
    u.mem = s.mem ∧ u.runAt c e i = some (m.setTile n { m.tileAt n with halo := true }) ∧
      (u.ctxOf c).haloReload = (if reload then satAdd (s.ctxOf c).haloReload 1 else (s.ctxOf c).haloReload) ∧
      ∀ k, (u.spanOf k).parity = (s.spanOf k).parity := by
  have hr := State.setRun_runAt s (m.setTile n { m.tileAt n with halo := true }) hi
  have hx : ((s.setRun c e i (m.setTile n { m.tileAt n with halo := true })).ctxOf c).haloReload = (s.ctxOf c).haloReload := by
    rw [State.setRun, State.setCtx_ctxOf_self, Ctx.setRun_haloReload]
  cases reload with
  | false => exact ⟨rfl, hr, hx, fun _ => rfl⟩
  | true =>
    refine ⟨rfl, (State.setCtx_runAt (by cases e <;> rfl) i).trans hr, ?_, fun k => ?_⟩
    · rw [if_pos rfl, ← hx]
      exact congrArg Ctx.haloReload (State.setCtx_ctxOf_self ..)
    · by_cases hk : k = span
      · subst hk
        exact (congrArg Span.parity (State.setSpan_spanOf_self ..)).trans (Span.perf_parity ..)
      · exact congrArg Span.parity (State.setSpan_spanOf_ne _ _ hk)

/-- The one tile of a core, with staged inputs, sends the halo that the next tile waits for. -/
theorem State.haloSend_arrives (errors : Fin 3) (he : errors ≠ 2) (hh : (s.coreOf core).held = [h])
    (ht : s.heldTile h = some (c, i, m, p, r)) (hr : s.runs c = true) (hp : p.halo ≠ 0) (hs : r.status = .waiting ∨ r.status = .executing)
    (hn : m.nextAlong p h.2.2.2 = some n) (hq : (m.tileAt n).status = .loading ∨ (m.tileAt n).status = .waiting)
    (hf : (m.tileAt n).halo = false) :
    s.haloSend core errors = (s.linkParity c m p n core errors.val).haloArrives c h.2.1 i m n (coreSpan (m.tileAt n).core)
      (decide (r.core / 8 ≠ (m.tileAt n).core / 8) && !s.trestleOpen c (r.core / 8) ((m.tileAt n).core / 8)) := by
  have hs' : (decide (r.status = .waiting) || decide (r.status = .executing)) = true := by simpa using hs
  have hq' : (decide ((m.tileAt n).status = .loading) || decide ((m.tileAt n).status = .waiting)) = true := by simpa using hq
  simp only [State.haloSend, hh, List.findSome?_cons, ht, hr, hp, hs', hn, hq', hf, ne_eq, not_false_eq_true, decide_true, Bool.and_self,
    Bool.not_false, Option.bind_some, if_true, if_neg he, (State.linkParity_frame ..).trestleOpen, Bool.not_or, ← decide_not]
  rfl

/-- The one tile of a core has waited for its halo for 65,536 beats since its inputs were staged, or not yet. -/
theorem State.haloTimeout_waiting (hh : (s.coreOf core).held = [h]) (ht : s.heldTile h = some (c, i, m, p, r)) (hr : s.runs c = true)
    (hp : p.halo ≠ 0) (hs : r.status = .waiting) (hf : r.halo = false) :
    s.haloTimeout core = if r.staged + 65536 ≤ s.spanBeat (coreSpan core) then
      s.haloArrives c h.2.1 i m h.2.2.2 (coreSpan core) true else s := by
  simp only [State.haloTimeout, hh, List.findSome?_cons, List.findSome?_nil, ht, hr, hp, hs, hf, ne_eq, not_false_eq_true, decide_true,
    Bool.and_true, Bool.true_and, Bool.not_false, ge_iff_le, decide_eq_true_eq]
  by_cases hb : r.staged + 65536 ≤ s.spanBeat (coreSpan core)
  · rw [if_pos hb, if_pos hb]
  · rw [if_neg hb, if_neg hb]

/-! ## CARRY_SEND (R220, R221, R293, R294) -/

/-- The one tile of a core, of a scan and with its carry complete, passes it on. -/
theorem State.carrySend_passes (errors : Fin 3) (he : errors ≠ 2) (hh : (s.coreOf core).held = [h])
    (ht : s.heldTile h = some (c, i, m, p, r)) (hr : s.runs c = true) (hv : m.isVec 0x05 = true) (hs : r.status = .executing)
    (hw : r.carry.isSome = true) :
    s.carrySend core errors = (s.linkParity c m p h.2.2.2 core errors.val).passCarry c i m p h.2.2.2 := by
  obtain ⟨-, hrt⟩ := State.heldTile_some ht
  have hw' : (m.tileAt h.2.2.2).carry.isNone = false := by rw [← hrt]; simpa using hw
  simp only [State.carrySend, hh, List.findSome?_cons, ht, hv, hs, hr, hw', decide_true, Bool.and_self, if_true, if_neg he,
    Bool.false_eq_true, if_false]

/-- The next tile along the axis has no carry yet: this one's goes to it, over a trestle or the relay, which is counted. -/
theorem State.passCarry_next (t : Nat) (hi : (s.runAt c true i).isSome = true) (hv : m.isVec 0x05 = true)
    (hw : (m.tileAt t).carry.isSome = true) (hn : m.nextAlong p t = some n) (hc : m.carries.find n = none) :
    ∃ w, s.OnlyCtx (s.passCarry c i m p t) c ∧
      (s.passCarry c i m p t).runAt c true i = some { m with carries := m.carries.set n w } := by
  have hw' : (m.tileAt t).carry.isNone = false := by simpa using hw
  unfold State.passCarry
  simp only [hv, hw', hn, hc, Bool.not_true, Bool.or_self, Bool.false_eq_true, if_false, Option.isSome_none]
  refine ⟨_, State.setCtx_setRun_onlyCtx .., State.setRun_runAt _ _ ?_⟩
  rw [State.setCtx_runAt]
  · exact hi
  · rfl

/-- The last tile along the axis, of the lower block of a seam, sends its stack to the twin. -/
theorem State.passCarry_seam (t : Nat) (hv : m.isVec 0x05 = true) (hw : (m.tileAt t).carry.isSome = true)
    (hn : m.nextAlong p t = none) (hp : p.seam = true) (hm : m.mode 6 1 = 0) (hx : m.seamSent.contains t = false)
    (ho : s.seamOpen true = true) :
    s.passCarry c i m p t =
      (s.setGlob { s.glob with seamOut := s.glob.seamOut ++ [(c.val, (s.evAt c m p t (m.tileAt t)).carryOut)] }).setRun c true i
        { m with seamSent := m.seamSent ++ [t] } := by
  have hw' : (m.tileAt t).carry.isNone = false := by simpa using hw
  unfold State.passCarry
  simp only [hv, hw', hn, hp, hm, hx, ho, Bool.not_true, Bool.or_self, Bool.false_eq_true, if_false, Bool.not_false, decide_true,
    Bool.and_self, if_true]

end

/-- Settles O28: a halo or a carry reaches the next tile or the twin, after the record of a parity that failed once. -/
theorem halosAndCarriesReachTheNextTile : Obligations.HalosAndCarriesReachTheNextTile := by
  refine ⟨?send, ?timeout, ?carry⟩
  case send =>
    intro core errors s h c i n m p r he hh ht hr hp hs hn hq hf far
    have hu := s.linkParity_frame c m p n core.val errors.val
    have hi : ((s.linkParity c m p n core.val errors.val).runAt c h.2.1 i).isSome = true := by
      rw [State.runAt_congr hu.ctx, (State.heldTile_some ht).1]; rfl
    obtain ⟨hmem, hrun, hrel, hpar⟩ := State.haloArrives_spec (m := m) (n := n) (coreSpan (m.tileAt n).core) far hi
    refine ⟨_, congrArg Host.Outcome.next (State.haloSend_arrives errors he hh ht hr hp hs hn hq hf), hmem.trans hu.mem, ?_, hrun, ?_⟩
    · refine (hpar _).trans ((s.linkParity_parity c m p n core.val errors.val).trans (if_congr ?_ rfl rfl))
      exact ⟨fun h => Fin.ext h, fun h => congrArg Fin.val h⟩
    · rw [← hu.ctxOf c]
      exact hrel
  case timeout =>
    intro core beat s h c i m p r hh ht hr hp hs hf
    have hctx : (s.advanceTo beat).ctx = s.ctx := s.advanceTo_ctx beat
    have hx : (s.advanceTo beat).haloTimeout core.val = _ := State.haloTimeout_waiting (by rw [State.advanceTo_coreOf]; exact hh)
      ((State.heldTile_congr hctx h).trans ht) (by rw [State.advanceTo_runs]; exact hr) hp hs hf
    refine ⟨fun hb => ?_, fun hb => ?_⟩
    · have hi : ((s.advanceTo beat).runAt c h.2.1 i).isSome = true := by
        rw [State.runAt_congr hctx, (State.heldTile_some ht).1]; rfl
      obtain ⟨hmem, hrun, hrel, -⟩ := State.haloArrives_spec (m := m) (n := h.2.2.2) (coreSpan core.val) true hi
      refine ⟨_, congrArg Host.Outcome.next (hx.trans (if_pos hb)), hmem.trans (s.advanceTo_mem beat), ?_, ?_⟩
      · rw [(State.heldTile_some ht).2]
        exact hrun
      · rw [← s.advanceTo_ctxOf beat c]
        exact hrel
    · exact congrArg Host.Outcome.next (hx.trans (if_neg (Nat.not_le.2 hb)))
  case carry =>
    intro core errors s h c i m p r w he hh ht hr hx hv hs hw
    obtain ⟨hat, hrt⟩ := State.heldTile_some ht
    rw [hx] at hat
    have hu := s.linkParity_frame c m p h.2.2.2 core.val errors.val
    have hsome : r.carry.isSome = true := by rw [hw]; rfl
    have hexec := State.carrySend_passes errors he hh ht hr hv hs hsome
    rw [hrt] at hsome
    have hi : ((s.linkParity c m p h.2.2.2 core.val errors.val).runAt c true i).isSome = true := by
      rw [State.runAt_congr hu.ctx, hat]; rfl
    refine ⟨fun n hn hc => ?_, fun hn hp hm hsent ho => ?_⟩
    · obtain ⟨v, honly, hrun⟩ := State.passCarry_next (p := p) h.2.2.2 hi hv hsome hn hc
      refine ⟨_, _, congrArg Host.Outcome.next hexec, fun h0 => ?_, ?_, hrun, ?_, fun k hk => Table.find_set_ne _ _ hk, rfl⟩
      · subst h0
        exact honly
      · exact (congrArg State.mem honly).trans hu.mem
      · rw [Table.find_set_self]; rfl
    · have hpass := State.passCarry_seam (c := c) (i := i) h.2.2.2 hv hsome hn hp hm hsent ((hu.seamOpen true).trans ho)
      refine ⟨_, congrArg Host.Outcome.next (hexec.trans hpass), hu.mem, ?_, fun h0 => ?_, State.setRun_runAt _ _ hi⟩
      · rw [State.setRun_glob, State.setGlob_glob, hu.seamOut, List.map_append]
        rfl
      · subst h0
        rw [hrt]
        rfl

end Sys2Proof.Machine

/-! PROOFS of the statements of 07_tile_walker.md: stealing (O27). -/

namespace Sys2Proof.Machine

/-! ## The tile that a core claims (R206, R207) -/

/-- A list without repetition of which one element alone passes a test. -/
theorem filter_eq_singleton {α : Type} {p : α → Bool} {l : List α} {a : α} (hn : l.Nodup) (ha : a ∈ l)
    (hp : ∀ b ∈ l, p b = true ↔ b = a) : l.filter p = [a] := by
  refine List.perm_singleton.1 ((List.perm_ext_iff_of_nodup (hn.filter p) (List.nodup_singleton a)).2 fun b => ?_)
  rw [List.mem_filter, List.mem_singleton]
  exact ⟨fun h => (hp b h.1).1 h.2, fun h => h ▸ ⟨ha, (hp a ha).2 rfl⟩⟩

theorem mem_crewCores {crew k : Nat} : k ∈ crewCores crew ↔ k / 8 = crew := by
  simp only [crewCores, List.mem_map, List.mem_range]
  exact ⟨by rintro ⟨j, hj, rfl⟩; omega, fun h => ⟨k % 8, by omega, by omega⟩⟩

theorem mem_spanCores {span k : Nat} : k ∈ spanCores span ↔ k / 128 = span := by
  simp only [spanCores, List.mem_map, List.mem_range]
  exact ⟨by rintro ⟨j, hj, rfl⟩; omega, fun h => ⟨k % 128, by omega, by omega⟩⟩

theorem crewCores_nodup (crew : Nat) : (crewCores crew).Nodup := List.nodup_range.map fun a b h => by simpa using h
theorem spanCores_nodup (span : Nat) : (spanCores span).Nodup := List.nodup_range.map fun a b h => by simpa using h

section
variable {s : State} {core v : Nat} {h : Nat × Bool × Nat × Nat}

theorem State.mayTake_idle (ha : (s.coreOf core).asking = true) (hh : (s.coreOf core).held = []) (hf : s.isFenced core = false) :
    s.mayTake core = true := by
  simp [State.mayTake, ha, hh, hf]

/-- A core that has not asked, is fenced, or holds more than a tile dealt in this beat may not take one (R206, R209). -/
theorem State.mayTake_refused (hn : (s.coreOf core).asking = false ∨ s.isFenced core = true ∨ (s.coreOf core).held.length ≥ 2 ∨
    ((s.coreOf core).held ≠ [] ∧ (s.coreOf core).dealtAt ≠ some (s.spanBeat (coreSpan core)))) : s.mayTake core = false := by
  unfold State.mayTake
  rcases hn with ha | hf | hl | ⟨hh, hd⟩
  · simp [ha]
  · simp [hf]
  · have hne : (s.coreOf core).held ≠ [] := by intro e; simp [e] at hl
    have hne1 : (s.coreOf core).held.length ≠ 1 := by omega
    simp [hne, hne1]
  · simp [hh, hd]

/-- The one core of the thief's crew with a tile to take is its victim. -/
theorem State.claim_near (hne : v ≠ core) (hv : v / 8 = core / 8) (hp : s.prey v false = some h)
    (hn : ∀ k : Nat, k / 8 = core / 8 → k ≠ core → k ≠ v → s.prey k false = none) : s.claim core = some (v, false, h) := by
  have hnear : (crewCores (coreCrew core)).filter (fun k => decide (k ≠ core) && (s.prey k false).isSome) = [v] := by
    refine filter_eq_singleton (crewCores_nodup _) (mem_crewCores.2 hv) fun k hk => ⟨fun h => ?_, fun e => by simp [e, hne, hp]⟩
    by_contra hkv
    obtain ⟨hkc, hsome⟩ := Bool.and_eq_true_iff.1 h
    rw [hn k (mem_crewCores.1 hk) (of_decide_eq_true hkc) hkv] at hsome
    cases hsome
  simp only [State.claim, hnear, State.victim, List.foldl_cons, List.foldl_nil, hp, Option.map_some]

/-- Where none of its crew has one, it is the one core of its span with a tile whose reads have not begun. -/
theorem State.claim_far (hs : v / 128 = core / 128) (hv : v / 8 ≠ core / 8) (hp : s.prey v true = some h)
    (hn : ∀ k : Nat, k / 8 = core / 8 → k ≠ core → s.prey k false = none)
    (hf : ∀ k : Nat, k / 128 = core / 128 → k / 8 ≠ core / 8 → k ≠ v → s.prey k true = none) : s.claim core = some (v, true, h) := by
  have hnear : (crewCores (coreCrew core)).filter (fun k => decide (k ≠ core) && (s.prey k false).isSome) = [] := by
    refine List.filter_eq_nil_iff.2 fun k hk h => ?_
    obtain ⟨hkc, hsome⟩ := Bool.and_eq_true_iff.1 h
    rw [hn k (mem_crewCores.1 hk) (of_decide_eq_true hkc)] at hsome
    cases hsome
  have hfar : (spanCores (coreSpan core)).filter (fun k => decide (coreCrew k ≠ coreCrew core) && (s.prey k true).isSome) = [v] := by
    refine filter_eq_singleton (spanCores_nodup _) (mem_spanCores.2 hs) fun k hk => ⟨fun h => ?_, fun e => ?_⟩
    · by_contra hkv
      obtain ⟨hkc, hsome⟩ := Bool.and_eq_true_iff.1 h
      rw [hf k (mem_spanCores.1 hk) (of_decide_eq_true hkc) hkv] at hsome
      cases hsome
    · rw [e, hp]
      exact Bool.and_eq_true_iff.2 ⟨decide_eq_true hv, rfl⟩
  simp only [State.claim, hnear, hfar, State.victim, List.foldl_cons, List.foldl_nil, hp, Option.map_some, Option.bind_some]

/-! ## STEAL_GRANT (R35, R206, R208) -/

theorem State.steal_refused (hm : s.mayTake core = false) : s.steal core = s := by
  simp only [State.steal, hm, Bool.not_false, if_true]

/-- A lower-numbered core claims the tile: this one only notes its victim (R35). -/
theorem State.steal_outbid {other : Bool} (hm : s.mayTake core = true) (hc : s.claim core = some (v, other, h))
    (ho : s.outbid core h = true) : s.steal core = s.setSpan (coreSpan core)
      { s.spanOf (coreSpan core) with lastVictim := (s.spanOf (coreSpan core)).lastVictim.set (core % 128) v } := by
  simp only [State.steal, hm, hc, ho, Bool.not_true, Bool.false_eq_true, if_false, if_true]

variable {c : Fin 4} {i : Nat} {m : MacroRun} {p : Plan} {r : TileRun}

/-- The loser after a tile has left it, and the thief with it. -/
def Core.loses (w : Core) (h : Nat × Bool × Nat × Nat) : Core :=
  { w with held := w.held.erase h, asking := w.asking || (w.held.erase h).isEmpty, first := if w.first = some h then none else w.first }

def Core.steals (q : Core) (h : Nat × Bool × Nat × Nat) (beat : Nat) : Core :=
  { q with held := h :: q.held, asking := false, stolenAt := some beat, first := if q.held.isEmpty then none else some h }

/-- The machine once the tile has moved, before the count of the tile's context. -/
def State.stolen (s : State) (core v : Nat) (other : Bool) (h : Nat × Bool × Nat × Nat) (c : Fin 4) (i : Nat) (m : MacroRun)
    (r : TileRun) : State :=
  let u := ((s.setCore v ((s.coreOf v).loses h)).setCore core ((s.coreOf core).steals h (s.spanBeat (coreSpan core)))).setRun c h.2.1 i
    (m.setTile h.2.2.2 { r with core := core })
  u.setSpan (coreSpan core) { (s.spanOf (coreSpan core)).perf (if other then 0x0B else 0x0A) 1 with
    lastVictim := (s.spanOf (coreSpan core)).lastVictim.set (core % 128) v, steals := (s.spanOf (coreSpan core)).steals + 1 }

theorem State.steal_moves {other : Bool} (hm : s.mayTake core = true) (hc : s.claim core = some (v, other, h))
    (ho : s.outbid core h = false) (ht : s.heldTile h = some (c, i, m, p, r)) :
    s.steal core = let u := s.stolen core v other h c i m r
      if other then u.setCtx c { u.ctxOf c with stealsSpan := satAdd (u.ctxOf c).stealsSpan 1 } else u := by
  simp only [State.steal, hm, hc, ho, ht, Bool.not_true, Bool.false_eq_true, if_false]
  rfl

@[simp] theorem Ctx.setRun_stealsSpan (x : Ctx) (e : Bool) (i : Nat) (m : MacroRun) : (x.setRun e i m).stealsSpan = x.stealsSpan := by
  cases e <;> rfl

theorem State.stolen_spec (other : Bool) (hv : v ≠ core) (ht : s.heldTile h = some (c, i, m, p, r)) :
    let t := s.stolen core v other h c i m r
    t.mem = s.mem ∧ t.coreOf core = (s.coreOf core).steals h (s.spanBeat (coreSpan core)) ∧ t.coreOf v = (s.coreOf v).loses h ∧
      t.runAt c h.2.1 i = some (m.setTile h.2.2.2 { r with core := core }) ∧
      (t.spanOf (coreSpan core)).steals = (s.spanOf (coreSpan core)).steals + 1 ∧
      (t.spanOf (coreSpan core)).lastVictim = (s.spanOf (coreSpan core)).lastVictim.set (core % 128) v ∧
      (t.ctxOf c).stealsSpan = (s.ctxOf c).stealsSpan := by
  have hi : (s.runAt c h.2.1 i).isSome = true := by rw [(State.heldTile_some ht).1]; rfl
  refine ⟨rfl, State.setCore_coreOf_self .., (State.setCore_coreOf_ne _ _ hv).trans (State.setCore_coreOf_self ..),
    State.setRun_runAt (State.setCore (s.setCore v _) core _) _ hi, congrArg Span.steals (State.setSpan_spanOf_self ..),
    congrArg Span.lastVictim (State.setSpan_spanOf_self ..), ?_⟩
  exact (congrArg Ctx.stealsSpan (State.setCtx_ctxOf_self ..)).trans (Ctx.setRun_stealsSpan ..)

end

/-- Settles O27: the one victim is claimed, near or far; the tile moves unless another core goes first. -/
theorem stealMovesOneWaitingTile : Obligations.StealMovesOneWaitingTile := by
  refine ⟨?grant, fun core s hn => congrArg Host.Outcome.next (State.steal_refused (State.mayTake_refused hn))⟩
  intro core v other s h c i m p r ha hh hf hne hs ho hp ht hnear hfar
  have hv : v.val ≠ core.val := fun e => hne (Fin.ext e)
  have hm := State.mayTake_idle ha hh hf
  have hc : s.claim core.val = some (v.val, other, h) := by
    cases other with
    | false => exact State.claim_near hv (ho.1 rfl) hp hnear
    | true =>
      have hcrew : v.val / 8 ≠ core.val / 8 := fun e => Bool.noConfusion (ho.2 e)
      exact State.claim_far hs hcrew hp (fun k hk hkc => hnear k hk hkc fun e => hcrew (e ▸ hk)) (hfar rfl)
  refine ⟨fun hb => ?_, fun hb => ?_⟩
  · obtain ⟨hmem, hthief, hloser, hrun, hsteals, hlast, hspan⟩ := State.stolen_spec other hv ht
    have hlist : ((s.coreOf core.val).steals h (s.spanBeat (coreSpan core.val))).held = [h] := congrArg (h :: ·) hh
    have hget (t : Table Nat) : (t.set (core.val % 128) v.val).get (core.val % 128) 0 = v.val := Table.get_set_self ..
    have hexec : exec (.stealGrant core) s = _ := congrArg Host.Outcome.next (State.steal_moves hm hc hb ht)
    cases other with
    | false =>
      exact ⟨_, _, hexec, hmem, (congrArg Core.held hthief).trans hlist, congrArg Core.asking hthief, congrArg Core.held hloser, hrun, rfl,
        hsteals, (congrArg (Table.get · _ 0) hlast).trans (hget _), hspan⟩
    | true =>
      refine ⟨_, _, hexec, hmem, (congrArg Core.held hthief).trans hlist, congrArg Core.asking hthief, congrArg Core.held hloser,
        (State.setCtx_runAt ?_ i).trans hrun, rfl, hsteals, (congrArg (Table.get · _ 0) hlast).trans (hget _), ?_⟩
      · cases h.2.1 <;> rfl
      · exact (congrArg Ctx.stealsSpan (State.setCtx_ctxOf_self ..)).trans (congrArg (satAdd · 1) hspan)
  · refine ⟨_, congrArg Host.Outcome.next (State.steal_outbid hm hc hb), ?_, ?_⟩
    · exact congrArg (s.setSpan _) (State.setSpan_spanOf_self ..).symm
    · exact (congrArg (fun x : Span => x.lastVictim.get (core.val % 128) 0) (State.setSpan_spanOf_self ..)).trans (Table.get_set_self ..)

end Sys2Proof.Machine

/-! PROOFS of the statements of 07_tile_walker.md: what the walker's view of a macro rests on, and a tile that leaves its core (for O17, O20, O21). -/

namespace Sys2Proof.Machine

/-! ## What a draft rests on (R106, R442) -/

/-- `t` agrees with `s` in all that the checks and the draft of a macro of context `c` read: the shared cache, the windows, the
histogram slots and the context's bays. -/
structure State.SameView (s t : State) (c : Fin 4) : Prop where
  mem : t.mem = s.mem
  admin : t.admin = s.admin
  time : t.time = s.time
  hists : t.hists = s.hists
  bays : (t.ctxOf c).bays = (s.ctxOf c).bays

section
variable {s t : State} {c : Fin 4}

theorem State.SameView.trans {u : State} (h : s.SameView t c) (k : t.SameView u c) : s.SameView u c :=
  ⟨k.mem.trans h.mem, k.admin.trans h.admin, k.time.trans h.time, k.hists.trans h.hists, k.bays.trans h.bays⟩

theorem State.SameView.extentFail (h : s.SameView t c) : t.extentFail c = s.extentFail c := by
  have hw : t.windowsOf c = s.windowsOf c := by simp only [State.windowsOf, State.adminOf, h.admin, h.time]
  funext w lo hi dst
  simp only [State.extentFail, State.inWindow, hw]
  rfl

theorem State.SameView.descFail (h : s.SameView t c) : t.descFail c = s.descFail c := by
  have hd : t.domainFail c = s.domainFail c := by
    funext d dst
    simp only [State.domainFail, h.extentFail]
  have hc : t.companionFail c = s.companionFail c := by
    funext descs n dst
    simp only [State.companionFail, hd]
  funext descs n dst w
  have hh (n : Nat) : t.histOf n = s.histOf n := by rw [State.histOf, h.hists, State.histOf]
  simp only [State.descFail, State.companionsFail, hd, hc, hh]

theorem State.SameView.draft (h : s.SameView t c) (m : MacroRun) : t.draft c m = s.draft c m := by
  have hb (n : Nat) : (t.ctxOf c).bay n = (s.ctxOf c).bay n := by rw [Ctx.bay, h.bays, Ctx.bay]
  have hch : t.chainHandles c m = s.chainHandles c m := by funext p sz; simp only [State.chainHandles, h.descFail]
  have hsm : t.softmaxHandles c m = s.softmaxHandles c m := by funext p sz; simp only [State.softmaxHandles, h.descFail]
  have hro : t.rotaryHandles c m = s.rotaryHandles c m := by funext p; simp only [State.rotaryHandles, h.descFail]
  have hsa : t.samplingHandles c m = s.samplingHandles c m := by funext p; simp only [State.samplingHandles, h.descFail]
  have hsp : t.spansFor c = s.spansFor c := by simp only [State.spansFor, State.adminOf, h.admin]
  have hrig (a b o : Tensor) : draftRig t c m a b o = draftRig s c m a b o := by
    simp only [draftRig, draftChain, draftAttn, draftKv, draftLogits, draftSmxBwd, draftPlain, hb, hch, hsm, hro, hsa]
  have hacc (d : Tensor) (n : Nat) : draftAccess (t.ctxOf c) m d n = draftAccess (s.ctxOf c) m d n := by
    simp only [draftAccess, hb]
  simp only [State.draft, hrig, hacc, draftVew, draftSmx, draftScat, draftSamp, hch, hsm, hro, hsa, hsp, h.mem]

end

/-! ## A tile that leaves its core (R206, R18) -/

/-- A record writes the fault ring, its interrupt and the journal. -/
theorem State.absorb_rest (s : State) (n : Nat) (q : Cause) :
    ∃ r g j, s.absorb n q = { s with ring := r, glob := g, journal := j } := by
  unfold State.absorb State.ringWrite
  simp only []
  split
  · exact ⟨_, _, _, rfl⟩
  · exact ⟨_, _, _, rfl⟩

/-- `t` differs from `s` at most in the cores, the spans and what a record writes. -/
def State.CoreFrame (s t : State) : Prop :=
  t = { s with cores := t.cores, spans := t.spans, ring := t.ring, glob := t.glob, journal := t.journal }

section
variable {s t u : State}

theorem State.CoreFrame.trans (h : s.CoreFrame t) (k : t.CoreFrame u) : s.CoreFrame u := by
  rw [State.CoreFrame, k, h]

theorem State.CoreFrame.ctx (h : s.CoreFrame t) : t.ctx = s.ctx := by rw [h]

theorem State.CoreFrame.runAt (h : s.CoreFrame t) (c : Fin 4) (e : Bool) (i : Nat) : t.runAt c e i = s.runAt c e i :=
  State.runAt_congr h.ctx c e i

theorem State.CoreFrame.mem (h : s.CoreFrame t) : t.mem = s.mem := by rw [h]

theorem State.CoreFrame.admin (h : s.CoreFrame t) : t.admin = s.admin := by rw [h]

/-- A core leaves its tile, and its span is busy up to now. -/
theorem State.CoreFrame.left (s : State) (core n : Nat) (q : Core) : s.CoreFrame ((s.setCore core q).busyNow n) := rfl

theorem State.CoreFrame.absorb (s : State) (n : Nat) (q : Cause) : s.CoreFrame (s.absorb n q) := by
  obtain ⟨r, g, j, h⟩ := s.absorb_rest n q
  rw [h]; rfl

end

theorem State.absorb_coreOf (s : State) (n : Nat) (q : Cause) (core : Nat) : (s.absorb n q).coreOf core = s.coreOf core := by
  obtain ⟨r, g, j, h⟩ := s.absorb_rest n q
  rw [h]; rfl

/-- Swaps that are due change the lanes of their core, and are recorded. -/
theorem State.swapDue_frame (s : State) (core : Nat) :
    s.CoreFrame (s.swapDue core) ∧ ∀ n, ((s.swapDue core).coreOf n).held = (s.coreOf n).held := by
  unfold State.swapDue
  simp only []
  split
  · exact ⟨rfl, fun _ => rfl⟩
  · suffices h : ∀ t : State, s.CoreFrame t ∧ (∀ n, (t.coreOf n).held = (s.coreOf n).held) →
        s.CoreFrame (t.journalRepair (coreSpan core)) ∧ ∀ n, ((t.journalRepair (coreSpan core)).coreOf n).held = (s.coreOf n).held by
      refine h _ (List.foldlRecOn (motive := fun t : State => s.CoreFrame t ∧ ∀ n, (t.coreOf n).held = (s.coreOf n).held) _ _ ?_ ?_)
      · refine ⟨rfl, fun n => ?_⟩
        by_cases hn : n = core
        · rw [hn, State.setCore_coreOf_self]
        · rw [State.setCore_coreOf_ne _ _ hn]
      · intro t ht l _
        exact ⟨ht.1.trans (.absorb ..), fun n => by rw [State.absorb_coreOf, ht.2]⟩
    intro t ht
    exact ⟨ht.1.trans rfl, ht.2⟩

/-- A tile that leaves its core is no longer listed there. -/
theorem State.leaveCore_frame (s : State) (core : Nat) (h : Nat × Bool × Nat × Nat) :
    s.CoreFrame (s.leaveCore core h) ∧ ((s.leaveCore core h).coreOf core).held = (s.coreOf core).held.filter (· != h) := by
  obtain ⟨hf, hh⟩ := State.swapDue_frame ((s.setCore core { s.coreOf core with
    held := (s.coreOf core).held.filter (· != h)
    asking := (s.coreOf core).asking || ((s.coreOf core).held.filter (· != h)).isEmpty
    first := if (s.coreOf core).first = some h then none else (s.coreOf core).first }).busyNow (coreSpan core)) core
  refine ⟨State.CoreFrame.trans (.left ..) hf, (hh core).trans ?_⟩
  exact congrArg Core.held (State.setCore_coreOf_self ..)

/-! ## Banks that a tile gives back (R344, R350) -/

/-- `t` differs from `s` at most in the crews, whose park lines stand, and in context `c`, which has at most begun to halt. -/
structure State.BanksFrame (s t : State) (c : Fin 4) : Prop where
  rest : t = { s with ctx := t.ctx, crews := t.crews }
  ctx : ∃ h n, t.ctxOf c = { s.ctxOf c with halt := h, secondary := n }
  others : ∀ d, d ≠ c → t.ctxOf d = s.ctxOf d
  parked : ∀ j, (t.crewOf j).parked = (s.crewOf j).parked

namespace State.BanksFrame

variable {s t u : State} {c : Fin 4}

theorem refl (s : State) (c : Fin 4) : s.BanksFrame s c := ⟨rfl, ⟨_, _, rfl⟩, fun _ _ => rfl, fun _ => rfl⟩

theorem trans (h : s.BanksFrame t c) (k : t.BanksFrame u c) : s.BanksFrame u c := by
  obtain ⟨x, n, hx⟩ := h.ctx
  obtain ⟨y, m, hy⟩ := k.ctx
  exact ⟨by rw [k.rest, h.rest], ⟨y, m, by rw [hy, hx]⟩, fun d hd => (k.others d hd).trans (h.others d hd),
    fun j => (k.parked j).trans (h.parked j)⟩

theorem setCrew (s : State) (c : Fin 4) {crew : Nat} {k : Crew} (hk : k.parked = (s.crewOf crew).parked) :
    s.BanksFrame (s.setCrew crew k) c := by
  refine ⟨rfl, ⟨_, _, rfl⟩, fun _ _ => rfl, fun j => ?_⟩
  by_cases hj : j = crew
  · rw [hj, State.setCrew_crewOf_self, hk]
  · rw [State.setCrew_crewOf_ne _ _ hj]

theorem raise (s : State) (c : Fin 4) (q : Cause) : s.BanksFrame (s.raise c q) c := by
  refine ⟨?_, s.raise_ctxOf c q, fun d hd => State.raise_ctxOf_ne s q hd, fun j => ?_⟩
  · rw [State.raise_eq_setCtx]; rfl
  · rw [State.crewOf, State.raise_crews]; rfl

theorem mem (h : s.BanksFrame t c) : t.mem = s.mem := by rw [h.rest]
theorem admin (h : s.BanksFrame t c) : t.admin = s.admin := by rw [h.rest]
theorem time (h : s.BanksFrame t c) : t.time = s.time := by rw [h.rest]
theorem cores (h : s.BanksFrame t c) : t.cores = s.cores := by rw [h.rest]
theorem spans (h : s.BanksFrame t c) : t.spans = s.spans := by rw [h.rest]

theorem stream (h : s.BanksFrame t c) (e : Bool) : (t.ctxOf c).stream e = (s.ctxOf c).stream e := by
  obtain ⟨x, n, hx⟩ := h.ctx
  rw [hx]; rfl

theorem runAt (h : s.BanksFrame t c) (e : Bool) (i : Nat) : t.runAt c e i = s.runAt c e i :=
  congrArg (fun x : Stream => x.inflight[i]?) (h.stream e)

theorem sameView (h : s.BanksFrame t c) : s.SameView t c := by
  obtain ⟨x, n, hx⟩ := h.ctx
  exact ⟨h.mem, h.admin, h.time, by rw [h.rest], by rw [hx]⟩

theorem sendCmd (s : State) (c : Fin 4) (crew beat : Nat) : s.BanksFrame (s.sendCmd c crew beat) c := by
  unfold State.sendCmd
  simp only []
  split
  · exact .refl ..
  split
  · exact .refl ..
  split
  · exact .setCrew s c rfl
  split
  · exact .raise ..
  · refine .setCrew s c ?_
    unfold Crew.ask
    split <;> rfl

theorem sendCmds (s : State) (c : Fin 4) (crew : Nat) : s.BanksFrame (s.sendCmds c crew) c := by
  rw [State.sendCmds_eq]
  exact List.foldlRecOn (motive := fun t : State => s.BanksFrame t c) _ _ (.refl ..) fun t ht _ _ => ht.trans (.sendCmd ..)

theorem freeBanks (s : State) (c : Fin 4) (m : MacroRun) (crew : Nat) (done : Nat → Bool) : s.BanksFrame (s.freeBanks c m crew done) c :=
  .setCrew s c rfl

theorem releaseBanks (s : State) (c : Fin 4) (m : MacroRun) (p : Plan) (t : Nat) : s.BanksFrame (s.releaseBanks c m p t) c := by
  unfold State.releaseBanks
  simp only []
  split
  · exact .refl ..
  split
  · split
    · exact .freeBanks ..
    · exact .refl ..
  split
  · split
    · exact .freeBanks ..
    split
    · split
      · refine trans (setCrew s c ?_) (sendCmds ..)
        unfold Crew.turnBank
        split <;> rfl
      · exact .refl ..
    · exact .refl ..
  · exact .freeBanks ..

end State.BanksFrame

end Sys2Proof.Machine

/-! PROOFS of the statements of 07_tile_walker.md: stores that go to the pier, and what a macro row stages (O17). -/

namespace Sys2Proof.Machine

/-! ## A run that is replaced -/

theorem State.setRun_stream (s : State) (c : Fin 4) (e : Bool) (i : Nat) (m : MacroRun) : ((s.setRun c e i m).ctxOf c).stream e =
    { (s.ctxOf c).stream e with inflight := ((s.ctxOf c).stream e).inflight.set i m } := by
  rw [State.setRun, State.setCtx_ctxOf_self, Ctx.setRun, Ctx.setStream_stream_self]

/-- The context's other stream stays. -/
theorem State.setRun_runAt_other (s : State) {c : Fin 4} {e : Bool} {i : Nat} (m : MacroRun) (j : Nat) :
    (s.setRun c e i m).runAt c (!e) j = s.runAt c (!e) j := by
  rw [State.runAt, State.setRun, State.setCtx_ctxOf_self, Ctx.setRun, Ctx.setStream_stream_other _ _ (by simp), State.runAt]

/-! ## Halts of one code -/

/-- A cause begins a halt with its code in this beat, or leaves the halt of before. -/
theorem State.raise_halt_some {s : State} {c : Fin 4} {q : Cause} {h : Halting} (hh : ((s.raise c q).ctxOf c).halt = some h) :
    (s.ctxOf c).halt = some h ∨ (h.code = q.code ∧ h.beat = s.time.beat) := by
  cases hl : (s.adminOf c).state with
  | live =>
    cases hx : (s.ctxOf c).halt with
    | none =>
      rw [(State.raise_halts s q ((State.runs_iff s c).2 ⟨hl, hx⟩)).began] at hh
      cases hh
      exact .inr ⟨rfl, rfl⟩
    | some x =>
      rw [(State.raise_second s q hl hx).2] at hh
      split at hh
      · cases hh; exact .inr ⟨rfl, rfl⟩
      · exact .inl hh
  | halted =>
    rw [State.raise_halted s q hl, State.setCtx_ctxOf_self] at hh
    exact .inl hh
  | free | creating | resetting | tearingDown =>
    have hs : s.raise c q = s := by simp [State.raise, State.raiseAt, hl]
    rw [hs] at hh
    exact .inl hh

/-- A live context halts after a cause. -/
theorem State.raise_halt_isSome {s : State} {c : Fin 4} (q : Cause) (hl : (s.adminOf c).state = .live) :
    ((s.raise c q).ctxOf c).halt.isSome = true := by
  cases hx : ((s.raise c q).ctxOf c).halt with
  | some x => rfl
  | none =>
    have hr : (s.raise c q).runs c = true := (State.runs_iff _ _).2 ⟨by rw [State.raise_adminOf, hl], hx⟩
    rw [State.raise_not_runs] at hr
    cases hr

/-- A context that halts goes on halting. -/
theorem State.raise_halted_mono {s : State} {c : Fin 4} (q : Cause) (h : (s.ctxOf c).halt.isSome = true) :
    ((s.raise c q).ctxOf c).halt.isSome = true := by
  obtain ⟨x, hx⟩ := Option.isSome_iff_exists.1 h
  cases hl : (s.adminOf c).state with
  | live => exact State.raise_halt_isSome q hl
  | halted => rw [State.raise_halted s q hl, State.setCtx_ctxOf_self]; exact h
  | free | creating | resetting | tearingDown =>
    have hs : s.raise c q = s := by simp [State.raise, State.raiseAt, hl]
    rw [hs]; exact h

/-! ## Tiles that are unstaged -/

/-- `q'` differs from `q` at most in tiles that have lost what they staged. -/
structure MacroRun.Unstages (q q' : MacroRun) : Prop where
  rest : q' = { q with tiles := q'.tiles }
  tiles : ∀ k, q'.tileAt k = q.tileAt k ∨ q'.tileAt k = { q.tileAt k with out := none }

namespace MacroRun.Unstages

variable {q q' q'' : MacroRun}

theorem refl (q : MacroRun) : q.Unstages q := ⟨rfl, fun _ => .inl rfl⟩

theorem trans (h : q.Unstages q') (k : q'.Unstages q'') : q.Unstages q'' := by
  refine ⟨by rw [k.rest, h.rest], fun t => ?_⟩
  rcases h.tiles t with ht | ht <;> rcases k.tiles t with kt | kt <;> rw [kt, ht]
  · exact .inl rfl
  all_goals exact .inr rfl

theorem setTile (q : MacroRun) (t : Nat) : q.Unstages (q.setTile t { q.tileAt t with out := none }) := by
  refine ⟨rfl, fun k => ?_⟩
  by_cases hk : k = t
  · rw [hk, MacroRun.tileAt_setTile]; exact .inr rfl
  · exact .inl (Table.get_set_ne _ _ _ hk)

theorem id (h : q.Unstages q') : q'.id = q.id := by rw [h.rest]; rfl

theorem status (h : q.Unstages q') (k : Nat) : (q'.tileAt k).status = (q.tileAt k).status := by
  rcases h.tiles k with ht | ht <;> rw [ht]

theorem hasParked (h : q.Unstages q') (k : Nat) : (q'.tileAt k).hasParked = (q.tileAt k).hasParked := by
  rcases h.tiles k with ht | ht <;> rw [ht]

/-- What is unstaged stays so. -/
theorem out_none (h : q.Unstages q') {k : Nat} (hk : (q.tileAt k).out = none) : (q'.tileAt k).out = none := by
  rcases h.tiles k with ht | ht <;> rw [ht]
  exact hk

end MacroRun.Unstages

/-- A stream some tiles of which have been unstaged. -/
structure Stream.Unstages (a b : Stream) : Prop where
  length : b.inflight.length = a.inflight.length
  runs : ∀ (i : Nat) (q : MacroRun), a.inflight[i]? = some q → ∃ q', b.inflight[i]? = some q' ∧ q.Unstages q'

namespace Stream.Unstages

variable {a b d : Stream}

theorem refl (a : Stream) : a.Unstages a := ⟨rfl, fun _ q hq => ⟨q, hq, .refl q⟩⟩

theorem trans (h : a.Unstages b) (k : b.Unstages d) : a.Unstages d := by
  refine ⟨k.length.trans h.length, fun i q hq => ?_⟩
  obtain ⟨q', hq', hu⟩ := h.runs i q hq
  obtain ⟨q'', hq'', hv⟩ := k.runs i q' hq'
  exact ⟨q'', hq'', hu.trans hv⟩

theorem set {i : Nat} {q q' : MacroRun} (hi : a.inflight[i]? = some q) (h : q.Unstages q') :
    a.Unstages { a with inflight := a.inflight.set i q' } := by
  refine ⟨List.length_set, fun j x hx => ?_⟩
  by_cases hj : i = j
  · subst hj
    rw [hi] at hx
    cases hx
    exact ⟨q', List.getElem?_set_self (List.getElem?_eq_some_iff.1 hi).1, h⟩
  · exact ⟨x, (List.getElem?_set_ne hj).trans hx, .refl x⟩

/-- The macros keep their numbers. -/
theorem byId (h : a.Unstages b) {n i : Nat} {q : MacroRun} (hi : a.byId n = some (i, q)) : ∃ q', b.byId n = some (i, q') ∧ q.Unstages q' := by
  obtain ⟨hlt, hq, hp, hbefore⟩ := Stream.firstRun_eq_some.1 hi
  obtain ⟨q', hq', hu⟩ := h.runs i q (List.getElem?_eq_some_iff.2 ⟨hlt, hq⟩)
  obtain ⟨hlt', hget⟩ := List.getElem?_eq_some_iff.1 hq'
  refine ⟨q', Stream.firstRun_eq_some.2 ⟨hlt', hget, ?_, fun j hj => ?_⟩, hu⟩
  · rw [hu.id]; exact hp
  · have hja : j < a.inflight.length := by omega
    obtain ⟨y, hy, hv⟩ := h.runs j a.inflight[j] (List.getElem?_eq_getElem hja)
    obtain ⟨hjb, hyb⟩ := List.getElem?_eq_some_iff.1 hy
    rw [hyb, hv.id]
    exact hbefore j hj

end Stream.Unstages

/-! ## Stores that go to the pier (R48, R106, R210) -/

/-- `t` differs from `s` at most in the spans and in context `c`: tiles of its stream `e` are unstaged, and it may halt on a byte outside its
window in this beat. -/
structure State.SendFrame (s t : State) (c : Fin 4) (e : Bool) : Prop where
  rest : t = { s with ctx := t.ctx, spans := t.spans }
  others : ∀ d, d ≠ c → t.ctxOf d = s.ctxOf d
  bays : (t.ctxOf c).bays = (s.ctxOf c).bays
  stream : ((s.ctxOf c).stream e).Unstages ((t.ctxOf c).stream e)
  halts : ∀ h, (t.ctxOf c).halt = some h → (s.ctxOf c).halt = some h ∨ (h.code = 0x0901 ∧ h.beat = s.time.beat)
  halted : (s.ctxOf c).halt.isSome = true → (t.ctxOf c).halt.isSome = true

namespace State.SendFrame

variable {s t u : State} {c : Fin 4} {e : Bool}

theorem refl (s : State) (c : Fin 4) (e : Bool) : s.SendFrame s c e :=
  ⟨rfl, fun _ _ => rfl, rfl, .refl _, fun _ h => .inl h, id⟩

theorem time (h : s.SendFrame t c e) : t.time = s.time := by rw [h.rest]
theorem mem (h : s.SendFrame t c e) : t.mem = s.mem := by rw [h.rest]
theorem admin (h : s.SendFrame t c e) : t.admin = s.admin := by rw [h.rest]
theorem cores (h : s.SendFrame t c e) : t.cores = s.cores := by rw [h.rest]

theorem adminOf (h : s.SendFrame t c e) (d : Fin 4) : t.adminOf d = s.adminOf d := by rw [State.adminOf, h.admin, State.adminOf]

theorem sameView (h : s.SendFrame t c e) : s.SameView t c := ⟨h.mem, h.admin, h.time, by rw [h.rest], h.bays⟩

theorem trans (h : s.SendFrame t c e) (k : t.SendFrame u c e) : s.SendFrame u c e := by
  refine ⟨by rw [k.rest, h.rest], fun d hd => (k.others d hd).trans (h.others d hd), k.bays.trans h.bays, h.stream.trans k.stream,
    fun x hx => ?_, fun hx => k.halted (h.halted hx)⟩
  rcases k.halts x hx with hx | hx
  · exact h.halts x hx
  · exact .inr ⟨hx.1, hx.2.trans (by rw [h.time])⟩

theorem setSpan (s : State) (c : Fin 4) (e : Bool) (n : Nat) (x : Span) : s.SendFrame (s.setSpan n x) c e :=
  ⟨rfl, fun _ _ => rfl, rfl, .refl _, fun _ h => .inl h, id⟩

theorem raise (s : State) (c : Fin 4) (e : Bool) {q : Cause} (hq : q.code = 0x0901) : s.SendFrame (s.raise c q) c e := by
  obtain ⟨h, n, hc⟩ := s.raise_ctxOf c q
  refine ⟨?_, fun d hd => State.raise_ctxOf_ne s q hd, by rw [hc], ?_, fun x hx => ?_, fun hx => ?_⟩
  · rw [State.raise_eq_setCtx]; rfl
  · rw [hc]; exact .refl _
  · rw [← hq]; exact State.raise_halt_some hx
  · exact State.raise_halted_mono q hx

theorem setRun (s : State) {c : Fin 4} {e : Bool} {i : Nat} {q q' : MacroRun} (hi : s.runAt c e i = some q) (h : q.Unstages q') :
    s.SendFrame (s.setRun c e i q') c e := by
  have hx : (s.setRun c e i q').ctxOf c = (s.ctxOf c).setRun e i q' := State.setCtx_ctxOf_self ..
  refine ⟨rfl, fun d hd => State.setCtx_ctxOf_ne _ _ hd, ?_, ?_, fun x h => .inl ?_, fun h => ?_⟩
  · rw [hx]; cases e <;> rfl
  · rw [hx, Ctx.setRun, Ctx.setStream_stream_self]
    exact .set hi h
  · rwa [hx, Ctx.setRun, Ctx.setStream_halt] at h
  · rwa [hx, Ctx.setRun, Ctx.setStream_halt]

end State.SendFrame

/-- What lies outside its window is a DOMAIN_VIOLATION. -/
theorem State.storeDomainFail_code {s : State} {c : Fin 4} {d : Draft} {l : List Store} {f : Fail} (h : s.storeDomainFail c d l = some f) :
    f.code = 0x0901 := by
  obtain ⟨w, -, hw⟩ := List.exists_of_findSome?_eq_some h
  split at hw
  · cases hw
  · obtain ⟨st, -, hst⟩ := List.exists_of_findSome?_eq_some hw
    split at hst
    · simp only [] at hst
      split at hst
      · unfold State.extentFail at hst
        split at hst
        · cases hst
        · cases hst; rfl
      · cases hst
    · cases hst

/-- A part of stores that lie in their windows lies there too. -/
theorem State.storeDomainFail_sublist {s : State} {c : Fin 4} {d : Draft} {l l' : List Store} (hl : ∀ st ∈ l', st ∈ l)
    (h : s.storeDomainFail c d l = none) : s.storeDomainFail c d l' = none := by
  refine List.findSome?_eq_none_iff.2 fun w hw => ?_
  have hn := List.findSome?_eq_none_iff.1 h w hw
  split at hn
  · rfl
  · exact List.findSome?_eq_none_iff.2 fun st hst => List.findSome?_eq_none_iff.1 hn st (hl st hst)

theorem State.SameView.storeDomainFail {s t : State} {c : Fin 4} (h : s.SameView t c) : t.storeDomainFail c = s.storeDomainFail c := by
  funext d l
  simp only [State.storeDomainFail, h.extentFail]

section
variable (s : State) (c : Fin 4) (e : Bool) (m : MacroRun) (p : Plan) (t : Nat) (r : TileRun) (l : List Store)

/-- Stores in their windows wait at the pier. -/
theorem State.sendStores_passes (h : s.storeDomainFail c (s.draft c m) l = none) : ∃ x, s.sendStores c e m p t r l = { s with spans := x } := by
  rw [State.sendStores, h]
  exact ⟨_, rfl⟩

theorem State.sendStores_frame : s.SendFrame (s.sendStores c e m p t r l) c e := by
  unfold State.sendStores
  split
  · next f hf =>
    simp only []
    split
    · next i q hq => exact (State.SendFrame.setRun s (Stream.firstRun_some hq).1 (.setTile q t)).trans (.raise _ _ _ (State.storeDomainFail_code hf))
    · exact .raise _ _ _ (State.storeDomainFail_code hf)
  · exact .setSpan ..

end

/-! ## The results that a row stages (R210, R216) -/

section
variable (s : State) (c : Fin 4) (p : Plan) (f : Ev → TileOut)

/-- One tile runs, where it may. -/
def State.runTile (m : MacroRun) (t : Nat) : MacroRun :=
  if m.tileMayRun p t (m.tileAt t) then
    m.setTile t { m.tileAt t with out := some ((f (s.evAt c m p t (m.tileAt t))).inputClips m.clipOn) }
  else m

theorem State.runTiles_eq (m : MacroRun) : s.runTiles c p f m = (m.tiles.map Prod.fst).foldl (s.runTile c p f) m := rfl

theorem State.runTile_rest (m : MacroRun) (t : Nat) : s.runTile c p f m t = { m with tiles := (s.runTile c p f m t).tiles } := by
  unfold State.runTile
  split <;> rfl

theorem State.runTiles_rest (m : MacroRun) : s.runTiles c p f m = { m with tiles := (s.runTiles c p f m).tiles } := by
  rw [State.runTiles_eq]
  refine List.foldlRecOn (motive := fun n : MacroRun => n = { m with tiles := n.tiles }) _ _ rfl fun n hn t _ => ?_
  rw [State.runTile_rest, hn]

/-- A tile that has staged its results does not run again. -/
theorem State.runTile_staged {m : MacroRun} {k : Nat} {o : TileOut} (h : (m.tileAt k).out = some o) (t : Nat) :
    ((s.runTile c p f m t).tileAt k).out = some o := by
  unfold State.runTile
  split
  · next hm =>
    by_cases hk : k = t
    · subst hk
      simp [MacroRun.tileMayRun, h] at hm
    · exact (congrArg TileRun.out (Table.get_set_ne _ _ _ hk)).trans h
  · exact h

/-- The lowest tile that may run stages its results. -/
theorem State.runTiles_first {m : MacroRun} {k : Nat}
    (h : (m.tiles.map Prod.fst).find? (fun k => m.tileMayRun p k (m.tileAt k)) = some k) :
    ((s.runTiles c p f m).tileAt k).out = some ((f (s.evAt c m p k (m.tileAt k))).inputClips m.clipOn) := by
  obtain ⟨hk, before, after, hl, hb⟩ := List.find?_eq_some_iff_append.1 h
  have hbefore : before.foldl (s.runTile c p f) m = m :=
    List.foldlRecOn (motive := fun n : MacroRun => n = m) _ _ rfl fun n hn t ht => by
      have hm : m.tileMayRun p t (m.tileAt t) = false := by simpa using hb t ht
      rw [hn, State.runTile, hm]; rfl
  have hrun : ((s.runTile c p f m k).tileAt k).out = some ((f (s.evAt c m p k (m.tileAt k))).inputClips m.clipOn) := by
    rw [State.runTile, if_pos hk, MacroRun.tileAt_setTile]
  rw [State.runTiles_eq, hl, List.foldl_append, hbefore, List.foldl_cons]
  exact List.foldlRecOn (motive := fun n : MacroRun => (n.tileAt k).out = _) _ _ hrun fun n hn t _ => s.runTile_staged c p f hn t

end

/-! ## The rows of the macros (log 12) -/

/-- The state in which a macro row runs its macro: rigs 6 and 7 commit the corrections that are staged first (R320). -/
def State.beforeRow (s : State) : Instr → State
  | .mmulAttn c => s.corrections c 6
  | .mmulAttnPaged c => s.corrections c 7
  | _ => s

/-- The rows differ in their kinds of macro and in the results that they stage. -/
theorem exec_macroRow (c : Fin 4) (s : State) : ∀ row ∈ State.macroRows c,
    exec row.1 s = .next ((s.beforeRow row.1).runKind c row.2.1 row.2.2.1 row.2.2.2) :=
  List.forall_iff_forall_mem.1 (by repeat' constructor)

/-- Without a staged correction none commits. -/
theorem State.corrections_none {s : State} {c : Fin 4} (rig : Nat)
    (h : ∀ q ∈ (s.ctxOf c).exec.inflight, ∀ e ∈ q.attn, e.2.staged = none) : s.corrections c rig = s := by
  have hdue : ((s.ctxOf c).exec.inflight.flatMap fun m => if m.isRig [rig] then
      m.attn.filterMap (fun e => e.2.staged.map fun core => (m.id, e.1, core)) else []) = [] := by
    refine List.flatMap_eq_nil_iff.2 fun q hq => ?_
    split
    · exact List.filterMap_eq_nil_iff.2 fun e he => by rw [h q hq e he]; rfl
    · rfl
  unfold State.corrections
  split
  · rfl
  · simp only [hdue]; rfl

theorem State.beforeRow_eq {c : Fin 4} {s : State} : ∀ row ∈ State.macroRows c,
    (row.1 = .mmulAttn c ∨ row.1 = .mmulAttnPaged c → ∀ rig, s.corrections c rig = s) → s.beforeRow row.1 = s :=
  List.forall_iff_forall_mem.1 (by
    repeat' first | constructor | intro h
    · exact h (.inl rfl) 6
    · exact h (.inr rfl) 7)

/-- What a macro row does where no correction is staged. -/
theorem exec_macroRow_uncorrected {c : Fin 4} {s : State} {row : Instr × Bool × (MacroRun → Bool) × (Ev → TileOut)}
    (hrow : row ∈ State.macroRows c)
    (h : row.1 = .mmulAttn c ∨ row.1 = .mmulAttnPaged c → ∀ q ∈ (s.ctxOf c).exec.inflight, ∀ e ∈ q.attn, e.2.staged = none) :
    exec row.1 s = .next (s.runKind c row.2.1 row.2.2.1 row.2.2.2) := by
  rw [exec_macroRow c s row hrow, State.beforeRow_eq row hrow fun ha rig => State.corrections_none rig (h ha)]

/-- A row runs the tiles of the oldest macro of its kind that waits, and sends what they stage. -/
theorem State.runKind_eq {s : State} {c : Fin 4} {e : Bool} {is : MacroRun → Bool} {f : Ev → TileOut} {i : Nat} {m : MacroRun} {p : Plan}
    (hr : s.runs c = true) (hp : m.plan = some p)
    (hf : ((s.ctxOf c).stream e).firstRun (fun m => is m && (match m.plan with | some p => m.mayRun p | none => false)) = some (i, m)) :
    s.runKind c e is f = (s.setRun c e i (s.runTiles c p f m)).sendWrites c e p m (s.runTiles c p f m) := by
  unfold State.runKind
  rw [if_neg (by simp [State.runs_inBeat hr])]
  split
  · next hn => exact absurd (hn.symm.trans hf) nofun
  · next j q hq =>
    obtain ⟨rfl, rfl⟩ := Prod.mk.inj (Option.some.inj (hq.symm.trans hf))
    simp only [hp]

/-! ## The writes of a row (R106, R210) -/

section
variable {s : State} {c : Fin 4} {e : Bool} {p : Plan} {m m' : MacroRun}

/-- The writes of one tile go to the pier, where it has just staged them. -/
def State.sendTile (s : State) (c : Fin 4) (e : Bool) (p : Plan) (m m' : MacroRun) (q : Nat × TileRun) : State :=
  match q.2.out with
  | some o =>
    if (m.tileAt q.1).out.isNone && m.sends o then s.sendStores c e m' p q.1 q.2 (s.toSend c m' p q.1 q.2 o) else s
  | none => s

theorem State.sendWrites_eq : s.sendWrites c e p m m' = m'.tiles.foldl (fun s q => s.sendTile c e p m m' q) s := rfl

theorem State.toSend_sublist {t : Nat} {r : TileRun} {o : TileOut} : ∀ st ∈ s.toSend c m p t r o, st ∈ o.stores := by
  intro st hst
  unfold State.toSend at hst
  split at hst
  · exact List.mem_of_mem_filter hst
  · exact hst

theorem State.sendTile_frame (s : State) (q : Nat × TileRun) : s.SendFrame (s.sendTile c e p m m' q) c e := by
  unfold State.sendTile
  split
  · split
    · exact s.sendStores_frame ..
    · exact .refl ..
  · exact .refl ..

theorem State.foldl_sendTile_frame (s : State) (l : List (Nat × TileRun)) :
    s.SendFrame (l.foldl (fun s q => s.sendTile c e p m m' q) s) c e :=
  List.foldlRecOn (motive := fun t : State => s.SendFrame t c e) _ _ (.refl ..) fun t ht q _ => ht.trans (t.sendTile_frame q)

/-- Where every store lies in its window, the writes wait at the pier and nothing else changes. -/
theorem State.sendWrites_passes (h : ∀ q ∈ m'.tiles, ∀ o, q.2.out = some o → s.storeDomainFail c (s.draft c m') o.stores = none) :
    ∃ x, s.sendWrites c e p m m' = { s with spans := x } := by
  rw [State.sendWrites_eq]
  refine List.foldlRecOn (motive := fun t : State => ∃ x, t = { s with spans := x }) _ _ ⟨_, rfl⟩ fun t ht q hq => ?_
  obtain ⟨x, rfl⟩ := ht
  unfold State.sendTile
  split
  · next o ho =>
    split
    · have hv : s.SameView { s with spans := x } c := ⟨rfl, rfl, rfl, rfl, rfl⟩
      obtain ⟨y, hy⟩ := State.sendStores_passes { s with spans := x } c e m' p q.1 q.2 (State.toSend { s with spans := x } c m' p q.1 q.2 o) (by
        rw [hv.storeDomainFail, hv.draft]
        exact State.storeDomainFail_sublist State.toSend_sublist (h q hq o ho))
      exact ⟨y, hy⟩
    · exact ⟨x, rfl⟩
  · exact ⟨x, rfl⟩

/-- A store outside its window unstages its tile, and its context halts. -/
theorem State.sendStores_fails {t : Nat} {r : TileRun} {l : List Store} {i : Nat} {q : MacroRun} (hl : (s.adminOf c).state = .live)
    (hi : ((s.ctxOf c).stream e).byId m.id = some (i, q)) (h : s.storeDomainFail c (s.draft c m) l ≠ none) :
    let u := s.sendStores c e m p t r l
    u.runAt c e i = some (q.setTile t { q.tileAt t with out := none }) ∧ (u.ctxOf c).halt.isSome = true := by
  obtain ⟨f, hf⟩ := Option.ne_none_iff_exists'.1 h
  have hu : s.sendStores c e m p t r l = (s.setRun c e i (q.setTile t { q.tileAt t with out := none })).raise c
      { m.cause f.code with coord := m.coordOf p t, core := r.core, detail := f.detail } := by
    unfold State.sendStores
    rw [hf]
    simp only []
    split
    · next j x hx =>
      obtain ⟨rfl, rfl⟩ := Prod.mk.inj (Option.some.inj (hx.symm.trans hi))
      rfl
    · next hn => exact absurd (hn.symm.trans hi) nofun
  rw [hu]
  refine ⟨?_, State.raise_halt_isSome _ hl⟩
  obtain ⟨h, n, hc⟩ := State.raise_ctxOf (s.setRun c e i (q.setTile t { q.tileAt t with out := none })) c
    { m.cause f.code with coord := m.coordOf p t, core := r.core, detail := f.detail }
  rw [State.runAt, hc]
  exact State.setRun_runAt s _ (by rw [State.runAt, (Stream.firstRun_some hi).1]; rfl)

/-- Where a tile has just staged a store outside its window, the row unstages it, and its context halts in this beat. -/
theorem State.sendWrites_fails {q : Nat × TileRun} {o : TileOut} {i : Nat} (hr : s.runs c = true)
    (hi : ((s.ctxOf c).stream e).byId m'.id = some (i, m')) (hq : q ∈ m'.tiles) (ho : q.2.out = some o) (ht : q.2.tapSent = false)
    (hm : (m.tileAt q.1).out = none) (hs : m.sends o = true) (h : s.storeDomainFail c (s.draft c m') o.stores ≠ none) :
    ∃ m'' k, (s.sendWrites c e p m m').runAt c e i = some m'' ∧ (m''.tileAt q.1).out = none ∧
      ((s.sendWrites c e p m m').ctxOf c).halt = some k ∧ k.code = 0x0901 ∧ k.beat = s.time.beat := by
  obtain ⟨hlive, hnone⟩ := (State.runs_iff s c).1 hr
  obtain ⟨before, after, hl⟩ := List.append_of_mem hq
  let a := before.foldl (fun s q => s.sendTile c e p m m' q) s
  have ha : s.SendFrame a c e := s.foldl_sendTile_frame before
  have hb : (a.sendTile c e p m m' q) = a.sendStores c e m' p q.1 q.2 o.stores := by
    unfold State.sendTile
    simp only [ho, hm, hs, State.toSend, ht]
    rfl
  obtain ⟨q', hq', -⟩ := ha.stream.byId hi
  obtain ⟨hrun, hhalt⟩ := State.sendStores_fails (p := p) (t := q.1) (r := q.2) (l := o.stores)
    ((congrArg Admin.state (ha.adminOf c)).trans hlive) hq'
    (by rw [ha.sameView.storeDomainFail, ha.sameView.draft]; exact h)
  have hd := State.foldl_sendTile_frame (c := c) (e := e) (p := p) (m := m) (m' := m') (a.sendTile c e p m m' q) after
  have hend : s.sendWrites c e p m m' = after.foldl (fun s q => s.sendTile c e p m m' q) (a.sendTile c e p m m' q) := by
    rw [State.sendWrites_eq, hl, List.foldl_append, List.foldl_cons]
  rw [hend]
  rw [hb] at hd ⊢
  obtain ⟨m'', hm'', hun⟩ := hd.stream.runs i _ hrun
  obtain ⟨k, hk⟩ := Option.isSome_iff_exists.1 (hd.halted hhalt)
  refine ⟨m'', k, hm'', hun.out_none (by rw [MacroRun.tileAt_setTile]), hk, ?_⟩
  have hall : s.SendFrame _ c e := (ha.trans (a.sendStores_frame ..)).trans hd
  rcases hall.halts k hk with hx | hx
  · rw [hnone] at hx; cases hx
  · exact hx

end

/-- Settles O17: a row stages into the macro alone, and what goes to the pier stores nothing; a write outside its window unstages its tile. -/
theorem macroRowsStageResultsAndStoreNothing : Obligations.MacroRowsStageResultsAndStoreNothing := by
  intro c s row hrow i k m p hr hp hf hk hattn n u outside
  have hrun : s.runAt c row.2.1 i = some m := (Stream.firstRun_some hf).1
  have hu : u.runAt c row.2.1 i = some n := State.setRun_runAt s n (by rw [hrun]; rfl)
  have hexec : exec row.1 s = .next (u.sendWrites c row.2.1 p m n) := by
    rw [exec_macroRow_uncorrected hrow hattn, State.runKind_eq hr hp hf]
  have hrest : n = { m with tiles := n.tiles } := State.runTiles_rest ..
  refine ⟨fun hall => ?passes, fun q o hid hq ho htap hout hsends hfail => ?fails⟩
  case passes =>
    obtain ⟨x, hx⟩ := State.sendWrites_passes (s := u) (c := c) (e := row.2.1) (p := p) (m := m) hall
    refine ⟨_, n, hexec, ?_⟩
    rw [hx]
    exact ⟨hu, State.runTiles_first s c p row.2.2.2 hk, hrest, rfl, rfl, rfl, rfl, rfl, rfl, fun d hd => State.setCtx_ctxOf_ne _ _ hd,
      fun j hj => State.setRun_runAt_ne s n hj, funext fun j => State.setRun_runAt_other s n j⟩
  case fails =>
    have hn : n.id = m.id := by rw [hrest]; rfl
    have hbyId : ((u.ctxOf c).stream row.2.1).byId n.id = some (i, n) := by
      rw [hn, show (u.ctxOf c).stream row.2.1 = _ from State.setRun_stream ..]
      exact Stream.byId_set hid hn
    obtain ⟨m', h, hm', hout', hh, hcode, hbeat⟩ := State.sendWrites_fails (s := u) (m := m) (p := p) ((State.setRun_runs ..).trans hr)
      hbyId hq ho htap hout hsends hfail
    have hframe : u.SendFrame (u.sendWrites c row.2.1 p m n) c row.2.1 := State.foldl_sendTile_frame u n.tiles
    exact ⟨_, m', h, hexec, hframe.mem, hm', hout', hh, hcode, hbeat⟩

end Sys2Proof.Machine

/-! PROOFS of the statements of 07_tile_walker.md: a waiting tile starts, parks or is handed to replay (O20). -/

namespace Sys2Proof.Machine

/-! ## The tiles that a core lists -/

/-- A core's entry names its tile by context, stream, number of the macro and tile. -/
theorem State.heldTile_key {s : State} {h : Nat × Bool × Nat × Nat} {c : Fin 4} {i : Nat} {m : MacroRun} {p : Plan} {r : TileRun}
    (h4 : h.1 < 4) (he : s.heldTile h = some (c, i, m, p, r)) :
    (c.val, h.2.1, m.id, h.2.2.2) = h ∧ ((s.ctxOf c).stream h.2.1).byId m.id = some (i, m) ∧ m.plan = some p := by
  unfold State.heldTile at he
  simp only [] at he
  cases hb : ((s.ctxOf (ctxNo h.1)).stream h.2.1).byId h.2.2.1 with
  | none => rw [hb] at he; cases he
  | some q =>
    obtain ⟨j, n⟩ := q
    rw [hb] at he
    obtain ⟨p', hp, heq⟩ := Option.map_eq_some_iff.1 he
    cases heq
    have hid : m.id = h.2.2.1 := by simpa using (Stream.firstRun_some hb).2
    have hc : (ctxNo h.1).val = h.1 := Nat.mod_eq_of_lt h4
    rw [hid, hc]
    exact ⟨rfl, hb, hp⟩

/-! ## TILE_EXECUTE of the one waiting tile of a core (R205) -/

/-- The carry that is there enters a scan tile (R221). -/
def MacroRun.takesCarry (m : MacroRun) (t : Nat) (r : TileRun) : MacroRun :=
  match if m.isVec 0x05 then m.carries.find t else none with
  | some w => { m.setTile t { r with carry := some w } with carries := m.carries.set t w }
  | none => m

/-- Does a tile copy its accumulator elements into staging (R489)? -/
def MacroRun.copies (m : MacroRun) (p : Plan) (t check : Nat) : Bool := p.meBound && !(m.tileAt t).copied && check ≠ 10

def MacroRun.takesCopy (m : MacroRun) (p : Plan) (t check : Nat) : MacroRun :=
  if m.copies p t check then m.setTile t { m.tileAt t with copied := true } else m

/-- A tile starts: that of an ST from a bay reads its words, once the lines due by now are settled (R178). -/
def State.startTile (s : State) (c : Fin 4) (e : Bool) (i : Nat) (m : MacroRun) (p : Plan) (t core : Nat) : State :=
  let r := s.issueSt c m p t { m.tileAt t with status := .executing, started := s.spanBeat (coreSpan core) }
  ((s.checkSt c m p t).works (coreSpan core) m.index t r.attempt).setRun c e i (m.setTile t r)

/-- A tile whose checks pass parks, sorts, or starts. -/
def State.beginTile (s : State) (c : Fin 4) (e : Bool) (i : Nat) (m : MacroRun) (p : Plan) (t core : Nat) : State :=
  let open_ : Bool := p.hold && !(m.tileRows p t).all (fun row => (m.closed.find row).isSome)
  if open_ then s.parkTile c e i m p t core
  else if m.sorting t then s.sortTile c e i m t core
  else (if m.slot = 5 && m.target = 1 then s.settleLines c 1 else s).startTile c e i m p t core

/-- The one tile of a core may start, and no correction comes before it. -/
structure State.TileDue (s : State) (core : Nat) (h : Nat × Bool × Nat × Nat) (c : Fin 4) (i : Nat) (m : MacroRun) (p : Plan) (r : TileRun) :
    Prop where
  correction : s.correctionOn core = none
  chain : ∀ d, s.owner (coreSpan core) = some d → s.chainDue d (coreCrew core) = none
  held : (s.coreOf core).held = [h]
  first : ∀ g, (s.coreOf core).first = some g → g = h
  tile : s.heldTile h = some (c, i, m, p, r)
  runs : s.runs c = true
  waiting : r.status = .waiting
  halo : r.halo = true
  products : p.meBound = true → m.productsReady p h.2.2.2 = true
  carry : m.isVec 0x05 = true → (m.carries.find h.2.2.2).isSome = true

section
variable {s : State} {core : Nat} {h : Nat × Bool × Nat × Nat} {c : Fin 4} {i : Nat} {m : MacroRun} {p : Plan} {r : TileRun}

theorem State.carryIn_found {t : Nat} {w : List Word} (h : m.carries.find t = some w) : s.carryIn c m p t = (some w, s) := by
  rw [State.carryIn, h]

namespace State.TileDue

theorem mayStart (d : s.TileDue core h c i m p r) : s.mayStart c m p h.2.2.2 r = true := by
  obtain ⟨-, -, -, -, -, hruns, hwait, hhalo, hproducts, hcarry⟩ := d
  have hp : (!p.meBound || m.productsReady p h.2.2.2) = true := by
    cases hb : p.meBound with
    | false => rfl
    | true => exact hproducts hb
  have hc : (!m.isVec 0x05 || (s.carryIn c m p h.2.2.2).1.isSome) = true := by
    cases hv : m.isVec 0x05 with
    | false => rfl
    | true =>
      obtain ⟨w, hw⟩ := Option.isSome_iff_exists.1 (hcarry hv)
      rw [State.carryIn_found hw]; rfl
  rw [State.mayStart, State.runs_inBeat hruns, hhalo, hp, hc]
  simp [hwait]

/-- The state in which the tile's checks are made: the tile has its carry and its copy, and the banks that it was the last to read are free. -/
def checked (s : State) (core : Nat) (h : Nat × Bool × Nat × Nat) (c : Fin 4) (i : Nat) (m : MacroRun) (p : Plan) (r : TileRun) (check : Nat) :
    State :=
  let m₁ := m.takesCarry h.2.2.2 r
  let u := (s.setCore core { s.coreOf core with first := none }).setRun c h.2.1 i (m₁.takesCopy p h.2.2.2 check)
  if m₁.copies p h.2.2.2 check then u.releaseBanks c (m₁.takesCopy p h.2.2.2 check) p h.2.2.2 else u

theorem executeTile (d : s.TileDue core h c i m p r) (check lane : Nat) :
    let m' := (m.takesCarry h.2.2.2 r).takesCopy p h.2.2.2 check
    s.executeTile core check lane =
      match (checked s core h c i m p r check).checkTile c m' p h.2.2.2 core check lane r.firstCore (p.meBound && !r.copied) (!r.rings.isEmpty)
        (fun s lane unit syn at_ => s.failTile c h.2.1 i m' p h.2.2.2 lane unit syn at_) with
      | .stop s => s
      | .pass s => s.beginTile c h.2.1 i m' p h.2.2.2 core := by
  have hmay := d.mayStart
  obtain ⟨hcorr, hchain, hheld, hfirst, htile, hruns, hwait, -, -, hcarry⟩ := d
  have hfree : ((s.coreOf core).first.isNone || decide ((s.coreOf core).first = some h)) = true := by
    cases hf : (s.coreOf core).first with
    | none => rfl
    | some g => simp [hfirst g hf]
  have hidle : decide (r.status = .executing) = false := by rw [hwait]; rfl
  intro m'
  simp only [State.executeTile, hcorr, hheld, htile, hidle, List.any_cons, List.any_nil, Option.isSome_none,
    Bool.false_and, Bool.or_false, Bool.false_eq_true, if_false, State.stageCorrection_none check lane hchain, List.filter_cons, hfree, if_true,
    List.filter_nil, List.findSome?_cons, hmay]
  cases hv : m.isVec 0x05 with
  | false =>
    have hm : m.takesCarry h.2.2.2 r = m := by rw [MacroRun.takesCarry, hv]; rfl
    simp only [checked, m', hm]
    rw [← hheld]
    rfl
  | true =>
    obtain ⟨w, hw⟩ := Option.isSome_iff_exists.1 (hcarry hv)
    have hm : m.takesCarry h.2.2.2 r = { m.setTile h.2.2.2 { r with carry := some w } with carries := m.carries.set h.2.2.2 w } := by
      rw [MacroRun.takesCarry, hv, if_pos rfl, hw]
    simp only [checked, m', hm]
    rw [← hheld, State.carryIn_found hw]
    rfl

/-- The core with no stolen tile before the others, and the macro with the carry and the copy of its tile. -/
def taken (s : State) (core : Nat) (h : Nat × Bool × Nat × Nat) (c : Fin 4) (i : Nat) (m : MacroRun) (p : Plan) (r : TileRun) (check : Nat) :
    State :=
  (s.setCore core { s.coreOf core with first := none }).setRun c h.2.1 i ((m.takesCarry h.2.2.2 r).takesCopy p h.2.2.2 check)

theorem taken_runAt (d : s.TileDue core h c i m p r) (check : Nat) :
    (taken s core h c i m p r check).runAt c h.2.1 i = some ((m.takesCarry h.2.2.2 r).takesCopy p h.2.2.2 check) := by
  refine State.setRun_runAt _ _ ?_
  have hrun : (s.setCore core { s.coreOf core with first := none }).runAt c h.2.1 i = some m := (State.heldTile_some d.tile).1
  rw [hrun]; rfl

theorem taken_view (check : Nat) : s.SameView (taken s core h c i m p r check) c := by
  refine ⟨rfl, rfl, rfl, rfl, ?_⟩
  rw [taken, State.setRun, State.setCtx_ctxOf_self]
  cases h.2.1 <;> rfl

/-- The core that the tile leaves lists what it listed. -/
theorem taken_held (check : Nat) : ((taken s core h c i m p r check).coreOf core).held = (s.coreOf core).held := by
  show ((s.setCore core { s.coreOf core with first := none }).coreOf core).held = _
  rw [State.setCore_coreOf_self]

theorem checked_frame (check : Nat) : (taken s core h c i m p r check).BanksFrame (checked s core h c i m p r check) c := by
  unfold checked taken
  simp only []
  split
  · exact .releaseBanks ..
  · exact .refl ..

theorem checked_unbound (check : Nat) (hb : p.meBound = false) : checked s core h c i m p r check = taken s core h c i m p r check := by
  unfold checked taken
  simp only [MacroRun.copies, hb]
  rfl

/-- Where the checks pass, the tile begins. -/
theorem exec_passes (d : s.TileDue core h c i m p r) (lane : Nat) :
    s.executeTile core 0 lane =
      (checked s core h c i m p r 0).beginTile c h.2.1 i ((m.takesCarry h.2.2.2 r).takesCopy p h.2.2.2 0) p h.2.2.2 core :=
  d.executeTile 0 lane

/-- The macro with the carry and the copy of its tile. -/
theorem ready_rest (t check : Nat) : ∃ l d, (m.takesCarry t r).takesCopy p t check = { m with tiles := l, carries := d } := by
  have hc : ∃ l d, m.takesCarry t r = { m with tiles := l, carries := d } := by
    unfold MacroRun.takesCarry
    split <;> exact ⟨_, _, rfl⟩
  obtain ⟨l, d, hc⟩ := hc
  unfold MacroRun.takesCopy
  split
  · exact ⟨((m.takesCarry t r).setTile t { (m.takesCarry t r).tileAt t with copied := true }).tiles, d, by rw [hc]; rfl⟩
  · exact ⟨l, d, hc⟩

end State.TileDue

/-- A tile that needs no carry takes none. -/
theorem MacroRun.takesCarry_other {t : Nat} (h : m.isVec 0x05 = false) : m.takesCarry t r = m := by
  rw [MacroRun.takesCarry, h]; rfl

theorem MacroRun.takesCopy_unbound {t check : Nat} (h : p.meBound = false) : m.takesCopy p t check = m := by
  rw [MacroRun.takesCopy, MacroRun.copies, h]; rfl

/-- A tile as it passes its checks: with the carry of a scan, and its accumulator elements in the staged copy (R489). -/
def MacroRun.readyTile (m : MacroRun) (p : Plan) (t : Nat) (r : TileRun) : TileRun :=
  { r with carry := if m.isVec 0x05 then m.carries.find t else r.carry, copied := r.copied || p.meBound }

theorem MacroRun.readyTile_same (t : Nat) (hv : m.isVec 0x05 = false) (hb : p.meBound = false) : m.readyTile p t r = r := by
  rw [MacroRun.readyTile, hv, hb, Bool.or_false]; rfl

theorem MacroRun.tileAt_takesCarry {t : Nat} (hr : m.tileAt t = r) (h : m.isVec 0x05 = true → (m.carries.find t).isSome = true) :
    (m.takesCarry t r).tileAt t = { r with carry := if m.isVec 0x05 then m.carries.find t else r.carry } := by
  cases hv : m.isVec 0x05 with
  | false => rw [MacroRun.takesCarry_other hv, hr]; rfl
  | true =>
    obtain ⟨w, hw⟩ := Option.isSome_iff_exists.1 (h hv)
    rw [MacroRun.takesCarry, hv, if_pos rfl, hw]
    exact Table.get_set_self ..

theorem MacroRun.tileAt_takesCopy (t : Nat) :
    (m.takesCopy p t 0).tileAt t = { m.tileAt t with copied := (m.tileAt t).copied || p.meBound } := by
  have hc : m.copies p t 0 = (p.meBound && !(m.tileAt t).copied) := by simp [MacroRun.copies]
  unfold MacroRun.takesCopy
  rw [hc]
  split
  · next h => rw [MacroRun.tileAt_setTile, (Bool.and_eq_true_iff.1 h).1, Bool.or_true]
  · next h =>
    have hv : ((m.tileAt t).copied || p.meBound) = (m.tileAt t).copied := by
      cases hb : p.meBound <;> cases hd : (m.tileAt t).copied <;> simp [hb, hd] at h ⊢
    rw [hv]

theorem MacroRun.tileAt_ready {t : Nat} (hr : m.tileAt t = r) (h : m.isVec 0x05 = true → (m.carries.find t).isSome = true) :
    ((m.takesCarry t r).takesCopy p t 0).tileAt t = m.readyTile p t r := by
  rw [MacroRun.tileAt_takesCopy, MacroRun.tileAt_takesCarry hr h]; rfl

/-! ## The tile starts (R205) -/

/-- What the check of an ST's lines does. -/
theorem State.BanksFrame.checkSt (s : State) (c : Fin 4) (m : MacroRun) (p : Plan) (t : Nat) : s.BanksFrame (s.checkSt c m p t) c := by
  unfold State.checkSt
  split
  · split
    · exact .refl ..
    · exact .raise ..
  · exact .refl ..

theorem State.checkSt_other {t : Nat} (h : ¬(m.slot = 5 ∧ m.target = 1)) : s.checkSt c m p t = s := if_neg (by simpa using h)

theorem State.issueSt_other {t : Nat} (h : ¬(m.slot = 5 ∧ m.target = 1)) : s.issueSt c m p t r = r := if_neg (by simpa using h)

theorem State.issueSt_words (t : Nat) : ∃ w, s.issueSt c m p t r = { r with words := w } := by
  unfold State.issueSt
  split <;> exact ⟨_, rfl⟩

theorem State.startTile_spec {e : Bool} (t : Nat) (hi : (s.runAt c e i).isSome = true) :
    let u := s.startTile c e i m p t core
    u.runAt c e i = some (m.setTile t (s.issueSt c m p t { m.tileAt t with status := .executing, started := s.spanBeat (coreSpan core) })) ∧
      u.mem = s.mem ∧ u.admin = s.admin ∧ (∀ d, d ≠ c → u.ctxOf d = s.ctxOf d) ∧ u.runAt c (!e) = (s.checkSt c m p t).runAt c (!e) ∧
      u.crews = (s.checkSt c m p t).crews := by
  have hf := State.BanksFrame.checkSt s c m p t
  refine ⟨State.setRun_runAt _ _ ?_, hf.mem, hf.admin, fun d hd => (State.setCtx_ctxOf_ne _ _ hd).trans (hf.others d hd),
    funext fun j => State.setRun_runAt_other _ _ j, rfl⟩
  have hw : (s.checkSt c m p t).runAt c e i = s.runAt c e i := hf.runAt e i
  exact (congrArg Option.isSome hw).trans hi

/-- A tile of a hold macro one of whose rows has not closed parks. -/
theorem State.beginTile_parks {e : Bool} {t : Nat} (hp : p.hold = true) (hopen : ∃ row ∈ m.tileRows p t, m.closed.find row = none) :
    s.beginTile c e i m p t core = s.parkTile c e i m p t core := by
  obtain ⟨row, hrow, hn⟩ := hopen
  have hall : (p.hold && !(m.tileRows p t).all (fun row => (m.closed.find row).isSome)) = true := by
    rw [hp, Bool.true_and, Bool.not_eq_true', List.all_eq_false]
    exact ⟨row, hrow, by rw [hn]; decide⟩
  exact if_pos hall

/-- A tile whose rows have closed, and that sorts nothing, starts in this beat. -/
theorem State.beginTile_starts {e : Bool} {t : Nat} (hi : (s.runAt c e i).isSome = true)
    (hopen : p.hold = true → ∀ row ∈ m.tileRows p t, (m.closed.find row).isSome = true) (hsort : m.sorting t = false) :
    let u := s.beginTile c e i m p t core
    let r' : TileRun := { m.tileAt t with status := .executing, started := s.spanBeat (coreSpan core) }
    (∃ w, u.runAt c e i = some (m.setTile t { r' with words := w })) ∧ u.mem = s.mem ∧ u.admin = s.admin ∧
      (¬(m.slot = 5 ∧ m.target = 1) → u.runAt c e i = some (m.setTile t r') ∧ (∀ d, d ≠ c → u.ctxOf d = s.ctxOf d) ∧
        u.runAt c (!e) = s.runAt c (!e) ∧ u.crews = s.crews) := by
  intro u r'
  have hall : (p.hold && !(m.tileRows p t).all (fun row => (m.closed.find row).isSome)) = false := by
    cases hp : p.hold with
    | false => rfl
    | true => simpa using hopen hp
  have hu : u = (if m.slot = 5 && m.target = 1 then s.settleLines c 1 else s).startTile c e i m p t core := by
    show s.beginTile c e i m p t core = _
    unfold State.beginTile
    rw [hall, hsort]
    rfl
  by_cases hs : m.slot = 5 ∧ m.target = 1
  · rw [hu, if_pos (by simpa using hs)]
    have hv := State.settleLines_lines s c 1
    obtain ⟨hrun, hmem, hadmin, -⟩ := State.startTile_spec (m := m) (p := p) (core := core) t (hv.runAt_isSome hi)
    have hbeat : (s.settleLines c 1).spanBeat (coreSpan core) = s.spanBeat (coreSpan core) := by
      simp only [State.spanBeat, State.spanOf, hv.spans, hv.time]
    obtain ⟨w, hw⟩ := State.issueSt_words (s := s.settleLines c 1) (c := c) (m := m) (p := p) (r := r') t
    rw [hbeat, hw] at hrun
    exact ⟨⟨w, hrun⟩, hmem.trans hv.mem, hadmin.trans hv.admin, fun h => absurd hs h⟩
  · rw [hu, if_neg (by simpa using hs)]
    obtain ⟨hrun, hmem, hadmin, hothers, hother, hcrews⟩ := State.startTile_spec (m := m) (p := p) (core := core) t hi
    rw [State.checkSt_other hs] at hother hcrews
    rw [State.issueSt_other hs] at hrun
    exact ⟨⟨_, hrun⟩, hmem, hadmin, fun _ => ⟨hrun, hothers, hother, hcrews⟩⟩

/-! ## The tile parks (R284 to R286) -/

theorem State.SameView.parkSize {t : State} (hv : s.SameView t c) : t.parkSize c = s.parkSize c := by
  rw [State.parkSize, Ctx.parkBay, hv.bays]; rfl

/-- A parked tile leaves its core; the tap that it sends touches neither its place nor its lines. -/
theorem State.parked_spec {e : Bool} {t : Nat} {r' : TileRun} (hi : (s.runAt c e i).isSome = true) (hs : r'.status = .parked)
    (hp : r'.hasParked = true) (taps : Bool) (l : List Store) :
    let a := (s.setRun c e i (m.setTile t r')).leaveCore core (c.val, e, m.id, t)
    let u := if taps then a.sendStores c e (m.setTile t r') p t (m.tileAt t) l else a
    u.mem = s.mem ∧ (u.coreOf core).held = (s.coreOf core).held.filter (· != (c.val, e, m.id, t)) ∧
      ∃ m', u.runAt c e i = some m' ∧ (m'.tileAt t).status = .parked ∧ (m'.tileAt t).hasParked = true := by
  intro a u
  obtain ⟨hf, hheld⟩ := State.leaveCore_frame (s.setRun c e i (m.setTile t r')) core (c.val, e, m.id, t)
  have hrun : a.runAt c e i = some (m.setTile t r') := (hf.runAt c e i).trans (State.setRun_runAt _ _ hi)
  have hsend : a.SendFrame u c e := by
    show a.SendFrame (if taps then _ else a) c e
    split
    · exact a.sendStores_frame ..
    · exact .refl ..
  obtain ⟨m', hm', hun⟩ := hsend.stream.runs i _ hrun
  have hcore : u.coreOf core = a.coreOf core := by rw [State.coreOf, hsend.cores]; rfl
  refine ⟨hsend.mem.trans hf.mem, (congrArg Core.held hcore).trans hheld, m', hm', ?_, ?_⟩
  · rw [hun.status, MacroRun.tileAt_setTile, hs]
  · rw [hun.hasParked, MacroRun.tileAt_setTile, hp]

/-- A tile whose rows do not fit the park takes lines of it as it parks (R286). -/
def State.takesLines (s : State) (c : Fin 4) (m : MacroRun) (p : Plan) (t core : Nat) : State :=
  if decide (m.parkVolume p (s.draft c m) t > s.parkSize c) then
    s.setCrew (coreCrew core) { s.crewOf (coreCrew core) with parked := (s.crewOf (coreCrew core)).parked + MacroRun.parkLines p (s.draft c m) }
  else s

/-- What a tile stages of its tap as it parks (R244). -/
def State.parkTap (s : State) (c : Fin 4) (m : MacroRun) (p : Plan) (t core : Nat) : TileOut :=
  ((s.takesLines c m p t core).evAt c m p t (m.tileAt t)).earlyTap

theorem State.takesLines_rest (t : Nat) : ∃ k, s.takesLines c m p t core = { s with crews := k } := by
  unfold State.takesLines
  split <;> exact ⟨_, rfl⟩

/-- A tile whose lines fit the park, or for which its crew has free lines, parks and leaves its core. -/
theorem State.parkTile_parks {e : Bool} {t : Nat} (hi : (s.runAt c e i).isSome = true)
    (hroom : m.parkVolume p (s.draft c m) t ≤ s.parkSize c ∨
      (s.crewOf (coreCrew core)).parked + MacroRun.parkLines p (s.draft c m) ≤ s.parkSize c) :
    let u := s.parkTile c e i m p t core
    u.mem = s.mem ∧ (u.coreOf core).held = (s.coreOf core).held.filter (· != (c.val, e, m.id, t)) ∧
      ∃ m', u.runAt c e i = some m' ∧ (m'.tileAt t).status = .parked ∧ (m'.tileAt t).hasParked = true := by
  have hfits : (decide (m.parkVolume p (s.draft c m) t > s.parkSize c) &&
      decide ((s.crewOf (coreCrew core)).parked + MacroRun.parkLines p (s.draft c m) > s.parkSize c)) = false := by
    rw [Bool.and_eq_false_iff, decide_eq_false_iff_not, decide_eq_false_iff_not, Nat.not_lt, Nat.not_lt]
    exact hroom
  let v := s.takesLines c m p t core
  let tap := s.parkTap c m p t core
  let taps : Bool := !(m.tileAt t).tapSent && m.sends tap
  let r' : TileRun := { m.tileAt t with status := .parked, hasParked := true, started := v.spanBeat (coreSpan core)
                                        tapSent := (m.tileAt t).tapSent || taps }
  let a := (v.setRun c e i (m.setTile t r')).leaveCore core (c.val, e, m.id, t)
  have hu : s.parkTile c e i m p t core = if taps then a.sendStores c e (m.setTile t r') p t (m.tileAt t) tap.stores else a := by
    unfold State.parkTile
    simp only [hfits, Bool.false_eq_true, if_false]
    rfl
  obtain ⟨k, hk⟩ := State.takesLines_rest (s := s) (c := c) (m := m) (p := p) (core := core) t
  have hv : (v.runAt c e i).isSome = true ∧ v.mem = s.mem ∧ v.coreOf core = s.coreOf core := by
    show ((s.takesLines c m p t core).runAt c e i).isSome = true ∧ (s.takesLines c m p t core).mem = s.mem ∧
      (s.takesLines c m p t core).coreOf core = s.coreOf core
    rw [hk]
    exact ⟨hi, rfl, rfl⟩
  obtain ⟨hi', hmem, hcore⟩ := hv
  rw [hu, ← hmem, ← hcore]
  exact State.parked_spec hi' rfl rfl taps tap.stores

/-! ## The tile is handed to replay (R211, R487, R491) -/

theorem State.setRun_replays (s : State) (c : Fin 4) (e : Bool) (i : Nat) (m : MacroRun) :
    ((s.setRun c e i m).ctxOf c).replays = (s.ctxOf c).replays := by
  rw [State.setRun, State.setCtx_ctxOf_self]
  cases e <;> rfl

theorem State.setRun_coreOf (s : State) (c : Fin 4) (e : Bool) (i : Nat) (m : MacroRun) (n : Nat) :
    (s.setRun c e i m).coreOf n = s.coreOf n := rfl

theorem State.setRun_spanOf (s : State) (c : Fin 4) (e : Bool) (i : Nat) (m : MacroRun) (n : Nat) :
    (s.setRun c e i m).spanOf n = s.spanOf n := rfl

/-- A core with no failure in its history, no lane swapped and no swap that waits. -/
structure Core.Unfailed (q : Core) : Prop where
  failures : q.failures = []
  swapped : q.swapped = []
  scheduled : q.scheduled = []
  dueSwaps : q.dueSwaps = []

@[simp] theorem Span.perf_residue (x : Span) (e n : Nat) : (x.perf e n).residue = x.residue := by unfold Span.perf; split <;> rfl

/-- A core after its first failure. -/
def Core.failed (q : Core) (now : Nat) (scheduled : List Nat) : Core := { q with failures := [now], scheduled := scheduled }

theorem Core.failed_held (q : Core) (now : Nat) (l : List Nat) : (q.failed now l).held = q.held := rfl

/-- The core that a tile leaves, with no swap that waits. -/
def Core.left (q : Core) (h : Nat × Bool × Nat × Nat) : Core :=
  { q with held := q.held.filter (· != h), asking := q.asking || (q.held.filter (· != h)).isEmpty,
           first := if q.first = some h then none else q.first }

theorem State.leaveCore_of_nil (hd : (s.coreOf core).dueSwaps = []) :
    s.leaveCore core h = (s.setCore core ((s.coreOf core).left h)).busyNow (coreSpan core) := by
  refine State.swapDue_of_nil ?_
  show ((s.setCore core ((s.coreOf core).left h)).coreOf core).dueSwaps = []
  rw [State.setCore_coreOf_self]
  exact hd

/-- A first residue failure is counted and recorded (R487). -/
def State.residueFails (s : State) (c : Fin 4) (m : MacroRun) (p : Plan) (t core lane first : Nat) : State :=
  (({ s with free := s.free + 1 + 1 } : State).setSpan (coreSpan core) { s.spanOf (coreSpan core) with
    residue := satAdd (s.spanOf (coreSpan core)).residue 1 }).absorb c.val { m.cause 0x0A82 with
      coord := m.coordOf p t, core := core, lane := lane
      detail := hwDetail 0 (coreSpan core) (if first = 0xFFFF then core else first) s.takeFree.1.toNat 0 }

theorem State.checkTile_residue (s : State) (c : Fin 4) (m : MacroRun) (p : Plan) (t core lane first : Nat) (bank queue : Bool)
    (failed : State → Nat → Nat → Nat → Nat → State) :
    s.checkTile c m p t core 1 lane first bank queue failed =
      .stop ((failed (s.residueFails c m p t core lane first) lane 0 s.takeFree.1.toNat 0).attribute core lane) := rfl

section
variable (s)

theorem State.residueFails_frame (t lane first : Nat) :
    let u := s.residueFails c m p t core lane first
    u.mem = s.mem ∧ u.ctx = s.ctx ∧ u.cores = s.cores ∧ u.ring.seq = s.ring.seq + 1 ∧
      (u.spanOf (coreSpan core)).residue = satAdd (s.spanOf (coreSpan core)).residue 1 := by
  unfold State.residueFails
  refine ⟨State.absorb_mem .., State.absorb_ctx .., State.absorb_cores .., ?_, ?_⟩
  · rw [State.absorb_ring, FaultRing.push_seq]; rfl
  · rw [State.spanOf, State.absorb_spans, ← State.spanOf, State.setSpan_spanOf_self]

end

/-- A tile that has failed a check for the first time. -/
def MacroRun.failsOnce (m : MacroRun) (t : Nat) : MacroRun :=
  m.setTile t { m.tileAt t with fails := (m.tileAt t).fails + 1, firstCore := (m.tileAt t).core }

/-- A first failure of a tile that need not stay in its crew hands it to replay. -/
theorem State.failTile_first {e : Bool} {t : Nat} (lane unit syndrome address : Nat) (hf : (m.tileAt t).fails = 0) (hv : m.isVec 0x0C = false)
    (hb : m.crewBound p = false) :
    s.failTile c e i m p t lane unit syndrome address = (s.setRun c e i (m.failsOnce t)).handBack c e i (m.failsOnce t) t true := by
  have hbound : (m.failsOnce t).crewBound p = false := hb
  have hmany : decide ((m.tileAt t).fails ≥ 1) = false := by rw [hf]; rfl
  have hfirst : (if (m.tileAt t).fails = 0 then (m.tileAt t).core else (m.tileAt t).firstCore) = (m.tileAt t).core := if_pos hf
  have hseg : decide (BitVec.toNat (0 : Word) % MacroRun.sortSegments p ≠ 0) = false := by simp
  unfold State.failTile
  simp only [hv, Bool.false_and, Bool.false_eq_true, if_false, hfirst, hseg, Bool.or_false]
  refine if_neg ?_
  show ¬((decide ((m.tileAt t).fails ≥ 1) || (m.failsOnce t).crewBound p && _) = true)
  rw [hmany, hbound]
  exact Bool.false_ne_true

/-- A tile waits to be dealt again, with none of its results (R211). -/
def MacroRun.waitsAgain (m : MacroRun) (t : Nat) (counts : Bool) : MacroRun :=
  { m with tiles := m.tiles.set t { m.tileAt t with
             status := if (m.tileAt t).hasParked then .parked else .undealt, out := none, reads := 0, begun := false, todo := []
             attempt := (m.tileAt t).attempt + 1
             seen := if (m.tileAt t).hasParked || (m.tileAt t).checkpoint then (m.tileAt t).seen else none }
           replay := m.replay ++ [t], replayed := m.replayed || counts }

/-- A tile handed to replay leaves its core, and waits to be dealt again. -/
theorem State.handBack_spec {e : Bool} {t : Nat} (hi : (s.runAt c e i).isSome = true) (hc : (m.tileAt t).core = core)
    (hp : (m.tileAt t).hasParked = false) (hd : (s.coreOf core).dueSwaps = []) :
    let u := s.handBack c e i m t true
    u.mem = s.mem ∧ u.ring = s.ring ∧ u.coreOf core = (s.coreOf core).left (c.val, e, m.id, t) ∧
      (u.spanOf (coreSpan core)).residue = (s.spanOf (coreSpan core)).residue ∧
      (u.ctxOf c).halt = (s.ctxOf c).halt ∧ (u.ctxOf c).replays = satAdd (s.ctxOf c).replays 1 ∧
      ∃ m', u.runAt c e i = some m' ∧ (m'.tileAt t).status = .undealt ∧ (m'.tileAt t).fails = (m.tileAt t).fails ∧
        (m'.tileAt t).attempt = (m.tileAt t).attempt + 1 ∧ t ∈ m'.replay := by
  intro u
  subst hc
  let core := (m.tileAt t).core
  let a := ((s.setRun c e i (m.waitsAgain t true)).setCore core ((s.coreOf core).left (c.val, e, m.id, t))).busyNow (coreSpan core)
  let d := a.setCtx c { a.ctxOf c with crossSince := some a.time.beat }
  have ha : (s.setRun c e i (m.waitsAgain t true)).leaveCore core (c.val, e, m.id, t) = a := State.leaveCore_of_nil hd
  have hu : u = (d.setCtx c { d.ctxOf c with replays := satAdd (d.ctxOf c).replays 1 }).setSpan (coreSpan core)
      { (d.spanOf (coreSpan core)).perf 0x0C 1 with replays := (d.spanOf (coreSpan core)).replays + 1 } := by
    show s.handBack c e i m t true = _
    simp only [d, ← ha]
    rfl
  have hd' : d.ctxOf c = { (s.ctxOf c).setRun e i (m.waitsAgain t true) with crossSince := some s.time.beat } := by
    have hac : a.ctxOf c = (s.ctxOf c).setRun e i (m.waitsAgain t true) := State.setCtx_ctxOf_self ..
    rw [show d.ctxOf c = _ from State.setCtx_ctxOf_self .., hac]; rfl
  have huc : u.ctxOf c = { d.ctxOf c with replays := satAdd (d.ctxOf c).replays 1 } := by
    rw [hu]
    exact State.setCtx_ctxOf_self ..
  refine ⟨by rw [hu]; rfl, by rw [hu]; rfl, ?core, ?residue, ?halt, ?replays, m.waitsAgain t true, ?run, ?tile⟩
  case core =>
    rw [hu]
    exact State.setCore_coreOf_self ..
  case residue =>
    have hsp : d.spanOf (coreSpan core) = { s.spanOf (coreSpan core) with
        busyUntil := max (s.spanOf (coreSpan core)).busyUntil (s.spanBeat (coreSpan core)) } := State.setSpan_spanOf_self ..
    rw [hu, State.setSpan_spanOf_self]
    show ((d.spanOf (coreSpan core)).perf 0x0C 1).residue = _
    rw [Span.perf_residue, hsp]
  case halt =>
    rw [huc, hd']
    cases e <;> rfl
  case replays =>
    rw [huc, hd']
    cases e <;> rfl
  case run =>
    have hs : (u.ctxOf c).stream e = ((s.ctxOf c).setRun e i (m.waitsAgain t true)).stream e := by
      rw [huc, hd']
      cases e <;> rfl
    have hr := State.setRun_runAt s (m.waitsAgain t true) hi
    rw [State.runAt, State.setRun, State.setCtx_ctxOf_self] at hr
    rw [State.runAt, hs, hr]
  case tile =>
    have ht : (m.waitsAgain t true).tileAt t = { m.tileAt t with
        status := if (m.tileAt t).hasParked then .parked else .undealt, out := none, reads := 0, begun := false, todo := []
        attempt := (m.tileAt t).attempt + 1
        seen := if (m.tileAt t).hasParked || (m.tileAt t).checkpoint then (m.tileAt t).seen else none } := Table.get_set_self ..
    rw [ht, hp]
    exact ⟨rfl, rfl, rfl, List.mem_append_right _ List.mem_cons_self⟩

/-- What a first failure leaves: the tile is undealt and stands in the dealing order, off its core. -/
structure State.HandedBack (s u : State) (c : Fin 4) (e : Bool) (i : Nat) (m : MacroRun) (t core : Nat) : Prop where
  mem : u.mem = s.mem
  ring : u.ring = s.ring
  left : u.coreOf core = (s.coreOf core).left (c.val, e, m.id, t)
  residue : (u.spanOf (coreSpan core)).residue = (s.spanOf (coreSpan core)).residue
  halt : (u.ctxOf c).halt = (s.ctxOf c).halt
  replays : (u.ctxOf c).replays = satAdd (s.ctxOf c).replays 1
  run : ∃ m', u.runAt c e i = some m' ∧ (m'.tileAt t).status = .undealt ∧ (m'.tileAt t).fails = (m.tileAt t).fails + 1 ∧
    (m'.tileAt t).attempt = (m.tileAt t).attempt + 1 ∧ t ∈ m'.replay

theorem State.failTile_handedBack {e : Bool} {t : Nat} (lane unit syndrome address : Nat) (hi : (s.runAt c e i).isSome = true)
    (hc : (m.tileAt t).core = core) (hf : (m.tileAt t).fails = 0) (hp : (m.tileAt t).hasParked = false) (hv : m.isVec 0x0C = false)
    (hb : m.crewBound p = false) (hd : (s.coreOf core).dueSwaps = []) :
    s.HandedBack (s.failTile c e i m p t lane unit syndrome address) c e i m t core := by
  have htile : (m.failsOnce t).tileAt t = { m.tileAt t with fails := (m.tileAt t).fails + 1, firstCore := (m.tileAt t).core } :=
    MacroRun.tileAt_setTile ..
  rw [State.failTile_first lane unit syndrome address hf hv hb]
  obtain ⟨hmem, hring, hcore, hres, hhalt, hreplays, m', hm', hstatus, hfails, hattempt, hreplay⟩ :=
    State.handBack_spec (s := s.setRun c e i (m.failsOnce t)) (c := c) (e := e) (i := i) (m := m.failsOnce t) (core := core) (t := t)
      (by rw [State.setRun_runAt s _ hi]; rfl) (by rw [htile]; exact hc) (by rw [htile]; exact hp) (by rw [State.setRun_coreOf]; exact hd)
  rw [htile] at hfails hattempt
  rw [State.setRun_mem] at hmem
  rw [State.setRun_ring] at hring
  rw [State.setRun_coreOf] at hcore
  rw [State.setRun_spanOf] at hres
  rw [State.setRun_halt] at hhalt
  rw [State.setRun_replays] at hreplays
  exact ⟨hmem, hring, hcore, hres, hhalt, hreplays, m', hm', hstatus, hfails, hattempt, hreplay⟩

section
variable (s)

/-- A core with no failure in the last second, and no lane swapped, is not fenced by one failure. -/
theorem State.attribute_first (lane : Nat) (h : (s.coreOf core).Unfailed) :
    ∃ l, s.attribute core lane = s.setCore core ((s.coreOf core).failed s.now l) := by
  obtain ⟨hf, hs, hd, hw⟩ := h
  refine ⟨if lane = 0xFF then [] else [lane], ?_⟩
  unfold State.attribute
  simp [hf, hs, hd, hw, Core.failed]

end

/-- The attribution of a first failure changes nothing but the failures and the swaps of the core. -/
theorem State.HandedBack.attributed {u : State} {e : Bool} {t : Nat} (h : s.HandedBack u c e i m t core) (lane : Nat)
    (hq : (s.coreOf core).Unfailed) :
    ∃ v, u.attribute core lane = v ∧ v.mem = s.mem ∧ v.ring = s.ring ∧
      (v.coreOf core).held = ((s.coreOf core).left (c.val, e, m.id, t)).held ∧
      (v.spanOf (coreSpan core)).residue = (s.spanOf (coreSpan core)).residue ∧ v.ctx = u.ctx := by
  have hu : (u.coreOf core).Unfailed := by
    rw [h.left]
    exact ⟨hq.failures, hq.swapped, hq.scheduled, hq.dueSwaps⟩
  obtain ⟨l, hl⟩ := u.attribute_first (core := core) lane hu
  refine ⟨_, hl, ?_⟩
  rw [State.setCore_mem, State.setCore_ring, State.setCore_coreOf_self, Core.failed_held, State.setCore_spanOf, h.mem, h.ring, h.left,
    h.residue]
  exact ⟨rfl, rfl, rfl, rfl, rfl⟩

namespace State.TileDue

/-- The state after the record of a residue failure. -/
def recorded (s : State) (core : Nat) (h : Nat × Bool × Nat × Nat) (c : Fin 4) (i : Nat) (m : MacroRun) (p : Plan) (r : TileRun) (lane : Nat) :
    State := (taken s core h c i m p r 1).residueFails c m p h.2.2.2 core lane r.firstCore

theorem recorded_spec (d : s.TileDue core h c i m p r) (lane : Nat) (hb : p.meBound = false) (hv : m.isVec 0x05 = false) :
    ∃ w, recorded s core h c i m p r lane = w ∧ w.mem = s.mem ∧ w.ring.seq = s.ring.seq + 1 ∧
      w.coreOf core = { s.coreOf core with first := none } ∧
      (w.spanOf (coreSpan core)).residue = satAdd (s.spanOf (coreSpan core)).residue 1 ∧
      (w.ctxOf c).halt = none ∧ (w.ctxOf c).replays = (s.ctxOf c).replays ∧ w.runAt c h.2.1 i = some m := by
  have hm : (m.takesCarry h.2.2.2 r).takesCopy p h.2.2.2 1 = m := by rw [MacroRun.takesCarry_other hv, MacroRun.takesCopy_unbound hb]
  let u := taken s core h c i m p r 1
  obtain ⟨hmem, hctx, hcores, hseq, hres⟩ :=
    State.residueFails_frame u (c := c) (m := m) (p := p) (core := core) h.2.2.2 lane r.firstCore
  have hring : u.ring = s.ring := rfl
  have hspan : u.spanOf (coreSpan core) = s.spanOf (coreSpan core) := rfl
  have hcore : u.coreOf core = { s.coreOf core with first := none } := State.setCore_coreOf_self ..
  have hx : (recorded s core h c i m p r lane).ctxOf c = u.ctxOf c := by rw [State.ctxOf, recorded, hctx, State.ctxOf]
  have hw : (recorded s core h c i m p r lane).coreOf core = u.coreOf core := by rw [State.coreOf, recorded, hcores, State.coreOf]
  rw [hring] at hseq
  rw [hspan] at hres
  refine ⟨_, rfl, ?_⟩
  rw [hx, hw]
  refine ⟨hmem, hseq, hcore, hres, ?_, State.setRun_replays .., ?_⟩
  · exact (State.setRun_halt ..).trans ((State.runs_iff s c).1 d.runs).2
  · rw [recorded, State.runAt_congr hctx, d.taken_runAt 1, hm]

/-- What a first residue failure does. -/
theorem executeTile_residue (d : s.TileDue core h c i m p r) (lane : Nat) (hb : p.meBound = false) (hv : m.isVec 0x05 = false) :
    ∃ syn, s.executeTile core 1 lane =
      ((recorded s core h c i m p r lane).failTile c h.2.1 i m p h.2.2.2 lane 0 syn 0).attribute core lane := by
  have hm : (m.takesCarry h.2.2.2 r).takesCopy p h.2.2.2 1 = m := by rw [MacroRun.takesCarry_other hv, MacroRun.takesCopy_unbound hb]
  refine ⟨(taken s core h c i m p r 1).takeFree.1.toNat, ?_⟩
  rw [d.executeTile 1 lane, hm, checked_unbound 1 hb, State.checkTile_residue]
  rfl

/-- A tile that fails a residue check for the first time is recorded, leaves its core and waits to be dealt again. -/
theorem replays (d : s.TileDue core h c i m p r) (h4 : h.1 < 4) (lane : Nat) (hcore : r.core = core) (hfails : r.fails = 0)
    (hparked : r.hasParked = false) (hb : p.meBound = false) (hv : m.isVec 0x05 = false) (hsort : m.isVec 0x0C = false)
    (hbound : m.crewBound p = false) (hq : (s.coreOf core).Unfailed) :
    ∃ t m', s.executeTile core 1 lane = t ∧ t.mem = s.mem ∧ t.runAt c h.2.1 i = some m' ∧ (m'.tileAt h.2.2.2).status = .undealt ∧
      (m'.tileAt h.2.2.2).fails = 1 ∧ h.2.2.2 ∈ m'.replay ∧ (m'.tileAt h.2.2.2).attempt = r.attempt + 1 ∧
      (t.coreOf core).held = [] ∧ (t.spanOf (coreSpan core)).residue = satAdd (s.spanOf (coreSpan core)).residue 1 ∧
      t.ring.seq = s.ring.seq + 1 ∧ (t.ctxOf c).halt = none ∧ (t.ctxOf c).replays = satAdd (s.ctxOf c).replays 1 := by
  have hat := (State.heldTile_some d.tile).2
  obtain ⟨hkey, -, -⟩ := State.heldTile_key h4 d.tile
  obtain ⟨w, hw, hmem, hseq, hwcore, hres, hhalt, hreplays, hrun⟩ := d.recorded_spec lane hb hv
  obtain ⟨syn, hexec⟩ := d.executeTile_residue lane hb hv
  rw [hw] at hexec
  have hback : w.HandedBack (w.failTile c h.2.1 i m p h.2.2.2 lane 0 syn 0) c h.2.1 i m h.2.2.2 core :=
    State.failTile_handedBack lane 0 syn 0 (by rw [hrun]; rfl) (by rw [← hat, hcore]) (by rw [← hat, hfails]) (by rw [← hat, hparked]) hsort
      hbound (by rw [hwcore]; exact hq.dueSwaps)
  generalize w.failTile c h.2.1 i m p h.2.2.2 lane 0 syn 0 = v at hexec hback
  obtain ⟨x, hx, hxmem, hxring, hxheld, hxres, hxctx⟩ := hback.attributed lane (by
    rw [hwcore]; exact ⟨hq.failures, hq.swapped, hq.scheduled, hq.dueSwaps⟩)
  obtain ⟨m', hm', hstatus, hfails', hattempt, hreplay⟩ := hback.run
  have hxc : x.ctxOf c = v.ctxOf c := by rw [State.ctxOf, hxctx, State.ctxOf]
  have hheld : ((w.coreOf core).left (c.val, h.2.1, m.id, h.2.2.2)).held = [] := by
    rw [hkey, hwcore]
    show (s.coreOf core).held.filter (· != h) = []
    rw [d.held]
    simp
  rw [← hat] at hfails' hattempt
  rw [hfails] at hfails'
  refine ⟨_, m', hexec.trans hx, hxmem.trans hmem, (State.runAt_congr hxctx ..).trans hm', hstatus, hfails', hreplay, hattempt,
    hxheld.trans hheld, hxres.trans hres, by rw [hxring, hseq], ?_, ?_⟩
  · rw [hxc, hback.halt, hhalt]
  · rw [hxc, hback.replays, hreplays]

end State.TileDue

end

/-- Settles O20: where the checks pass, the rows decide between the start and the park; a first residue failure hands the tile back. -/
theorem executeStartsOrReplays : Obligations.ExecuteStartsOrReplays := by
  refine ⟨?starts, ?parks, ?replays⟩
  case starts =>
    intro core lane s h c i m p r hcorr hchain hheld hfirst htile hr hw hh hsort hat hprod hcarry hclosed
    have due : s.TileDue core.val h c i m p r := ⟨hcorr, hchain, hheld, hfirst, htile, hr, hw, hh, hprod, hcarry⟩
    have hexec : exec (.tileExecute core 0 lane) s = _ := congrArg Host.Outcome.next (due.exec_passes lane.toNat)
    let u := State.TileDue.checked s core.val h c i m p r 0
    have hf : (State.TileDue.taken s core.val h c i m p r 0).BanksFrame u c := State.TileDue.checked_frame 0
    have hbeat : u.spanBeat (coreSpan core.val) = s.spanBeat (core.val / 128) := by
      rw [State.spanBeat, State.spanOf, hf.spans, hf.time]; rfl
    have hrun : u.runAt c h.2.1 i = some ((m.takesCarry h.2.2.2 r).takesCopy p h.2.2.2 0) := (hf.runAt ..).trans (due.taken_runAt 0)
    obtain ⟨l, d, hm'⟩ := State.TileDue.ready_rest (m := m) (p := p) (r := r) h.2.2.2 0
    obtain ⟨⟨w, hw'⟩, hmem, hadmin, hrest⟩ := State.beginTile_starts (s := u) (core := core.val) (c := c)
      (i := i) (m := (m.takesCarry h.2.2.2 r).takesCopy p h.2.2.2 0) (p := p) (e := h.2.1) (t := h.2.2.2) (by rw [hrun]; rfl)
      (by rw [hm']; exact hclosed) (by rw [hm']; exact hsort)
    rw [hbeat, MacroRun.tileAt_ready hat hcarry] at hw' hrest
    refine ⟨_, _, hexec, hmem.trans hf.mem, hw', ?_⟩
    rw [MacroRun.tileAt_setTile]
    refine ⟨rfl, rfl, rfl, fun hv => ?carry, ?same, hadmin.trans hf.admin, fun hs => ?rest⟩
    case carry => exact if_pos hv
    case same =>
      by_cases hs : m.slot = 5 ∧ m.target = 1
      · exact .inl hs
      cases hv : m.isVec 0x05 with
      | true => exact .inr (.inl rfl)
      | false =>
        cases hb : p.meBound with
        | true => exact .inr (.inr (.inl rfl))
        | false =>
          refine .inr (.inr (.inr ?_))
          have hm : (m.takesCarry h.2.2.2 r).takesCopy p h.2.2.2 0 = m := by
            rw [MacroRun.takesCarry_other hv, MacroRun.takesCopy_unbound hb]
          rw [hm] at hrest hw' ⊢
          rw [← Option.some.inj ((hrest hs).1.symm.trans hw'), MacroRun.readyTile_same _ hv hb]
    case rest =>
      obtain ⟨-, hothers, hother, hcrews⟩ := hrest (by rw [hm']; exact hs)
      refine ⟨fun d hd => (hothers d hd).trans ((hf.others d hd).trans ?_), hother.trans ?_, fun hb => hcrews.trans ?_⟩
      · exact State.setCtx_ctxOf_ne _ _ hd
      · funext j
        rw [hf.runAt]
        exact State.setRun_runAt_other _ _ j
      · show u.crews = s.crews
        rw [show u = _ from State.TileDue.checked_unbound 0 hb]; rfl
  case parks =>
    intro core lane s h c i m p r hcorr hchain hheld hfirst h4 htile hr hw hh hprod hv hhold hopen hroom
    have due : s.TileDue core.val h c i m p r :=
      ⟨hcorr, hchain, hheld, hfirst, htile, hr, hw, hh, hprod, fun hc => Bool.noConfusion (hv.symm.trans hc)⟩
    have hexec : exec (.tileExecute core 0 lane) s = _ := congrArg Host.Outcome.next (due.exec_passes lane.toNat)
    let u := State.TileDue.checked s core.val h c i m p r 0
    have hf : (State.TileDue.taken s core.val h c i m p r 0).BanksFrame u c := State.TileDue.checked_frame 0
    have hview : s.SameView u c := (State.TileDue.taken_view 0).trans hf.sameView
    have hrun : u.runAt c h.2.1 i = some ((m.takesCarry h.2.2.2 r).takesCopy p h.2.2.2 0) := (hf.runAt ..).trans (due.taken_runAt 0)
    have hcore : (u.coreOf core.val).held = [h] := by
      rw [State.coreOf, hf.cores]
      exact (State.TileDue.taken_held 0).trans hheld
    obtain ⟨hkey, -, -⟩ := State.heldTile_key h4 htile
    obtain ⟨l, d, hm'⟩ := State.TileDue.ready_rest (m := m) (p := p) (r := r) h.2.2.2 0
    have hparks : u.beginTile c h.2.1 i ((m.takesCarry h.2.2.2 r).takesCopy p h.2.2.2 0) p h.2.2.2 core.val =
        u.parkTile c h.2.1 i ((m.takesCarry h.2.2.2 r).takesCopy p h.2.2.2 0) p h.2.2.2 core.val := by
      refine State.beginTile_parks hhold ?_
      rw [hm']; exact hopen
    rw [hparks, hm'] at hexec
    rw [hm'] at hrun
    obtain ⟨hmem, hheld', m', hm'', hstatus, hparked⟩ := State.parkTile_parks (s := u) (core := core.val) (c := c) (i := i)
      (m := { m with tiles := l, carries := d }) (p := p) (e := h.2.1) (t := h.2.2.2) (by rw [hrun]; rfl) (by
        rw [hview.draft, hview.parkSize, hf.parked]; exact hroom)
    refine ⟨_, m', hexec, hmem.trans hf.mem, hm'', hstatus, hparked, hheld'.trans ?_⟩
    rw [hcore]
    have hk : (c.val, h.2.1, ({ m with tiles := l, carries := d } : MacroRun).id, h.2.2.2) = h := hkey
    rw [hk]
    simp
  case replays =>
    intro core lane s h c i m p r hcorr hchain hheld hfirst h4 htile hr hw hh hcore hfails hparked hb hv hsort hbound hfail hswap hsched hdue
    have due : s.TileDue core.val h c i m p r := ⟨hcorr, hchain, hheld, hfirst, htile, hr, hw, hh,
      fun hc => Bool.noConfusion (hb.symm.trans hc), fun hc => Bool.noConfusion (hv.symm.trans hc)⟩
    obtain ⟨t, m', hexec, hrest⟩ :=
      due.replays h4 lane.toNat hcore hfails hparked hb hv hsort hbound ⟨hfail, hswap, hsched, hdue⟩
    exact ⟨t, m', congrArg Host.Outcome.next hexec, hrest⟩

end Sys2Proof.Machine

/-! PROOFS of the statements of 07_tile_walker.md: a tile commits, or stores nothing (O21). -/

namespace Sys2Proof.Machine

/-! ## Stores of the shared cache (R112, R210) -/

/-- A store to the shared cache; any other leaves its bytes alone. -/
def Store.onto (mem : Memory) : Store → Memory
  | .mem at_ w v => Memory.writeBits at_ w v mem
  | _ => mem

theorem Store.wf_onto {mem : Memory} (st : Store) (h : mem.wf = true) : (Store.onto mem st).wf = true := by
  cases st with
  | mem at_ w v => exact Memory.wf_writeBits at_ w v h
  | oc k line word v => exact h
  | desc n v => exact h

/-- A byte that a store does not touch. -/
def Store.Misses (st : Store) (a : Nat) : Prop :=
  ∀ at_ w v, st = .mem at_ w v → 8 * a + 8 ≤ at_ / 8 * 8 ∨ at_ / 8 * 8 + (at_ % 8 + w + 7) / 8 * 8 ≤ 8 * a

theorem Store.read_onto {mem : Memory} {st : Store} {a : Nat} (h : mem.wf = true) (hm : st.Misses a) : (Store.onto mem st).read a = mem.read a := by
  cases st with
  | mem at_ w v =>
    refine Memory.read_writeBytes_outside _ _ _ h ?_
    rw [List.length_map, List.length_range]
    rcases hm at_ w v rfl with hm | hm
    · left; omega
    · right; omega
  | oc k line word v => rfl
  | desc n v => rfl

/-- Bytes that no store of a list touches read as before. -/
theorem Store.read_foldl_onto {l : List Store} {mem : Memory} {a : Nat} (h : mem.wf = true) (hm : ∀ st ∈ l, st.Misses a) :
    (l.foldl Store.onto mem).read a = mem.read a := by
  induction l generalizing mem with
  | nil => rfl
  | cons st l ih =>
    rw [List.foldl_cons, ih (Store.wf_onto st h) fun x hx => hm x (List.mem_cons_of_mem _ hx), Store.read_onto h (hm st List.mem_cons_self)]

/-! ## What a commit changes -/

/-- `t` differs from `s` at most in the cache, in contexts, whose streams hold as many macros in flight as before, in crews, spans and
histograms. -/
structure State.AppliesFrame (s t : State) : Prop where
  rest : t = { s with mem := t.mem, ctx := t.ctx, crews := t.crews, spans := t.spans, hists := t.hists }
  flight : ∀ c e, ((t.ctxOf c).stream e).inflight.length = ((s.ctxOf c).stream e).inflight.length

namespace State.AppliesFrame

variable {s t u : State}

theorem refl (s : State) : s.AppliesFrame s := ⟨rfl, fun _ _ => rfl⟩

theorem trans (h : s.AppliesFrame t) (k : t.AppliesFrame u) : s.AppliesFrame u :=
  ⟨by rw [k.rest, h.rest], fun c e => (k.flight c e).trans (h.flight c e)⟩

theorem foldl {α : Type} {f : State → α → State} (h : ∀ (s : State) a, s.AppliesFrame (f s a)) (l : List α) (s : State) :
    s.AppliesFrame (l.foldl f s) :=
  List.foldlRecOn (motive := fun t => s.AppliesFrame t) l f (.refl s) fun t ht a _ => ht.trans (h t a)

theorem setCtx (s : State) {c : Fin 4} {x : Ctx} (h : ∀ e, x.stream e = (s.ctxOf c).stream e) : s.AppliesFrame (s.setCtx c x) := by
  refine ⟨rfl, fun d e => ?_⟩
  by_cases hd : d = c
  · rw [hd, State.setCtx_ctxOf_self, h]
  · rw [State.setCtx_ctxOf_ne _ _ hd]

theorem setCrew (s : State) (n : Nat) (k : Crew) : s.AppliesFrame (s.setCrew n k) := ⟨rfl, fun _ _ => rfl⟩

theorem ofLines (h : s.LinesFrame t) : s.AppliesFrame t := ⟨by rw [h.rest], h.flight⟩

theorem cores (h : s.AppliesFrame t) : t.cores = s.cores := by rw [h.rest]

theorem runAt_isSome (h : s.AppliesFrame t) {c : Fin 4} {e : Bool} {i : Nat} (hi : (s.runAt c e i).isSome = true) :
    (t.runAt c e i).isSome = true := by
  simpa [State.runAt, h.flight c e] using hi

end State.AppliesFrame

theorem Ctx.enterRings_stream (x : Ctx) (coord : List Nat) (ring : Nat) (rings : List (Nat × RingTile)) (e : Bool) :
    (x.enterRings coord ring rings).stream e = x.stream e :=
  List.foldlRecOn (motive := fun y : Ctx => y.stream e = x.stream e) _ _ rfl fun _ hy _ _ => hy

theorem Ctx.dropSlots_stream (x : Ctx) (m : MacroRun) (coord : List Nat) (ring : Nat) (rings : List (Nat × RingTile)) (e : Bool) :
    (x.dropSlots m coord ring rings).stream e = x.stream e :=
  List.foldlRecOn (motive := fun y : Ctx => y.stream e = x.stream e) _ _ rfl fun _ hy _ _ => by
    split
    · exact hy
    · exact hy

section
variable {s : State} {core : Nat} {c : Fin 4} {i : Nat} {m : MacroRun} {p : Plan} {t : Nat} {o : TileOut}

theorem State.applyStore_frame (s : State) (crew : Nat) (st : Store) : s.AppliesFrame (s.applyStore crew st) := by
  cases st <;> exact ⟨rfl, fun _ _ => rfl⟩

theorem State.applyStore_mem (s : State) (crew : Nat) (st : Store) : (s.applyStore crew st).mem = Store.onto s.mem st := by
  cases st <;> rfl

theorem State.applyStores_mem (s : State) (crew : Nat) (l : List Store) :
    (l.foldl (fun s st => s.applyStore crew st) s).mem = l.foldl Store.onto s.mem := by
  induction l generalizing s with
  | nil => rfl
  | cons st l ih => rw [List.foldl_cons, List.foldl_cons, ih, State.applyStore_mem]

theorem State.stampLines_frame (s : State) (l : List Store) : s.AppliesFrame (s.stampLines l) :=
  .foldl (fun t st => by
    cases st with
    | oc k line word v => exact .setCrew ..
    | mem at_ w v => exact .refl _
    | desc n v => exact .refl _) _ _

theorem State.stampLines_mem (s : State) (l : List Store) : (s.stampLines l).mem = s.mem :=
  List.foldlRecOn (motive := fun t : State => t.mem = s.mem) _ _ rfl fun t ht st _ => by
    cases st <;> exact ht

/-- A commit makes the staged stores visible, and touches no core. -/
theorem State.applyTile_frame : s.AppliesFrame (s.applyTile c m p t core o) ∧
    (s.applyTile c m p t core o).mem = o.stores.foldl Store.onto s.mem := by
  let s₀ := if m.slot = 4 && m.target = 1 then s.settleLines c 0 else s
  let s₁ := o.stores.foldl (fun s st => s.applyStore (coreCrew core) st) s₀
  let s₂ := if m.slot = 4 then s₁.stampLines o.stores else s₁
  have h₀ : s.AppliesFrame s₀ ∧ s₀.mem = s.mem := by
    unfold s₀
    split
    · exact ⟨.ofLines (s.settleLines_lines c 0), (s.settleLines_lines c 0).mem⟩
    · exact ⟨.refl s, rfl⟩
  have h₁ : s₀.AppliesFrame s₁ ∧ s₁.mem = o.stores.foldl Store.onto s₀.mem :=
    ⟨.foldl (fun s st => s.applyStore_frame _ st) _ _, State.applyStores_mem ..⟩
  have h₂ : s₁.AppliesFrame s₂ ∧ s₂.mem = s₁.mem := by
    unfold s₂
    split
    · exact ⟨State.stampLines_frame .., State.stampLines_mem ..⟩
    · exact ⟨.refl _, rfl⟩
  have h₃ : s₂.AppliesFrame (s.applyTile c m p t core o) ∧ (s.applyTile c m p t core o).mem = s₂.mem := by
    refine ⟨State.AppliesFrame.trans (t := s₂.countHist c o.hist) ⟨rfl, fun _ _ => rfl⟩
      (.trans (.setCtx _ fun e => ?_) ⟨rfl, fun _ _ => rfl⟩), rfl⟩
    exact (Ctx.dropSlots_stream ..).trans (Ctx.enterRings_stream ..)
  exact ⟨((h₀.1.trans h₁.1).trans h₂.1).trans h₃.1, by rw [h₃.2, h₂.2, h₁.2, h₀.2]⟩

/-! ## A tile that leaves (R206, R212, R344) -/

theorem Ctx.loadDescs_stream (x : Ctx) (beat : Nat) (l : List Store) (e : Bool) : (x.loadDescs beat l).stream e = x.stream e := by
  unfold Ctx.loadDescs Ctx.changeDescs
  split <;> rfl

/-- The end of an LD into the descriptor store writes descriptors and the macro's counts. -/
theorem State.endLoad_spec {e : Bool} (hi : s.runAt c e i = some m) :
    (s.endLoad c e i m p).mem = s.mem ∧ (s.endLoad c e i m p).cores = s.cores ∧
      ∃ k, (s.endLoad c e i m p).runAt c e i = some { m with counts := k } := by
  unfold State.endLoad
  split
  · refine ⟨rfl, rfl, _, State.setRun_runAt _ _ ?_⟩
    rw [State.setCtx_runAt (Ctx.loadDescs_stream ..), hi]
    rfl
  · exact ⟨rfl, rfl, m.counts, hi⟩

/-- A macro's tile leaves its core, and gives back the banks that it was the last to read. -/
theorem State.tileLeaves_spec {e : Bool} (h : Nat × Bool × Nat × Nat) (hi : s.runAt c e i = some m) :
    let u := ((s.leaveCore core h).releaseBanks c m p t).endLoad c e i m p
    u.mem = s.mem ∧ (u.coreOf core).held = (s.coreOf core).held.filter (· != h) ∧ ∃ k, u.runAt c e i = some { m with counts := k } := by
  obtain ⟨hl, hheld⟩ := s.leaveCore_frame core h
  have hb := State.BanksFrame.releaseBanks (s.leaveCore core h) c m p t
  obtain ⟨hmem, hcores, k, hk⟩ := State.endLoad_spec (p := p) ((hb.runAt e i).trans ((hl.runAt c e i).trans hi))
  refine ⟨hmem.trans (hb.mem.trans hl.mem), ?_, k, hk⟩
  rw [State.coreOf, hcores, hb.cores]
  exact hheld

/-- A macro one of whose tiles has committed or has been dropped. -/
def MacroRun.tileEnds (m : MacroRun) (t : Nat) (o : TileOut) (dropped : Bool) : MacroRun :=
  { m.setTile t { m.tileAt t with status := if dropped then .dropped else .committed, out := none } with
    counts := m.counts.addCounts m.tapStage (if dropped then { o with stores := [] } else o), trapped := m.trapped || dropped }

/-- A finished tile has its last status, and a dropped one marks its macro as trapped (R413). -/
theorem State.finishTile_spec {e : Bool} (dropped : Bool) (hi : (s.runAt c e i).isSome = true) :
    let u := s.finishTile c e i m p t core o dropped
    u.mem = s.mem ∧ (u.coreOf core).held = (s.coreOf core).held.filter (· != (c.val, e, m.id, t)) ∧
      ∃ m', u.runAt c e i = some m' ∧ (m'.tileAt t).status = (if dropped then .dropped else .committed) ∧
        m'.trapped = (m.trapped || dropped) := by
  have hleaves : ∀ v : State, v.mem = s.mem → v.cores = s.cores → v.runAt c e i = some (m.tileEnds t o dropped) →
      let u := ((v.leaveCore core (c.val, e, m.id, t)).releaseBanks c (m.tileEnds t o dropped) p t).endLoad c e i (m.tileEnds t o dropped) p
      u.mem = s.mem ∧ (u.coreOf core).held = (s.coreOf core).held.filter (· != (c.val, e, m.id, t)) ∧
        ∃ m', u.runAt c e i = some m' ∧ (m'.tileAt t).status = (if dropped then .dropped else .committed) ∧
          m'.trapped = (m.trapped || dropped) := by
    intro v hmem hcores hrun
    obtain ⟨hm, hh, k, hk⟩ := State.tileLeaves_spec (core := core) (p := p) (t := t) (c.val, e, m.id, t) hrun
    refine ⟨hm.trans hmem, hh.trans ?_, _, hk, ?_, rfl⟩
    · rw [State.coreOf, hcores, State.coreOf]
    · have hat : (m.tileEnds t o dropped).tileAt t = { m.tileAt t with status := if dropped then .dropped else .committed, out := none } :=
        Table.get_set_self ..
      exact congrArg TileRun.status hat
  refine hleaves _ ?mem ?cores ?run
  case mem => cases p.hold <;> rfl
  case cores => cases p.hold <;> rfl
  case run =>
    have hset (x : Ctx) (hx : x.stream e = (s.ctxOf c).stream e) :
        ((s.setCtx c x).setRun c e i (m.tileEnds t o dropped)).runAt c e i = some (m.tileEnds t o dropped) :=
      State.setRun_runAt _ _ (by rw [State.setCtx_runAt hx]; exact hi)
    cases p.hold with
    | true => exact hset _ rfl
    | false => exact hset _ rfl

/-! ## TILE_COMMIT (R210, R413) -/

/-- The writes of a tile of a core that wait for credits. -/
def State.lateBlocks (s : State) (core : Nat) (c : Fin 4) (e : Bool) (id t : Nat) : List Nat :=
  ((s.spanOf (coreSpan core)).writes.filter (fun w => w.isOf c e id t && !w.sent)).map PierWrite.block

/-- What a commit stores late lies outside its window (R106). -/
def State.lateFail (s : State) (core : Nat) (c : Fin 4) (e : Bool) (m : MacroRun) (t : Nat) (o : TileOut) : Option Fail :=
  s.storeDomainFail c (s.draft c m) (o.stores.filter (fun st => (storeBlocks [st]).any (s.lateBlocks core c e m.id t).contains))

/-- The one tile of a core has staged its outputs, and its carry has been passed on. -/
structure State.CommitDue (s : State) (core : Nat) (h : Nat × Bool × Nat × Nat) (c : Fin 4) (i : Nat) (m : MacroRun) (p : Plan) (r : TileRun)
    (o : TileOut) : Prop where
  held : (s.coreOf core).held = [h]
  ctx : h.1 < 4
  tile : s.heldTile h = some (c, i, m, p, r)
  live : (s.adminOf c).state = .live
  out : r.out = some o
  passed : s.passCarry c i m p h.2.2.2 = s

namespace State.CommitDue

variable {h : Nat × Bool × Nat × Nat} {r : TileRun}

/-- What TILE_COMMIT does with such a tile. -/
theorem commitTile (d : s.CommitDue core h c i m p r o) : s.commitTile core =
    if m.traps p h.2.2.2 o then s.finishTile c h.2.1 i m p h.2.2.2 core o true
    else match s.lateFail core c h.2.1 m h.2.2.2 o with
      | some f =>
        ((s.setRun c h.2.1 i (m.setTile h.2.2.2 { r with out := none })).dropWrites (fun w => w.isOf c h.2.1 m.id h.2.2.2)).raise c
          { m.cause f.code with coord := m.coordOf p h.2.2.2, core := core, detail := f.detail }
      | none =>
        if (s.spanOf (coreSpan core)).held (fun w => w.isOf c h.2.1 m.id h.2.2.2) then s
        else if (s.spanOf (coreSpan core)).writes.any (fun w => w.isOf c h.2.1 m.id h.2.2.2 && !w.sent) then
          s.acceptWrites (coreSpan core) (fun w => w.isOf c h.2.1 m.id h.2.2.2)
        else ((s.acceptWrites (coreSpan core) (fun w => w.isOf c h.2.1 m.id h.2.2.2)).applyTile c m p h.2.2.2 core o).finishTile c h.2.1 i m p
          h.2.2.2 core o false := by
  obtain ⟨hheld, h4, htile, hlive, hout, hpass⟩ := d
  obtain ⟨hkey, -, -⟩ := State.heldTile_key h4 htile
  simp only [State.commitTile, hheld, List.findSome?_cons, htile, hout, Option.bind_some, hlive, if_true, hkey, hpass]
  rfl

/-- Where nothing traps and no late write lies outside its window, the commit waits for older accesses, and for credits. -/
theorem commit_clear (d : s.CommitDue core h c i m p r o) (ht : m.traps p h.2.2.2 o = false) (hl : s.lateFail core c h.2.1 m h.2.2.2 o = none) :
    let mine (w : PierWrite) : Bool := w.isOf c h.2.1 m.id h.2.2.2
    s.commitTile core = if (s.spanOf (coreSpan core)).held mine then s
      else if (s.spanOf (coreSpan core)).writes.any (fun w => mine w && !w.sent) then s.acceptWrites (coreSpan core) mine
      else ((s.acceptWrites (coreSpan core) mine).applyTile c m p h.2.2.2 core o).finishTile c h.2.1 i m p h.2.2.2 core o false := by
  rw [d.commitTile, ht, if_neg Bool.false_ne_true, hl]

/-- A late write outside its window unstages the tile. -/
theorem commit_late {f : Fail} (d : s.CommitDue core h c i m p r o) (ht : m.traps p h.2.2.2 o = false)
    (hl : s.lateFail core c h.2.1 m h.2.2.2 o = some f) : s.commitTile core =
      ((s.setRun c h.2.1 i (m.setTile h.2.2.2 { r with out := none })).dropWrites (fun w => w.isOf c h.2.1 m.id h.2.2.2)).raise c
        { m.cause f.code with coord := m.coordOf p h.2.2.2, core := core, detail := f.detail } := by
  rw [d.commitTile, ht, if_neg Bool.false_ne_true, hl]

/-- The tile that leaves was the last of its core. -/
theorem leaves (d : s.CommitDue core h c i m p r o) : (s.coreOf core).held.filter (· != (c.val, h.2.1, m.id, h.2.2.2)) = [] := by
  rw [(State.heldTile_key d.ctx d.tile).1, d.held]
  simp

theorem runAt (d : s.CommitDue core h c i m p r o) : (s.runAt c h.2.1 i).isSome = true := by
  rw [(State.heldTile_some d.tile).1]; rfl

end State.CommitDue

/-- Withdrawn writes leave the lists of the piers. -/
theorem State.dropWrites_rest (s : State) (gone : PierWrite → Bool) : ∃ x, s.dropWrites gone = { s with spans := x } := by
  unfold State.dropWrites
  refine List.foldlRecOn (motive := fun t : State => ∃ x, t = { s with spans := x }) _ _ ⟨_, rfl⟩ fun t ht n _ => ?_
  obtain ⟨x, rfl⟩ := ht
  simp only []
  split
  · exact ⟨_, rfl⟩
  · exact ⟨x, rfl⟩

end

/-- Settles O21: the trap comes first, then the windows of late writes, then the order of the pier, and last the stores. -/
theorem commitStoresOrDrops : Obligations.CommitStoresOrDrops := by
  refine ⟨?commits, ?traps, ?late⟩
  case commits =>
    intro core s h c i m p r o hheld h4 htile hlive hout hpass htraps mine late hfail
    have due : s.CommitDue core.val h c i m p r o := ⟨hheld, h4, htile, hlive, hout, hpass⟩
    have hcommit := due.commit_clear htraps hfail
    have hfree (hold : (s.spanOf (core.val / 128)).held mine = false) : ¬((s.spanOf (coreSpan core.val)).held mine = true) :=
      fun ht => Bool.noConfusion (hold.symm.trans ht)
    refine ⟨fun hold => congrArg Host.Outcome.next (hcommit.trans (if_pos hold)), fun hold ⟨w, hw, hmine, hsent⟩ =>
      congrArg Host.Outcome.next (hcommit.trans ((if_neg (hfree hold)).trans (if_pos ?waits))), fun hwf hold hall => ?stores⟩
    case waits => exact List.any_eq_true.2 ⟨w, hw, Bool.and_eq_true_iff.2 ⟨hmine, by rw [hsent]; rfl⟩⟩
    case stores =>
      have hsent : ¬((s.spanOf (coreSpan core.val)).writes.any (fun w => mine w && !w.sent) = true) := by
        rw [List.any_eq_true]
        rintro ⟨w, hw, hmine⟩
        obtain ⟨hm, hs⟩ := Bool.and_eq_true_iff.1 hmine
        rw [hall w hw hm] at hs
        cases hs
      obtain ⟨hframe, hmem⟩ := State.applyTile_frame (s := s.acceptWrites (coreSpan core.val) mine) (core := core.val) (c := c) (m := m) (p := p)
        (t := h.2.2.2) (o := o)
      obtain ⟨hmem', hheld', m', hm', hstatus, -⟩ := State.finishTile_spec (core := core.val) (m := m) (p := p) (t := h.2.2.2) (o := o) false
        (hframe.runAt_isSome (e := h.2.1) (i := i) due.runAt)
      have hstored : _ = o.stores.foldl Store.onto s.mem := hmem'.trans hmem
      refine ⟨_, m', congrArg Host.Outcome.next (hcommit.trans ((if_neg (hfree hold)).trans (if_neg hsent))), hstored, fun a ha => ?_, hm', hstatus,
        hheld'.trans ?_⟩
      · rw [hstored]
        exact Store.read_foldl_onto hwf fun st hst at_ w v he => ha at_ w v (he ▸ hst)
      · rw [State.coreOf, hframe.cores]
        exact due.leaves
  case traps =>
    intro core s h c i m p r o hheld h4 htile hlive hout hpass ⟨e, he, htrap⟩
    have due : s.CommitDue core.val h c i m p r o := ⟨hheld, h4, htile, hlive, hout, hpass⟩
    have hexec : exec (.tileCommit core) s = _ := congrArg Host.Outcome.next due.commitTile
    have htraps : m.traps p h.2.2.2 o = true := by
      rw [MacroRun.traps, List.any_eq_true.2 ⟨e, he, htrap⟩, Bool.true_or]
    rw [htraps, if_pos rfl] at hexec
    obtain ⟨hmem, hheld', m', hm', hstatus, htrapped⟩ := State.finishTile_spec (core := core.val) (m := m) (p := p) (t := h.2.2.2) (o := o)
      true due.runAt
    exact ⟨_, m', hexec, hmem, hm', hstatus, htrapped.trans (Bool.or_true _), hheld'.trans due.leaves⟩
  case late =>
    intro core s h c i m p r o f hheld h4 htile hr hout hpass htraps late hfail
    have due : s.CommitDue core.val h c i m p r o := ⟨hheld, h4, htile, ((State.runs_iff s c).1 hr).1, hout, hpass⟩
    have hexec : exec (.tileCommit core) s = _ := congrArg Host.Outcome.next (due.commit_late htraps hfail)
    obtain ⟨x, hx⟩ := State.dropWrites_rest (s.setRun c h.2.1 i (m.setTile h.2.2.2 { r with out := none })) (fun w => w.isOf c h.2.1 m.id h.2.2.2)
    rw [hx] at hexec
    have hhalts := State.raise_halts { s.setRun c h.2.1 i (m.setTile h.2.2.2 { r with out := none }) with spans := x }
      { m.cause f.code with coord := m.coordOf p h.2.2.2, core := core.val, detail := f.detail } ((State.setRun_runs ..).trans hr)
    exact ⟨_, m.setTile h.2.2.2 { r with out := none }, _, hexec, hhalts.mem, (hhalts.runAt ..).trans (State.setRun_runAt _ _ due.runAt),
      by rw [MacroRun.tileAt_setTile], hhalts.began, State.storeDomainFail_code hfail, rfl⟩

end Sys2Proof.Machine

/-! PROOFS of the statements of 07_tile_walker.md: the walker of a span deals a tile to a core that holds fewest (O23). -/

namespace Sys2Proof.Machine

section
variable {s : State} {c : Fin 4} {e : Bool} {i core t : Nat} {m : MacroRun} {p : Plan} {d : Draft}

/-- A tile at its first deal (R203, R205). -/
def State.freshTile (s : State) (c : Fin 4) (m : MacroRun) (p : Plan) (d : Draft) (t core : Nat) : TileRun :=
  let reads := ((s.evAt c m p t {}).pierReads d (m.sorting t)).length
  { status := if reads = 0 then .waiting else .loading
    core := core, crew := if m.crewBound p then some (coreCrew core) else none, staged := s.spanBeat (coreSpan core)
    seen := if reads = 0 then some s.mem else none
    halo := !(m.chained p && p.halo ≠ 0) || t % max 1 ((p.order.headD (0, 1)).2) = 0 }

/-- A macro one of whose tiles is dealt for the first time. -/
def State.freshRun (s : State) (c : Fin 4) (i : Nat) (m : MacroRun) (p : Plan) (d : Draft) (t core : Nat) : MacroRun :=
  { m with tiles := m.tiles.set t (s.freshTile c m p d t core), replay := m.replay.filter (· ≠ t), dealtAny := true
           overlapped := m.overlapped && (m.dealtAny || i > 0), start := if m.dealtAny then m.start else BitVec.ofNat 64 s.now }

/-- A core takes a tile behind those that it holds. -/
def State.lists (s : State) (core : Nat) (h : Nat × Bool × Nat × Nat) : State :=
  let q := s.coreOf core
  let beat := s.spanBeat (coreSpan core)
  let s := s.setCore core { q with held := q.held ++ [h], dealtAt := some beat
                                   first := if q.stolenAt = some beat then q.held.head? else q.first }
  s.loads (coreSpan core) (s.spanBeat (coreSpan core))

/-- An LD marks at its first deal every line that it will write (R180). -/
def State.marks (s : State) (c : Fin 4) (m : MacroRun) (p : Plan) (base : Nat) : State :=
  if m.slot = 4 && m.target = 1 && !m.dealtAny then
    let n := ceilDiv (((m.tens 10).map (fun t => (sliceWords t.d))).getD 0) 64
    let s := s.settleLines c 0
    { s with crews := (crewsOf p.spans).foldl (fun t k =>
        let q := Table.get t k ({} : Crew)
        t.set k { q with marked := (List.range n).foldl (fun mk l => mk.set (base + l) true) q.marked }) s.crews }
  else s

/-- The first deal of a tile of a macro that takes from no queue and feeds none. -/
theorem State.place_fresh (hat : m.tileAt t = {}) (hin : m.queuesIn = []) (hout : m.queuesOut = []) (hrig : m.isRig [9] = false) :
    s.place c e i m p d t core [] =
      (((s.setCtx c ((s.ctxOf c).setStream e (((s.ctxOf c).stream e).unblockDeal m.id))).setRun c e i (s.freshRun c i m p d t core)).lists core
        (c.val, e, m.id, t)).marks c m p ((s.ctxOf c).bay m.bay).base := by
  unfold State.place
  simp only [hat, hin, hout, hrig, List.foldl_nil, ite_self, List.filter_nil, Bool.false_and, Option.isSome_none, Bool.or_false]
  cases e <;> rfl

end

/-! ## Lines that settle leave the macros as they are, but for their counts (R408) -/

/-- The macros in flight are as before, but for what they have counted. -/
structure State.CountsFrame (s t : State) : Prop where
  runs : ∀ (c : Fin 4) (e : Bool) (i : Nat) (q : MacroRun), s.runAt c e i = some q → ∃ k, t.runAt c e i = some { q with counts := k }

namespace State.CountsFrame

variable {s t u : State}

theorem ofCtx (h : t.ctx = s.ctx) : s.CountsFrame t := ⟨fun c e i q hq => ⟨q.counts, by rw [State.runAt_congr h, hq]⟩⟩

theorem refl (s : State) : s.CountsFrame s := .ofCtx rfl

theorem trans (h : s.CountsFrame t) (k : t.CountsFrame u) : s.CountsFrame u := by
  refine ⟨fun c e i q hq => ?_⟩
  obtain ⟨x, hx⟩ := h.runs c e i q hq
  obtain ⟨y, hy⟩ := k.runs c e i _ hx
  exact ⟨y, hy⟩

theorem foldl {α : Type} {f : State → α → State} (h : ∀ (s : State) a, s.CountsFrame (f s a)) (l : List α) (s : State) :
    s.CountsFrame (l.foldl f s) :=
  List.foldlRecOn (motive := fun t => s.CountsFrame t) l f (.refl s) fun t ht a _ => ht.trans (h t a)

theorem raiseAt (s : State) (c : Fin 4) (q : Cause) (beat : Nat) : s.CountsFrame (s.raiseAt c q beat) := by
  obtain ⟨h, n, he⟩ := s.raiseAt_eq c q beat
  refine ⟨fun d e i m hm => ⟨m.counts, ?_⟩⟩
  rw [he]
  by_cases hd : d = c
  · subst hd
    rw [State.setCtx_runAt]
    · exact hm
    · rfl
  · rw [State.runAt, State.setCtx_ctxOf_ne _ _ hd]
    exact hm

theorem raised (h : t.ctx = s.ctx) (c : Fin 4) (q : Cause) (beat : Nat) : s.CountsFrame (t.raiseAt c q beat) :=
  (ofCtx h).trans (.raiseAt ..)

theorem setCounts {c : Fin 4} {e : Bool} {n : Nat} {m : MacroRun} {k : TileOut} (hm : s.runAt c e n = some m) :
    s.CountsFrame (s.setRun c e n { m with counts := k }) := by
  refine ⟨fun d f i q hq => ?_⟩
  by_cases hd : d = c
  · subst hd
    by_cases hf : f = e
    · subst hf
      by_cases hi : i = n
      · subst hi
        rw [hm] at hq
        cases hq
        exact ⟨k, State.setRun_runAt _ _ (by rw [hm]; rfl)⟩
      · exact ⟨q.counts, (State.setRun_runAt_ne _ _ hi).trans hq⟩
    · have he : f = !e := by cases e <;> cases f <;> simp_all
      subst he
      exact ⟨q.counts, (State.setRun_runAt_other _ _ i).trans hq⟩
  · refine ⟨q.counts, ?_⟩
    rw [State.runAt, State.setRun, State.setCtx_ctxOf_ne _ _ hd]
    exact hq

end State.CountsFrame

section
variable (s : State) (crew : Nat)

theorem State.readBeat_counts (i b : Nat) : s.CountsFrame (s.readBeat crew i b) := by
  unfold State.readBeat
  simp only []
  split
  · exact .refl s
  split
  · exact .refl s
  split
  · split
    · refine .raised ?_ ..
      rfl
    · exact .ofCtx rfl
  · exact .ofCtx rfl

theorem State.countShort_counts (i : Nat) : s.CountsFrame (s.countShort crew i) := by
  unfold State.countShort
  simp only []
  split
  · exact .refl s
  split
  · exact .refl s
  split
  · exact .ofCtx rfl
  · next n m hm =>
    refine State.CountsFrame.trans ?_ (.setCounts (e := true) (Stream.firstRun_some hm).1)
    exact .ofCtx rfl

theorem State.readsDue_counts (upto : Nat) : s.CountsFrame (s.readsDue crew upto) :=
  .foldl (fun t i => by
    split
    · exact .refl t
    · exact .trans (.foldl (fun u b => u.readBeat_counts crew i b) _ _) (State.countShort_counts ..)) _ _

theorem State.landOne_counts (upto : Nat) : s.CountsFrame (s.landOne crew upto) := by
  unfold State.landOne
  simp only []
  split
  · exact .ofCtx rfl
  split
  · exact .refl s
  split
  · split
    · refine .raised ?_ ..
      rfl
    · exact .ofCtx rfl
  · exact .ofCtx rfl

theorem State.settleLines_counts (c : Fin 4) (more : Nat) : s.CountsFrame (s.settleLines c more) :=
  .foldl (fun t k => .trans (t.readsDue_counts k _) (.foldl (fun u _ => by
    split
    · exact .refl u
    · exact u.landOne_counts ..) _ _)) _ _

end

/-! ## The first deal of a tile -/

theorem State.lists_coreOf_self (s : State) (core : Nat) (h : Nat × Bool × Nat × Nat) :
    ((s.lists core h).coreOf core).held = (s.coreOf core).held ++ [h] := by
  show ((s.setCore core _).coreOf core).held = _
  rw [State.setCore_coreOf_self]

theorem State.lists_coreOf_ne (s : State) {core k : Nat} (h : Nat × Bool × Nat × Nat) (hk : k ≠ core) : (s.lists core h).coreOf k = s.coreOf k :=
  State.setCore_coreOf_ne _ _ hk

section
variable (s : State) (c : Fin 4) (m : MacroRun) (p : Plan) (base : Nat)

theorem State.marks_lines : s.LinesFrame (s.marks c m p base) := by
  unfold State.marks
  split
  · exact (s.settleLines_lines c 0).trans ⟨rfl, fun _ _ => rfl⟩
  · exact .refl s

theorem State.marks_counts : s.CountsFrame (s.marks c m p base) := by
  unfold State.marks
  split
  · exact (s.settleLines_counts c 0).trans (.ofCtx rfl)
  · exact .refl s

end

section
variable {s : State} {c : Fin 4} {e : Bool} {i core t : Nat} {m : MacroRun} {p : Plan} {d : Draft}

/-- What a first deal changes. -/
theorem State.place_spec (hi : s.runAt c e i = some m) (hat : m.tileAt t = {}) (hin : m.queuesIn = []) (hout : m.queuesOut = [])
    (hrig : m.isRig [9] = false) :
    let u := s.place c e i m p d t core []
    u.mem = s.mem ∧ u.admin = s.admin ∧ (u.coreOf core).held = (s.coreOf core).held ++ [(c.val, e, m.id, t)] ∧
      (∀ k, k ≠ core → u.coreOf k = s.coreOf k) ∧ (∃ k, u.runAt c e i = some { s.freshRun c i m p d t core with counts := k }) ∧
      ∀ f, ((u.ctxOf c).stream f).inflight.length = ((s.ctxOf c).stream f).inflight.length := by
  intro u
  let x := (s.ctxOf c).setStream e (((s.ctxOf c).stream e).unblockDeal m.id)
  let a := (s.setCtx c x).setRun c e i (s.freshRun c i m p d t core)
  let b := a.lists core (c.val, e, m.id, t)
  have hu : u = b.marks c m p ((s.ctxOf c).bay m.bay).base := State.place_fresh hat hin hout hrig
  have hl := b.marks_lines c m p ((s.ctxOf c).bay m.bay).base
  have hc := b.marks_counts c m p ((s.ctxOf c).bay m.bay).base
  have hxf (f : Bool) : (x.stream f).inflight = ((s.ctxOf c).stream f).inflight := by
    unfold x
    cases e <;> cases f <;> rfl
  have ha : a.runAt c e i = some (s.freshRun c i m p d t core) := by
    refine State.setRun_runAt _ _ ?_
    rw [State.runAt, State.setCtx_ctxOf_self, hxf, ← State.runAt, hi]
    rfl
  obtain ⟨k, hk⟩ := hc.runs c e i _ ha
  rw [hu]
  refine ⟨hl.mem, hl.admin, ?_, fun j hj => ?_, ⟨k, hk⟩, fun f => (hl.flight c f).trans ?_⟩
  · rw [State.coreOf, hl.cores]
    exact a.lists_coreOf_self ..
  · rw [State.coreOf, hl.cores]
    exact a.lists_coreOf_ne _ hj
  · show ((((s.setCtx c x).setRun c e i _).ctxOf c).stream f).inflight.length = _
    rw [State.setRun, State.setCtx_ctxOf_self, State.setCtx_ctxOf_self, Ctx.setRun_flight, hxf]

/-! ## The core that takes the tile (R203) -/

/-- How a walker compares two cores: by the tiles that each holds, then by those of its crew, then by number. -/
def State.pickKey (s : State) (k : Nat) : Nat := ((s.coreOf k).held.length * 1024 + s.crewHeld (coreCrew k)) * 2048 + k

theorem State.pickCore_eq (s : State) (l : List Nat) :
    s.pickCore l = (l.filter (fun k => !s.isFenced k && (s.coreOf k).held.length < 2)).argmin s.pickKey := by
  show (l.filter (fun k => !s.isFenced k && (s.coreOf k).held.length < 2)).foldl _ none = _
  induction l.filter (fun k => !s.isFenced k && (s.coreOf k).held.length < 2) using List.reverseRecOn with
  | nil => rfl
  | append_singleton l k ih =>
    rw [List.foldl_concat, ih, List.argmin_concat]
    cases l.argmin s.pickKey <;> rfl

/-- A crew whose cores hold two tiles at most holds sixteen at most. -/
theorem State.crewHeld_lt (s : State) (h : ∀ k, (s.coreOf k).held.length ≤ 2) (crew : Nat) : s.crewHeld crew < 1024 := by
  have hs : s.crewHeld crew ≤ ((List.range 8).map (fun k => (s.coreOf (8 * crew + k)).held.length)).length • 2 :=
    List.sum_le_card_nsmul _ _ fun n hn => by
      obtain ⟨k, -, rfl⟩ := List.mem_map.1 hn
      exact h _
  simp at hs
  omega

/-- A walker picks an unfenced core with room that holds no more than any other unfenced one. -/
theorem State.pickCore_least {span : Nat} {l : List Nat} (_hn : span < 16) (hl : ∀ k, k ∈ l ↔ k ∈ spanCores span)
    (hall : ∀ k, (s.coreOf k).held.length ≤ 2) (hex : ∃ k ∈ spanCores span, s.isFenced k = false ∧ (s.coreOf k).held.length < 2) :
    ∃ core, s.pickCore l = some core ∧ core ∈ spanCores span ∧ s.isFenced core = false ∧ (s.coreOf core).held.length < 2 ∧
      ∀ k ∈ spanCores span, s.isFenced k = false → (s.coreOf core).held.length ≤ (s.coreOf k).held.length := by
  have hmem (k : Nat) : k ∈ l.filter (fun k => !s.isFenced k && (s.coreOf k).held.length < 2) ↔
      k ∈ spanCores span ∧ s.isFenced k = false ∧ (s.coreOf k).held.length < 2 := by
    simp [hl k]
  obtain ⟨k₀, hk₀⟩ := hex
  rw [State.pickCore_eq]
  cases hp : (l.filter (fun k => !s.isFenced k && (s.coreOf k).held.length < 2)).argmin s.pickKey with
  | none =>
    rw [List.argmin_eq_none] at hp
    have := (hmem k₀).2 hk₀
    rw [hp] at this
    exact absurd this List.not_mem_nil
  | some core =>
    obtain ⟨hcore, hfree, hroom⟩ := (hmem core).1 (List.argmin_mem hp)
    refine ⟨core, rfl, hcore, hfree, hroom, fun k hk hf => ?_⟩
    by_cases hlt : (s.coreOf k).held.length < 2
    · have hle : s.pickKey core ≤ s.pickKey k := List.le_of_mem_argmin ((hmem k).2 ⟨hk, hf, hlt⟩) hp
      have h₁ := s.crewHeld_lt hall (coreCrew core)
      have h₂ := s.crewHeld_lt hall (coreCrew k)
      have h₃ := mem_spanCores.1 hk
      have h₄ := mem_spanCores.1 hcore
      unfold State.pickKey at hle
      omega
    · omega

/-! ## The offers of a span's walker (R203) -/

/-- One offer of a macro to its walker. -/
def State.offer (c : Fin 4) (span : Nat) (acc : Dealt) (o : DealClass × Bool × Nat × MacroRun × Plan) : Dealt :=
  match acc with
  | .dealt s => .dealt s
  | .stop s =>
    if !s.runs c then .stop s
    else
      match (s.ctxOf c).nextTile o.1 o.2.2.2.1 o.2.2.2.2 span (fun crew => (s.pickCore (crewCores crew)).isSome) with
      | .done => .stop s
      | .wait k =>
        let y := s.ctxOf c
        .stop (s.setCtx c (y.setStream o.2.1 ((y.stream o.2.1).blockDeal k o.2.2.2.1.id s.time.beat)))
      | .fail f => .stop (s.raise c { o.2.2.2.1.cause f.code with detail := f.detail })
      | .tile t rings crew => s.dealTile c o.2.1 o.2.2.1 span o.2.2.2.1 o.2.2.2.2 t rings crew

/-- A context in flight with one macro, which deals. -/
structure State.Alone (s : State) (c : Fin 4) (e : Bool) (m : MacroRun) (p : Plan) : Prop where
  one : ((s.ctxOf c).stream e).inflight = [m]
  none_ : ((s.ctxOf c).stream (!e)).inflight = []
  plan : m.plan = some p
  short : m.isShort = false

/-- Where no context runs on the span, or none may step it, no tile is dealt. -/
theorem State.dealOne_stop {span : Nat} (h : ∀ c, s.owner span = some c → s.runs c = true → s.mayLoad span = false) :
    s.dealOne span = .stop s := by
  unfold State.dealOne
  split
  · rfl
  · next c hc =>
    refine if_pos ?_
    cases hr : s.runs c with
    | false => rfl
    | true => rw [h c hc hr]; rfl

/-- The one macro is offered as a replay, as a parked tile, and as an undealt one. -/
theorem State.dealOne_alone {span : Nat} (ho : s.owner span = some c) (hr : s.runs c = true) (hl : s.mayLoad span = true)
    (ha : s.Alone c e m p) :
    s.dealOne span = [(DealClass.replay, e, 0, m, p), (.resume, e, 0, m, p), (.fresh, e, 0, m, p)].foldl (State.offer c span) (.stop s) := by
  have hone : ((s.ctxOf c).stream e).dealing = [(0, m, p)] := by
    simp [Stream.dealing, ha.one, ha.plan, ha.short]
  have hnone : ((s.ctxOf c).stream (!e)).dealing = [] := by
    simp [Stream.dealing, ha.none_]
  have hoffers : ([DealClass.replay, .resume, .fresh].flatMap (fun k =>
      [false, true].flatMap (fun f => ((s.ctxOf c).stream f).dealing.map (fun q => (k, f, q))))) =
      [(DealClass.replay, e, 0, m, p), (.resume, e, 0, m, p), (.fresh, e, 0, m, p)] := by
    cases e <;> simp [Bool.not_true, Bool.not_false] at hnone <;> simp [hone, hnone]
  unfold State.dealOne
  rw [ho]
  simp only [hr, hl, hoffers]
  rfl

section
variable {span : Nat}

theorem MacroRun.nextReplay_done (h : m.replay = []) : m.nextReplay p span = .done := by
  rw [MacroRun.nextReplay, h]; rfl

theorem MacroRun.nextResume_done (room : Nat → Bool) (ht : p.tiles = 1) (h : (m.tileAt 0).status ≠ .parked) :
    m.nextResume p span room = .done := by
  unfold MacroRun.nextResume
  rw [ht, List.range_one, List.find?_cons_of_neg (by simp [h])]
  rfl

/-- A macro whose one tile has been dealt has no other. -/
theorem Ctx.nextFresh_done (x : Ctx) (ht : p.tiles = 1) (hin : m.queuesIn = []) (h : (m.tileAt 0).status ≠ .undealt) :
    x.nextFresh m p span = .done := by
  have htaken : m.taken p 0 = true := by simp [MacroRun.taken, h]
  unfold Ctx.nextFresh
  simp [hin, ht, List.range_one, htaken]

/-- The one tile of a macro of the span is the next one, at its first deal. -/
theorem Ctx.nextFresh_tile (x : Ctx) (ht : p.tiles = 1) (hin : m.queuesIn = []) (hat : m.tileAt 0 = {}) (hreplay : m.replay = [])
    (hspan : m.dealSpan p 0 = span) (hlda : m.isLda = false) (hrig : m.isRig [9] = false) (hsorts : m.sorts = false) :
    x.nextFresh m p span = .tile 0 [] none := by
  have htaken : m.taken p 0 = false := by simp [MacroRun.taken, hat, hsorts]
  unfold Ctx.nextFresh
  simp [hin, ht, List.range_one, htaken, hreplay, hspan, hlda, hrig, hat, MacroRun.ringCrew]

/-- Where the macro has nothing to deal, an offer of it changes nothing. -/
theorem State.offer_done {k : DealClass} (h : (s.ctxOf c).nextTile k m p span (fun crew => (s.pickCore (crewCores crew)).isSome) = .done) :
    State.offer c span (.stop s) (k, e, i, m, p) = .stop s := by
  unfold State.offer
  simp only [h, ite_self]

theorem State.offer_tile {k : DealClass} {rings : List (Nat × RingTile)} {crew : Option Nat} (hr : s.runs c = true)
    (h : (s.ctxOf c).nextTile k m p span (fun crew => (s.pickCore (crewCores crew)).isSome) = .tile t rings crew) :
    State.offer c span (.stop s) (k, e, i, m, p) = s.dealTile c e i span m p t rings crew := by
  unfold State.offer
  simp only [h, hr]
  rfl

/-- A macro whose one tile has been dealt: a second deal of the span's walker finds nothing. -/
theorem State.dealOne_dealt (ho : s.owner span = some c) (ha : s.Alone c e m p) (ht : p.tiles = 1) (hin : m.queuesIn = [])
    (hreplay : m.replay = []) (hdealt : (m.tileAt 0).status = .waiting ∨ (m.tileAt 0).status = .loading) : s.dealOne span = .stop s := by
  have hne (q : TileStatus) (hw : q ≠ .waiting) (hl : q ≠ .loading) : (m.tileAt 0).status ≠ q := by
    rcases hdealt with h | h <;> rw [h]
    · exact hw.symm
    · exact hl.symm
  by_cases hgo : s.runs c = true ∧ s.mayLoad span = true
  · rw [State.dealOne_alone ho hgo.1 hgo.2 ha, List.foldl_cons, State.offer_done (k := .replay) (MacroRun.nextReplay_done hreplay),
      List.foldl_cons, State.offer_done (k := .resume) (MacroRun.nextResume_done _ ht (hne _ (by decide) (by decide))),
      List.foldl_cons, State.offer_done (k := .fresh) (Ctx.nextFresh_done _ ht hin (hne _ (by decide) (by decide)))]
    rfl
  · refine State.dealOne_stop fun d hd hr => ?_
    obtain rfl : c = d := Option.some.inj (ho.symm.trans hd)
    cases hl : s.mayLoad span with
    | false => rfl
    | true => exact absurd ⟨hr, hl⟩ hgo

/-- The tile of a macro that is bound to no crew goes to a core that the walker picks among those of the span. -/
theorem State.dealTile_first (hat : m.tileAt t = {}) (hreplay : m.replay = []) (hout : m.queuesOut = []) (hgroup : m.grouped p = false)
    (hchain : m.chained p = false) (hsorts : m.sorts = false)
    (hvalues : ((s.evAt c m p t {}).pagedFail).or (m.evalOf (s.evAt c m p t {})).fail = none)
    (hpick : s.pickCore (((List.range 16).map (16 * span + ·)).flatMap crewCores) = some core) :
    s.dealTile c e i span m p t [] none = .dealt (s.place c e i m p (s.draft c m) t core []) := by
  have hmust : m.mustCrew p t none = none := by simp [MacroRun.mustCrew, hat, hchain, hgroup]
  have hpark : m.parkFresh p t = false := by
    have hh : (p.hold && !m.rereads) = false := by
      simp only [MacroRun.grouped, Bool.or_eq_false_iff] at hgroup
      exact hgroup.1.1
    rw [MacroRun.parkFresh, hh, Bool.false_and]
  have hsort : m.sorting t = false := by rw [MacroRun.sorting, hsorts, Bool.false_and]
  have hcores : ((((List.range 16).map (16 * span + ·)).filter fun _ => true).flatMap crewCores).filter (fun _ => true) =
      ((List.range 16).map (16 * span + ·)).flatMap crewCores := by simp
  unfold State.dealTile
  simp only [hat, hreplay, hout, hmust, hpark, hsort, hgroup, List.contains_nil, Bool.false_and, Bool.and_false, Bool.false_eq_true, if_false,
    List.find?_nil, List.all_nil, Bool.or_true, Bool.not_false, Bool.true_or, Bool.and_true, hcores, hpick]
  rw [if_neg (by decide), hvalues]

end

/-- A stream that holds one macro. -/
theorem Stream.inflight_one {x : Stream} (hl : x.inflight.length = 1) (h : x.inflight[0]? = some m) : x.inflight = [m] := by
  obtain ⟨y, hy⟩ := List.length_eq_one_iff.1 hl
  rw [hy] at h ⊢
  simpa using h

theorem MacroRun.tileAt_freshRun (k : TileOut) :
    ({ s.freshRun c i m p d t core with counts := k } : MacroRun).tileAt t = s.freshTile c m p d t core := Table.get_set_self ..

theorem State.freshTile_status (hsorts : m.sorts = false) : (s.freshTile c m p d t core).status =
    if (s.evAt c m p t {}).pierReads d false = [] then .waiting else .loading := by
  have hsort : m.sorting t = false := by rw [MacroRun.sorting, hsorts, Bool.false_and]
  simp only [State.freshTile, hsort, List.length_eq_zero_iff]

theorem mem_span_crews {span k : Nat} : k ∈ ((List.range 16).map (16 * span + ·)).flatMap crewCores ↔ k ∈ spanCores span := by
  rw [mem_spanCores]
  simp only [List.mem_flatMap, List.mem_map, List.mem_range, mem_crewCores]
  constructor
  · rintro ⟨crew, ⟨j, hj, rfl⟩, hk⟩; omega
  · intro hk; exact ⟨k / 8, ⟨k / 8 - 16 * span, by omega, by omega⟩, rfl⟩

end

/-- Settles O23: the first deal of a beat places the one tile, and the second finds none. -/
theorem dealingPicksAndHolds : Obligations.DealingPicksAndHolds := by
  refine ⟨?deals, ?holds⟩
  case deals =>
    intro n x s c m p ho hr hl hone hnone hplan hshort htiles hat hreplay hspan hin hout hgroup hchain hlda hrig hsorts hvalues hall hex
    obtain ⟨core, hpick, hcore, hfree, hroom, hleast⟩ := State.pickCore_least n.isLt (fun k => mem_span_crews) hall hex
    have hrun : s.runAt c x 0 = some m := by rw [State.runAt, hone]; rfl
    let t := s.place c x 0 m p (s.draft c m) 0 core []
    obtain ⟨hmem, hadmin, hheld, hother, ⟨k, hk⟩, hflight⟩ := State.place_spec (p := p) (d := s.draft c m) (core := core)
      hrun hat hin hout hrig
    have hstatus := State.freshTile_status (s := s) (c := c) (p := p) (d := s.draft c m) (t := 0) (core := core) hsorts
    have hfirst : s.dealOne n.val = .dealt t := by
      rw [State.dealOne_alone ho hr hl ⟨hone, hnone, hplan, hshort⟩, List.foldl_cons,
        State.offer_done (k := .replay) (MacroRun.nextReplay_done hreplay), List.foldl_cons,
        State.offer_done (k := .resume) (MacroRun.nextResume_done _ htiles (by rw [hat]; decide)), List.foldl_cons,
        State.offer_tile (k := .fresh) hr (Ctx.nextFresh_tile _ htiles hin hat hreplay hspan hlda hrig hsorts),
        State.dealTile_first hat hreplay hout hgroup hchain hsorts hvalues hpick]
      rfl
    have hsecond : t.dealOne n.val = .stop t := by
      have ho' : t.owner n.val = some c := by
        rw [← ho]
        simp only [State.owner, State.adminOf, hadmin, t]
      refine State.dealOne_dealt (e := x) (m := { s.freshRun c 0 m p (s.draft c m) 0 core with counts := k }) ho'
        ⟨?_, ?_, hplan, hshort⟩ htiles hin ?_ ?_
      · exact Stream.inflight_one ((hflight x).trans (by rw [hone]; rfl)) hk
      · exact List.length_eq_zero_iff.1 ((hflight (!x)).trans (by rw [hnone]; rfl))
      · show m.replay.filter _ = []
        rw [hreplay]; rfl
      · rw [MacroRun.tileAt_freshRun, hstatus]
        split
        · exact .inl rfl
        · exact .inr rfl
    have hexec : exec (.tileDeal n) s = .next t := by
      show Host.Outcome.next (s.dealBeat n.val) = _
      unfold State.dealBeat
      rw [hfirst]
      simp only [hsecond]
    refine ⟨t, _, core, hexec, hcore, hfree, hroom, hleast, hheld, hother, hk, ?_, rfl, ?_, rfl, hmem, hadmin⟩
    · rw [MacroRun.tileAt_freshRun]; rfl
    · rw [MacroRun.tileAt_freshRun]; exact hstatus
  case holds =>
    intro n s h
    show Host.Outcome.next (s.dealBeat n.val) = _
    unfold State.dealBeat
    rw [State.dealOne_stop fun c hc hr => absurd (hr.symm.trans (h c hc)) (by decide)]

end Sys2Proof.Machine

/-! PROOFS of the statements of 08_elementwise_chains.md: the row whose statistic closes (O26). -/

namespace Sys2Proof.Machine

/-! ## The oldest macro of the execute stream -/

/-- The macro that is found stands at its place in the execute stream, has this plan, and `q` holds of the two. -/
theorem Ctx.execRun_some {x : Ctx} {q : MacroRun → Plan → Bool} {i : Nat} {m : MacroRun} {p : Plan} (h : x.execRun q = some (i, m, p)) :
    x.exec.inflight[i]? = some m ∧ m.plan = some p ∧ q m p = true := by
  unfold Ctx.execRun at h
  split at h
  · next j n hfirst =>
    obtain ⟨p', hplan, heq⟩ := Option.map_eq_some_iff.1 h
    cases heq
    obtain ⟨hat, hq⟩ := Stream.firstRun_some hfirst
    rw [hplan] at hq
    exact ⟨hat, hplan, hq⟩
  · cases h

/-! ## ROW_STAT_CLOSE (R244, R287) -/

/-- What ROW_STAT_CLOSE keeps of a row: its local root where the macro has no channel, else what the row's round brought back. -/
def State.rowRoot (s : State) (c : Fin 4) (m : MacroRun) (p : Plan) (row : Nat) : List Word :=
  let t := (m.tilesOf p row).headD 0
  let e := s.evAt c m p t (m.tileAt t)
  let back := messagesBack (((s.ctxOf c).viaResult m row s.time.beat).getD [])
  if m.via = some 0 then e.closedOf ((e.rowValue (p.rowIdx row)).bind Prod.snd) (e.rowCands (p.rowIdx row)) else e.closedOf back.1 back.2

@[simp] theorem Ctx.setRun_carryRelay (x : Ctx) (e : Bool) (i : Nat) (m : MacroRun) : (x.setRun e i m).carryRelay = x.carryRelay := by
  cases e <;> rfl

/-- The oldest macro whose row is ready, and not closed yet, keeps the row's root; its carries through the relay are counted (log 79). -/
theorem State.closeRow_closes {s : State} {c : Fin 4} {row i : Nat} {m : MacroRun} {p : Plan} (hr : s.runs c = true)
    (h : (s.ctxOf c).execRun (fun m p => m.closesRows p && (m.closed.find row).isNone && m.rowReady p row &&
      (m.via = some 0 || ((s.ctxOf c).viaResult m row s.time.beat).isSome)) = some (i, m, p)) :
    s.closeRow c row =
      (s.setCtx c { s.ctxOf c with carryRelay := satAdd (s.ctxOf c).carryRelay (m.rowRelays p row) }).setRun c true i
        { m with closed := m.closed.set row (s.rowRoot c m p row) } := by
  unfold State.closeRow
  simp only [h, State.runs_inBeat hr, Bool.not_true, Bool.false_eq_true, if_false]
  rfl

/-- Settles O26: the macro found keeps the row's root, and its context alone changes, in that macro and in the count of carries. -/
theorem rowStatCloseRecordsTheRow : Obligations.RowStatCloseRecordsTheRow := by
  intro c row s i m p hr h e back
  have hat : s.runAt c true i = some m := (Ctx.execRun_some h).1
  have hstream (n : BitVec 16) : ({ s.ctxOf c with carryRelay := n } : Ctx).stream true = (s.ctxOf c).stream true := rfl
  refine ⟨_, _, congrArg Host.Outcome.next (State.closeRow_closes hr h), State.setCtx_setRun_onlyCtx .., State.setRun_runAt _ _ ?_, rfl,
    Table.find_set_self .., fun r hne => Table.find_set_ne _ _ hne, fun j hne => ?_, ?_⟩
  · rw [State.setCtx_runAt (hstream _), hat]; rfl
  · exact (State.setRun_runAt_ne _ _ hne).trans (State.setCtx_runAt (hstream _) j)
  · rw [State.setRun, State.setCtx_ctxOf_self, State.setCtx_ctxOf_self, Ctx.setRun_carryRelay]

end Sys2Proof.Machine

/-! PROOFS of the statements of 14_viaduct.md: rows of a channel, and what frames that are sent leave alone (for O34, O35, O36). -/

namespace Sys2Proof.Machine

/-! ## The row of a number (R393) -/

section
variable {k : Channel} {r : ViaRow} {round row : Nat}

theorem Channel.rowOf_some (h : k.rowOf round row = some r) : r.round = round ∧ r.row = row := by
  simpa using List.find?_some h

/-- A row that is put is the one of its number. -/
theorem Channel.rowOf_putRow (k : Channel) (hround : r.round = round) (hrow : r.row = row) : (k.putRow r).rowOf round row = some r := by
  subst hround hrow
  unfold Channel.putRow
  split
  · next hany =>
    have hsame : (fun q : ViaRow => decide (q.round = r.round) && decide (q.row = r.row)) ∘
        (fun q : ViaRow => if q.round = r.round && q.row = r.row then r else q) =
        fun q : ViaRow => decide (q.round = r.round) && decide (q.row = r.row) := by
      funext q
      by_cases hq : q.round = r.round ∧ q.row = r.row <;> simp [hq]
    obtain ⟨q, hq⟩ := Option.isSome_iff_exists.1 (List.find?_isSome.2 (List.any_eq_true.1 hany))
    simp only [Channel.rowOf, List.find?_map, hsame, hq, Option.map_some]
    rw [if_pos (List.find?_some (p := fun q : ViaRow => decide (q.round = r.round) && decide (q.row = r.row)) hq)]
  · next hany =>
    have hnone : k.rowOf r.round r.row = none := List.find?_eq_none.2 fun q hq hp => hany (List.any_eq_true.2 ⟨q, hq, hp⟩)
    simp only [Channel.rowOf] at hnone
    simp [Channel.rowOf, List.find?_append, hnone]

/-- Putting a row writes the rows of its channel. -/
theorem Channel.putRow_eq (k : Channel) (r : ViaRow) : ∃ rows, k.putRow r = { k with rows := rows } := by
  unfold Channel.putRow
  split <;> exact ⟨_, rfl⟩

theorem Channel.rowOrNew_of_rowOf (beat : Nat) (h : k.rowOf round row = some r) : k.rowOrNew round row beat = r := by
  rw [Channel.rowOrNew, h, Option.getD_some]

theorem Channel.rowOrNew_key (k : Channel) (round row beat : Nat) :
    (k.rowOrNew round row beat).round = round ∧ (k.rowOrNew round row beat).row = row := by
  cases h : k.rowOf round row with
  | none => rw [Channel.rowOrNew, h]; exact ⟨rfl, rfl⟩
  | some r => rw [Channel.rowOrNew_of_rowOf beat h]; exact Channel.rowOf_some h

end

/-! ## The channels of a context (R387) -/

/-- `t` differs from `s` in nothing but the channels of context `c` and the global registers. -/
def State.ViaFrame (s t : State) (c : Fin 4) : Prop := ∃ tbl g, t = (s.setCtx c { s.ctxOf c with channels := tbl }).setGlob g

namespace State.ViaFrame

variable {s t u : State} {c : Fin 4}

theorem refl (s : State) (c : Fin 4) : s.ViaFrame s c := ⟨(s.ctxOf c).channels, s.glob, by rw [setCtx_same]; rfl⟩

theorem trans (h : s.ViaFrame t c) (k : t.ViaFrame u c) : s.ViaFrame u c := by
  obtain ⟨tbl, g, rfl⟩ := h
  obtain ⟨tbl', g', rfl⟩ := k
  rw [State.setGlob_ctxOf, State.setCtx_ctxOf_self]
  exact ⟨tbl', g', congrArg (·.setGlob g') (State.setCtx_setCtx s c _ _)⟩

theorem setGlob (s : State) (c : Fin 4) (g : Global) : s.ViaFrame (s.setGlob g) c := ⟨(s.ctxOf c).channels, g, by rw [setCtx_same]⟩

theorem setChannel (s : State) (c : Fin 4) (ch : Nat) (q : Channel) : s.ViaFrame (s.setCtx c ((s.ctxOf c).setChannel ch q)) c := ⟨_, s.glob, rfl⟩

theorem noteRow (s : State) (c : Fin 4) (ch round row : Nat) (f : ViaRow → ViaRow) : s.ViaFrame (s.noteRow c ch round row f) c :=
  setChannel ..

theorem foldl {α : Type} {f : State → α → State} (h : ∀ (s : State) a, s.ViaFrame (f s a) c) (l : List α) (s : State) :
    s.ViaFrame (l.foldl f s) c :=
  List.foldlRecOn (motive := fun t => s.ViaFrame t c) l f (.refl s c) fun t ht a _ => ht.trans (h t a)

theorem mem (h : s.ViaFrame t c) : t.mem = s.mem := by obtain ⟨tbl, g, rfl⟩ := h; rfl
theorem time (h : s.ViaFrame t c) : t.time = s.time := by obtain ⟨tbl, g, rfl⟩ := h; rfl
theorem adminOf (h : s.ViaFrame t c) (d : Fin 4) : t.adminOf d = s.adminOf d := by obtain ⟨tbl, g, rfl⟩ := h; rfl

theorem ctxOf (h : s.ViaFrame t c) : ∃ tbl, t.ctxOf c = { s.ctxOf c with channels := tbl } := by
  obtain ⟨tbl, g, rfl⟩ := h
  exact ⟨tbl, by rw [State.setGlob_ctxOf, State.setCtx_ctxOf_self]⟩

theorem halt (h : s.ViaFrame t c) : (t.ctxOf c).halt = (s.ctxOf c).halt := by
  obtain ⟨tbl, hx⟩ := h.ctxOf
  rw [hx]

theorem runs (h : s.ViaFrame t c) : t.runs c = s.runs c := by rw [State.runs, h.adminOf, h.halt, State.runs]
theorem judges (h : s.ViaFrame t c) : t.judges c = s.judges c := by rw [State.judges, h.adminOf, h.halt, State.judges]

/-- The kinds of a round's messages are those of the same channel registers. -/
theorem roundKinds {ch : Nat} (h : s.ViaFrame t c) (hr : ((t.ctxOf c).channel ch).regs = ((s.ctxOf c).channel ch).regs) (round : Nat) :
    (t.ctxOf c).roundKinds ch round = (s.ctxOf c).roundKinds ch round := by
  obtain ⟨tbl, hx⟩ := h.ctxOf
  have hrun : (t.ctxOf c).roundRun ch round = (s.ctxOf c).roundRun ch round := by rw [hx]; rfl
  rw [Ctx.roundKinds, Ctx.roundKinds, hrun, hr]

end State.ViaFrame

section
variable {s : State} {c : Fin 4} {ch round row : Nat} {r : ViaRow} {f : ViaRow → ViaRow}

/-- The row that is noted, or a new one, changed by `f`, is the row of its number. -/
theorem State.noteRow_rowOf (s : State) (c : Fin 4) (ch round row : Nat) (hf : ∀ r, (f r).round = r.round ∧ (f r).row = r.row) :
    (((s.noteRow c ch round row f).ctxOf c).channel ch).rowOf round row =
      some (f (((s.ctxOf c).channel ch).rowOrNew round row s.time.beat)) := by
  have hkey := ((s.ctxOf c).channel ch).rowOrNew_key round row s.time.beat
  rw [State.noteRow, State.setCtx_ctxOf_self, Ctx.setChannel_channel_self]
  exact Channel.rowOf_putRow _ ((hf _).1.trans hkey.1) ((hf _).2.trans hkey.2)

theorem State.noteRow_rowOf_some (h : ((s.ctxOf c).channel ch).rowOf round row = some r) (hf : ∀ r, (f r).round = r.round ∧ (f r).row = r.row) :
    (((s.noteRow c ch round row f).ctxOf c).channel ch).rowOf round row = some (f r) := by
  rw [State.noteRow_rowOf s c ch round row hf, Channel.rowOrNew_of_rowOf _ h]

theorem State.noteRow_channel (s : State) (c : Fin 4) (ch round row : Nat) (f : ViaRow → ViaRow) :
    ∃ rows, ((s.noteRow c ch round row f).ctxOf c).channel ch = { (s.ctxOf c).channel ch with rows := rows } := by
  rw [State.noteRow, State.setCtx_ctxOf_self, Ctx.setChannel_channel_self]
  exact Channel.putRow_eq _ _

theorem State.noteRow_regs (s : State) (c : Fin 4) (ch round row : Nat) (f : ViaRow → ViaRow) :
    (((s.noteRow c ch round row f).ctxOf c).channel ch).regs = ((s.ctxOf c).channel ch).regs := by
  obtain ⟨rows, h⟩ := s.noteRow_channel c ch round row f
  rw [h]

end

/-! ## Frames that are sent (R391, R392) -/

theorem field_ofNat_low {w n : Nat} (x : Nat) (h : n ≤ w) : field (BitVec.ofNat w x) 0 n = x % 2 ^ n := by
  rw [field, BitVec.toNat_ofNat, Nat.pow_zero, Nat.div_one, Nat.mod_mod_of_dvd _ (Nat.pow_dvd_pow 2 h)]

/-- Fields behind byte 0 leave the record's byte 0 alone. -/
theorem pack_byte_zero (x : Nat) (l : List (Nat × Nat × Nat)) (h : ∀ f ∈ l, f.1 ≠ 0) : pack ((0, 1, x) :: l) % 256 = x % 256 := by
  have hfold : pack ((0, 1, x) :: l) = l.foldl (fun acc f => acc + f.2.2 % 256 ^ f.2.1 * 256 ^ f.1) (x % 256) := by
    rw [pack, List.foldl_cons, Nat.zero_add, Nat.pow_one, Nat.pow_zero, Nat.mul_one]
  rw [hfold]
  refine List.foldlRecOn (motive := fun acc => acc % 256 = x % 256) l _ (Nat.mod_mod _ _) fun acc hacc f hf => ?_
  obtain ⟨q, hq⟩ := Dvd.dvd.mul_left (dvd_pow_self 256 (h f hf)) (f.2.2 % 256 ^ f.2.1)
  rw [hq, Nat.add_mul_mod_self_left, hacc]

/-- KIND lies in the lowest bits of the envelope. -/
theorem FrameInfo.encode_kind (f : FrameInfo) : (frameInfo f.encode).kind = f.kind % 8 := by
  have hlow (head crc msg : Nat) : (head + crc * 256 ^ 12 + msg * 256 ^ 16) % 2 ^ 3 = head % 256 % 8 := by omega
  rw [show (frameInfo f.encode).kind = field f.encode 0 3 from rfl, FrameInfo.encode, field_ofNat_low _ (by decide), hlow,
    pack_byte_zero _ _ (by simp)]
  omega

/-- Frames of a message group use sequence numbers of their channel. -/
theorem Channel.frames_channel (k : Channel) (ch kind round row : Nat) (edges : List Nat) (parts : List (Nat × List Word)) :
    ∃ seq, (k.frames ch kind round row edges parts).1 = { k with lseqSent := seq } := by
  refine List.foldlRecOn (motive := fun acc : Channel × List (BitVec 256) => ∃ seq, acc.1 = { k with lseqSent := seq }) parts _
    ⟨k.lseqSent, rfl⟩ fun acc ⟨seq, h⟩ p _ => ?_
  exact ⟨_, by simp only [h, Channel.nextLseq]; rfl⟩

/-- A control frame takes the next sequence number of its channel and goes to its port. -/
theorem State.sendControl_eq (s : State) (c : Fin 4) (ch kind round row edge : Nat) (w : Word) (port : Nat) :
    ∃ seq g, s.sendControl c ch kind round row edge w port =
        (s.setCtx c ((s.ctxOf c).setChannel ch { (s.ctxOf c).channel ch with lseqSent := seq })).sendFrame port g ∧
      (frameInfo g).kind = kind % 8 :=
  ⟨_, _, rfl, FrameInfo.encode_kind _⟩

theorem State.sendControl_viaOut (s : State) (c : Fin 4) (ch kind round row edge : Nat) (w : Word) (port : Nat) :
    ∃ at_ g, (s.sendControl c ch kind round row edge w port).glob.viaOut = s.glob.viaOut ++ [(port, at_, g)] ∧ (frameInfo g).kind = kind % 8 := by
  obtain ⟨seq, g, h, hkind⟩ := s.sendControl_eq c ch kind round row edge w port
  exact ⟨_, g, by rw [h]; rfl, hkind⟩

/-- Sending leaves the channels' registers and rows alone. -/
structure State.SendsFrame (s t : State) (c : Fin 4) (ch : Nat) : Prop where
  frame : s.ViaFrame t c
  channel : ∃ seq, (t.ctxOf c).channel ch = { (s.ctxOf c).channel ch with lseqSent := seq }

namespace State.SendsFrame

variable {s t u : State} {c : Fin 4} {ch : Nat}

theorem refl (s : State) (c : Fin 4) (ch : Nat) : s.SendsFrame s c ch := ⟨.refl s c, _, rfl⟩

theorem trans (h : s.SendsFrame t c ch) (k : t.SendsFrame u c ch) : s.SendsFrame u c ch := by
  obtain ⟨seq, hseq⟩ := h.channel
  obtain ⟨seq', hseq'⟩ := k.channel
  exact ⟨h.frame.trans k.frame, seq', by rw [hseq', hseq]⟩

theorem foldl {α : Type} {f : State → α → State} (h : ∀ (s : State) a, s.SendsFrame (f s a) c ch) (l : List α) (s : State) :
    s.SendsFrame (l.foldl f s) c ch :=
  List.foldlRecOn (motive := fun t => s.SendsFrame t c ch) l f (.refl s c ch) fun t ht a _ => ht.trans (h t a)

theorem sendFrame (s : State) (port : Nat) (f : BitVec 256) (c : Fin 4) (ch : Nat) : s.SendsFrame (s.sendFrame port f) c ch :=
  ⟨.setGlob .., _, rfl⟩

theorem setChannel {q : Channel} (h : ∃ seq, q = { (s.ctxOf c).channel ch with lseqSent := seq }) :
    s.SendsFrame (s.setCtx c ((s.ctxOf c).setChannel ch q)) c ch :=
  ⟨.setChannel .., by rw [State.setCtx_ctxOf_self, Ctx.setChannel_channel_self]; exact h⟩

theorem sendControl (s : State) (c : Fin 4) (ch kind round row edge : Nat) (w : Word) (port : Nat) :
    s.SendsFrame (s.sendControl c ch kind round row edge w port) c ch := by
  obtain ⟨seq, g, h, -⟩ := s.sendControl_eq c ch kind round row edge w port
  rw [h]
  exact (setChannel ⟨seq, rfl⟩).trans (.sendFrame ..)

theorem sendAbort (s : State) (c : Fin 4) (ch round code : Nat) (but : Option Nat) : s.SendsFrame (s.sendAbort c ch round code but) c ch :=
  .foldl (fun t _ => .sendControl t ..) _ _

theorem sendRow (s : State) (c : Fin 4) (ch round row port : Nat) (edges : List Nat) (msgs : List (List Word)) (part : Nat) :
    s.SendsFrame (s.sendRow c ch round row port edges msgs part).1 c ch := by
  refine List.foldlRecOn (motive := fun acc : State × List (BitVec 256) => s.SendsFrame acc.1 c ch) _ _ (refl s c ch) fun acc h k _ => ?_
  exact h.trans ((setChannel (Channel.frames_channel ..)).trans (.foldl (fun t f => .sendFrame t port f c ch) _ _))

theorem rowOf (h : s.SendsFrame t c ch) (round row : Nat) :
    ((t.ctxOf c).channel ch).rowOf round row = ((s.ctxOf c).channel ch).rowOf round row := by
  obtain ⟨seq, hseq⟩ := h.channel
  rw [hseq]
  rfl

end State.SendsFrame

end Sys2Proof.Machine

/-! PROOFS of the statements of 14_viaduct.md: the retry ladder (O36). -/

namespace Sys2Proof.Machine

/-! ## The ladder of a row (R400) -/

@[simp] theorem ViaRow.add_ladder (r : ViaRow) (f : FrameInfo) (l : Table (Nat × Nat)) :
    ({ r with ladder := l } : ViaRow).add f = { r.add f with ladder := l } := by
  simp only [ViaRow.add]
  split <;> split <;> rfl

/-- Early frames join a row whatever its ladder is, and leave the ladder as it is. -/
theorem ViaRow.foldl_add_ladder (frames : List (Nat × BitVec 256)) (r : ViaRow) (l : Table (Nat × Nat)) :
    frames.foldl (fun r v => r.add (frameInfo v.2)) { r with ladder := l } =
      { frames.foldl (fun r v => r.add (frameInfo v.2)) r with ladder := l } := by
  induction frames generalizing r with
  | nil => rfl
  | cons v frames ih => rw [List.foldl_cons, ViaRow.add_ladder, ih, List.foldl_cons]

theorem Channel.seenRow_ladder {k q : Channel} {round row : Nat} {r : ViaRow} {l : Table (Nat × Nat)} (hearly : q.early = k.early)
    (hk : k.rowOf round row = some r) (hq : q.rowOf round row = some { r with ladder := l }) :
    ∃ u, k.seenRow round row = some u ∧ u.ladder = r.ladder ∧ q.seenRow round row = some { u with ladder := l } := by
  simp only [Channel.seenRow, hk, hq, hearly, Option.map_some, ViaRow.foldl_add_ladder]
  have hladder : _ = _ := congrArg ViaRow.ladder
    (ViaRow.foldl_add_ladder (k.early.filter (fun v => (frameInfo v.2).round = round && (frameInfo v.2).row = row)) r r.ladder)
  exact ⟨_, rfl, hladder, rfl⟩

/-! ## Waits (R400, R401) -/

/-- A row, with its early frames, that still waits for a child. -/
def ViaRow.waitsUp (r : ViaRow) (regs : ViaRegs) (kinds : List Nat) (child : Nat) : Bool :=
  !(r.has regs kinds child || r.result.isSome || (r.upSent && !regs.order))

theorem State.upWait_eq_some {s : State} {c : Fin 4} {ch round row child : Nat} {w : Nat × Nat} :
    s.upWait c ch round row child = some w ↔ s.judges c = true ∧ ((s.ctxOf c).channel ch).regs.childValid child = true ∧
      ∃ u, ((s.ctxOf c).channel ch).seenRow round row = some u ∧
        u.waitsUp ((s.ctxOf c).channel ch).regs ((s.ctxOf c).roundKinds ch round) child = true ∧ u.ladder.get child (u.upStart, 0) = w := by
  cases hj : s.judges c <;> cases hv : ((s.ctxOf c).channel ch).regs.childValid child <;> simp only [State.upWait, hj, hv]
  case true.true =>
    cases hu : ((s.ctxOf c).channel ch).seenRow round row with
    | none => simp
    | some u =>
      cases hw : (u.has ((s.ctxOf c).channel ch).regs ((s.ctxOf c).roundKinds ch round) child || u.result.isSome ||
        (u.upSent && !((s.ctxOf c).channel ch).regs.order)) <;> simp only [ViaRow.waitsUp, hw, Option.some.injEq, exists_eq_left'] <;> simp
  all_goals simp

theorem State.downWait_eq_some {s : State} {c : Fin 4} {ch round row : Nat} {w : Nat × Nat} :
    s.downWait c ch round row = some w ↔ s.judges c = true ∧ ((s.ctxOf c).channel ch).live.contains round = true ∧
      ∃ r, ((s.ctxOf c).channel ch).rowOf round row = some r ∧ (r.upSent && r.result.isNone) = true ∧ (r.downStart, r.downRung) = w := by
  cases hj : s.judges c <;> cases hv : ((s.ctxOf c).channel ch).live.contains round <;> simp only [State.downWait, hj, hv]
  case true.true =>
    cases hr : ((s.ctxOf c).channel ch).rowOf round row with
    | none => simp
    | some r => cases hu : r.upSent <;> cases hn : r.result <;> simp [hu, hn]
  all_goals simp

/-! ## A rung that is passed (R400, R401) -/

/-- Between a wait and the rung that it passes, the counts of the channel, the ports of its edges and its sequence numbers may move. -/
structure State.LadderFrame (s u : State) (c : Fin 4) (ch : Nat) : Prop where
  frame : s.ViaFrame u c
  channel : ∃ late resends paired seq, (u.ctxOf c).channel ch =
    { (s.ctxOf c).channel ch with late := late, resends := resends, paired := paired, lseqSent := seq }

section
variable {s u : State} {c : Fin 4} {ch round row edge start passed : Nat}

theorem State.LadderFrame.rowOf (h : s.LadderFrame u c ch) :
    ((u.ctxOf c).channel ch).rowOf round row = ((s.ctxOf c).channel ch).rowOf round row := by
  obtain ⟨late, resends, paired, seq, hk⟩ := h.channel
  rw [hk]
  rfl

/-- A rung that is passed writes the rows of its channel. -/
theorem State.passRung_channel (u : State) (c : Fin 4) (ch round row edge start n : Nat) :
    ∃ rows, ((u.passRung c ch round row edge start n).ctxOf c).channel ch = { (u.ctxOf c).channel ch with rows := rows } :=
  State.noteRow_channel ..

/-- After the rung the channel has its registers, live rounds and early store as before. -/
theorem State.LadderFrame.passRung_channel (h : s.LadderFrame u c ch) (n : Nat) :
    let q := ((u.passRung c ch round row edge start n).ctxOf c).channel ch
    q.regs = ((s.ctxOf c).channel ch).regs ∧ q.live = ((s.ctxOf c).channel ch).live ∧ q.early = ((s.ctxOf c).channel ch).early := by
  obtain ⟨late, resends, paired, seq, hk⟩ := h.channel
  obtain ⟨rows, hn⟩ := u.passRung_channel c ch round row edge start n
  rw [hn, hk]
  exact ⟨rfl, rfl, rfl⟩

theorem State.LadderFrame.passRung_frame (h : s.LadderFrame u c ch) (n : Nat) : s.ViaFrame (u.passRung c ch round row edge start n) c :=
  h.frame.trans (.noteRow ..)

theorem State.passRung_rowOf {r : ViaRow} (n : Nat) (h : ((u.ctxOf c).channel ch).rowOf round row = some r) :
    (((u.passRung c ch round row edge start n).ctxOf c).channel ch).rowOf round row =
      some (if edge = 8 then { r with downRung := n } else { r with ladder := r.ladder.set edge (start, n) }) :=
  State.noteRow_rowOf_some h fun r => by split <;> exact ⟨rfl, rfl⟩

/-- The wait for a child then stands at the rung, from the same start. -/
theorem State.LadderFrame.upWait_passRung (h : s.LadderFrame u c ch) (hedge : edge < 8) (n : Nat)
    (hw : s.upWait c ch round row edge = some (start, passed)) :
    (u.passRung c ch round row edge start n).upWait c ch round row edge = some (start, n) := by
  obtain ⟨hj, hv, v, hseen, hwaits, hget⟩ := State.upWait_eq_some.1 hw
  obtain ⟨r, hr, -⟩ := Option.map_eq_some_iff.1 hseen
  obtain ⟨hregs, -, hearly⟩ := h.passRung_channel (round := round) (row := row) (edge := edge) (start := start) n
  have hrow := State.passRung_rowOf (edge := edge) (start := start) n (h.rowOf.trans hr)
  rw [if_neg (by omega)] at hrow
  obtain ⟨v', hseen', -, hnew⟩ := Channel.seenRow_ladder hearly hr hrow
  obtain rfl : v = v' := Option.some.inj (hseen.symm.trans hseen')
  refine State.upWait_eq_some.2 ⟨(h.passRung_frame n).judges.trans hj, hregs ▸ hv, _, hnew, ?_, Table.get_set_self ..⟩
  rw [hregs, (h.passRung_frame n).roundKinds hregs]
  exact hwaits

/-- The wait for the parent then stands at the rung, from the same start. -/
theorem State.LadderFrame.downWait_passRung (h : s.LadderFrame u c ch) (n : Nat) (hw : s.downWait c ch round row = some (start, passed)) :
    (u.passRung c ch round row 8 start n).downWait c ch round row = some (start, n) := by
  obtain ⟨hj, hl, r, hr, hwaits, heq⟩ := State.downWait_eq_some.1 hw
  obtain ⟨-, hlive, -⟩ := h.passRung_channel (round := round) (row := row) (edge := 8) (start := start) n
  have hrow := State.passRung_rowOf (edge := 8) (start := start) n (h.rowOf.trans hr)
  exact State.downWait_eq_some.2 ⟨(h.passRung_frame n).judges.trans hj, hlive ▸ hl, _, hrow, hwaits, congrArg (·, n) (congrArg Prod.fst heq)⟩

end

/-! ## The rungs (R400 to R402) -/

/-- The budgets after which a rung is due. -/
def rungBudgets (n : Nat) : Nat := if n = 1 then 1 else if n = 2 then 2 else 4

theorem State.countPort_below {s : State} (port : Nat) (h : s.glob.portResends.get port 0 < 3) :
    s.countPort port true = s.setGlob { s.glob with portResends := s.glob.portResends.set port (s.glob.portResends.get port 0 + 1) } := by
  simp only [State.countPort, if_true]
  exact if_neg (by omega)

section
variable {s : State} {c : Fin 4} {ch round row edge start passed budget : Nat}

/-- A frame LATE is counted on its channel. -/
theorem State.countLate_channel (s : State) (c : Fin 4) (ch : Nat) : ((s.countLate c ch false).ctxOf c).channel ch =
    { (s.ctxOf c).channel ch with late := satAdd ((s.ctxOf c).channel ch).late 1 } := by
  rw [State.countLate, State.setCtx_ctxOf_self, Ctx.setChannel_channel_self]
  rfl

/-- A RESEND goes out on the paired port, and is counted, while the first port stays below the count at which it fails. -/
theorem State.askAgain_spec (round row : Nat) (h : s.glob.portResends.get (s.edgePort ((s.ctxOf c).channel ch).regs edge false) 0 < 3) :
    s.LadderFrame (s.askAgain c ch round row edge) c ch ∧
    (((s.askAgain c ch round row edge).ctxOf c).channel ch).resends = satAdd ((s.ctxOf c).channel ch).resends 1 ∧
    ∃ at_ g, (s.askAgain c ch round row edge).glob.viaOut =
        s.glob.viaOut ++ [(s.edgePort ((s.ctxOf c).channel ch).regs edge true, at_, g)] ∧ (frameInfo g).kind = 5 := by
  obtain ⟨seq, g, hsend, hkind⟩ := ((s.pairEdge c ch round edge).countLate c ch true).sendControl_eq c ch 5 round row edge 0
    (s.edgePort ((s.ctxOf c).channel ch).regs edge true)
  have hagain : s.askAgain c ch round row edge = _ := (congrArg (fun u : State => u.countPort _ true) hsend).trans (State.countPort_below _ h)
  have hpaired : ((s.pairEdge c ch round edge).ctxOf c).channel ch = ((s.ctxOf c).channel ch).pairEdge round edge := by
    rw [State.pairEdge, State.setCtx_ctxOf_self, Ctx.setChannel_channel_self]
  have hcounted : (((s.pairEdge c ch round edge).countLate c ch true).ctxOf c).channel ch =
      { ((s.ctxOf c).channel ch).pairEdge round edge with resends := satAdd ((s.ctxOf c).channel ch).resends 1 } := by
    rw [State.countLate, State.setCtx_ctxOf_self, Ctx.setChannel_channel_self, hpaired]
    rfl
  rw [hcounted] at hagain
  have hchannel : ((s.askAgain c ch round row edge).ctxOf c).channel ch =
      { ((s.ctxOf c).channel ch).pairEdge round edge with resends := satAdd ((s.ctxOf c).channel ch).resends 1, lseqSent := seq } := by
    rw [hagain, State.setGlob_ctxOf, State.sendFrame, State.setGlob_ctxOf, State.setCtx_ctxOf_self, Ctx.setChannel_channel_self]
  refine ⟨⟨?_, _, _, _, _, hchannel⟩, by rw [hchannel], _, g, by rw [hagain]; rfl, hkind⟩
  rw [hagain]
  exact ((State.ViaFrame.setChannel ..).trans (.setChannel ..)).trans ((State.ViaFrame.setChannel ..).trans ((State.ViaFrame.setGlob ..).trans (.setGlob ..)))

/-- No rung before its beat, and none twice. -/
theorem State.rung_waits {n : Nat} (h : s.time.beat < start + budget * rungBudgets n ∨ n ≤ passed) :
    s.rung c ch round row edge (some (start, passed)) budget n = s := by
  refine if_pos ?_
  simp only [Bool.or_eq_true, Bool.not_eq_true', decide_eq_false_iff_not, decide_eq_true_eq]
  exact .inl (h.imp Nat.not_le.2 id)

/-- A rung that is due, and not passed yet, is not held back in a context that runs. -/
theorem State.rung_due {n : Nat} (hr : s.runs c = true) (h : start + budget * rungBudgets n ≤ s.time.beat) (hp : passed < n) :
    ¬(!decide (s.time.beat ≥ start + budget * rungBudgets n) || decide (passed ≥ n) || (decide (n < 3) && !s.runs c)) = true := by
  simp [h, hp, hr]

theorem State.rung_late (hr : s.runs c = true) (h : start + budget ≤ s.time.beat) (hp : passed < 1) :
    s.rung c ch round row edge (some (start, passed)) budget 1 = (s.countLate c ch false).passRung c ch round row edge start 1 :=
  if_neg (State.rung_due (n := 1) hr (by simpa [rungBudgets] using h) hp)

theorem State.rung_again (hr : s.runs c = true) (h : start + 2 * budget ≤ s.time.beat) (hp : passed < 2) :
    s.rung c ch round row edge (some (start, passed)) budget 2 = (s.askAgain c ch round row edge).passRung c ch round row edge start 2 :=
  if_neg (State.rung_due (n := 2) hr (by simpa [rungBudgets, Nat.mul_comm] using h) hp)

theorem State.rung_timeout (hr : s.runs c = true) (h : start + 4 * budget ≤ s.time.beat) (hp : passed < 3) :
    let regs := ((s.ctxOf c).channel ch).regs
    s.rung c ch round row edge (some (start, passed)) budget 3 =
      s.raiseBare c { code := 0x0801, detail := viaDetail ch round edge (s.edgePort regs edge true) row (regs.edgeAddr edge) 0 } :=
  if_neg (State.rung_due (n := 3) hr (by simpa [rungBudgets, Nat.mul_comm] using h) hp)

end

/-! ## Both ladders (R400, R401) -/

/-- What the three rows of a ladder do with the wait that they find, in the words of O36. -/
def State.Climbs (s s₀ : State) (c : Fin 4) (ch : Nat) (wait : State → Option (Nat × Nat)) (budget edge : Nat) (late again out : Instr) : Prop :=
  let k := (s.ctxOf c).channel ch
  ∀ start passed, s.runs c = true → wait s = some (start, passed) →
    (s.time.beat < start + budget ∨ 1 ≤ passed → exec late s₀ = .next s) ∧
    (s.time.beat < start + 2 * budget ∨ 2 ≤ passed → exec again s₀ = .next s) ∧
    (s.time.beat < start + 4 * budget → exec out s₀ = .next s) ∧
    (start + budget ≤ s.time.beat → passed = 0 → ∃ t, exec late s₀ = .next t ∧ s.OnlyCtx t c ∧ wait t = some (start, 1) ∧
      ((t.ctxOf c).channel ch).late = satAdd k.late 1) ∧
    (start + 2 * budget ≤ s.time.beat → passed ≤ 1 → s.glob.portResends.get (s.edgePort k.regs edge false) 0 < 3 →
      ∃ t at_ f, exec again s₀ = .next t ∧ wait t = some (start, 2) ∧ ((t.ctxOf c).channel ch).resends = satAdd k.resends 1 ∧
        t.glob.viaOut = s.glob.viaOut ++ [(s.edgePort k.regs edge true, at_, f)] ∧ (frameInfo f).kind = 5) ∧
    (start + 4 * budget ≤ s.time.beat → passed ≤ 2 → ∃ t q, exec out s₀ = .next t ∧ s.Halts t c q ∧ q.code = 0x0801)

/-- A ladder climbs where its rows are its rungs, and a rung that is passed stands in the wait. -/
theorem State.climbs_of_rungs {s₀ s : State} {c : Fin 4} {ch round row edge budget : Nat} {wait : State → Option (Nat × Nat)}
    {late again out : Instr}
    (hlate : exec late s₀ = .next (s.rung c ch round row edge (wait s) budget 1))
    (hagain : exec again s₀ = .next (s.rung c ch round row edge (wait s) budget 2))
    (hout : exec out s₀ = .next (s.rung c ch round row edge (wait s) budget 3))
    (hpass : ∀ (u : State) (n start passed : Nat), s.LadderFrame u c ch → wait s = some (start, passed) →
      wait (u.passRung c ch round row edge start n) = some (start, n)) :
    s.Climbs s₀ c ch wait budget edge late again out := by
  intro start passed hr hw
  rw [hw] at hlate hagain hout
  refine ⟨fun h => ?_, fun h => ?_, fun h => ?_, fun h hp => ?_, fun h hp hport => ?_, fun h hp => ?_⟩
  · rw [hlate, State.rung_waits (by simpa [rungBudgets] using h)]
  · rw [hagain, State.rung_waits (by simpa [rungBudgets, Nat.mul_comm] using h)]
  · rw [hout, State.rung_waits (.inl (by simpa [rungBudgets, Nat.mul_comm] using h))]
  · have hframe : s.LadderFrame (s.countLate c ch false) c ch := ⟨.setChannel .., _, _, _, _, State.countLate_channel ..⟩
    obtain ⟨rows, hrows⟩ := (s.countLate c ch false).passRung_channel c ch round row edge start 1
    rw [State.rung_late hr h (by omega)] at hlate
    refine ⟨_, hlate, ?_, hpass _ _ _ _ hframe hw, by rw [hrows, State.countLate_channel]⟩
    exact (congrArg (State.OnlyCtx s · c) (State.setCtx_setCtx ..)).mpr (State.onlyCtx_setCtx ..)
  · obtain ⟨hframe, hresends, at_, g, hsent, hkind⟩ := State.askAgain_spec round row hport
    obtain ⟨rows, hrows⟩ := (s.askAgain c ch round row edge).passRung_channel c ch round row edge start 2
    rw [State.rung_again hr h (by omega)] at hagain
    exact ⟨_, at_, g, hagain, hpass _ _ _ _ hframe hw, by rw [hrows, hresends], hsent, hkind⟩
  · rw [State.rung_timeout hr h (by omega)] at hout
    exact ⟨_, _, hout, State.raiseBare_halts _ _ hr, rfl⟩

/-- Settles O36: the rows of both ladders are their rungs, and each wait records the rung that is passed. -/
theorem laddersClimbByTheirBudget : Obligations.LaddersClimbByTheirBudget := by
  intro c ch round row beat child s₀
  have hup : (s₀.advanceTo beat).Climbs s₀ c ch (fun t => t.upWait c ch round row child) _ child (.viaductUpLate c ch round row child beat)
      (.viaductUpResendTimer c ch round row child beat) (.viaductUpTimeout c ch round row child beat) :=
    State.climbs_of_rungs rfl rfl rfl fun u n start passed h hw => h.upWait_passRung child.isLt n hw
  have hdown : (s₀.advanceTo beat).Climbs s₀ c ch (fun t => t.downWait c ch round row) _ 8 (.viaductDownLate c ch round row beat)
      (.viaductDownResendTimer c ch round row beat) (.viaductDownTimeout c ch round row beat) :=
    State.climbs_of_rungs rfl rfl rfl fun u n start passed h hw => h.downWait_passRung n hw
  exact ⟨hup, hdown⟩

end Sys2Proof.Machine

/-! PROOFS of the statements of 14_viaduct.md: frames that are discarded, stored early or delivered (O34). -/

namespace Sys2Proof.Machine

/-! ## What a row sends up and down (R391, R398, R401) -/

section
variable {s : State} {c : Fin 4} {ch round row : Nat} {r : ViaRow}

/-- A row whose frames have gone up: the first to leave starts the down timer. -/
def ViaRow.sentUp (r : ViaRow) (frames : List (BitVec 256)) (leaves : Nat) : ViaRow :=
  { r with sent := r.sent ++ frames, upSent := true, downStart := if r.upSent then r.downStart else leaves }

theorem State.viaUp_eq (s : State) (c : Fin 4) (ch round row : Nat) (msgs : List (List Word)) (part : Nat) :
    ∃ port leaves, s.viaUp c ch round row msgs part =
      (s.sendRow c ch round row port [8] msgs part).1.noteRow c ch round row
        (fun r => r.sentUp (s.sendRow c ch round row port [8] msgs part).2 leaves) := ⟨_, _, rfl⟩

/-- Of a row that sends to the parent only what has gone up moves. -/
theorem State.viaUp_spec (msgs : List (List Word)) (part : Nat) (h : ((s.ctxOf c).channel ch).rowOf round row = some r) :
    s.ViaFrame (s.viaUp c ch round row msgs part) c ∧
    ∃ frames leaves, (((s.viaUp c ch round row msgs part).ctxOf c).channel ch).rowOf round row = some (r.sentUp frames leaves) := by
  obtain ⟨port, leaves, heq⟩ := s.viaUp_eq c ch round row msgs part
  have hsent := State.SendsFrame.sendRow s c ch round row port [8] msgs part
  rw [heq]
  exact ⟨hsent.frame.trans (.noteRow ..), _, leaves, State.noteRow_rowOf_some ((hsent.rowOf round row).trans h) fun _ => ⟨rfl, rfl⟩⟩

/-- The frames of a delivery that go to one port, for the children of `kids` that it reaches. -/
def State.deliverOn (c : Fin 4) (ch round row : Nat) (msgs : List (List Word)) (kids : List (Nat × Nat)) (s : State) (port : Nat) : State :=
  let mine := (kids.filter (fun q => q.1 = port)).map Prod.snd
  if mine.isEmpty then s
  else
    let sent := s.sendRow c ch round row port mine msgs 0
    sent.1.noteRow c ch round row (fun r => { r with downSent := r.downSent ++ sent.2 })

theorem State.viaDeliver_eq (s : State) (c : Fin 4) (ch round row : Nat) (msgs : List (List Word)) :
    ∃ kids, s.viaDeliver c ch round row msgs = (List.range 4).foldl (State.deliverOn c ch round row msgs kids)
      (s.noteRow c ch round row (fun r => { r with result := some msgs })) := ⟨_, rfl⟩

/-- A delivery on a port adds to the frames that the row has sent down. -/
theorem State.deliverOn_spec (msgs : List (List Word)) (kids : List (Nat × Nat)) (port : Nat)
    (h : ((s.ctxOf c).channel ch).rowOf round row = some r) :
    s.ViaFrame (s.deliverOn c ch round row msgs kids port) c ∧
    ∃ down, (((s.deliverOn c ch round row msgs kids port).ctxOf c).channel ch).rowOf round row = some { r with downSent := down } := by
  unfold State.deliverOn
  simp only []
  split
  · exact ⟨.refl .., r.downSent, h⟩
  · have hsent := State.SendsFrame.sendRow s c ch round row port
    exact ⟨(hsent _ _ _).frame.trans (.noteRow ..), _, State.noteRow_rowOf_some (((hsent _ _ _).rowOf round row).trans h) fun _ => ⟨rfl, rfl⟩⟩

/-- A row that is delivered has its result, and of its other parts only the frames down move. -/
theorem State.viaDeliver_spec (msgs : List (List Word)) (h : ((s.ctxOf c).channel ch).rowOf round row = some r) :
    s.ViaFrame (s.viaDeliver c ch round row msgs) c ∧
    ∃ down, (((s.viaDeliver c ch round row msgs).ctxOf c).channel ch).rowOf round row = some { r with result := some msgs, downSent := down } := by
  obtain ⟨kids, heq⟩ := s.viaDeliver_eq c ch round row msgs
  rw [heq]
  refine List.foldlRecOn (motive := fun t : State => s.ViaFrame t c ∧
    ∃ down, ((t.ctxOf c).channel ch).rowOf round row = some { r with result := some msgs, downSent := down }) _ _
    ⟨.noteRow .., r.downSent, State.noteRow_rowOf_some h fun _ => ⟨rfl, rfl⟩⟩ fun t ⟨hframe, down, hrow⟩ port _ => ?_
  obtain ⟨hon, down', hrow'⟩ := State.deliverOn_spec msgs kids port hrow
  exact ⟨hframe.trans hon, down', hrow'⟩

end

/-! ## Failed ports (R405) -/

/-- Halts begin, and the shared cache, the global registers and every context's channels are as before. -/
structure State.HaltsFrame (s t : State) : Prop where
  mem : t.mem = s.mem
  glob : t.glob = s.glob
  channels : ∀ d, (t.ctxOf d).channels = (s.ctxOf d).channels

namespace State.HaltsFrame

variable {s t u : State}

theorem refl (s : State) : s.HaltsFrame s := ⟨rfl, rfl, fun _ => rfl⟩

theorem trans (h : s.HaltsFrame t) (k : t.HaltsFrame u) : s.HaltsFrame u :=
  ⟨k.mem.trans h.mem, k.glob.trans h.glob, fun d => (k.channels d).trans (h.channels d)⟩

theorem foldl {α : Type} {f : State → α → State} (h : ∀ (s : State) a, s.HaltsFrame (f s a)) (l : List α) (s : State) :
    s.HaltsFrame (l.foldl f s) :=
  List.foldlRecOn (motive := fun t => s.HaltsFrame t) l f (.refl s) fun t ht a _ => ht.trans (h t a)

theorem raiseBare (s : State) (c : Fin 4) (q : Cause) : s.HaltsFrame (s.raiseBare c q) := by
  refine ⟨State.raiseBare_mem .., State.raiseBare_glob .., fun d => ?_⟩
  by_cases hd : d = c
  · subst hd
    obtain ⟨h, n, hx⟩ := s.raise_ctxOf d { q with tag := (s.ctxOf d).oldestBundle.1, addr := (s.ctxOf d).oldestBundle.2 }
    exact (congrArg Ctx.channels hx :)
  · rw [State.raiseBare_ctxOf_ne s q hd]

theorem channel (h : s.HaltsFrame t) (d : Fin 4) (ch : Nat) : (t.ctxOf d).channel ch = (s.ctxOf d).channel ch :=
  congrArg (fun l : Table Channel => l.get ch {}) (h.channels d)

end State.HaltsFrame

/-- Where a port does not fail, the contexts are as before; where it does, they may halt, and their channels stay. -/
structure State.PortFails (s t : State) : Prop where
  mem : t.mem = s.mem
  channel : ∀ d ch, (t.ctxOf d).channel ch = (s.ctxOf d).channel ch
  portCrc : t.glob.portCrc = s.glob.portCrc
  marks : t.ctx = s.ctx ∨ t.glob.portFailed ≠ s.glob.portFailed

theorem State.PortFails.refl (s : State) : s.PortFails s := ⟨rfl, fun _ _ => rfl, rfl, .inl rfl⟩

theorem State.failPort_frame (s : State) (port : Fin 4) : s.PortFails (s.failPort port) := by
  by_cases hb : bit s.glob.portFailed port = true
  · rw [State.failPort, if_pos hb]
    exact .refl s
  · have hmark : (s.markPort port).HaltsFrame (s.failPort port) := by
      rw [State.failPort, if_neg hb]
      simp only []
      split
      · refine .foldl (fun t c => ?_) _ _
        split
        · exact .raiseBare ..
        · exact .refl _
      · exact .refl _
    refine ⟨hmark.mem.trans ?_, fun d ch => (hmark.channel d ch).trans ?_, ?_, .inr fun he => hb ?_⟩
    · rw [State.markPort, State.absorb_mem, State.setGlob_mem]
    · rw [State.markPort, State.absorb_ctxOf, State.setGlob_ctxOf]
    · rw [hmark.glob, State.markPort, State.absorb_glob]
      rfl
    · rw [← he, hmark.glob, State.markPort, State.absorb_glob]
      exact putBit_getLsbD _ port.isLt

/-- One more CRC discard is counted on a port. -/
def State.countCrc (s : State) (port : Nat) : State :=
  s.setGlob { s.glob with portCrc := s.glob.portCrc.set port (s.glob.portCrc.get port 0 + 1) }

/-- The port of the sixteenth CRC discard of a stroke fails. -/
theorem State.countPort_crc (s : State) (port : Nat) : s.countPort port false =
    if s.glob.portCrc.get port 0 + 1 ≥ 16 then (s.countCrc port).failPort port else s.countCrc port := rfl

theorem State.countPort_frame (s : State) (port : Fin 4) : (s.countCrc port).PortFails (s.countPort port false) := by
  rw [State.countPort_crc]
  split
  · exact State.failPort_frame _ port
  · exact .refl _

/-! ## Frames received (R394, R404) -/

/-- The state in which a context has heard a frame. -/
def State.hear (s : State) (c : Fin 4) (ch : Nat) (f : FrameInfo) : State :=
  s.setCtx c ((s.ctxOf c).setChannel ch (((s.ctxOf c).channel ch).heard f))

section
variable {s : State} {c : Fin 4} {ch port : Nat} {v : BitVec 256} {use : State → FrameInfo → State}

theorem State.viaReceive_bad (h : frameCrcOk v = false) : s.viaReceive c ch port v use = (s.viaDiscard c ch 3).countPort port false := by
  rw [State.viaReceive, h]
  rfl

variable (hok : frameCrcOk v = true)
include hok

theorem State.viaReceive_discards {why : Nat} (h : ((s.ctxOf c).channel ch).discards ch (frameInfo v) = some why) :
    s.viaReceive c ch port v use = s.viaDiscard c ch why := by
  simp [State.viaReceive, hok, h]

variable (hd : ((s.ctxOf c).channel ch).discards ch (frameInfo v) = none)
include hd

theorem State.viaReceive_halted (hr : s.runs c = false) (hk : (frameInfo v).kind ≠ 7) : s.viaReceive c ch port v use = s := by
  simp [State.viaReceive, hok, hd, hr, hk]

variable (hr : s.runs c = true)
include hr

/-- What a context that runs does with a frame that is not discarded. -/
theorem State.viaReceive_taken : s.viaReceive c ch port v use =
    let k := (s.ctxOf c).channel ch
    let f := frameInfo v
    if k.live.contains f.round then use (s.hear c ch f) f
    else if f.kind > 4 then use (s.hear c ch f) f
    else if k.earlyFull f then s.viaDiscard c ch 2
    else s.setCtx c ((s.ctxOf c).setChannel ch
      { (k.heard f).putRow (k.rowOrNew f.round f.row s.time.beat) with early := k.early ++ [(s.time.beat, v)] }) := by
  simp only [State.viaReceive, State.hear, hok, hd, hr, Bool.not_true, Bool.true_or, Bool.false_eq_true, if_false]

/-- A frame of a live round, and every control frame, is handed on. -/
theorem State.viaReceive_uses (h : ((s.ctxOf c).channel ch).live.contains (frameInfo v).round = true ∨ (frameInfo v).kind > 4) :
    s.viaReceive c ch port v use = use (s.hear c ch (frameInfo v)) (frameInfo v) := by
  rw [State.viaReceive_taken hok hd hr]
  simp only []
  split
  · rfl
  · next hlive => exact if_pos (h.resolve_left hlive)

variable (hl : ((s.ctxOf c).channel ch).live.contains (frameInfo v).round = false) (hk : (frameInfo v).kind ≤ 4)
include hl hk

theorem State.viaReceive_busy (h : ((s.ctxOf c).channel ch).earlyFull (frameInfo v) = true) :
    s.viaReceive c ch port v use = s.viaDiscard c ch 2 := by
  simp only [State.viaReceive_taken hok hd hr, hl, Nat.not_lt.2 hk, h, Bool.false_eq_true, if_false, if_true]

theorem State.viaReceive_early (h : ((s.ctxOf c).channel ch).earlyFull (frameInfo v) = false) :
    s.viaReceive c ch port v use = s.setCtx c ((s.ctxOf c).setChannel ch
      { (((s.ctxOf c).channel ch).heard (frameInfo v)).putRow
          (((s.ctxOf c).channel ch).rowOrNew (frameInfo v).round (frameInfo v).row s.time.beat) with
        early := ((s.ctxOf c).channel ch).early ++ [(s.time.beat, v)] }) := by
  simp only [State.viaReceive_taken hok hd hr, hl, Nat.not_lt.2 hk, h, Bool.false_eq_true, if_false]

end

/-- Every row that receives frames discards one whose CRC fails. -/
theorem exec_bad_frame (c : Fin 4) (ch : Fin 8) (port : Fin 4) {v : BitVec 256} (beat : Nat) (s : State) (h : frameCrcOk v = false) :
    ∀ row ∈ [Instr.viaductUpFrame c ch port v beat, .viaductDownFrame c ch port v beat, .resend c ch port v beat,
        .hold c ch port v beat, .abort c ch port v beat],
      exec row s = .next (((s.advanceTo beat).viaDiscard c ch 3).countPort port false) := by
  have hif {p : Bool} {t u : State} : (if (frameCrcOk v && p) = true then t else u) = u := if_neg (by simp [h])
  intro row hrow
  simp only [List.mem_cons, List.not_mem_nil, or_false] at hrow
  rcases hrow with rfl | rfl | rfl | rfl | rfl <;> exact congrArg Host.Outcome.next (hif.trans (State.viaReceive_bad h))

theorem State.viaData_own (s : State) (c : Fin 4) (ch port : Nat) {v : BitVec 256} (h : (frameInfo v).kind ≤ 4) :
    s.viaData c ch port v (frameInfo v).down = s.viaReceive c ch port v (fun s f => s.viaTake c ch f) :=
  if_neg (by simp [Nat.not_lt.2 h])

/-- A data frame is received by the row of its direction. -/
theorem exec_data_frame (c : Fin 4) (ch : Fin 8) (port : Fin 4) {v : BitVec 256} (beat : Nat) (s : State) (h : (frameInfo v).kind ≤ 4) :
    exec (if (frameInfo v).down then .viaductDownFrame c ch port v beat else .viaductUpFrame c ch port v beat) s =
      .next ((s.advanceTo beat).viaReceive c ch port v (fun s f => s.viaTake c ch f)) := by
  rw [← State.viaData_own _ c ch port h]
  cases (frameInfo v).down <;> rfl

/-! ## A down frame joins its row (R398) -/

theorem ViaRow.add_key (r : ViaRow) (f : FrameInfo) : (r.add f).round = r.round ∧ (r.add f).row = r.row := by
  simp only [ViaRow.add]
  split <;> split <;> exact ⟨rfl, rfl⟩

section
variable {s : State} {c : Fin 4} {ch : Nat} {f : FrameInfo}

/-- A frame joins its row, or a new one. -/
theorem State.joinRow_rowOf (s : State) (c : Fin 4) (ch : Nat) (f : FrameInfo) :
    (((s.noteRow c ch f.round f.row (fun r => r.add f)).ctxOf c).channel ch).rowOf f.round f.row =
      some ((((s.ctxOf c).channel ch).rowOrNew f.round f.row s.time.beat).add f) :=
  State.noteRow_rowOf s c ch f.round f.row fun r => r.add_key f

/-- A down frame that is not the last of its row's group only joins its row. -/
theorem State.viaTake_down_waits (hdown : f.down = true)
    (h : ((((s.ctxOf c).channel ch).rowOrNew f.round f.row s.time.beat).add f).downWhole ((s.ctxOf c).roundKinds ch f.round) = false) :
    s.viaTake c ch f = s.noteRow c ch f.round f.row (fun r => r.add f) := by
  simp only [State.viaTake, hdown, if_true, State.joinRow_rowOf, h, Bool.false_and, Bool.false_eq_true, if_false]

theorem State.viaTake_down_has_result (hdown : f.down = true)
    (h : ((((s.ctxOf c).channel ch).rowOrNew f.round f.row s.time.beat).add f).result.isNone = false) :
    s.viaTake c ch f = s.noteRow c ch f.round f.row (fun r => r.add f) := by
  simp only [State.viaTake, hdown, if_true, State.joinRow_rowOf, h, Bool.and_false, Bool.false_eq_true, if_false]

/-- The last down frame of a row's group delivers the row. -/
theorem State.viaTake_down_delivers (hdown : f.down = true)
    (h : ((((s.ctxOf c).channel ch).rowOrNew f.round f.row s.time.beat).add f).downWhole ((s.ctxOf c).roundKinds ch f.round) = true)
    (hn : ((((s.ctxOf c).channel ch).rowOrNew f.round f.row s.time.beat).add f).result = none) :
    let row := (((s.ctxOf c).channel ch).rowOrNew f.round f.row s.time.beat).add f
    let kinds := (s.ctxOf c).roundKinds ch f.round
    s.ViaFrame (s.viaTake c ch f) c ∧ ∃ down, (((s.viaTake c ch f).ctxOf c).channel ch).rowOf f.round f.row =
      some { row with downAt := some s.time.beat, result := some (row.downMessages kinds), downSent := down } := by
  intro row kinds
  have heq : s.viaTake c ch f = ((s.noteRow c ch f.round f.row (fun r => r.add f)).noteRow c ch f.round f.row
      (fun r => { r with downAt := some s.time.beat })).viaDeliver c ch f.round f.row (row.downMessages kinds) := by
    simp only [State.viaTake, hdown, if_true, State.joinRow_rowOf, h, hn, Option.isNone_none, Bool.and_self]
    rfl
  obtain ⟨hframe, down, hrow⟩ := State.viaDeliver_spec (row.downMessages kinds)
    (State.noteRow_rowOf_some (f := fun r => { r with downAt := some s.time.beat }) (s.joinRow_rowOf c ch f) fun _ => ⟨rfl, rfl⟩)
  rw [heq]
  exact ⟨((State.ViaFrame.noteRow ..).trans (.noteRow ..)).trans hframe, down, hrow⟩

end

/-- A frame that is heard leaves the rows and the kinds of its round as they are. -/
structure State.HearsFrame (s u : State) (c : Fin 4) (ch : Nat) : Prop where
  onlyCtx : s.OnlyCtx u c
  frame : s.ViaFrame u c
  rowOf : ∀ round row, ((u.ctxOf c).channel ch).rowOf round row = ((s.ctxOf c).channel ch).rowOf round row
  regs : ((u.ctxOf c).channel ch).regs = ((s.ctxOf c).channel ch).regs

theorem State.hear_frame (s : State) (c : Fin 4) (ch : Nat) (f : FrameInfo) :
    s.HearsFrame (s.hear c ch f) c ch := by
  refine ⟨State.onlyCtx_setCtx .., .setChannel .., fun _ _ => ?_, ?_⟩
  all_goals
    rw [State.hear, State.setCtx_ctxOf_self, Ctx.setChannel_channel_self]
    rfl

/-- A row's frames then join it as they would have before. -/
theorem State.HearsFrame.rowOrNew {s u : State} {c : Fin 4} {ch : Nat} (h : s.HearsFrame u c ch) (round row : Nat) :
    ((u.ctxOf c).channel ch).rowOrNew round row u.time.beat = ((s.ctxOf c).channel ch).rowOrNew round row s.time.beat := by
  rw [Channel.rowOrNew, h.rowOf, h.frame.time, Channel.rowOrNew]

theorem State.HearsFrame.noteRow_onlyCtx {s u : State} {c : Fin 4} {ch : Nat} (h : s.HearsFrame u c ch) (round row : Nat) (f : ViaRow → ViaRow) :
    s.OnlyCtx (u.noteRow c ch round row f) c := by
  rw [show u = _ from h.onlyCtx, State.noteRow, State.setCtx_setCtx]
  exact State.onlyCtx_setCtx ..

/-- A good down frame of a live round in its row (R398), as O34 has it. -/
theorem State.HearsFrame.viaTake_down {s u : State} {c : Fin 4} {ch : Nat} {f : FrameInfo} (h : s.HearsFrame u c ch) (hdown : f.down = true) :
    let kinds := (s.ctxOf c).roundKinds ch f.round
    let row := (((s.ctxOf c).channel ch).rowOrNew f.round f.row s.time.beat).add f
    ∃ r, (u.viaTake c ch f).mem = s.mem ∧ (((u.viaTake c ch f).ctxOf c).channel ch).rowOf f.round f.row = some r ∧
      (row.downWhole kinds = true → row.result = none → r.result = some (row.downMessages kinds) ∧ r.downAt = some s.time.beat) ∧
      (row.downWhole kinds = false → r = row ∧ s.OnlyCtx (u.viaTake c ch f) c) := by
  intro kinds row
  have hkinds := h.frame.roundKinds h.regs f.round
  have hrow := h.rowOrNew f.round f.row
  have hjoined := u.joinRow_rowOf c ch f
  rw [hrow] at hjoined
  cases hwhole : row.downWhole kinds with
  | false =>
    have htake : u.viaTake c ch f = _ := State.viaTake_down_waits hdown (by rw [hrow, hkinds]; exact hwhole)
    rw [htake]
    exact ⟨row, h.frame.mem, hjoined, (nomatch ·), fun _ => ⟨rfl, h.noteRow_onlyCtx ..⟩⟩
  | true =>
    cases hres : row.result with
    | some m =>
      have htake : u.viaTake c ch f = _ := State.viaTake_down_has_result hdown (by rw [hrow]; exact congrArg Option.isNone hres)
      rw [htake]
      exact ⟨row, h.frame.mem, hjoined, fun _ => (nomatch ·), (nomatch ·)⟩
    | none =>
      obtain ⟨hframe, down, hdone⟩ := State.viaTake_down_delivers hdown (s := u) (c := c) (ch := ch) (by rw [hrow, hkinds]; exact hwhole)
        (by rw [hrow]; exact hres)
      rw [hrow, hkinds] at hdone
      exact ⟨_, hframe.mem.trans h.frame.mem, hdone, fun _ _ => ⟨rfl, congrArg some (congrArg TimeBase.beat h.frame.time)⟩, (nomatch ·)⟩

/-- Settles O34: bad frames through `exec_bad_frame`, good ones by the cases of `State.viaReceive`. -/
theorem viaductFramesAreJudged : Obligations.ViaductFramesAreJudged := by
  constructor
  · intro c ch port v beat s₀ hbad s row hrow
    have hcount := (s.viaDiscard c ch 3).countPort_frame port
    have hk : ((s.viaDiscard c ch 3).ctxOf c).channel ch = { (s.ctxOf c).channel ch with crc := satAdd ((s.ctxOf c).channel ch).crc 1 } :=
      (congrArg (·.channel ch) (State.setCtx_ctxOf_self ..)).trans (Ctx.setChannel_channel_self ..)
    have hk' := (hcount.channel c ch).trans hk
    refine ⟨_, exec_bad_frame c ch port beat s₀ hbad row hrow, hcount.mem, by rw [hk'], by rw [hk'], ?_, ?_⟩
    · rw [hcount.portCrc]
      exact Table.get_set_self ..
    · refine hcount.marks.imp (fun h d hd => ?_) id
      rw [State.ctxOf, h]
      exact State.setCtx_ctxOf_ne _ _ hd
  · intro c ch port v beat s₀ hok s f k put hk cmd
    have hexec : exec cmd s₀ = .next (s.viaReceive c ch port v (fun s f => s.viaTake c ch f)) := exec_data_frame c ch port beat s₀ hk
    refine ⟨fun hd => ?_, fun hd => ?_, fun hd hr => ?_, fun hd hr hl hfull => ?_, fun hd hr hl hfull => ?_, ?_⟩
    · rw [hexec, State.viaReceive_discards hok hd]
      rfl
    · rw [hexec, State.viaReceive_discards hok hd]
      rfl
    · rw [hexec, State.viaReceive_halted hok hd hr (Nat.ne_of_lt (Nat.lt_of_le_of_lt hk (by decide)))]
    · rw [hexec, State.viaReceive_busy hok hd hr hl hk hfull]
      rfl
    · rw [hexec, State.viaReceive_early hok hd hr hl hk hfull]
    · intro hd hr hl hdown kinds row
      have hcmd : cmd = .viaductDownFrame c ch port v beat := if_pos hdown
      rw [hcmd, State.viaReceive_uses hok hd hr (.inl hl)] at hexec
      obtain ⟨r, hr⟩ := (s.hear_frame c ch f).viaTake_down hdown
      exact ⟨_, r, hexec, hr⟩

end Sys2Proof.Machine

/-! PROOFS of the statements of 14_viaduct.md: partials, and the control frames RESEND, HOLD and ABORT (O35). -/

namespace Sys2Proof.Machine

/-! ## A row that is combined (R395 to R398) -/

/-- What has come in of a row is as before: its own partial and the frames of its children. -/
structure ViaRow.SameInputs (r q : ViaRow) : Prop where
  own : q.own = r.own
  ownReady : q.ownReady = r.ownReady
  got : q.got = r.got

theorem ViaRow.SameInputs.refl (r : ViaRow) : r.SameInputs r := ⟨rfl, rfl, rfl⟩

/-- Between `s` and `t` the shared cache stays, and a row of a channel of context `c` keeps its inputs. -/
def State.KeepsInputs (s t : State) (c : Fin 4) (ch round row : Nat) : Prop :=
  t.mem = s.mem ∧ ∀ r, ((s.ctxOf c).channel ch).rowOf round row = some r →
    ∃ q, ((t.ctxOf c).channel ch).rowOf round row = some q ∧ r.SameInputs q

section
variable {s : State} {c : Fin 4} {ch round row : Nat} {r : ViaRow}

theorem State.KeepsInputs.refl (s : State) (c : Fin 4) (ch round row : Nat) : s.KeepsInputs s c ch round row := ⟨rfl, fun r h => ⟨r, h, .refl r⟩⟩

theorem State.KeepsInputs.trans {t u : State} (h : s.KeepsInputs t c ch round row) (k : t.KeepsInputs u c ch round row) :
    s.KeepsInputs u c ch round row := by
  refine ⟨k.1.trans h.1, fun r hr => ?_⟩
  obtain ⟨q, hq, hin⟩ := h.2 r hr
  obtain ⟨q', hq', hin'⟩ := k.2 q hq
  exact ⟨q', hq', hin'.own.trans hin.own, hin'.ownReady.trans hin.ownReady, hin'.got.trans hin.got⟩

theorem State.viaUp_keepsInputs (h : ((s.ctxOf c).channel ch).rowOf round row = some r) (msgs : List (List Word)) (part : Nat) :
    s.KeepsInputs (s.viaUp c ch round row msgs part) c ch round row := by
  obtain ⟨hframe, frames, leaves, hrow⟩ := State.viaUp_spec msgs part h
  refine ⟨hframe.mem, fun q hq => ⟨_, hrow, ?_⟩⟩
  obtain rfl : r = q := Option.some.inj (h.symm.trans hq)
  exact ⟨rfl, rfl, rfl⟩

theorem State.viaDeliver_keepsInputs (h : ((s.ctxOf c).channel ch).rowOf round row = some r) (msgs : List (List Word)) :
    s.KeepsInputs (s.viaDeliver c ch round row msgs) c ch round row := by
  obtain ⟨hframe, down, hrow⟩ := State.viaDeliver_spec msgs h
  refine ⟨hframe.mem, fun q hq => ⟨_, hrow, ?_⟩⟩
  obtain rfl : r = q := Option.some.inj (h.symm.trans hq)
  exact ⟨rfl, rfl, rfl⟩

theorem State.HaltsFrame.keepsInputs {t : State} (h : s.HaltsFrame t) : s.KeepsInputs t c ch round row :=
  ⟨h.mem, fun r hr => ⟨r, by rw [h.channel]; exact hr, .refl r⟩⟩

/-- What combining a row can do: it waits, halts the context, is delivered at the root, or goes up. -/
theorem State.viaAdvance_cases (s : State) (c : Fin 4) (ch round row : Nat) :
    s.viaAdvance c ch round row = s ∨ (∃ q, s.viaAdvance c ch round row = s.raiseBare c q) ∨
    (∃ msgs, s.viaAdvance c ch round row = s.viaDeliver c ch round row msgs) ∨ ∃ msgs, s.viaAdvance c ch round row = s.viaUp c ch round row msgs 0 := by
  unfold State.viaAdvance
  extract_lets
  split
  · exact .inl rfl
  · extract_lets _ _ _ msgs
    split
    · exact .inl rfl
    · split
      · exact .inr (.inl ⟨_, rfl⟩)
      · split
        · exact .inr (.inr (.inl ⟨msgs, rfl⟩))
        · exact .inr (.inr (.inr ⟨msgs, rfl⟩))

theorem State.viaAdvance_keepsInputs (h : ((s.ctxOf c).channel ch).rowOf round row = some r) :
    s.KeepsInputs (s.viaAdvance c ch round row) c ch round row := by
  rcases s.viaAdvance_cases c ch round row with heq | ⟨q, heq⟩ | ⟨msgs, heq⟩ | ⟨msgs, heq⟩ <;> rw [heq]
  · exact .refl ..
  · exact (State.HaltsFrame.raiseBare ..).keepsInputs
  · exact State.viaDeliver_keepsInputs h msgs
  · exact State.viaUp_keepsInputs h msgs 0

/-- In ALIGNED order a row whose inputs are not all in waits (R395). -/
theorem State.viaAdvance_waits (h : ((s.ctxOf c).channel ch).rowOf round row = some r) (horder : ((s.ctxOf c).channel ch).regs.order = false)
    (hall : r.allIn ((s.ctxOf c).channel ch).regs ((s.ctxOf c).roundKinds ch round) = false) : s.viaAdvance c ch round row = s := by
  simp [State.viaAdvance, h, horder, hall]

end

theorem ViaRow.allIn_of_not_ownReady {r : ViaRow} (h : r.ownReady = false) (regs : ViaRegs) (kinds : List Nat) : r.allIn regs kinds = false := by
  rw [ViaRow.allIn, h, Bool.false_and]

/-- A row into which no child's frame has come has no whole kind of a child. -/
theorem ViaRow.wholeKind_of_got_nil {r : ViaRow} {j : Nat} (hgot : r.got = []) (hends : r.ends = []) (hj : j < 8) (kind : Nat) :
    r.wholeKind j kind = false := by
  have hkeys : r.keysOf j = [] := by simp [ViaRow.keysOf, hgot, Nat.ne_of_lt hj]
  simp [ViaRow.wholeKind, hkeys, hends, Table.find]

/-- A round carries its channel's kind. -/
theorem Ctx.roundKinds_ne_nil (x : Ctx) (ch round : Nat) : x.roundKinds ch round ≠ [] := by
  unfold Ctx.roundKinds
  simp only []
  split
  · split <;> simp
  · simp

/-- In ALIGNED order a row waits for a child that has sent nothing. -/
theorem ViaRow.allIn_of_child_missing {r : ViaRow} {regs : ViaRegs} {kinds : List Nat} {j : Nat} (horder : regs.order = false)
    (hj : j < 8) (hv : regs.childValid j = true) (hkinds : kinds ≠ []) (hgot : r.got = []) (hends : r.ends = []) : r.allIn regs kinds = false := by
  obtain ⟨k, hk⟩ := List.exists_mem_of_ne_nil _ hkinds
  have hmissing : regs.validChildren.all (fun j => r.wholeKind j k) = false :=
    List.all_eq_false.2 ⟨j, List.mem_filter.2 ⟨List.mem_range.2 hj, hv⟩, by simp [ViaRow.wholeKind_of_got_nil hgot hends hj]⟩
  rw [ViaRow.allIn, Bool.and_eq_false_iff]
  exact .inr (List.all_eq_false.2 ⟨k, hk, by simp [horder, hmissing]⟩)

/-! ## VIADUCT_UP_SEND (R393) -/

section
variable {s : State} {c : Fin 4} {ch round row : Nat} {own : List (List Word)}

/-- The row with the block's own partial. -/
def ViaRow.withOwn (r : ViaRow) (own : List (List Word)) : ViaRow := { r with own := own, ownReady := true }

theorem State.withOwn_rowOf (s : State) (c : Fin 4) (ch round row : Nat) (own : List (List Word)) :
    (((s.noteRow c ch round row (·.withOwn own)).ctxOf c).channel ch).rowOf round row =
      some ((((s.ctxOf c).channel ch).rowOrNew round row s.time.beat).withOwn own) :=
  State.noteRow_rowOf s c ch round row fun _ => ⟨rfl, rfl⟩

/-- A partial goes on as its row's inputs allow: relayed first where an inner node of a SEQUENTIAL tree relays (R396). -/
theorem State.viaOwn_eq (s : State) (c : Fin 4) (ch round row : Nat) (own : List (List Word)) :
    let regs := ((s.ctxOf c).channel ch).regs
    let relayed := own.filter (fun v => v.headD 0 ≠ 4#32)
    let u := s.noteRow c ch round row (·.withOwn own)
    s.viaOwn c ch round row own =
      (if regs.order && !regs.isRoot && !relayed.isEmpty then u.viaUp c ch round row relayed regs.sliceIdx.toNat else u).viaAdvance c ch round row := by
  intro regs relayed u
  have hregs : ((u.ctxOf c).channel ch).regs = regs := s.noteRow_regs c ch round row _
  rw [← hregs]
  rfl

/-- The block's own partial joins its row, and stays there. -/
theorem State.viaOwn_joins (s : State) (c : Fin 4) (ch round row : Nat) (own : List (List Word)) :
    (s.viaOwn c ch round row own).mem = s.mem ∧ ∃ r, (((s.viaOwn c ch round row own).ctxOf c).channel ch).rowOf round row = some r ∧
      r.own = own ∧ r.ownReady = true := by
  have hnoted := s.withOwn_rowOf c ch round row own
  have hkeeps : (s.noteRow c ch round row (·.withOwn own)).KeepsInputs (s.viaOwn c ch round row own) c ch round row := by
    rw [State.viaOwn_eq]
    split
    · have hup := State.viaUp_keepsInputs hnoted (own.filter (fun v => v.headD 0 ≠ 4#32)) ((s.ctxOf c).channel ch).regs.sliceIdx.toNat
      obtain ⟨q, hq, -⟩ := hup.2 _ hnoted
      exact hup.trans (State.viaAdvance_keepsInputs hq)
    · exact State.viaAdvance_keepsInputs hnoted
  obtain ⟨r, hr, hin⟩ := hkeeps.2 _ hnoted
  exact ⟨hkeeps.1, r, hr, hin.own, hin.ownReady⟩

/-- In ALIGNED order the partial waits in a new row for a child. -/
theorem State.viaOwn_waits {j : Nat} (horder : ((s.ctxOf c).channel ch).regs.order = false)
    (hv : ((s.ctxOf c).channel ch).regs.childValid j = true) (hj : j < 8) (hnew : ((s.ctxOf c).channel ch).rowOf round row = none) :
    s.viaOwn c ch round row own = s.noteRow c ch round row (·.withOwn own) := by
  have hregs := s.noteRow_regs c ch round row (·.withOwn own)
  have hkinds := (State.ViaFrame.noteRow s c ch round row (·.withOwn own)).roundKinds hregs round
  have hnoted := s.withOwn_rowOf c ch round row own
  rw [Channel.rowOrNew, hnew, Option.getD_none] at hnoted
  rw [State.viaOwn_eq, horder, Bool.false_and, Bool.false_and, if_neg (by decide)]
  refine State.viaAdvance_waits hnoted (hregs ▸ horder) ?_
  rw [hregs, hkinds]
  exact ViaRow.allIn_of_child_missing horder hj hv (Ctx.roundKinds_ne_nil _ _ _) rfl rfl

/-- The row sends the partial of the oldest macro of the channel whose row is ready. -/
theorem State.upSend_eq {i : Nat} {m : MacroRun} {p : Plan} (hr : s.runs c = true)
    (h : (s.ctxOf c).execRun (fun m p => m.via = some (ch + 1) && m.rowReady p row &&
      (match ((s.ctxOf c).channel ch).rowOf m.round row with | some r => !r.ownReady | none => true)) = some (i, m, p)) :
    let e := s.evAt c m p ((m.tilesOf p row).headD 0) (m.tileAt ((m.tilesOf p row).headD 0))
    s.upSend c ch row = s.viaOwn c ch m.round row (e.rowMessages ((s.ctxOf c).channel ch).regs.sliceStart (p.rowIdx row)) := by
  intro e
  unfold State.upSend
  extract_lets
  split
  · next hnone => cases hnone.symm.trans h
  · next hsome =>
    cases hsome.symm.trans h
    exact if_neg (by simp [State.runs_inBeat hr])

end

/-! ## An up frame joins its row (R395, R396) -/

theorem ViaRow.add_up (r : ViaRow) {f : FrameInfo} (h : f.down = false) :
    (r.add f).got = r.got ++ [(f.slot, gotKey f.kind f.part, f.words)] ∧ (r.add f).ownReady = r.ownReady ∧ (r.add f).upSent = r.upSent := by
  simp only [ViaRow.add, h, Bool.false_eq_true, if_false]
  split <;> exact ⟨rfl, rfl, rfl⟩

section
variable {s u : State} {c : Fin 4} {ch : Nat} {f : FrameInfo}

/-- A frame of a child goes on as its row's inputs allow: relayed first where an inner node of a SEQUENTIAL tree relays (R396). -/
theorem State.viaTake_up_eq (hup : f.down = false) :
    let regs := ((s.ctxOf c).channel ch).regs
    let t := s.noteRow c ch f.round f.row (fun r => r.add f)
    s.viaTake c ch f = (if regs.order && !regs.isRoot && decide (f.kind ≠ 4) then
      t.viaUp c ch f.round f.row [BitVec.ofNat 32 f.kind :: f.words] f.part else t).viaAdvance c ch f.round f.row := by
  simp only [State.viaTake, hup, Bool.false_eq_true, if_false]

theorem State.viaTake_up_joins (hup : f.down = false) :
    (s.noteRow c ch f.round f.row (fun r => r.add f)).KeepsInputs (s.viaTake c ch f) c ch f.round f.row := by
  have hjoined := s.joinRow_rowOf c ch f
  rw [State.viaTake_up_eq hup]
  split
  · have hkeeps := State.viaUp_keepsInputs hjoined [BitVec.ofNat 32 f.kind :: f.words] f.part
    obtain ⟨q, hq, -⟩ := hkeeps.2 _ hjoined
    exact hkeeps.trans (State.viaAdvance_keepsInputs hq)
  · exact State.viaAdvance_keepsInputs hjoined

/-- In ALIGNED order a row without the block's own partial waits for it. -/
theorem State.viaTake_up_waits (hup : f.down = false) (horder : ((s.ctxOf c).channel ch).regs.order = false)
    (hown : (((s.ctxOf c).channel ch).rowOrNew f.round f.row s.time.beat).ownReady = false) :
    s.viaTake c ch f = s.noteRow c ch f.round f.row (fun r => r.add f) := by
  rw [State.viaTake_up_eq hup, horder, Bool.false_and, Bool.false_and, if_neg (by decide)]
  exact State.viaAdvance_waits (s.joinRow_rowOf c ch f) (by rw [State.noteRow_regs, horder])
    (ViaRow.allIn_of_not_ownReady ((ViaRow.add_up _ hup).2.1.trans hown) ..)

/-- What a new row has of a part that is `d` in every new row. -/
theorem Channel.rowOrNew_part {α : Type} (k : Channel) (round row beat : Nat) (part : ViaRow → α) (d : α)
    (hd : part { round := round, row := row, upStart := beat } = d) :
    part (k.rowOrNew round row beat) = ((k.rowOf round row).map part).getD d := by
  rw [Channel.rowOrNew]
  cases k.rowOf round row with
  | none => exact hd
  | some r => rfl

/-- A good up frame of a live round in its row, as O35 has it. -/
theorem State.HearsFrame.viaTake_up (h : s.HearsFrame u c ch) (hup : f.down = false) :
    let k := (s.ctxOf c).channel ch
    ∃ r, (u.viaTake c ch f).mem = s.mem ∧ (((u.viaTake c ch f).ctxOf c).channel ch).rowOf f.round f.row = some r ∧
      r.got = (((k.rowOf f.round f.row).map ViaRow.got).getD []) ++ [(f.slot, gotKey f.kind f.part, f.words)] ∧
      (k.regs.order = false → (∀ q, k.rowOf f.round f.row = some q → q.ownReady = false) →
        s.OnlyCtx (u.viaTake c ch f) c ∧ r.upSent = (((k.rowOf f.round f.row).map ViaRow.upSent).getD false)) := by
  intro k
  have hjoined := u.joinRow_rowOf c ch f
  have hkeeps := State.viaTake_up_joins (s := u) (c := c) (ch := ch) hup
  obtain ⟨r, hr, hin⟩ := hkeeps.2 _ hjoined
  obtain ⟨hgot, -, hsent⟩ := ViaRow.add_up (k.rowOrNew f.round f.row s.time.beat) hup
  rw [h.rowOrNew] at hjoined hin
  refine ⟨r, hkeeps.1.trans h.frame.mem, hr, ?_, fun horder hown => ?_⟩
  · rw [hin.got, hgot, k.rowOrNew_part _ _ _ ViaRow.got [] rfl]
  · have hnone : (k.rowOrNew f.round f.row s.time.beat).ownReady = false := by
      rw [k.rowOrNew_part _ _ _ ViaRow.ownReady false rfl]
      cases hq : k.rowOf f.round f.row with
      | none => rfl
      | some q => exact hown q hq
    have hwaits : u.viaTake c ch f = _ := State.viaTake_up_waits hup (by rw [h.regs]; exact horder) (by rw [h.rowOrNew]; exact hnone)
    rw [hwaits] at hr ⊢
    obtain rfl := Option.some.inj (hjoined.symm.trans hr)
    exact ⟨h.noteRow_onlyCtx .., by rw [hsent, k.rowOrNew_part _ _ _ ViaRow.upSent false rfl]⟩

end

/-! ## RESEND, HOLD and ABORT (R402, R404) -/

/-- The frames of its row that a RESEND asks for: those sent up, or those sent down to the child. -/
def Channel.heldFor (k : Channel) (f : FrameInfo) : List (BitVec 256) :=
  match k.rowOf f.round f.row with
  | some r => if f.down then r.sent else r.downSent.filter (fun g => (frameInfo g).slot.testBit f.slot)
  | none => []

theorem Channel.heldFor_of_rowOf {k : Channel} {f : FrameInfo} {r : ViaRow} (h : k.rowOf f.round f.row = some r) :
    k.heldFor f = if f.down then r.sent else r.downSent.filter (fun g => (frameInfo g).slot.testBit f.slot) := by
  simp only [Channel.heldFor, h]

section
variable {s : State} {c : Fin 4} {ch port : Nat} {v : BitVec 256}
variable (hok : frameCrcOk v = true) (hd : ((s.ctxOf c).channel ch).discards ch (frameInfo v) = none) (hr : s.runs c = true)
include hok hd hr

theorem State.viaResend_eq (hk : (frameInfo v).kind = 5) :
    let f := frameInfo v
    let u := s.hear c ch f
    let held := ((u.ctxOf c).channel ch).heldFor f
    s.viaResend c ch port v =
      if held = [] then (u.pairEdge c ch f.round f.edge).sendControl c ch 6 f.round f.row f.edge 0 port
      else held.foldl (fun s g => s.sendFrame port g) (u.pairEdge c ch f.round f.edge) := by
  exact (if_neg (by simp [hk])).trans (State.viaReceive_uses hok hd hr (.inr (by omega)))

theorem State.viaHold_eq (hk : (frameInfo v).kind = 6) :
    let f := frameInfo v
    let u := s.hear c ch f
    s.viaHold c ch port v =
      if (((u.ctxOf c).channel ch).rowOf f.round f.row).isNone then u
      else u.noteRow c ch f.round f.row (fun r =>
        if f.down then { r with downStart := u.time.beat, downRung := 0 } else { r with ladder := r.ladder.set f.slot (u.time.beat, 0) }) := by
  exact (if_neg (by simp [hk])).trans (State.viaReceive_uses hok hd hr (.inr (by omega)))

theorem State.viaAbort_eq (hk : (frameInfo v).kind = 7) :
    let f := frameInfo v
    let u := s.hear c ch f
    ∃ code q, q.code = 0x0802 ∧ s.viaAbort c ch port v =
      (((u.dropForwards c ch f.round).sendAbort c ch f.round code (some f.edge)).closeRound c ch f.round).raiseBare c q := by
  rw [State.viaAbort, if_neg (by simp [hk]), State.viaReceive_uses hok hd hr (.inr (by omega))]
  exact ⟨_, _, rfl, rfl⟩

end

/-- Frames that are handed to a port leave in their order, behind those before them. -/
theorem State.foldl_sendFrame_viaOut (port : Nat) (l : List (BitVec 256)) (s : State) :
    (l.foldl (fun s g => s.sendFrame port g) s).glob.viaOut.map (fun o => (o.1, o.2.2)) =
      s.glob.viaOut.map (fun o => (o.1, o.2.2)) ++ l.map (fun g => (port, g)) := by
  induction l generalizing s with
  | nil => simp
  | cons g l ih =>
    rw [List.foldl_cons, ih, State.sendFrame, State.setGlob_glob]
    simp

theorem State.closeRound_rowOf (s : State) (c : Fin 4) (ch round row : Nat) :
    (((s.closeRound c ch round).ctxOf c).channel ch).rowOf round row = none := by
  rw [State.closeRound, State.setCtx_ctxOf_self, Ctx.setChannel_channel_self]
  refine List.find?_eq_none.2 fun r hr => ?_
  have hne : r.round ≠ round := by simpa using (List.mem_filter.1 hr).2
  simp [hne]

section
variable {s : State} {c : Fin 4} {ch port : Nat} {v : BitVec 256}
variable (hr : s.runs c = true) (hok : frameCrcOk v = true) (hd : ((s.ctxOf c).channel ch).discards ch (frameInfo v) = none)
include hr hok hd

/-- A RESEND of a row sends its frames again on the port that it came by, and where there are none a HOLD. -/
theorem State.viaResend_answers {r : ViaRow} (hk : (frameInfo v).kind = 5)
    (hrow : ((s.ctxOf c).channel ch).rowOf (frameInfo v).round (frameInfo v).row = some r) :
    let f := frameInfo v
    let held := if f.down then r.sent else r.downSent.filter (fun g => (frameInfo g).slot.testBit f.slot)
    s.ViaFrame (s.viaResend c ch port v) c ∧
    (held ≠ [] → (s.viaResend c ch port v).glob.viaOut.map (fun o => (o.1, o.2.2)) =
      s.glob.viaOut.map (fun o => (o.1, o.2.2)) ++ held.map (fun g => (port, g))) ∧
    (held = [] → ∃ at_ g, (s.viaResend c ch port v).glob.viaOut = s.glob.viaOut ++ [(port, at_, g)] ∧ (frameInfo g).kind = 6) := by
  intro f held
  have hheard : s.HearsFrame (s.hear c ch f) c ch := s.hear_frame c ch f
  have hheld : (((s.hear c ch f).ctxOf c).channel ch).heldFor f = held := Channel.heldFor_of_rowOf ((hheard.rowOf ..).trans hrow)
  have hframe : s.ViaFrame ((s.hear c ch f).pairEdge c ch f.round f.edge) c := hheard.frame.trans (.setChannel ..)
  have hanswer := State.viaResend_eq (port := port) hok hd hr hk
  simp only [f] at hheld
  simp only [hheld] at hanswer
  by_cases hnil : held = []
  · rw [if_pos hnil] at hanswer
    rw [hanswer]
    exact ⟨hframe.trans (State.SendsFrame.sendControl ..).frame, fun h => absurd hnil h, fun _ => State.sendControl_viaOut ..⟩
  · rw [if_neg hnil] at hanswer
    rw [hanswer]
    exact ⟨hframe.trans (.foldl (fun t g => .setGlob ..) _ _), fun _ => State.foldl_sendFrame_viaOut port held _, fun h => absurd h hnil⟩

/-- A HOLD starts the ladder of its edge again in its row, and makes no row. -/
theorem State.viaHold_restarts (hk : (frameInfo v).kind = 6) :
    let f := frameInfo v
    s.OnlyCtx (s.viaHold c ch port v) c ∧
    (((s.ctxOf c).channel ch).rowOf f.round f.row = none → (((s.viaHold c ch port v).ctxOf c).channel ch).rowOf f.round f.row = none) ∧
    (∀ r, ((s.ctxOf c).channel ch).rowOf f.round f.row = some r → (((s.viaHold c ch port v).ctxOf c).channel ch).rowOf f.round f.row = some (
      if f.down then { r with downStart := s.time.beat, downRung := 0 } else { r with ladder := r.ladder.set f.slot (s.time.beat, 0) })) := by
  intro f
  have hheard : s.HearsFrame (s.hear c ch f) c ch := s.hear_frame c ch f
  have hhold := State.viaHold_eq (port := port) hok hd hr hk
  simp only [] at hhold
  rw [hhold]
  cases hrow : ((s.ctxOf c).channel ch).rowOf f.round f.row with
  | none =>
    have hnone := (hheard.rowOf f.round f.row).trans hrow
    rw [if_pos (by rw [hnone]; rfl)]
    exact ⟨hheard.onlyCtx, fun _ => hnone, fun _ => (nomatch ·)⟩
  | some r =>
    have hsome := (hheard.rowOf f.round f.row).trans hrow
    rw [if_neg (by rw [hsome]; simp)]
    refine ⟨hheard.noteRow_onlyCtx .., (nomatch ·), fun q hq => ?_⟩
    cases hq
    exact State.noteRow_rowOf_some hsome fun r => by split <;> exact ⟨rfl, rfl⟩

/-- An ABORT ends its round and halts the context. -/
theorem State.viaAbort_halts (hk : (frameInfo v).kind = 7) :
    let f := frameInfo v
    (s.viaAbort c ch port v).mem = s.mem ∧ (∃ h, ((s.viaAbort c ch port v).ctxOf c).halt = some h ∧ h.code = 0x0802) ∧
    (((s.viaAbort c ch port v).ctxOf c).channel ch).rowOf f.round f.row = none := by
  intro f
  obtain ⟨code, q, hq, habort⟩ := State.viaAbort_eq (port := port) hok hd hr hk
  have hframe : s.ViaFrame ((((s.hear c ch f).dropForwards c ch f.round).sendAbort c ch f.round code (some f.edge)).closeRound c ch f.round) c :=
    (((State.ViaFrame.setChannel ..).trans (.setGlob ..)).trans (State.SendsFrame.sendAbort ..).frame).trans (.setChannel ..)
  rw [habort]
  obtain ⟨h, hhalt, hcode⟩ := (State.raiseBare_halts _ q (hframe.runs.trans hr)).halt
  refine ⟨(State.raiseBare_mem ..).trans hframe.mem, ⟨h, hhalt, hcode.trans hq⟩, ?_⟩
  rw [(State.HaltsFrame.raiseBare ..).channel]
  exact State.closeRound_rowOf ..

end

/-- Settles O35: a partial and an up frame join their row, whose inputs `State.viaAdvance` keeps; each control frame is answered in its row. -/
theorem partialsAndControlFramesReachTheirRow : Obligations.PartialsAndControlFramesReachTheirRow := by
  refine ⟨?_, ?_, ?_⟩
  · intro c ch row s i m p k hr h e
    have hexec : exec (.viaductUpSend c ch row) s = .next (s.viaOwn c ch m.round row (e.rowMessages k.regs.sliceStart (p.rowIdx row))) :=
      congrArg Host.Outcome.next (State.upSend_eq hr h)
    obtain ⟨hmem, r, hrow, hown, hready⟩ := s.viaOwn_joins c ch m.round row (e.rowMessages k.regs.sliceStart (p.rowIdx row))
    refine ⟨_, r, hexec, hmem, hrow, hown, hready, fun j horder hv hj hnew => ?_⟩
    have hwaits := State.viaOwn_waits (own := e.rowMessages k.regs.sliceStart (p.rowIdx row)) horder hv hj hnew
    have hnoted := s.withOwn_rowOf c ch m.round row (e.rowMessages k.regs.sliceStart (p.rowIdx row))
    rw [Channel.rowOrNew, hnew, Option.getD_none] at hnoted
    rw [hwaits] at hrow ⊢
    obtain rfl := Option.some.inj (hnoted.symm.trans hrow)
    exact ⟨State.onlyCtx_setCtx .., rfl⟩
  · intro c ch port v beat s₀ s f k hr hok hk hup hd hl
    have hexec := exec_data_frame c ch port beat s₀ hk
    rw [if_neg (by rw [hup]; decide), State.viaReceive_uses hok hd hr (.inl hl)] at hexec
    obtain ⟨r, h⟩ := (s.hear_frame c ch f).viaTake_up hup
    exact ⟨_, r, hexec, h⟩
  · intro c ch port v beat s₀ s f k hr hok hd
    refine ⟨?_, fun hk => ⟨_, rfl, State.viaHold_restarts hr hok hd hk⟩, fun hk => ?_⟩
    · intro r hk hrow held
      obtain ⟨hframe, hsent, hnone⟩ := State.viaResend_answers (port := port) hr hok hd hk hrow
      refine ⟨fun h => ⟨_, rfl, hframe.mem, hframe.halt.trans ((s.runs_iff c).1 hr).2, hsent h⟩, fun h => ?_⟩
      obtain ⟨at_, g, hout, hkind⟩ := hnone h
      exact ⟨_, at_, g, rfl, hframe.mem, hout, hkind⟩
    · obtain ⟨hmem, ⟨h, hhalt, hcode⟩, hrow⟩ := State.viaAbort_halts (port := port) hr hok hd hk
      exact ⟨_, h, rfl, hmem, hhalt, hcode, hrow⟩

end Sys2Proof.Machine

/-! PROOFS of the statements of 15_numeric_events_and_trace.md: telemetry records (O39). -/

namespace Sys2Proof.Machine

/-! ## TELEMETRY_RECORD_WRITE (R423) -/

/-- Is a write one of a telemetry record's (R49)? -/
def TelemSnap.owns (r : TelemSnap) (w : PierWrite) : Bool := w.ctx.isNone && w.index = r.id

/-- The oldest record that waits stands in its slot, and those behind it wait on. -/
def State.storeTelem (s : State) (r : TelemSnap) (rest : List TelemSnap) : State :=
  (s.setMem (Memory.writeBytes r.at_ r.bytes s.mem)).setGlob
    { s.glob with telem := rest, telemWr := BitVec.ofNat 8 r.slot, telemTotal := s.glob.telemTotal + 1, strokeDone := true }

section
variable {s : State} {r : TelemSnap} {rest : List TelemSnap}

theorem State.writeTelemetry_none (h : s.glob.telem = []) : s.writeTelemetry = s := by
  simp only [State.writeTelemetry, h]

/-- Older accesses to its lines come before the oldest record's. -/
theorem State.writeTelemetry_held (h : s.glob.telem = r :: rest) (hh : (s.spanOf s.start.servicePier).held r.owns = true) :
    s.writeTelemetry = s := by
  simp only [State.writeTelemetry, h]
  exact if_pos hh

/-- Where a write of the record waits for a credit, those that have been sent are accepted. -/
theorem State.writeTelemetry_waits (h : s.glob.telem = r :: rest) (hh : (s.spanOf s.start.servicePier).held r.owns = false)
    (hw : (s.spanOf s.start.servicePier).writes.any (fun w => r.owns w && !w.sent) = true) :
    s.writeTelemetry = s.acceptWrites s.start.servicePier r.owns := by
  simp only [State.writeTelemetry, h]
  exact (if_neg (Bool.eq_false_iff.1 hh)).trans (if_pos hw)

/-- A record whose writes have all been sent is stored. -/
theorem State.writeTelemetry_stores (h : s.glob.telem = r :: rest) (hh : (s.spanOf s.start.servicePier).held r.owns = false)
    (hw : (s.spanOf s.start.servicePier).writes.any (fun w => r.owns w && !w.sent) = false) :
    s.writeTelemetry = (s.acceptWrites s.start.servicePier r.owns).storeTelem r rest := by
  simp only [State.writeTelemetry, h]
  exact (if_neg (Bool.eq_false_iff.1 hh)).trans (if_neg (Bool.eq_false_iff.1 hw))

/-- No byte outside the record's slot changes. -/
theorem State.storeTelem_read (s : State) (r : TelemSnap) (rest : List TelemSnap) (hm : s.MemoryCanonical) {a : Nat}
    (ha : a < r.at_ ∨ r.at_ + r.bytes.length ≤ a) :
    (s.storeTelem r rest).mem.read a = s.mem.read a := Memory.read_writeBytes_outside r.bytes r.at_ a hm ha

end

/-- Settles O39: the oldest record is held back, waits for credits, or is stored (`State.writeTelemetry_stores`). -/
theorem telemetryRecordGoesToTheNextSlot : Obligations.TelemetryRecordGoesToTheNextSlot := by
  refine fun s => ⟨fun h => congrArg Host.Outcome.next (State.writeTelemetry_none h), fun r rest h => ⟨fun hheld => ?_, ?_, ?_⟩⟩
  · exact congrArg Host.Outcome.next (State.writeTelemetry_held h hheld)
  · rintro hheld ⟨w, hw, hmine, hsent⟩
    refine congrArg Host.Outcome.next (State.writeTelemetry_waits h hheld (List.any_eq_true.2 ⟨w, hw, ?_⟩))
    rw [hsent, Bool.not_false, Bool.and_true]
    exact hmine
  · intro hm hheld hsent
    refine ⟨_, congrArg Host.Outcome.next (State.writeTelemetry_stores h hheld (List.any_eq_false.2 fun w hw hwaits => ?_)),
      rfl, rfl, rfl, rfl, rfl, fun a ha => (s.acceptWrites s.start.servicePier r.owns).storeTelem_read r rest hm ha, rfl, rfl, rfl, rfl⟩
    obtain ⟨hmine, hnot⟩ := Bool.and_eq_true_iff.1 hwaits
    rw [hsent w hw hmine] at hnot
    cases hnot

end Sys2Proof.Machine

/-! PROOFS of the statements of 15_numeric_events_and_trace.md: histogram slots and performance counters (O52). -/

namespace Sys2Proof.Machine

/-! ## Histogram claims (R419, R437, R440) -/

theorem State.onlyHist_setHist (s : State) (n : Nat) (h : Hist) : s.OnlyHist (s.setHist n h) n := by
  rw [State.OnlyHist, State.setHist_histOf_self]

theorem ctxNo_val (c : Fin 4) : ctxNo c.val = c := Fin.ext (Nat.mod_eq_of_lt c.isLt)

/-- With no claim waiting there is none to serve. -/
theorem State.setGlob_no_claims {s : State} (h : s.glob.histClaims = []) : s.setGlob { s.glob with histClaims := [] } = s := by
  rw [← h]; rfl

theorem State.serveHist_of_nil {s : State} (h : s.glob.histClaims = []) : s.serveHist = s := by
  rw [State.serveHist, h]
  exact State.setGlob_no_claims h

section
variable {s : State} {n : Nat} {c : Fin 4}

/-- A lone claim is judged by `State.claimOne`, and waits on where that does not serve it. -/
theorem State.histClaim_lone (h : s.glob.histClaims = []) {t : State} {served : Bool}
    (hc : (s.setGlob { s.glob with histClaims := [(n, c.val)] }).claimOne n c.val = (t, served)) :
    s.histClaim n c.val = t.setGlob { t.glob with histClaims := if served then [] else [(n, c.val)] } := by
  simp only [State.histClaim, State.serveHist, h, List.nil_append, State.setGlob_glob, serveClaims, List.contains_nil,
    Bool.false_eq_true, if_false, hc]
  cases served <;> rfl

theorem State.histClaim_held (h : s.glob.histClaims = []) (ho : (s.histOf n).owner ≠ 7) :
    s.histClaim n c.val = s.setGlob { s.glob with histRefused := true } := by
  rw [State.histClaim_lone h (if_pos ho), if_pos rfl, ← h]
  rfl

theorem State.histClaim_taken (h : s.glob.histClaims = []) (ho : (s.histOf n).owner = 7) (hq : s.histUsed c.val < (s.adminOf c).effHist) :
    s.histClaim n c.val = s.setHist n ((s.histOf n).hold (BitVec.ofNat 3 c.val)) := by
  have hroom : s.histUsed c.val + 1 ≤ (s.adminOf (ctxNo c.val)).effHist := by rw [ctxNo_val]; exact hq
  rw [State.histClaim_lone h ((if_neg (not_not.2 ho)).trans (if_pos hroom)), if_pos rfl]
  exact State.setGlob_no_claims (s := s.setHist n ((s.histOf n).hold (BitVec.ofNat 3 c.val))) h

theorem State.histClaim_waits (h : s.glob.histClaims = []) (ho : (s.histOf n).owner = 7) (hq : (s.adminOf c).effHist ≤ s.histUsed c.val) :
    s.histClaim n c.val = s.setGlob { s.glob with histClaims := [(n, c.val)] } := by
  have hfull : ¬s.histUsed c.val + 1 ≤ (s.adminOf (ctxNo c.val)).effHist := by rw [ctxNo_val]; omega
  rw [State.histClaim_lone h ((if_neg (not_not.2 ho)).trans (if_neg hfull)), if_neg Bool.false_ne_true]
  rfl

theorem State.histRelease_eq (h : s.glob.histClaims = []) : s.histRelease n = s.setHist n ((s.histOf n).hold 7) :=
  State.serveHist_of_nil h

end

/-! ## Histogram clears (R418) -/

theorem Hist.count_owner (h : Hist) (a : HistAdd) : (h.count a).owner = h.owner := by
  simp only [Hist.count]
  cases a.exp <;> simp only [apply_ite Hist.owner, ite_self]

/-- Counting an element adds one to its bin. -/
theorem Hist.count_bins (h : Hist) (a : HistAdd) : (h.count a).bins = h.bins.set a.bin (satAdd (h.bins.get a.bin 0#32) 1) := by
  simp only [Hist.count]
  cases a.exp <;> simp only [apply_ite Hist.bins, ite_self]

theorem Hist.foldr_count_owner (l : List HistAdd) (h : Hist) : (l.foldr (fun a h => h.count a) h).owner = h.owner := by
  induction l with
  | nil => rfl
  | cons a l ih => exact (Hist.count_owner _ a).trans ih

theorem Hist.clear_owner (h : Hist) (beat : Nat) : (h.clear beat).owner = h.owner := by
  unfold Hist.clear Hist.replay
  split
  · exact Hist.foldr_count_owner ..
  · rfl

theorem Hist.clear_of_other_beat {h : Hist} {beat : Nat} (hb : h.freshBeat ≠ some beat) : h.clear beat = h.wipe := if_neg hb

/-- A clear counts the elements of its beat again, from nothing. -/
theorem Hist.clear_of_same_beat {h : Hist} {beat : Nat} (hb : h.freshBeat = some beat) :
    h.clear beat = h.fresh.foldr (fun a h => h.count a) { h.wipe with prior := ([], 0, false) } := if_pos hb

/-! ## Performance counters (15) -/

theorem State.onlySpan_setSpan (s : State) (n : Nat) (x : Span) : s.OnlySpan (s.setSpan n x) n := by
  rw [State.OnlySpan, State.setSpan_spanOf_self]

@[simp] theorem Span.perf_perfSel (x : Span) (e n : Nat) : (x.perf e n).perfSel = x.perfSel := by unfold Span.perf; split <;> rfl

/-- Counts that are brought up to now leave the selects alone. -/
theorem Span.settlePerf_perfSel (x : Span) (now : Nat → Nat) : (x.settlePerf now).perfSel = x.perfSel :=
  List.foldlRecOn (motive := fun y : Span => y.perfSel = x.perfSel) tallied _ rfl fun _ hy _ _ => (Span.perf_perfSel ..).trans hy

/-! ## Histogram slots and counters (O52) -/

/-- Settles O52: a lone claim has the three outcomes of `State.claimOne`, and a clear counts the elements of its beat again. -/
theorem histogramsAndCountersAreConfigured : Obligations.HistogramsAndCountersAreConfigured := by
  refine ⟨fun n c s h => ⟨fun ho => ?_, fun ho hq => ?_, fun ho hq => ?_⟩, fun n s h => ?_, fun n s => ?_, fun n e valid s => ?_,
    fun p n e s => ?_, fun p s => ?_⟩
  · exact congrArg Host.Outcome.next (State.histClaim_held h ho)
  · refine ⟨_, congrArg Host.Outcome.next (State.histClaim_taken h ho hq), s.onlyHist_setHist .., ?_⟩
    rw [State.setHist_histOf_self]
    exact ⟨(BitVec.toNat_ofNat ..).trans (Nat.mod_eq_of_lt (by omega)), rfl, rfl⟩
  · exact congrArg Host.Outcome.next (State.histClaim_waits h ho hq)
  · refine ⟨_, congrArg Host.Outcome.next (State.histRelease_eq h), s.onlyHist_setHist .., ?_⟩
    rw [State.setHist_histOf_self]
    exact ⟨rfl, rfl, rfl, rfl, rfl⟩
  · refine ⟨s.setHist n.val _, rfl, s.onlyHist_setHist .., ?_⟩
    rw [State.setHist_histOf_self]
    refine ⟨Hist.clear_owner .., fun hb => Hist.clear_of_other_beat hb, fun hb hf => ?_, fun a hb hf => ?_⟩
    · rw [Hist.clear_of_same_beat hb, hf]
      exact ⟨rfl, rfl⟩
    · rw [Hist.clear_of_same_beat hb, hf, List.foldr_cons, List.foldr_nil, Hist.count_bins]
      exact ⟨Table.get_set_self .., fun k hk => Table.get_set_ne _ _ _ hk⟩
  · refine ⟨s.setHist n.val _, rfl, s.onlyHist_setHist .., ?_⟩
    rw [State.setHist_histOf_self]
    exact ⟨rfl, rfl, rfl⟩
  · refine ⟨s.setSpan p.val _, rfl, s.onlySpan_setSpan .., ?_⟩
    rw [State.setSpan_spanOf_self]
    refine ⟨Table.get_set_self .., Table.get_set_self .., fun k hk => (Table.get_set_ne _ _ _ hk).trans ?_⟩
    rw [Span.settlePerf_perfSel]
  · refine ⟨s.setSpan p.val _, rfl, s.onlySpan_setSpan .., ?_⟩
    rw [State.setSpan_spanOf_self]
    exact ⟨fun _ => rfl, Span.settlePerf_perfSel ..⟩

end Sys2Proof.Machine

/-! PROOFS of the statements of 15_numeric_events_and_trace.md: what the completion of a macro lets go (for O22). -/

namespace Sys2Proof.Machine

/-! ## Writes that wait for an idle channel or context (R330, R387) -/

/-- `y` differs from `x` at most in its channels, in the channel writes that wait and in the coupling mode. -/
def Ctx.Serves (x y : Ctx) : Prop := ∃ tbl l mode p, y = { x with channels := tbl, viaWrites := l, cplMode := mode, cplPending := p }

namespace Ctx.Serves

variable {x y z : Ctx}

theorem refl (x : Ctx) : x.Serves x := ⟨_, _, _, _, rfl⟩

theorem trans (h : x.Serves y) (k : y.Serves z) : x.Serves z := by
  obtain ⟨tbl, l, mode, p, rfl⟩ := h
  obtain ⟨tbl', l', mode', p', rfl⟩ := k
  exact ⟨tbl', l', mode', p', rfl⟩

theorem setChannel (x : Ctx) (ch : Nat) (k : Channel) : x.Serves (x.setChannel ch k) := ⟨_, _, _, _, rfl⟩

theorem settleVia (a : Admin) (mem : Memory) (l : List (Nat × Nat × BitVec 64)) (x : Ctx) (stuck : List Nat) (full : Bool) :
    x.Serves (Machine.settleVia a mem x stuck full l).1 := by
  induction l generalizing x stuck full with
  | nil => exact .refl x
  | cons w l ih =>
    simp only [Machine.settleVia]
    split
    · exact ih ..
    · exact (setChannel ..).trans (ih ..)

theorem settleAllVia (a : Admin) (mem : Memory) (fuel : Nat) (x : Ctx) : x.Serves (Machine.settleAllVia a mem fuel x) := by
  induction fuel generalizing x with
  | zero => exact .refl x
  | succ fuel ih =>
    simp only [Machine.settleAllVia]
    split
    · exact .refl x
    · obtain ⟨tbl, l, mode, p, h⟩ := settleVia a mem x.viaWrites x [] false
      exact trans ⟨tbl, _, mode, p, by rw [h]⟩ (ih _)

theorem settleCpl (x : Ctx) : x.Serves x.settleCpl := by
  unfold Ctx.settleCpl
  split
  · split
    · exact ⟨_, _, _, _, rfl⟩
    · exact .refl x
  · exact .refl x

theorem stream (h : x.Serves y) (e : Bool) : y.stream e = x.stream e := by
  obtain ⟨tbl, l, mode, p, rfl⟩ := h
  rfl

theorem halt (h : x.Serves y) : y.halt = x.halt := by obtain ⟨tbl, l, mode, p, rfl⟩ := h; rfl
theorem doneWr (h : x.Serves y) : y.doneWr = x.doneWr := by obtain ⟨tbl, l, mode, p, rfl⟩ := h; rfl
theorem doneTotal (h : x.Serves y) : y.doneTotal = x.doneTotal := by obtain ⟨tbl, l, mode, p, rfl⟩ := h; rfl

end Ctx.Serves

/-- Channel writes, and the coupling mode, that waited for a context without macros in flight touch nothing else. -/
theorem State.serveIdle_serves (s : State) (c : Fin 4) : ∃ y, (s.ctxOf c).Serves y ∧ s.serveIdle c = s.setCtx c y := by
  refine ⟨_, (Ctx.Serves.settleAllVia (s.adminOf c) s.mem (s.ctxOf c).viaWrites.length (s.ctxOf c)).trans (.settleCpl _), ?_⟩
  rw [State.serveIdle, State.serveVia, State.setCtx_ctxOf_self, State.setCtx_setCtx]

/-! ## A macro leaves its stream (R147, R413, R426) -/

theorem State.trace_of_off {s : State} {c : Fin 4} (h : (s.ctxOf c).traceEn = false) (m : MacroRun) (halted : Bool) : s.trace c m halted = s :=
  if_neg (Bool.eq_false_iff.1 h)

/-- The context without the oldest macro of a stream. -/
def Ctx.dropOldest (x : Ctx) (e : Bool) (id beat : Nat) : Ctx :=
  { x.setStream e { (x.stream e).unblockDeal id with inflight := (x.stream e).inflight.tail } with crossSince := some beat }

section
variable (x : Ctx) (e : Bool) (id beat : Nat)

theorem Ctx.dropOldest_inflight : ((x.dropOldest e id beat).stream e).inflight = (x.stream e).inflight.tail := by cases e <;> rfl
theorem Ctx.dropOldest_halt : (x.dropOldest e id beat).halt = x.halt := by cases e <;> rfl
theorem Ctx.dropOldest_doneWr : (x.dropOldest e id beat).doneWr = x.doneWr := by cases e <;> rfl
theorem Ctx.dropOldest_doneTotal : (x.dropOldest e id beat).doneTotal = x.doneTotal := by cases e <;> rfl
theorem Ctx.dropOldest_traceEn : (x.dropOldest e id beat).traceEn = x.traceEn := by cases e <;> rfl

end

/-- What a macro that has left its stream lets go: its round, the writes that waited for it, and its trap. -/
def State.letGo (s : State) (c : Fin 4) (m : MacroRun) (trapped : Bool) : State :=
  let s := match m.via with
    | some (v + 1) => s.closeRound c v m.round
    | _ => s
  let s := s.serveIdle c
  if trapped then s.raise c { m.cause 0x0601 with detail := m.trapDetail } else s

theorem State.letGo_eq (s : State) (c : Fin 4) (m : MacroRun) (trapped : Bool) : ∃ y, (s.ctxOf c).Serves y ∧ s.letGo c m trapped =
    if trapped then (s.setCtx c y).raise c { m.cause 0x0601 with detail := m.trapDetail } else s.setCtx c y := by
  unfold State.letGo
  split
  case h_1 v _ =>
    obtain ⟨y, hy, hserve⟩ := (s.closeRound c v m.round).serveIdle_serves c
    rw [State.closeRound, State.setCtx_ctxOf_self] at hy
    refine ⟨y, (Ctx.Serves.setChannel ..).trans hy, ?_⟩
    have hset : (s.closeRound c v m.round).setCtx c y = s.setCtx c y := State.setCtx_setCtx ..
    simp only [hserve, hset]
  case h_2 =>
    obtain ⟨y, hy, hserve⟩ := s.serveIdle_serves c
    exact ⟨y, hy, by simp only [hserve]⟩

/-- With the trace disabled, a macro leaves its stream, and then lets go what waits for it. -/
theorem State.retire_eq {s : State} {c : Fin 4} (h : (s.ctxOf c).traceEn = false) (e : Bool) (m : MacroRun) (trapped : Bool) :
    s.retire c e m trapped = (s.setCtx c ((s.ctxOf c).dropOldest e m.id s.time.beat)).letGo c m trapped := by
  let u := s.setCtx c ((s.ctxOf c).dropOldest e m.id s.time.beat)
  have htrace : (if m.ended.isSome then u.trace c m false else u) = u :=
    ite_eq_right_iff.2 fun _ => State.trace_of_off (by rw [State.setCtx_ctxOf_self, Ctx.dropOldest_traceEn, h]) m false
  exact congrArg (State.letGo · c m trapped) htrace

/-- `t` is `s` after the oldest macro of a stream has left it, its context halting with NUMERIC_TRAP if it was trapped. -/
structure State.Retired (s t : State) (c : Fin 4) (e trapped : Bool) : Prop where
  mem : t.mem = s.mem
  inflight : ((t.ctxOf c).stream e).inflight = ((s.ctxOf c).stream e).inflight.tail
  doneWr : (t.ctxOf c).doneWr = (s.ctxOf c).doneWr
  doneTotal : (t.ctxOf c).doneTotal = (s.ctxOf c).doneTotal
  runs : trapped = false → (t.ctxOf c).halt = none
  halts : trapped = true → ∃ h, (t.ctxOf c).halt = some h ∧ h.code = 0x0601 ∧ h.beat = s.time.beat

theorem State.retire_retired {s : State} {c : Fin 4} (hr : s.runs c = true) (h : (s.ctxOf c).traceEn = false) (e : Bool) (m : MacroRun)
    (trapped : Bool) : s.Retired (s.retire c e m trapped) c e trapped := by
  obtain ⟨hlive, hhalt⟩ := (s.runs_iff c).1 hr
  obtain ⟨y, hy, hgo⟩ := (s.setCtx c ((s.ctxOf c).dropOldest e m.id s.time.beat)).letGo_eq c m trapped
  rw [State.setCtx_ctxOf_self] at hy
  have hinflight := (congrArg Stream.inflight (hy.stream e)).trans (Ctx.dropOldest_inflight ..)
  have hwr := hy.doneWr.trans (Ctx.dropOldest_doneWr ..)
  have htotal := hy.doneTotal.trans (Ctx.dropOldest_doneTotal ..)
  have hnone : y.halt = none := (hy.halt.trans (Ctx.dropOldest_halt ..)).trans hhalt
  rw [State.retire_eq h, hgo, State.setCtx_setCtx]
  cases trapped with
  | false =>
    rw [if_neg (by decide)]
    refine ⟨rfl, ?_, ?_, ?_, fun _ => ?_, (nomatch ·)⟩ <;> rw [State.setCtx_ctxOf_self]
    · exact hinflight
    · exact hwr
    · exact htotal
    · exact hnone
  | true =>
    rw [if_pos rfl]
    have hu : (s.setCtx c y).runs c = true := (State.runs_iff _ _).2 ⟨hlive, by rw [State.setCtx_ctxOf_self, hnone]⟩
    have hhalts := (s.setCtx c y).raise_halts { m.cause 0x0601 with detail := m.trapDetail } hu
    obtain ⟨h, n, hx⟩ := (s.setCtx c y).raise_ctxOf c { m.cause 0x0601 with detail := m.trapDetail }
    rw [State.setCtx_ctxOf_self] at hx
    refine ⟨hhalts.mem, ?_, ?_, ?_, (nomatch ·), fun _ => ⟨_, hhalts.began, rfl, rfl⟩⟩ <;> rw [hx]
    · exact hinflight
    · exact hwr
    · exact htotal

end Sys2Proof.Machine

/-! PROOFS of the statements of 15_numeric_events_and_trace.md: MACRO_COMPLETE and its record (O22). -/

namespace Sys2Proof.Machine

/-! ## The record's bytes (R407) -/

@[simp] theorem leBytes_length (n v : Nat) : (leBytes n v).length = n := by rw [leBytes, List.length_map, List.length_range]

/-- The low bytes of a number. -/
theorem leBytes_take {k n : Nat} (h : k ≤ n) (v : Nat) : (leBytes n v).take k = leBytes k v := by
  rw [leBytes, ← List.map_take, List.take_range, Nat.min_eq_left h, leBytes]

/-- What lies above the low bytes of a number does not show in them. -/
theorem leBytes_add_above (n v k : Nat) : leBytes n (v + 256 ^ n * k) = leBytes n v := by
  refine List.map_congr_left fun i hi => congrArg (BitVec.ofNat 8) ?_
  obtain ⟨j, rfl⟩ := Nat.exists_eq_add_of_lt (List.mem_range.1 hi)
  have hsplit : 256 ^ (i + j + 1) * k = 256 ^ i * (256 * (256 ^ j * k)) := by ring
  rw [hsplit, Nat.add_mul_div_left _ _ (by positivity), Nat.add_mul_mod_self_left]

theorem completionRecord_length (m : MacroRun) (stroke ending : Nat) (trapped : Bool) :
    (completionRecord m stroke ending trapped).length = 128 := leBytes_length ..

/-- A record begins with its macro's tag. -/
theorem completionRecord_tag (m : MacroRun) (stroke ending : Nat) (trapped : Bool) :
    (completionRecord m stroke ending trapped).take 4 = leBytes 4 m.tag.toNat := by
  have htag : pack [(0, 4, m.tag.toNat)] = m.tag.toNat := by
    have hlt := m.tag.isLt
    simp only [pack, List.foldl]
    omega
  have hhead (l : List (Nat × Nat × Nat)) (hl : ∀ g ∈ l, 4 ≤ g.1) :
      leBytes 4 (pack ((0, 4, m.tag.toNat) :: l)) = leBytes 4 m.tag.toNat := by
    obtain ⟨k, hk⟩ := pack_append_above [(0, 4, m.tag.toNat)] l hl
    rw [List.singleton_append, htag] at hk
    rw [hk, leBytes_add_above]
  rw [completionRecord, leBytes_take (by decide)]
  exact hhead _ (by simp)

/-! ## Writes that go to the pier (R45) -/

/-- A write that has been given a credit, or waits for one as before. -/
def PierWrite.Credited (w v : PierWrite) : Prop := v = { w with sent := v.sent, beat := v.beat, seq := v.seq }

/-- One write of a pier takes a credit where one is free. -/
def Span.credit (beat : Nat) (acc : List PierWrite × Nat × Nat) (w : PierWrite) : List PierWrite × Nat × Nat :=
  if !w.sent && acc.2.1 < 32 then (acc.1 ++ [{ w with sent := true, beat := beat, seq := acc.2.2 }], acc.2.1 + 1, acc.2.2 + 1)
  else (acc.1 ++ [w], acc.2.1, acc.2.2)

theorem Span.credit_eq (beat : Nat) (acc : List PierWrite × Nat × Nat) (w : PierWrite) :
    ∃ v, w.Credited v ∧ (Span.credit beat acc w).1 = acc.1 ++ [v] := by
  unfold Span.credit
  split
  · exact ⟨{ w with sent := true, beat := beat, seq := acc.2.2 }, rfl, rfl⟩
  · exact ⟨w, rfl, rfl⟩

theorem Span.foldl_credit_mono (beat : Nat) (l : List PierWrite) (acc : List PierWrite × Nat × Nat) {v : PierWrite} (h : v ∈ acc.1) :
    v ∈ (l.foldl (Span.credit beat) acc).1 :=
  List.foldlRecOn (motive := fun a : List PierWrite × Nat × Nat => v ∈ a.1) l _ h fun a ha w _ => by
    obtain ⟨u, -, hu⟩ := Span.credit_eq beat a w
    rw [hu]
    exact List.mem_append_left _ ha

theorem Span.foldl_credit_mem (beat : Nat) (l : List PierWrite) (acc : List PierWrite × Nat × Nat) {w : PierWrite} (h : w ∈ l) :
    ∃ v ∈ (l.foldl (Span.credit beat) acc).1, w.Credited v := by
  induction l generalizing acc with
  | nil => cases h
  | cons a l ih =>
    rcases List.mem_cons.1 h with rfl | h
    · obtain ⟨v, hv, hacc⟩ := Span.credit_eq beat acc w
      exact ⟨v, Span.foldl_credit_mono beat l _ (by rw [hacc]; exact List.mem_append_right _ List.mem_cons_self), hv⟩
    · exact ih _ h

theorem Span.useCredits_writes (x : Span) (beat : Nat) :
    (x.useCredits beat).writes = (x.writes.foldl (Span.credit beat) ([], x.writes.countP PierWrite.sent, x.accesses)).1 := rfl

/-- The writes of a pier stay in its list when credits are dealt. -/
theorem Span.useCredits_mem {x : Span} {w : PierWrite} (h : w ∈ x.writes) (beat : Nat) :
    ∃ v ∈ (x.useCredits beat).writes, w.Credited v := by
  rw [Span.useCredits_writes]
  exact Span.foldl_credit_mem beat x.writes _ h

/-- Bytes that lie in one block of 512 B are one piece. -/
theorem blocksOf_single {addr : Nat} {bytes : List Byte} (hl : 0 < bytes.length) (hf : addr % 512 + bytes.length ≤ 512) :
    blocksOf addr bytes = [(addr, bytes)] := by
  have hcount : (addr + bytes.length + 511) / 512 - addr / 512 = 1 := by omega
  have hlo : max addr (512 * (addr / 512 + 0)) = addr := by omega
  have hhi : min (addr + bytes.length) (512 * (addr / 512 + 0) + 512) - addr = bytes.length := by omega
  rw [blocksOf, hcount]
  simp only [List.range_one, List.map_cons, List.map_nil, hlo, hhi, Nat.sub_self, List.drop_zero, List.take_length]

/-- A write of a context that is no tile's, as it joins its pier. -/
def ownWrite (c : Fin 4) (e : Bool) (index tile addr : Nat) (bytes : List Byte) (beat : Nat) : PierWrite :=
  { ctx := some c.val, execute := e, index := index, tile := tile, block := addr / 512, sent := false, beat := beat, retried := false
    seq := 0, at_ := addr, bytes := bytes }

/-- Bytes within one block go to the pier of the lowest span as one write. -/
theorem State.sendBytes_single {s : State} {c : Fin 4} {n addr : Nat} {bytes : List Byte} (hn : s.lowestSpan c = some n)
    (hl : 0 < bytes.length) (hf : addr % 512 + bytes.length ≤ 512) (e : Bool) (index tile : Nat) :
    s.sendBytes c e index tile addr bytes =
      s.setSpan n ((s.spanOf n).addWrites [ownWrite c e index tile addr bytes (s.spanBeat n)] (s.spanBeat n)) := by
  simp only [State.sendBytes, hn, blocksOf_single hl hf]
  rfl

/-- Such a write then stands in the pier's list. -/
theorem Span.addWrites_mem (x : Span) (w : PierWrite) (beat : Nat) : ∃ v ∈ (x.addWrites [w] beat).writes, w.Credited v :=
  Span.useCredits_mem (x := { x with writes := x.writes ++ [w] }) (List.mem_append_right _ List.mem_cons_self) beat

/-! ## MACRO_COMPLETE (R406, R413, log 112) -/

theorem State.acceptTrace_of_nil {s : State} {c : Fin 4} (h : s.ownWrites c traceTile = []) : s.acceptTrace c = s := by
  rw [State.acceptTrace, h]; rfl

/-- Has a macro raised an event that it traps (R413)? -/
def MacroRun.hasTrapped (m : MacroRun) : Bool := m.trapped || (m.isShort && m.counts.events.any (fun e => m.trap.getLsbD e.kind))

/-- The macro as its completion finds it: it has an end, and a start. -/
def MacroRun.endedAt (m : MacroRun) (now : Nat) : MacroRun :=
  { m with start := if m.start = 0 then BitVec.ofNat 64 now else m.start, ended := some now }

/-- The oldest macro of a stream has finished, and nothing of the context's trace is to be accepted. -/
structure State.CompletionDue (s : State) (c : Fin 4) (x : Bool) (m : MacroRun) (rest : List MacroRun) : Prop where
  runs : s.runs c = true
  inflight : ((s.ctxOf c).stream x).inflight = m :: rest
  done : s.macroDone c m = true
  traceEn : (s.ctxOf c).traceEn = false
  traced : s.ownWrites c traceTile = []

/-- May the shared cache accept a write: it has been sent, and no older access of its pier comes before it (R46)? -/
def State.Free (s : State) (n : Nat) (w : PierWrite) : Prop := w.sent = true ∧ (s.spanOf n).held (· == w) = false

/-- The cache takes the record's bytes and the ring goes on (R428). -/
def State.storeRecord (s : State) (c : Fin 4) (n : Nat) (w : PierWrite) : State :=
  ((s.setMem (Memory.writeBytes w.at_ w.bytes s.mem)).acceptWrites n (· == w)).setCtx c (s.ctxOf c).recorded

namespace State.CompletionDue

variable {s : State} {c : Fin 4} {x : Bool} {m : MacroRun} {rest : List MacroRun}

theorem goes (d : s.CompletionDue c x m rest) : ¬(!s.inBeat c || !s.macroDone c m) = true := by
  rw [State.inBeat, d.runs, d.done, Bool.true_or]
  decide

/-- With no record on its way the macro ends, and sends one or leaves. -/
theorem unsent (d : s.CompletionDue c x m rest) (hw : s.ownWrites c recordTile = []) : s.completeMacro c x =
    if (s.ctxOf c).doneEn then (s.setRun c x 0 (m.endedAt s.now)).sendRecord c x (m.endedAt s.now) m.id m.hasTrapped
    else (s.setRun c x 0 (m.endedAt s.now)).retire c x (m.endedAt s.now) m.hasTrapped := by
  simp only [State.completeMacro, State.acceptTrace_of_nil d.traced, d.inflight, hw]
  exact if_neg d.goes

section
variable {n : Nat} {w : PierWrite} {l : List (Nat × PierWrite)}

theorem accepted (d : s.CompletionDue c x m rest) (hw : s.ownWrites c recordTile = (n, w) :: l) (he : w.execute = x) (hi : w.index = m.id)
    (hf : s.Free n w) : s.completeMacro c x = (s.storeRecord c n w).retire c x m m.hasTrapped := by
  have hown : ¬(w.execute != x || w.index ≠ m.id) = true := by simp [he, hi]
  have haccept : s.acceptOwn n w = some ((s.setMem (Memory.writeBytes w.at_ w.bytes s.mem)).acceptWrites n (· == w)) :=
    if_pos (by rw [hf.1, hf.2]; rfl)
  simp only [State.completeMacro, State.acceptTrace_of_nil d.traced, d.inflight, hw, haccept]
  exact (if_neg d.goes).trans (if_neg hown)

theorem waits (d : s.CompletionDue c x m rest) (hw : s.ownWrites c recordTile = (n, w) :: l) (hf : ¬s.Free n w) : s.completeMacro c x = s := by
  have haccept : s.acceptOwn n w = none := if_neg fun h => hf (by simpa [State.Free] using h)
  simp only [State.completeMacro, State.acceptTrace_of_nil d.traced, d.inflight, hw, haccept]
  exact (if_neg d.goes).trans (ite_id s)

end

end State.CompletionDue

/-! ### The state around a record -/

section
variable (s : State) (c : Fin 4) (e : Bool) (i : Nat) (m : MacroRun)

theorem State.setRun_traceEn : ((s.setRun c e i m).ctxOf c).traceEn = (s.ctxOf c).traceEn := by
  rw [State.setRun, State.setCtx_ctxOf_self]; cases e <;> rfl
theorem State.setRun_doneBase : ((s.setRun c e i m).ctxOf c).doneBase = (s.ctxOf c).doneBase := by
  rw [State.setRun, State.setCtx_ctxOf_self]; cases e <;> rfl
theorem State.setRun_doneWr : ((s.setRun c e i m).ctxOf c).doneWr = (s.ctxOf c).doneWr := by
  rw [State.setRun, State.setCtx_ctxOf_self]; cases e <;> rfl

theorem State.storeRecord_ctxOf (n : Nat) (w : PierWrite) : (s.storeRecord c n w).ctxOf c = (s.ctxOf c).recorded := State.setCtx_ctxOf_self ..

theorem State.storeRecord_runs (n : Nat) (w : PierWrite) : (s.storeRecord c n w).runs c = s.runs c := by
  rw [State.runs, State.storeRecord_ctxOf]; rfl

end

/-- The slots of a ring are aligned to 128 B, so that a record is one write (R406). -/
theorem State.sendRecord_eq {s : State} {c : Fin 4} {n : Nat} (hn : s.lowestSpan c = some n) (e : Bool) (m : MacroRun) (id : Nat)
    (trapped : Bool) : s.sendRecord c e m id trapped =
      s.setSpan n ((s.spanOf n).addWrites [ownWrite c e id recordTile (128 * (s.ctxOf c).doneBase.toNat + 128 * (s.ctxOf c).doneWr.toNat)
        (completionRecord m (s.ctxOf c).stroke.toNat (m.ended.getD s.now) trapped) (s.spanBeat n)] (s.spanBeat n)) := by
  rw [State.sendRecord]
  rw [Nat.mul_comm _ 128]
  refine State.sendBytes_single hn ?_ ?_ e id recordTile <;> rw [completionRecord_length]
  · decide
  · omega

namespace State.CompletionDue

variable {s : State} {c : Fin 4} {x : Bool} {m : MacroRun} {rest : List MacroRun}

/-- The macro that ends stays the oldest of its stream. -/
theorem setRun_inflight (d : s.CompletionDue c x m rest) (m' : MacroRun) : (((s.setRun c x 0 m').ctxOf c).stream x).inflight = m' :: rest := by
  rw [State.setRun_stream, d.inflight, List.set_cons_zero]

/-- With the ring disabled the macro leaves its stream. -/
theorem retires_unrecorded (d : s.CompletionDue c x m rest) (hw : s.ownWrites c recordTile = []) (hen : (s.ctxOf c).doneEn = false) :
    (s.setRun c x 0 (m.endedAt s.now)).Retired (s.completeMacro c x) c x m.hasTrapped := by
  rw [d.unsent hw, if_neg (Bool.eq_false_iff.1 hen)]
  exact State.retire_retired (by rw [State.setRun_runs, d.runs]) (by rw [State.setRun_traceEn, d.traceEn]) ..

/-- A record that is accepted is stored, and then the macro leaves its stream. -/
theorem retires_recorded (d : s.CompletionDue c x m rest) {n : Nat} {w : PierWrite} {l : List (Nat × PierWrite)}
    (hw : s.ownWrites c recordTile = (n, w) :: l) (he : w.execute = x) (hi : w.index = m.id) (hf : s.Free n w) :
    (s.storeRecord c n w).Retired (s.completeMacro c x) c x m.hasTrapped := by
  rw [d.accepted hw he hi hf]
  exact State.retire_retired (by rw [State.storeRecord_runs, d.runs]) (by rw [State.storeRecord_ctxOf]; exact d.traceEn) ..

end State.CompletionDue

/-- Settles O22: with no record on its way the macro leaves (`retires_unrecorded`) or sends one (`State.sendRecord_eq`); a record on its way is
accepted (`retires_recorded`) or waits (`waits`). -/
theorem completionWritesOneRecord : Obligations.CompletionWritesOneRecord := by
  intro c x s m rest hr hflight hdone htrace htraced trapped leaves slot
  have d : s.CompletionDue c x m rest := ⟨hr, hflight, hdone, htrace, htraced⟩
  refine ⟨fun hen _ hw => ?_, fun n hen hw hn => ?_, fun n w l hw he hi => ?_⟩
  · have h := d.retires_unrecorded hw hen
    exact ⟨_, rfl, ⟨h.inflight.trans (by rw [d.setRun_inflight, List.tail_cons]), h.runs, h.halts⟩, h.mem⟩
  · let u := s.setRun c x 0 (m.endedAt s.now)
    have hsend : s.completeMacro c x = _ := (d.unsent hw).trans ((if_pos hen).trans (State.sendRecord_eq (s := u) hn ..))
    rw [State.setRun_doneBase, State.setRun_doneWr] at hsend
    obtain ⟨v, hv, hcredited⟩ := Span.addWrites_mem (u.spanOf n) (ownWrite c x m.id recordTile slot (completionRecord (m.endedAt s.now)
      (u.ctxOf c).stroke.toNat ((m.endedAt s.now).ended.getD u.now) m.hasTrapped) (u.spanBeat n)) (u.spanBeat n)
    refine ⟨_, m.endedAt s.now, v, congrArg Host.Outcome.next hsend, rfl, d.setRun_inflight _, rfl, ?_, ?_, ?_⟩
    · exact (State.setRun_halt ..).trans ((s.runs_iff c).1 hr).2
    · rw [State.setSpan_spanOf_self]; exact hv
    · rw [show v = _ from hcredited]
      exact ⟨rfl, rfl, rfl, rfl, rfl, completionRecord_length .., completionRecord_tag ..⟩
  · refine ⟨fun hf => ?_, fun hf => congrArg Host.Outcome.next (d.waits hw hf)⟩
    have h := d.retires_recorded hw he hi hf
    have hctx := s.storeRecord_ctxOf c n w
    refine ⟨_, rfl, ⟨h.inflight.trans ?_, h.runs, h.halts⟩, h.mem, h.doneTotal.trans (by rw [hctx]; rfl), ?_⟩
    · rw [hctx]
      exact congrArg List.tail hflight
    · rw [h.doneWr, hctx]
      exact BitVec.toNat_ofNat ..

end Sys2Proof.Machine

/-! PROOFS of the statements of 16_contexts_and_isolation.md: what leaves the administration registers alone -/
namespace Sys2Proof.Machine

/-- `t` has the administration registers of `s`. -/
def State.SameAdmin (s t : State) : Prop := t.admin = s.admin

@[simp] theorem State.sameAdmin_iff {s t : State} : s.SameAdmin t ↔ t.admin = s.admin := ⟨id, id⟩

theorem State.SameAdmin.trans {s t u : State} (h : s.SameAdmin t) (k : t.SameAdmin u) : s.SameAdmin u := Eq.trans k h

/-- A fold of updates that leave the administration registers alone leaves them alone. -/
theorem State.SameAdmin.foldl {α : Type} {f : State → α → State} (h : ∀ (s : State) (a : α), s.SameAdmin (f s a)) (l : List α) (s : State) :
    s.SameAdmin (l.foldl f s) :=
  List.foldlRecOn (motive := fun t : State => s.SameAdmin t) l _ rfl fun _ ht a _ => ht.trans (h _ a)

@[simp] theorem State.foldl_admin {α : Type} {f : State → α → State} (h : ∀ (s : State) (a : α), s.SameAdmin (f s a)) (l : List α)
    (s : State) : (l.foldl f s).admin = s.admin := State.SameAdmin.foldl h l s

/-! ### Journal requests -/

@[simp] theorem State.journalAsk_admin (s : State) (type : Nat) (payload : List Byte) :
    (s.journalAsk type payload).admin = s.admin := by simp [State.journalAsk]

/-! ### Shared operations -/

@[simp] theorem State.busyNow_admin (s : State) (span : Nat) : (s.busyNow span).admin = s.admin := by simp [State.busyNow]
@[simp] theorem State.wasBusy_admin (s : State) (c : Fin 4) : (s.wasBusy c).admin = s.admin := by simp [State.wasBusy]
@[simp] theorem State.setsBit_admin (s : State) (n : Nat) : (s.setsBit n).admin = s.admin := by simp [State.setsBit]
@[simp] theorem State.countBad_admin (s : State) : s.countBad.admin = s.admin := by simp [State.countBad]
@[simp] theorem State.raiseAt_admin (s : State) (c : Fin 4) (q : Cause) (beat : Nat) :
    (s.raiseAt c q beat).admin = s.admin := by unfold State.raiseAt; dsimp only; (repeat' split) <;> simp
@[simp] theorem State.coxStep_admin (s : State) : s.coxStep.admin = s.admin := by simp [State.coxStep]
@[simp] theorem State.acceptWrites_admin (s : State) (span : Nat) (mine : PierWrite → Bool) :
    (s.acceptWrites span mine).admin = s.admin := by simp [State.acceptWrites]
@[simp] theorem State.dropWrites_admin (s : State) (gone : PierWrite → Bool) :
    (s.dropWrites gone).admin = s.admin := by simp [State.dropWrites, apply_ite State.admin]
@[simp] theorem State.sendBytes_admin (s : State) (c : Fin 4) (execute : Bool) (index tile addr : Nat) (bytes : List Byte) :
    (s.sendBytes c execute index tile addr bytes).admin = s.admin := by unfold State.sendBytes; split <;> simp
theorem State.acceptOwn_admin {s t : State} {n : Nat} {w : PierWrite} (h : s.acceptOwn n w = some t) : t.admin = s.admin := by
  unfold State.acceptOwn at h
  split at h
  · rw [← Option.some.inj h]; rfl
  · cases h

/-! ### Frames and edges -/

@[simp] theorem State.sendFrame_admin (s : State) (port : Nat) (f : BitVec 256) : (s.sendFrame port f).admin = s.admin := by simp [State.sendFrame]
@[simp] theorem State.sendControl_admin (s : State) (c : Fin 4) (ch kind round row edge : Nat) (word0 : Word) (port : Nat) :
    (s.sendControl c ch kind round row edge word0 port).admin = s.admin := by simp [State.sendControl]
@[simp] theorem State.sendAbort_admin (s : State) (c : Fin 4) (ch round code : Nat) (not_ : Option Nat) :
    (s.sendAbort c ch round code not_).admin = s.admin := by simp [State.sendAbort]
@[simp] theorem State.abortRounds_admin (s : State) (c : Fin 4) (code : Nat) (not_ : Option (Nat × Nat)) :
    (s.abortRounds c code not_).admin = s.admin := by simp [State.abortRounds]

/-! ### The tag trace and completion records -/

@[simp] theorem State.flushTrace_admin (s : State) (c : Fin 4) : (s.flushTrace c).admin = s.admin := by simp [State.flushTrace]
@[simp] theorem State.acceptTrace_admin (s : State) (c : Fin 4) : (s.acceptTrace c).admin = s.admin := by
  refine List.foldlRecOn (motive := fun acc : State × Bool => acc.1.admin = s.admin) _ _ rfl fun acc hacc q _ => ?_
  dsimp only
  split
  · exact hacc
  · split
    · exact hacc
    · next h => exact (State.acceptOwn_admin h).trans hacc
@[simp] theorem State.trace_admin (s : State) (c : Fin 4) (m : MacroRun) (halted : Bool) :
    (s.trace c m halted).admin = s.admin := by simp [State.trace, apply_ite State.admin]
@[simp] theorem State.sendRecord_admin (s : State) (c : Fin 4) (execute : Bool) (m : MacroRun) (id : Nat) (trapped : Bool) :
    (s.sendRecord c execute m id trapped).admin = s.admin := by simp [State.sendRecord]

/-! ### Lane swaps and fences -/

@[simp] theorem State.journalRepair_admin (s : State) (span : Nat) : (s.journalRepair span).admin = s.admin := by simp [State.journalRepair]
@[simp] theorem State.loadRepair_admin (s : State) (span : Nat) (payload : List Byte) :
    (s.loadRepair span payload).admin = s.admin := by simp [State.loadRepair]
@[simp] theorem State.noteCorrected_admin (s : State) (span ctx unit core syndrome address : Nat) :
    (s.noteCorrected span ctx unit core syndrome address).admin = s.admin := by simp [State.noteCorrected, apply_ite State.admin]
@[simp] theorem State.corrected_admin (s : State) (span ctx unit core address : Nat) :
    (s.corrected span ctx unit core address).admin = s.admin := by simp [State.corrected]
@[simp] theorem State.swapDue_admin (s : State) (core : Nat) : (s.swapDue core).admin = s.admin := by simp [State.swapDue, apply_ite State.admin]
@[simp] theorem State.swapLanes_admin (s : State) (core : Nat) : (s.swapLanes core).admin = s.admin := by simp [State.swapLanes]
@[simp] theorem State.swapSpan_admin (s : State) (span : Nat) : (s.swapSpan span).admin = s.admin := by simp [State.swapSpan]
@[simp] theorem State.markFence_admin (s : State) (core : Nat) : (s.markFence core).admin = s.admin := by simp [State.markFence]
@[simp] theorem State.clearFence_admin (s : State) (span core : Nat) :
    (s.clearFence span core).admin = s.admin := by simp [State.clearFence, apply_ite State.admin]

/-! ### Histogram slots, spans and power caps -/

@[simp] theorem State.claimOne_admin (s : State) (slot c : Nat) :
    (s.claimOne slot c).1.admin = s.admin := by unfold State.claimOne; (repeat' split) <;> simp
@[simp] theorem serveClaims_admin (s : State) (stuck : List Nat) (l : List (Nat × Nat)) : (serveClaims s stuck l).1.admin = s.admin := by
  induction l generalizing s stuck with
  | nil => rfl
  | cons q l ih =>
    have hone := s.claimOne_admin q.1 q.2
    unfold serveClaims
    split
    · exact ih ..
    · split <;> rename_i hq <;> rw [hq] at hone <;> exact (ih ..).trans hone
@[simp] theorem State.serveHist_admin (s : State) : s.serveHist.admin = s.admin := by simp [State.serveHist]
@[simp] theorem State.histClaim_admin (s : State) (slot c : Nat) : (s.histClaim slot c).admin = s.admin := by simp [State.histClaim]
@[simp] theorem State.histRelease_admin (s : State) (slot : Nat) : (s.histRelease slot).admin = s.admin := by simp [State.histRelease]
@[simp] theorem State.histClear_admin (s : State) (slot : Nat) : (s.histClear slot).admin = s.admin := by simp [State.histClear]
@[simp] theorem State.histAdvice_admin (s : State) (slot : Nat) (e : BitVec 8) (valid : Bool) :
    (s.histAdvice slot e valid).admin = s.admin := by simp [State.histAdvice]
@[simp] theorem State.zeroCrews_admin (s : State) (l : List Nat) : (s.zeroCrews l).admin = s.admin := by simp [State.zeroCrews]
@[simp] theorem State.zeroCores_admin (s : State) (span : Nat) : (s.zeroCores span).admin = s.admin := by simp [State.zeroCores]
@[simp] theorem State.zeroSpan_admin (s : State) (span : Nat) : (s.zeroSpan span).admin = s.admin := by simp [State.zeroSpan]
@[simp] theorem State.joinSpan_admin (s : State) (c : Fin 4) (span : Nat) : (s.joinSpan c span).admin = s.admin := by simp [State.joinSpan]
@[simp] theorem State.freeSpan_admin (s : State) (span : Nat) : (s.freeSpan span).admin = s.admin := by simp [State.freeSpan]
@[simp] theorem State.writeCaps_admin (s : State) : s.writeCaps.admin = s.admin := by simp [State.writeCaps, apply_ite State.admin]
@[simp] theorem State.dropHeld_admin (s : State) (c : Fin 4) : (s.dropHeld c).admin = s.admin := by simp [State.dropHeld]
@[simp] theorem State.refusePriv_admin (s : State) : s.refusePriv.admin = s.admin := by simp [State.refusePriv]

/-! ### Command lists, the split and routines -/

@[simp] theorem State.doorbell_admin (s : State) (c : Fin 4) (n : BitVec 24) :
    (s.doorbell c n).admin = s.admin := by simp [State.doorbell, apply_ite State.admin]
@[simp] theorem State.works_admin (s : State) (span macro_ which attempt : Nat) :
    (s.works span macro_ which attempt).admin = s.admin := by simp [State.works]
@[simp] theorem State.perf_admin (s : State) (span event n : Nat) : (s.perf span event n).admin = s.admin := by simp [State.perf]
@[simp] theorem State.listFetch_admin (s : State) (c : Fin 4) :
    (s.listFetch c).admin = s.admin := by unfold State.listFetch; dsimp only; (repeat' split) <;> simp
@[simp] theorem State.fetchFails_admin (s : State) (c : Fin 4) :
    (s.fetchFails c).admin = s.admin := by unfold State.fetchFails; dsimp only; (repeat' split) <;> simp
@[simp] theorem State.coxSend_admin (s : State) (r : CoxRead) : (s.coxSend r).admin = s.admin := by simp [State.coxSend]
@[simp] theorem State.coxFetch_admin (s : State) (addr len : Nat) :
    (s.coxFetch addr len).1.admin = s.admin := by unfold State.coxFetch; (repeat' split) <;> simp
@[simp] theorem State.coxTakes_admin (s : State) (gen : Nat) (rd : PierRead) (good : Bool) :
    (s.coxTakes gen rd good).admin = s.admin := by unfold State.coxTakes; (repeat' split) <;> simp
@[simp] theorem State.libraryRead_admin (s : State) (c : Fin 4) (f : Frame) (depth offset : Nat) (errors : Fin 4) :
    (s.libraryRead c f depth offset errors).1.admin = s.admin := by unfold State.libraryRead; split <;> simp
@[simp] theorem State.readRoutine_admin (s : State) (c errors : Fin 4) :
    (s.readRoutine c errors).1.admin = s.admin := by unfold State.readRoutine; split <;> simp
@[simp] theorem State.splitBundle_admin (s : State) (c errors : Fin 4) : (s.splitBundle c errors).admin = s.admin := by
  have hread := s.readRoutine_admin c errors
  unfold State.splitBundle; dsimp only
  split
  · rfl
  · split
    · rfl
    · split <;> rename_i hr <;> rw [hr] at hread
      · exact hread
      · split <;> exact hread
@[simp] theorem State.callFetch_admin (s : State) (c : Fin 4) (x : Ctx) (e : Entry) (errors : Fin 4) :
    (s.callFetch c x e errors).admin = s.admin := by unfold State.callFetch; split <;> simp
@[simp] theorem State.callStep_admin (s : State) (c errors : Fin 4) :
    (s.callStep c errors).admin = s.admin := by unfold State.callStep; dsimp only; (repeat' split) <;> simp
@[simp] theorem State.routineReturn_admin (s : State) (c : Fin 4) :
    (s.routineReturn c).admin = s.admin := by unfold State.routineReturn; dsimp only; (repeat' split) <;> simp

/-! ### Pacing and power -/

@[simp] theorem State.setPhase_admin (s : State) (c : Fin 4) (p : Nat) : (s.setPhase c p).admin = s.admin := by simp [State.setPhase]
@[simp] theorem State.deliver_admin (s : State) (span : Nat) : (s.deliver span).admin = s.admin := by unfold State.deliver; dsimp only; split <;> simp
@[simp] theorem State.floorEntry_admin (s : State) (span : Nat) :
    (s.floorEntry span).admin = s.admin := by unfold State.floorEntry; dsimp only; split <;> simp
@[simp] theorem State.movePoint_admin (s : State) (span : Nat) : (s.movePoint span).admin = s.admin := by simp [State.movePoint]
@[simp] theorem State.loads_admin (s : State) (span upTo : Nat) : (s.loads span upTo).admin = s.admin := by simp [State.loads]
@[simp] theorem State.grantSpan_admin (s : State) (span : Nat) : (s.grantSpan span).admin = s.admin := by simp [State.grantSpan]
@[simp] theorem State.serveSurge_admin (s : State) : s.serveSurge.admin = s.admin := by unfold State.serveSurge; dsimp only; (repeat' split) <;> simp
@[simp] theorem State.surgeRequest_admin (s : State) (span : Nat) :
    (s.surgeRequest span).admin = s.admin := by simp [State.surgeRequest, apply_ite State.admin]
@[simp] theorem State.thermalSample_admin (s : State) (span sensor : Nat) (r : Int) : (s.thermalSample span sensor r).admin = s.admin := by
  unfold State.thermalSample; dsimp only
  split
  · refine (State.alert_admin ..).trans ((State.foldl_admin (fun u p => ?_) _ _).trans ((State.raiseAll_admin ..).trans (State.setSpan_admin ..)))
    exact State.setSpan_admin ..
  · (repeat' split) <;> simp
@[simp] theorem State.powerCap_admin (s : State) (span mw : Nat) :
    (s.powerCap span mw).admin = s.admin := by unfold State.powerCap; dsimp only; split <;> simp
@[simp] theorem State.blockPeak_admin (s : State) (mw : Nat) : (s.blockPeak mw).admin = s.admin := by simp [State.blockPeak, apply_ite State.admin]
@[simp] theorem State.railFault_admin (s : State) (span : Nat) : (s.railFault span).admin = s.admin := by simp [State.railFault]
@[simp] theorem State.railInput_admin (s : State) (span mv ns : Nat) :
    (s.railInput span mv ns).admin = s.admin := by simp [State.railInput, apply_ite State.admin]
@[simp] theorem State.underVoltage_admin (s : State) (span mv ns : Nat) :
    (s.underVoltage span mv ns).admin = s.admin := by simp [State.underVoltage, apply_ite State.admin]
@[simp] theorem State.underVoltageClear_admin (s : State) (span mv : Nat) :
    (s.underVoltageClear span mv).admin = s.admin := by simp [State.underVoltageClear, apply_ite State.admin]
@[simp] theorem State.overVoltage_admin (s : State) (span mv ns : Nat) :
    (s.overVoltage span mv ns).admin = s.admin := by simp [State.overVoltage, apply_ite State.admin]
@[simp] theorem State.overCurrent_admin (s : State) (span da : Nat) : (s.overCurrent span da).admin = s.admin := by simp [State.overCurrent]
@[simp] theorem State.refclkLost_admin (s : State) (ns : Nat) : (s.refclkLost ns).admin = s.admin := by
  unfold State.refclkLost
  split
  · exact (State.alert_admin ..).trans (State.raiseAll_admin ..)
  · rfl
@[simp] theorem State.paceWrite_admin (s : State) (c : Fin 4) (req : BitVec 3) (deadline : BitVec 24) :
    (s.paceWrite c req deadline).admin = s.admin := by simp [State.paceWrite, apply_ite State.admin]

/-! ### Time and strokes -/

@[simp] theorem State.timeSample_admin (s : State) (sample : BitVec 64) (parityOk : Bool) :
    (s.timeSample sample parityOk).admin = s.admin := by simp [State.timeSample, apply_ite State.admin]
@[simp] theorem State.timebaseLost_admin (s : State) : s.timebaseLost.admin = s.admin := by simp [State.timebaseLost, apply_ite State.admin]
@[simp] theorem State.spanBoundary_admin (s : State) (n : Nat) : (s.spanBoundary n).admin = s.admin := by simp [State.spanBoundary]
@[simp] theorem State.journalProfiles_admin (s : State) : s.journalProfiles.admin = s.admin := by simp [State.journalProfiles, apply_ite State.admin]
@[simp] theorem State.sendTelemetry_admin (s : State) (t : TelemSnap) : (s.sendTelemetry t).admin = s.admin := by simp [State.sendTelemetry]
@[simp] theorem State.snapTelemetry_admin (s : State) (tEnd : BitVec 64) : (s.snapTelemetry tEnd).admin = s.admin := by simp [State.snapTelemetry]
@[simp] theorem State.planEnvelopes_admin (s : State) : s.planEnvelopes.admin = s.admin := by simp [State.planEnvelopes, apply_ite State.admin]
@[simp] theorem State.blockBoundary_admin (s : State) (number : BitVec 48) (start : BitVec 64) :
    (s.blockBoundary number start).admin = s.admin := by simp [State.blockBoundary, apply_ite State.admin]
@[simp] theorem State.renumber_admin (s : State) (number : BitVec 48) (start : BitVec 64) :
    (s.renumber number start).admin = s.admin := by simp [State.renumber]
@[simp] theorem State.writeTelemetry_admin (s : State) :
    s.writeTelemetry.admin = s.admin := by unfold State.writeTelemetry; dsimp only; (repeat' split) <;> simp

/-! ### Issue and sync flags -/

@[simp] theorem State.sendShort_admin (s : State) (c : Fin 4) (e : Entry) (gap : Nat) :
    (s.sendShort c e gap).admin = s.admin := by simp [State.sendShort]
@[simp] theorem State.issueHead_admin (s : State) (c : Fin 4) (execute : Bool) (e : Entry) :
    (s.issueHead c execute e).admin = s.admin := by simp [State.issueHead, apply_ite State.admin]
@[simp] theorem State.issue_admin (s : State) (c : Fin 4) (execute : Bool) :
    (s.issue c execute).admin = s.admin := by unfold State.issue; dsimp only; (repeat' split) <;> simp
@[simp] theorem State.refetch_admin (s : State) (c : Fin 4) (execute : Bool) :
    (s.refetch c execute).admin = s.admin := by unfold State.refetch; dsimp only; split <;> simp
@[simp] theorem State.readEntry_admin (s : State) (c : Fin 4) (execute : Bool) (errors : Fin 3) :
    (s.readEntry c execute errors).admin = s.admin := by unfold State.readEntry; split <;> simp
@[simp] theorem State.releaseTimed_admin (s : State) (c : Fin 4) (execute : Bool) :
    (s.releaseTimed c execute).admin = s.admin := by unfold State.releaseTimed; dsimp only; (repeat' split) <;> simp
@[simp] theorem State.scalar_admin (s : State) (c : Fin 4) (d : Due) (f : Ctx → Ctx) :
    (s.scalar c d f).admin = s.admin := by simp [State.scalar, apply_ite State.admin]
@[simp] theorem State.syncSet_admin (s : State) (c : Fin 4) (access execute : Bool) (flag : Nat) (epoch : BitVec 16) :
    (s.syncSet c access execute flag epoch).admin = s.admin := by simp [State.syncSet, apply_ite State.admin]
@[simp] theorem State.setFlagWrite_admin (s : State) (c : Fin 4) :
    (s.setFlagWrite c).admin = s.admin := by unfold State.setFlagWrite; dsimp only; (repeat' split) <;> simp
@[simp] theorem State.syncWait_admin (s : State) (c : Fin 4) (execute : Bool) :
    (s.syncWait c execute).admin = s.admin := by unfold State.syncWait; dsimp only; (repeat' split) <;> simp
@[simp] theorem State.waitSatisfied_admin (s : State) (c : Fin 4) (execute : Bool) :
    (s.waitSatisfied c execute).admin = s.admin := by unfold State.waitSatisfied; dsimp only; (repeat' split) <;> simp
@[simp] theorem State.syncFence_admin (s : State) (c : Fin 4) (execute : Bool) :
    (s.syncFence c execute).admin = s.admin := by unfold State.syncFence; dsimp only; (repeat' split) <;> simp
@[simp] theorem State.fenceRelease_admin (s : State) (c : Fin 4) (execute : Bool) :
    (s.fenceRelease c execute).admin = s.admin := by unfold State.fenceRelease; dsimp only; (repeat' split) <;> simp
@[simp] theorem State.flagHostWrite_admin (s : State) (c : Fin 4) (flag : Nat) (epoch : BitVec 16) :
    (s.flagHostWrite c flag epoch).admin = s.admin := by simp [State.flagHostWrite, apply_ite State.admin]
@[simp] theorem State.waitTimeout_admin (s : State) (c : Fin 4) (execute : Bool) :
    (s.waitTimeout c execute).admin = s.admin := by unfold State.waitTimeout; dsimp only; (repeat' split) <;> simp
@[simp] theorem State.crossWait_admin (s : State) (c : Fin 4) :
    (s.crossWait c).admin = s.admin := by unfold State.crossWait; dsimp only; (repeat' split) <;> simp

/-! ### The journal -/

@[simp] theorem State.journalRaw_admin (s : State) (off : Nat) (bytes : List Byte) :
    (s.journalRaw off bytes).admin = s.admin := by simp [State.journalRaw, apply_ite State.admin]
@[simp] theorem State.journalStep_admin (s : State) (f : Journal → Journal) :
    (s.journalStep f).admin = s.admin := by simp [State.journalStep, apply_ite State.admin]

/-! ### The start -/

@[simp] theorem State.startRecord_admin (s : State) (type : Nat) (payload : List Byte) :
    (s.startRecord type payload).admin = s.admin := by simp [State.startRecord, apply_ite State.admin]
@[simp] theorem State.ledger_admin (s : State) (e : BitVec 128) : (s.ledger e).admin = s.admin := by simp [State.ledger]
@[simp] theorem State.release_admin (s : State) : s.release.admin = s.admin := by simp [State.release, apply_ite State.admin]
@[simp] theorem State.beginStep_admin (s : State) (n : Nat) : (s.beginStep n).admin = s.admin := by simp [State.beginStep]
@[simp] theorem State.endStep_admin (s : State) (n outcome fenced : Nat) : (s.endStep n outcome fenced).admin = s.admin := by simp [State.endStep]
@[simp] theorem State.failStep_admin (s : State) (n fenced : Nat) :
    (s.failStep n fenced).admin = s.admin := by simp [State.failStep, apply_ite State.admin]
@[simp] theorem State.scan_admin (s : State) : s.scan.admin = s.admin := by unfold State.scan; dsimp only; split <;> simp
@[simp] theorem State.takeImage_admin (s : State) (img : Option (List Byte)) :
    (s.takeImage img).admin = s.admin := by unfold State.takeImage; dsimp only; split <;> simp
@[simp] theorem State.loadPatches_admin (s : State) (l : List (Nat × Nat)) : (s.loadPatches l).1.admin = s.admin := by
  induction l generalizing s with
  | nil => rfl
  | cons p l ih =>
    have hfetch := s.coxFetch_admin p.1 p.2
    unfold State.loadPatches
    split <;> rename_i h <;> rw [h] at hfetch
    · exact hfetch
    · exact (ih _).trans ((State.takeImage_admin ..).trans hfetch)
    · exact (ih _).trans ((State.takeImage_admin ..).trans hfetch)
@[simp] theorem State.fenceSpan_admin (s : State) (p : Nat) : (s.fenceSpan p).admin = s.admin := by simp [State.fenceSpan]
@[simp] theorem State.fenceSpans_admin (s : State) (mask : BitVec 16) : (s.fenceSpans mask).admin = s.admin := by
  refine State.foldl_admin (fun u p => State.sameAdmin_iff.2 ?_) _ s
  dsimp only
  split <;> split <;> simp
@[simp] theorem State.choosePier_admin (s : State) : s.choosePier.admin = s.admin := by simp [State.choosePier]
@[simp] theorem State.keepFences_admin (s : State) (mask : BitVec 16) :
    (s.keepFences mask).admin = s.admin := by simp [State.keepFences, apply_ite State.admin]
@[simp] theorem State.applyMap_admin (s : State) : s.applyMap.admin = s.admin := by simp [State.applyMap, apply_ite State.admin]
@[simp] theorem State.emptyMap_admin (s : State) : s.emptyMap.admin = s.admin := by simp [State.emptyMap]
@[simp] theorem State.loadTables_admin (s : State) : s.loadTables.admin = s.admin := by unfold State.loadTables; dsimp only; split <;> simp
@[simp] theorem State.setRollback_admin (s : State) (n : Nat) (restorable : Bool) :
    (s.setRollback n restorable).admin = s.admin := by simp [State.setRollback]
@[simp] theorem State.formatJournal_admin (s : State) : s.formatJournal.admin = s.admin := by simp [State.formatJournal, apply_ite State.admin]
@[simp] theorem State.testCores_admin (s : State) (faulty : List Nat) :
    (s.testCores faulty).1.admin = s.admin := by unfold State.testCores; dsimp only; split <;> simp
@[simp] theorem State.testLanes_admin (s : State) (faulty : List Nat) : (s.testLanes faulty).1.admin = s.admin := by
  unfold State.testLanes; dsimp only
  split
  · next h => simpa using (congrArg (fun q => q.1.admin) h).symm
  · simp
@[simp] theorem State.markPort_admin (s : State) (port : Nat) : (s.markPort port).admin = s.admin := by simp [State.markPort]
@[simp] theorem State.act_admin (s : State) (n : Nat) (failing : Bool) (badSpans : BitVec 16) (faulty : List Nat) :
    (s.act n failing badSpans faulty).1.admin = s.admin := by
  suffices h : s.SameAdmin (s.act n failing badSpans faulty).1 from h
  unfold State.act; dsimp only
  split
  · split <;> simp
  · split
    case h_1 | h_2 | h_3 =>
      split
      · simp
      · split <;> simp [apply_ite State.admin]
    case h_4 => split <;> simp [apply_ite Prod.fst, apply_ite State.admin]
    case h_10 =>
      split
      · simp
      · split
        · next l _ =>
          have hload := s.loadPatches_admin (l.drop s.start.patchAt)
          split <;> rename_i h <;> rw [h] at hload <;> exact hload
        · split <;> simp
    case h_12 =>
      split
      · simp
      · split <;> simp
    all_goals simp [apply_ite Prod.fst, apply_ite State.admin]
@[simp] theorem State.runSteps_admin (s : State) (upTo : Nat) (failing : BitVec 14) (badSpans : BitVec 16) (faulty : List Nat) (fuel : Nat) :
    (s.runSteps upTo failing badSpans faulty fuel).admin = s.admin := by
  induction fuel generalizing s with
  | zero => rfl
  | succ fuel ih =>
    have hbegin : (if s.start.running then s else s.beginStep s.start.step.toNat).admin = s.admin := by split <;> simp
    unfold State.runSteps; dsimp only
    generalize (if s.start.running then s else s.beginStep s.start.step.toNat) = u at hbegin
    split
    · rfl
    · split
      · exact hbegin
      · split
        · exact (State.failStep_admin ..).trans hbegin
        · have hact := (u.act_admin s.start.step.toNat (bit failing s.start.step.toNat) badSpans faulty).trans hbegin
          split <;> rename_i h <;> rw [h] at hact
          · exact hact
          · exact (State.failStep_admin ..).trans hact
          · split
            · exact (State.endStep_admin ..).trans hact
            · exact (ih _).trans ((State.endStep_admin ..).trans hact)
@[simp] theorem State.startAttempt_admin (s : State) (upTo : Nat) (failing : BitVec 14) (badSpans : BitVec 16) (faulty : List Nat) :
    (s.startAttempt upTo failing badSpans faulty).admin = s.admin := by simp [State.startAttempt, apply_ite State.admin]
@[simp] theorem State.stepTimeout_admin (s : State) : s.stepTimeout.admin = s.admin := by simp [State.stepTimeout, apply_ite State.admin]
@[simp] theorem State.retry_admin (s : State) : s.retry.admin = s.admin := by simp [State.retry, apply_ite State.admin]
@[simp] theorem State.startStep_admin (s : State) : s.startStep.admin = s.admin := by simp [State.startStep, apply_ite State.admin]

/-! ### The mailbox -/

@[simp] theorem State.answer_admin (s : State) (v : Message) (status : Nat) : (s.answer v status).admin = s.admin := by simp [State.answer]

/-! ### Registers that wait for an idle context -/

@[simp] theorem State.bayWrite_admin (s : State) (c : Fin 4) (n : Nat) (v : BitVec 30) :
    (s.bayWrite c n v).admin = s.admin := by simp [State.bayWrite, apply_ite State.admin]
@[simp] theorem State.cplWrite_admin (s : State) (c : Fin 4) (mode : Bool) :
    (s.cplWrite c mode).admin = s.admin := by simp [State.cplWrite, apply_ite State.admin]
@[simp] theorem State.serveVia_admin (s : State) (c : Fin 4) : (s.serveVia c).admin = s.admin := by simp [State.serveVia]
@[simp] theorem State.viaWrite_admin (s : State) (c : Fin 4) (ch k : Nat) (v : BitVec 64) :
    (s.viaWrite c ch k v).admin = s.admin := by simp [State.viaWrite, apply_ite State.admin]
@[simp] theorem State.serveIdle_admin (s : State) (c : Fin 4) : (s.serveIdle c).admin = s.admin := by simp [State.serveIdle]
@[simp] theorem State.bayApply_admin (s : State) (c : Fin 4) : (s.bayApply c).admin = s.admin := by simp [State.bayApply, apply_ite State.admin]
@[simp] theorem State.doneBaseWrite_admin (s : State) (c : Fin 4) (v : BitVec 64) :
    (s.doneBaseWrite c v).admin = s.admin := by simp [State.doneBaseWrite, apply_ite State.admin]
@[simp] theorem State.doneCtlWrite_admin (s : State) (c : Fin 4) (v : BitVec 64) :
    (s.doneCtlWrite c v).admin = s.admin := by simp [State.doneCtlWrite, apply_ite State.admin]
@[simp] theorem State.traceBaseWrite_admin (s : State) (c : Fin 4) (v : BitVec 64) :
    (s.traceBaseWrite c v).admin = s.admin := by simp [State.traceBaseWrite, apply_ite State.admin]
@[simp] theorem State.ringBaseWrite_admin (s : State) (c : Fin 4) (which : Fin 3) (v : BitVec 64) :
    (s.ringBaseWrite c which v).admin = s.admin := by unfold State.ringBaseWrite; (repeat' split) <;> simp
@[simp] theorem State.rngWrite_admin (s : State) (c : Fin 4) (hi : Bool) (v : BitVec 64) :
    (s.rngWrite c hi v).admin = s.admin := by simp [State.rngWrite, apply_ite State.admin]
@[simp] theorem State.perfSelWrite_admin (s : State) (span n : Nat) (event : BitVec 6) :
    (s.perfSelWrite span n event).admin = s.admin := by simp [State.perfSelWrite]
@[simp] theorem State.perfClear_admin (s : State) (span : Nat) : (s.perfClear span).admin = s.admin := by simp [State.perfClear]
@[simp] theorem State.perfFreeze_admin (s : State) (span : Nat) (on : Bool) : (s.perfFreeze span on).admin = s.admin := by simp [State.perfFreeze]
@[simp] theorem State.discardFlag_admin (s : State) (c : Fin 4) (cause : BitVec 2) :
    (s.discardFlag c cause).admin = s.admin := by simp [State.discardFlag]
@[simp] theorem State.arrivalFlag_admin (s : State) (c : Fin 4) (index : BitVec 12) (seq : BitVec 16) (parityOk : Bool) :
    (s.arrivalFlag c index seq parityOk).admin = s.admin := by simp [State.arrivalFlag, apply_ite State.admin]

/-! ### The descriptor snapshot -/

@[simp] theorem State.raiseFail_admin (s : State) (c : Fin 4) (m : MacroRun) (f : Fail) :
    (s.raiseFail c m f).admin = s.admin := by simp [State.raiseFail]
@[simp] theorem State.readBlock_admin (s : State) (c : Fin 4) (execute : Bool) (i id : Nat) (m : MacroRun) (r : BlockRead) :
    (s.readBlock c execute i id m r).admin = s.admin := by simp [State.readBlock]
@[simp] theorem State.storeRead_admin (s : State) (c : Fin 4) (m : MacroRun) (errors : Fin 3) (handle : Nat) :
    (s.storeRead c m errors handle).1.admin = s.admin := by unfold State.storeRead; dsimp only; (repeat' split) <;> simp
@[simp] theorem State.snapshotNext_admin (s : State) (c : Fin 4) (execute : Bool) (errors : Fin 3) (handle : Nat) :
    (s.snapshotNext c execute errors handle).admin = s.admin := by
  unfold State.snapshotNext; dsimp only
  split
  · rfl
  · split
    · rfl
    · split
      · simp
      · split
        · next h => simpa using (congrArg (fun q => q.1.admin) h).symm
        · next h =>
          have hread := (congrArg (fun q => q.1.admin) h).symm
          rw [State.storeRead_admin] at hread
          dsimp only at hread
          (repeat' split) <;> simp [hread]

/-! ### The viaduct -/

@[simp] theorem State.sendRow_admin (s : State) (c : Fin 4) (ch round row port : Nat) (edges : List Nat) (msgs : List (List Word)) (part : Nat) :
    (s.sendRow c ch round row port edges msgs part).1.admin = s.admin :=
  List.foldlRecOn (motive := fun acc : State × List (BitVec 256) => acc.1.admin = s.admin) _ _ rfl fun _ hacc _ _ =>
    (State.foldl_admin (fun _ _ => State.sendFrame_admin ..) _ _).trans hacc
@[simp] theorem State.noteRow_admin (s : State) (c : Fin 4) (ch round row : Nat) (f : ViaRow → ViaRow) :
    (s.noteRow c ch round row f).admin = s.admin := by simp [State.noteRow]
@[simp] theorem State.viaDeliver_admin (s : State) (c : Fin 4) (ch round row : Nat) (msgs : List (List Word)) :
    (s.viaDeliver c ch round row msgs).admin = s.admin := by simp [State.viaDeliver, apply_ite State.admin]
@[simp] theorem State.viaUp_admin (s : State) (c : Fin 4) (ch round row : Nat) (msgs : List (List Word)) (part : Nat) :
    (s.viaUp c ch round row msgs part).admin = s.admin := by simp [State.viaUp]
@[simp] theorem State.viaAdvance_admin (s : State) (c : Fin 4) (ch round row : Nat) :
    (s.viaAdvance c ch round row).admin = s.admin := by unfold State.viaAdvance; dsimp only; (repeat' split) <;> simp
@[simp] theorem State.viaOwn_admin (s : State) (c : Fin 4) (ch round row : Nat) (own : List (List Word)) :
    (s.viaOwn c ch round row own).admin = s.admin := by simp [State.viaOwn, apply_ite State.admin]
@[simp] theorem State.failPort_admin (s : State) (port : Nat) : (s.failPort port).admin = s.admin := by
  unfold State.failPort; dsimp only
  split
  · rfl
  · split
    · refine (State.foldl_admin (fun u c => State.sameAdmin_iff.2 ?_) _ _).trans (State.markPort_admin ..)
      split <;> simp
    · exact State.markPort_admin ..
@[simp] theorem State.countPort_admin (s : State) (port : Nat) (resend : Bool) :
    (s.countPort port resend).admin = s.admin := by simp [State.countPort, apply_ite State.admin]
@[simp] theorem State.viaTake_admin (s : State) (c : Fin 4) (ch : Nat) (f : FrameInfo) :
    (s.viaTake c ch f).admin = s.admin := by unfold State.viaTake; dsimp only; (repeat' split) <;> simp
@[simp] theorem State.viaDiscard_admin (s : State) (c : Fin 4) (ch why : Nat) : (s.viaDiscard c ch why).admin = s.admin := by simp [State.viaDiscard]
theorem State.viaReceive_admin {use : State → FrameInfo → State} (huse : ∀ u f, (use u f).admin = u.admin) (s : State) (c : Fin 4)
    (ch port : Nat) (v : BitVec 256) : (s.viaReceive c ch port v use).admin = s.admin := by
  unfold State.viaReceive; dsimp only
  (repeat' split) <;> simp [huse]
@[simp] theorem State.openRound_admin (s : State) (c : Fin 4) (ch round : Nat) : (s.openRound c ch round).admin = s.admin := by simp [State.openRound]
@[simp] theorem State.closeRound_admin (s : State) (c : Fin 4) (ch round : Nat) :
    (s.closeRound c ch round).admin = s.admin := by simp [State.closeRound]
@[simp] theorem State.viaData_admin (s : State) (c : Fin 4) (ch port : Nat) (v : BitVec 256) (down : Bool) :
    (s.viaData c ch port v down).admin = s.admin := by
  unfold State.viaData; dsimp only
  split
  · rfl
  · exact State.viaReceive_admin (fun u _ => u.viaTake_admin ..) ..
@[simp] theorem State.pairEdge_admin (s : State) (c : Fin 4) (ch round edge : Nat) :
    (s.pairEdge c ch round edge).admin = s.admin := by simp [State.pairEdge]
@[simp] theorem State.viaResend_admin (s : State) (c : Fin 4) (ch port : Nat) (v : BitVec 256) : (s.viaResend c ch port v).admin = s.admin := by
  unfold State.viaResend
  split
  · rfl
  · exact State.viaReceive_admin (fun u f => by dsimp only; (repeat' split) <;> simp) ..
@[simp] theorem State.viaHold_admin (s : State) (c : Fin 4) (ch port : Nat) (v : BitVec 256) : (s.viaHold c ch port v).admin = s.admin := by
  unfold State.viaHold
  split
  · rfl
  · exact State.viaReceive_admin (fun u f => by split <;> simp) ..
@[simp] theorem State.dropForwards_admin (s : State) (c : Fin 4) (ch round : Nat) :
    (s.dropForwards c ch round).admin = s.admin := by simp [State.dropForwards]
@[simp] theorem State.viaAbort_admin (s : State) (c : Fin 4) (ch port : Nat) (v : BitVec 256) : (s.viaAbort c ch port v).admin = s.admin := by
  unfold State.viaAbort
  split
  · rfl
  · exact State.viaReceive_admin (fun u f => by simp) ..
@[simp] theorem State.countLate_admin (s : State) (c : Fin 4) (ch : Nat) (resend : Bool) :
    (s.countLate c ch resend).admin = s.admin := by simp [State.countLate]
@[simp] theorem State.passRung_admin (s : State) (c : Fin 4) (ch round row edge start rung : Nat) :
    (s.passRung c ch round row edge start rung).admin = s.admin := by simp [State.passRung]
@[simp] theorem State.askAgain_admin (s : State) (c : Fin 4) (ch round row edge : Nat) :
    (s.askAgain c ch round row edge).admin = s.admin := by simp [State.askAgain]
@[simp] theorem State.rung_admin (s : State) (c : Fin 4) (ch round row edge : Nat) (wait : Option (Nat × Nat)) (budget rung : Nat) :
    (s.rung c ch round row edge wait budget rung).admin = s.admin := by unfold State.rung; dsimp only; (repeat' split) <;> simp
@[simp] theorem State.upRung_admin (s : State) (c : Fin 4) (ch round row child rung : Nat) :
    (s.upRung c ch round row child rung).admin = s.admin := by simp [State.upRung]
@[simp] theorem State.downRungStep_admin (s : State) (c : Fin 4) (ch round row rung : Nat) :
    (s.downRungStep c ch round row rung).admin = s.admin := by simp [State.downRungStep]

/-! ### The plan -/

@[simp] theorem State.planned_admin (s : State) (c : Fin 4) (execute : Bool) (i : Nat) (m : MacroRun) (d : Draft) (p : Plan) :
    (s.planned c execute i m d p).admin = s.admin := by simp [State.planned, apply_ite State.admin]
@[simp] theorem State.planNext_admin (s : State) (c : Fin 4) (execute : Bool) :
    (s.planNext c execute).admin = s.admin := by unfold State.planNext; dsimp only; (repeat' split) <;> simp

/-! ### Lines of short operations -/

@[simp] theorem State.countShort_admin (s : State) (crew i : Nat) :
    (s.countShort crew i).admin = s.admin := by unfold State.countShort; dsimp only; (repeat' split) <;> simp
@[simp] theorem State.endShort_admin (s : State) (c : Fin 4) (index beat : Nat) :
    (s.endShort c index beat).admin = s.admin := by simp [State.endShort]
@[simp] theorem State.readBeat_admin (s : State) (crew i b : Nat) :
    (s.readBeat crew i b).admin = s.admin := by unfold State.readBeat; dsimp only; (repeat' split) <;> simp
@[simp] theorem State.readsDue_admin (s : State) (crew upto : Nat) : (s.readsDue crew upto).admin = s.admin := by
  refine State.foldl_admin (fun u _ => State.sameAdmin_iff.2 ?_) _ s
  (repeat' split) <;> simp
@[simp] theorem State.readsNow_admin (s : State) (c : Fin 4) : (s.readsNow c).admin = s.admin := by simp [State.readsNow]
@[simp] theorem State.landOne_admin (s : State) (crew upto : Nat) :
    (s.landOne crew upto).admin = s.admin := by unfold State.landOne; dsimp only; (repeat' split) <;> simp
@[simp] theorem State.settleLines_admin (s : State) (c : Fin 4) (more : Nat) :
    (s.settleLines c more).admin = s.admin := by simp [State.settleLines, apply_ite State.admin]

/-! ### Rows of macros -/

@[simp] theorem State.closeRow_admin (s : State) (c : Fin 4) (row : Nat) :
    (s.closeRow c row).admin = s.admin := by unfold State.closeRow; dsimp only; (repeat' split) <;> simp
@[simp] theorem State.upSend_admin (s : State) (c : Fin 4) (ch row : Nat) :
    (s.upSend c ch row).admin = s.admin := by unfold State.upSend; dsimp only; (repeat' split) <;> simp
@[simp] theorem State.sendStores_admin (s : State) (c : Fin 4) (execute : Bool) (m : MacroRun) (p : Plan) (t : Nat) (r : TileRun) (l : List Store) :
    (s.sendStores c execute m p t r l).admin = s.admin := by unfold State.sendStores; (repeat' split) <;> simp
@[simp] theorem State.sendWrites_admin (s : State) (c : Fin 4) (execute : Bool) (p : Plan) (m m' : MacroRun) :
    (s.sendWrites c execute p m m').admin = s.admin := by
  refine State.foldl_admin (fun u _ => State.sameAdmin_iff.2 ?_) _ s
  (repeat' split) <;> simp
@[simp] theorem State.runKind_admin (s : State) (c : Fin 4) (execute : Bool) (is : MacroRun → Bool) (f : Ev → TileOut) :
    (s.runKind c execute is f).admin = s.admin := by unfold State.runKind; (repeat' split) <;> simp
@[simp] theorem State.checkSt_admin (s : State) (c : Fin 4) (m : MacroRun) (p : Plan) (t : Nat) :
    (s.checkSt c m p t).admin = s.admin := by unfold State.checkSt; (repeat' split) <;> simp

/-! ### Dealing, inputs and stealing -/

@[simp] theorem State.sendCmds_admin (s : State) (c : Fin 4) (crew : Nat) : (s.sendCmds c crew).admin = s.admin := by
  refine State.foldl_admin (fun u _ => State.sameAdmin_iff.2 ?_) _ s
  dsimp only; (repeat' split) <;> simp
@[simp] theorem State.openPark_admin (s : State) (c : Fin 4) (m : MacroRun) (p : Plan) (d : Draft) (t crew : Nat) :
    (s.openPark c m p d t crew).admin = s.admin := by simp [State.openPark, apply_ite State.admin]
@[simp] theorem State.openBanks_admin (s : State) (c : Fin 4) (m : MacroRun) (p : Plan) (t crew : Nat) :
    (s.openBanks c m p t crew).admin = s.admin := by simp [State.openBanks]
@[simp] theorem State.place_admin (s : State) (c : Fin 4) (execute : Bool) (i : Nat) (m : MacroRun) (p : Plan) (d : Draft) (t core : Nat)
    (rings : List (Nat × RingTile)) :
    (s.place c execute i m p d t core rings).admin = s.admin := by simp [State.place, apply_ite State.admin]
/-- The state after one offer of a span's walker. -/
def Dealt.state : Dealt → State
  | .dealt s => s
  | .stop s => s

theorem State.dealTile_admin (s : State) (c : Fin 4) (execute : Bool) (i span : Nat) (m : MacroRun) (p : Plan) (t : Nat)
    (rings : List (Nat × RingTile)) (ring : Option Nat) : (s.dealTile c execute i span m p t rings ring).state.admin = s.admin := by
  unfold State.dealTile; dsimp only
  (repeat' split) <;> simp [Dealt.state]

theorem State.dealOne_admin (s : State) (span : Nat) : (s.dealOne span).state.admin = s.admin := by
  unfold State.dealOne; dsimp only
  split
  · rfl
  · split
    · rfl
    · refine List.foldlRecOn (motive := fun d : Dealt => d.state.admin = s.admin) _ _ rfl fun acc hacc o _ => ?_
      split
      · exact hacc
      · split
        · exact hacc
        · split
          · exact hacc
          · exact hacc
          · exact (State.raise_admin ..).trans hacc
          · exact (State.dealTile_admin ..).trans hacc

@[simp] theorem State.dealBeat_admin (s : State) (span : Nat) : (s.dealBeat span).admin = s.admin := by
  have hfirst := s.dealOne_admin span
  unfold State.dealBeat
  split <;> rename_i h <;> rw [h] at hfirst
  · exact hfirst
  · next u =>
    have hsecond := u.dealOne_admin span
    split <;> rename_i h <;> rw [h] at hsecond
    · exact hsecond.trans hfirst
    · exact hsecond.trans hfirst
@[simp] theorem State.readInputs_admin (s : State) (core : Nat) :
    (s.readInputs core).admin = s.admin := by unfold State.readInputs; dsimp only; (repeat' split) <;> simp
@[simp] theorem State.leaveCore_admin (s : State) (core : Nat) (h : Nat × Bool × Nat × Nat) :
    (s.leaveCore core h).admin = s.admin := by simp [State.leaveCore]
@[simp] theorem State.handBack_admin (s : State) (c : Fin 4) (execute : Bool) (i : Nat) (m : MacroRun) (t : Nat) (counts : Bool) :
    (s.handBack c execute i m t counts).admin = s.admin := by simp [State.handBack, apply_ite State.admin]
@[simp] theorem State.failTile_admin (s : State) (c : Fin 4) (execute : Bool) (i : Nat) (m : MacroRun) (p : Plan)
    (t lane unit syndrome address : Nat) :
    (s.failTile c execute i m p t lane unit syndrome address).admin = s.admin := by unfold State.failTile; dsimp only; (repeat' split) <;> simp
@[simp] theorem State.blockFails_admin (s : State) (c : Fin 4) (execute : Bool) (i : Nat) (m : MacroRun) (span tag : Nat) (rd : PierRead) :
    (s.blockFails c execute i m span tag rd).admin = s.admin := by simp [State.blockFails, apply_ite State.admin]
@[simp] theorem State.readFails_admin (s : State) (span tag : Nat) (rd : PierRead) :
    (s.readFails span tag rd).admin = s.admin := by unfold State.readFails; dsimp only; (repeat' split) <;> simp
@[simp] theorem State.readResponse_admin (s : State) (span tag : Nat) (poison : Bool) :
    (s.readResponse span tag poison).admin = s.admin := by unfold State.readResponse; dsimp only; (repeat' split) <;> simp
@[simp] theorem State.readTimeout_admin (s : State) (span tag : Nat) :
    (s.readTimeout span tag).admin = s.admin := by unfold State.readTimeout; (repeat' split) <;> simp
@[simp] theorem State.steal_admin (s : State) (core : Nat) : (s.steal core).admin = s.admin := by unfold State.steal; (repeat' split) <;> simp

/-! ### Execution, commits, halos and carries -/

@[simp] theorem State.failCorrection_admin (s : State) (c : Fin 4) (i : Nat) (m : MacroRun) (p : Plan) (low core lane unit syndrome address : Nat) :
    (s.failCorrection c i m p low core lane unit syndrome address).admin = s.admin := by simp [State.failCorrection, apply_ite State.admin]
@[simp] theorem State.fenceCore_admin (s : State) (core : Nat) : (s.fenceCore core).admin = s.admin := by
  suffices h : s.SameAdmin (s.fenceCore core) from h
  unfold State.fenceCore; dsimp only
  refine .trans ?_ (.foldl (fun u _ => State.sameAdmin_iff.2 ?_) _ _)
  · split <;> simp
  · (repeat' split) <;> simp
@[simp] theorem State.attribute_admin (s : State) (core lane : Nat) :
    (s.attribute core lane).admin = s.admin := by simp [State.attribute, apply_ite State.admin]
@[simp] theorem State.carryIn_admin (s : State) (c : Fin 4) (m : MacroRun) (p : Plan) (t : Nat) : (s.carryIn c m p t).2.admin = s.admin := by
  unfold State.carryIn
  (repeat' split) <;> rfl
@[simp] theorem State.passCarry_admin (s : State) (c : Fin 4) (i : Nat) (m : MacroRun) (p : Plan) (t : Nat) :
    (s.passCarry c i m p t).admin = s.admin := by unfold State.passCarry; dsimp only; (repeat' split) <;> simp
@[simp] theorem State.linkParity_admin (s : State) (c : Fin 4) (m : MacroRun) (p : Plan) (t core n : Nat) :
    (s.linkParity c m p t core n).admin = s.admin := by simp [State.linkParity, apply_ite State.admin]
@[simp] theorem State.carrySend_admin (s : State) (core : Nat) (errors : Fin 3) :
    (s.carrySend core errors).admin = s.admin := by unfold State.carrySend; (repeat' split) <;> simp
@[simp] theorem State.haloArrives_admin (s : State) (c : Fin 4) (execute : Bool) (i : Nat) (m : MacroRun) (n span : Nat) (reload : Bool) :
    (s.haloArrives c execute i m n span reload).admin = s.admin := by simp [State.haloArrives, apply_ite State.admin]
@[simp] theorem State.haloSend_admin (s : State) (core : Nat) (errors : Fin 3) :
    (s.haloSend core errors).admin = s.admin := by unfold State.haloSend; (repeat' split) <;> simp
@[simp] theorem State.haloTimeout_admin (s : State) (core : Nat) : (s.haloTimeout core).admin = s.admin := by unfold State.haloTimeout; split <;> simp
@[simp] theorem State.freeBanks_admin (s : State) (c : Fin 4) (m : MacroRun) (crew : Nat) (done : Nat → Bool) :
    (s.freeBanks c m crew done).admin = s.admin := by simp [State.freeBanks]
@[simp] theorem State.turnGate_admin (s : State) (c : Fin 4) (m : MacroRun) (p : Plan) (crew key : Nat) :
    (s.turnGate c m p crew key).admin = s.admin := by simp [State.turnGate, apply_ite State.admin]
@[simp] theorem State.releaseBanks_admin (s : State) (c : Fin 4) (m : MacroRun) (p : Plan) (t : Nat) :
    (s.releaseBanks c m p t).admin = s.admin := by unfold State.releaseBanks; dsimp only; (repeat' split) <;> simp
@[simp] theorem State.parkTile_admin (s : State) (c : Fin 4) (execute : Bool) (i : Nat) (m : MacroRun) (p : Plan) (t core : Nat) :
    (s.parkTile c execute i m p t core).admin = s.admin := by simp [State.parkTile, apply_ite State.admin]
@[simp] theorem State.sortTile_admin (s : State) (c : Fin 4) (execute : Bool) (i : Nat) (m : MacroRun) (t core : Nat) :
    (s.sortTile c execute i m t core).admin = s.admin := by simp [State.sortTile]
/-- The state that the checks of a tile leave. -/
def Checked.state : Checked → State
  | .pass s => s
  | .stop s => s

@[simp] theorem Checked.state_pass (s : State) : (Checked.pass s).state = s := by rfl
@[simp] theorem Checked.state_stop (s : State) : (Checked.stop s).state = s := by rfl

@[simp] theorem State.checkTile_admin {failed : State → Nat → Nat → Nat → Nat → State}
    (hfailed : ∀ u lane unit syn at_, (failed u lane unit syn at_).admin = u.admin) (s : State) (c : Fin 4) (m : MacroRun) (p : Plan)
    (t core check lane first : Nat) (bank queue : Bool) :
    (s.checkTile c m p t core check lane first bank queue failed).state.admin = s.admin := by
  suffices h : s.SameAdmin (s.checkTile c m p t core check lane first bank queue failed).state from h
  have hdrawn (u : State) : (if check = 0 then (0#32, u) else u.takeFree).2.admin = u.admin := by split <;> rfl
  unfold State.checkTile; dsimp only
  split <;> simp [hfailed, hdrawn, apply_ite State.admin, apply_ite Checked.state]

theorem State.stageCorrection_admin {s t : State} {core check lane : Nat} (h : s.stageCorrection core check lane = some t) :
    t.admin = s.admin := by
  unfold State.stageCorrection at h; dsimp only at h
  split at h
  · cases h
  · split at h
    · cases h
    · split at h
      · cases h
      · split at h
        · next hc =>
          obtain rfl := Option.some.inj h
          simpa using (congrArg (fun q => q.state.admin) hc).symm
        · next hc =>
          have hpass := (congrArg (fun q => q.state.admin) hc).symm
          obtain rfl := Option.some.inj h
          simpa using hpass

@[simp] theorem State.executeTile_admin (s : State) (core check lane : Nat) : (s.executeTile core check lane).admin = s.admin := by
  unfold State.executeTile; dsimp only
  split
  · next h =>
    split at h
    · cases h
    · exact State.stageCorrection_admin h
  · split
    · rfl
    · split
      · rfl
      · next c e i m p t r _ _ =>
        have hcarry : (if m.isVec 0x05 then (s.setCore core { s.coreOf core with first := none }).carryIn c m p t
          else (none, s.setCore core { s.coreOf core with first := none })).2.admin = s.admin := by split <;> simp
        generalize (if m.isVec 0x05 then (s.setCore core { s.coreOf core with first := none }).carryIn c m p t
          else (none, s.setCore core { s.coreOf core with first := none })) = q at hcarry ⊢
        split
        · exact hcarry
        · split
          · next hc => simpa [apply_ite State.admin, hcarry] using (congrArg (fun q => q.state.admin) hc).symm
          · next hc =>
            have hpass := (congrArg (fun q => q.state.admin) hc).symm
            simp [apply_ite State.admin, hcarry] at hpass
            simp [apply_ite State.admin, hpass]
@[simp] theorem State.countHist_admin (s : State) (c : Fin 4) (l : List HistAdd) : (s.countHist c l).admin = s.admin := by simp [State.countHist]
@[simp] theorem State.applyStore_admin (s : State) (crew : Nat) (st : Store) :
    (s.applyStore crew st).admin = s.admin := by unfold State.applyStore; split <;> simp
@[simp] theorem State.stampLines_admin (s : State) (l : List Store) : (s.stampLines l).admin = s.admin := by
  refine State.foldl_admin (fun u _ => State.sameAdmin_iff.2 ?_) _ s
  (repeat' split) <;> simp
@[simp] theorem State.endLoad_admin (s : State) (c : Fin 4) (execute : Bool) (i : Nat) (m : MacroRun) (p : Plan) :
    (s.endLoad c execute i m p).admin = s.admin := by simp [State.endLoad, apply_ite State.admin]
@[simp] theorem State.finishTile_admin (s : State) (c : Fin 4) (execute : Bool) (i : Nat) (m : MacroRun) (p : Plan) (t core : Nat)
    (o : TileOut) (dropped : Bool) :
    (s.finishTile c execute i m p t core o dropped).admin = s.admin := by simp [State.finishTile, apply_ite State.admin]
@[simp] theorem State.applyTile_admin (s : State) (c : Fin 4) (m : MacroRun) (p : Plan) (t core : Nat) (o : TileOut) :
    (s.applyTile c m p t core o).admin = s.admin := by simp [State.applyTile, apply_ite State.admin]
@[simp] theorem State.acceptTap_admin (s : State) (core : Nat) :
    (s.acceptTap core).admin = s.admin := by unfold State.acceptTap; dsimp only; (repeat' split) <;> simp
@[simp] theorem State.commitTile_admin (s : State) (core : Nat) :
    (s.commitTile core).admin = s.admin := by unfold State.commitTile; dsimp only; (repeat' split) <;> simp
@[simp] theorem State.ownTimeout_admin (s : State) (span : Nat) (c : Fin 4) (w : PierWrite) :
    (s.ownTimeout span c w).admin = s.admin := by unfold State.ownTimeout; dsimp only; (repeat' split) <;> simp
@[simp] theorem State.writeTimeout_admin (s : State) (span index : Nat) :
    (s.writeTimeout span index).admin = s.admin := by unfold State.writeTimeout; dsimp only; (repeat' split) <;> simp
@[simp] theorem State.retire_admin (s : State) (c : Fin 4) (execute : Bool) (m : MacroRun) (trapped : Bool) :
    (s.retire c execute m trapped).admin = s.admin := by unfold State.retire; (repeat' split) <;> simp
@[simp] theorem State.completeMacro_admin (s : State) (c : Fin 4) (execute : Bool) : (s.completeMacro c execute).admin = s.admin := by
  unfold State.completeMacro; dsimp only
  split
  · exact s.acceptTrace_admin c
  · split
    · exact s.acceptTrace_admin c
    · split
      · split <;> simp
      · split
        · exact s.acceptTrace_admin c
        · split
          · exact s.acceptTrace_admin c
          · next h => exact (State.retire_admin ..).trans ((State.acceptOwn_admin h).trans (s.acceptTrace_admin c))

/-! ### The matrix-engine port -/

@[simp] theorem State.productDone_admin (s : State) (c : Fin 4) (crew : Nat) (b : Bank) :
    (s.productDone c crew b).admin = s.admin := by unfold State.productDone; dsimp only; (repeat' split) <;> simp
@[simp] theorem State.bankProtocol_admin (s : State) (c : Fin 4) (crew bank rig : Nat) :
    (s.bankProtocol c crew bank rig).admin = s.admin := by simp [State.bankProtocol]
@[simp] theorem State.afterProduct_admin (s : State) (c : Fin 4) (crew : Nat) (b : Bank) :
    (s.afterProduct c crew b).admin = s.admin := by simp [State.afterProduct]
@[simp] theorem State.ftqEntry_admin (s : State) (crew bank : Nat) (seq : BitVec 8) (parityOk invalid : Bool) :
    (s.ftqEntry crew bank seq parityOk invalid).admin = s.admin := by unfold State.ftqEntry; dsimp only; (repeat' split) <;> simp
@[simp] theorem State.finishSignal_admin (s : State) (crew bank : Nat) (invalid : Bool) :
    (s.finishSignal crew bank invalid).admin = s.admin := by unfold State.finishSignal; dsimp only; (repeat' split) <;> simp
@[simp] theorem State.toCrew_admin (s : State) (c : Fin 4) (crew bank : Nat) (b : Bank) :
    (s.toCrew c crew bank b).admin = s.admin := by unfold State.toCrew; dsimp only; (repeat' split) <;> simp
@[simp] theorem State.meWaits_admin (s : State) (c : Fin 4) (crew bank : Nat) : (s.meWaits c crew bank).admin = s.admin := by simp [State.meWaits]
@[simp] theorem State.meRelease_admin (s : State) (c : Fin 4) (crew bank : Nat) :
    (s.meRelease c crew bank).admin = s.admin := by unfold State.meRelease; dsimp only; (repeat' split) <;> simp
@[simp] theorem State.claimGrant_admin (s : State) (crew bank : Nat) (meRequests crewClaims meReleases : Bool) :
    (s.claimGrant crew bank meRequests crewClaims meReleases).admin = s.admin := by unfold State.claimGrant; dsimp only; (repeat' split) <;> simp
@[simp] theorem State.portTimeout_admin (s : State) (crew channel : Nat) :
    (s.portTimeout crew channel).admin = s.admin := by unfold State.portTimeout; (repeat' split) <;> simp
@[simp] theorem State.correctChain_admin (s : State) (c : Fin 4) (i : Nat) (m : MacroRun) (p : Plan) (low core : Nat) :
    (s.correctChain c i m p low core).admin = s.admin := by simp [State.correctChain]
@[simp] theorem State.corrections_admin (s : State) (c : Fin 4) (rig : Nat) : (s.corrections c rig).admin = s.admin := by
  unfold State.corrections; dsimp only
  split
  · rfl
  · refine State.foldl_admin (fun u _ => State.sameAdmin_iff.2 ?_) _ s
    (repeat' split) <;> simp

/-! ### Short operations -/

@[simp] theorem State.startShort_admin (s : State) (crew : Nat) :
    (s.startShort crew).admin = s.admin := by unfold State.startShort; dsimp only; (repeat' split) <;> simp
@[simp] theorem State.runShort_admin (s : State) (crew code : Nat) :
    (s.runShort crew code).admin = s.admin := by unfold State.runShort; dsimp only; split <;> simp
@[simp] theorem State.landLine_admin (s : State) (crew : Nat) :
    (s.landLine crew).admin = s.admin := by unfold State.landLine; dsimp only; (repeat' split) <;> simp

/-! ### Halts and checks -/

@[simp] theorem State.finishLoad_admin (s : State) (c : Fin 4) (m : MacroRun) :
    (s.finishLoad c m).admin = s.admin := by unfold State.finishLoad; dsimp only; (repeat' split) <;> simp
@[simp] theorem State.settleHalt_admin (s : State) (c : Fin 4) :
    (s.settleHalt c).admin = s.admin := by unfold State.settleHalt; (repeat' split) <;> simp
@[simp] theorem State.drainHalt_admin (s : State) (c : Fin 4) : (s.drainHalt c).admin = s.admin := by simp [State.drainHalt, apply_ite State.admin]
@[simp] theorem State.noteScrub_admin (s : State) (crew line : Nat) : (s.noteScrub crew line).admin = s.admin := by simp [State.noteScrub]
@[simp] theorem State.scrub_admin (s : State) (crew line errors syndrome : Nat) :
    (s.scrub crew line errors syndrome).admin = s.admin := by unfold State.scrub; dsimp only; (repeat' split) <;> simp
@[simp] theorem State.coxMismatchStep_admin (s : State) : s.coxMismatchStep.admin = s.admin := by
  suffices h : s.SameAdmin s.coxMismatchStep from h
  unfold State.coxMismatchStep; dsimp only
  split
  · rfl
  · generalize (if s.time.beat < s.glob.coxUntil then s.glob.coxMismatch + 1 else 1) = n
    split
    · exact (State.absorb_admin ..).trans (State.setGlob_admin ..)
    · exact (State.alert_admin ..).trans ((State.setGlob_admin ..).trans ((State.raiseAll_admin ..).trans (State.setGlob_admin ..)))
@[simp] theorem State.walkerMismatch_admin (s : State) (span : Nat) :
    (s.walkerMismatch span).admin = s.admin := by unfold State.walkerMismatch; dsimp only; (repeat' split) <;> simp

/-! ### The register window -/

@[simp] theorem State.descWrite_admin (s : State) (o n : Nat) (v : BitVec 64) :
    (s.descWrite o n v).admin = s.admin := by simp [State.descWrite, apply_ite State.admin]
@[simp] theorem State.descSel_admin (s : State) (c : BitVec 2) (half : Bool) : (s.descSel c half).admin = s.admin := by simp [State.descSel]
@[simp] theorem State.putGlobal_admin (s : State) (r : Reg) (w : Put) :
    (s.putGlobal r w).admin = s.admin := by unfold State.putGlobal; (repeat' split) <;> simp
@[simp] theorem State.putCtx_admin (s : State) (c : Fin 4) (r : Reg) (w : Put) :
    (s.putCtx c r w).admin = s.admin := by unfold State.putCtx; (repeat' split) <;> simp
@[simp] theorem State.putPage_admin (s : State) (r : Reg) (w : Put) :
    (s.putPage r w).admin = s.admin := by unfold State.putPage; (repeat' split) <;> simp
@[simp] theorem State.putMgmt_admin (s : State) (r : Reg) (w : Put) :
    (s.putMgmt r w).admin = s.admin := by unfold State.putMgmt; dsimp only; (repeat' split) <;> simp
@[simp] theorem State.putRegion_admin (s : State) (r : Reg) (wide : Bool) (v : BitVec 64) :
    (s.putRegion r wide v).admin = s.admin := by unfold State.putRegion; split <;> simp
@[simp] theorem State.badAccess_admin (s : State) (mgmt write : Bool) (offset size : Nat) :
    (s.badAccess mgmt write offset size).admin = s.admin := by simp [State.badAccess, apply_ite State.admin]

end Sys2Proof.Machine

/-! PROOFS of the statements of 16_contexts_and_isolation.md: the spans that contexts claim (R432, R434) -/
namespace Sys2Proof.Machine

theorem and_eq_zero_iff_getLsbD {w : Nat} {x y : BitVec w} : x &&& y = 0 ↔ ∀ n : Nat, x.getLsbD n = true → y.getLsbD n = false := by
  constructor
  · intro h n hx
    have hn := congrArg (fun v => v.getLsbD n) h
    simpa [hx] using hn
  · intro h
    refine BitVec.eq_of_getLsbD_eq fun n _ => ?_
    cases hx : x.getLsbD n
    · simp [hx]
    · simp [hx, h n hx]

/-- Every span that `a` claims, `b` claims. -/
def Admin.ClaimsWithin (a b : Admin) : Prop := ∀ n : Nat, a.claims.getLsbD n = true → b.claims.getLsbD n = true

@[simp] theorem Admin.claims_getLsbD (a : Admin) (n : Nat) : a.claims.getLsbD n = (a.mask.getLsbD n || a.owned.getLsbD n) :=
  BitVec.getLsbD_or ..

theorem Admin.ClaimsWithin.of_eq {a b : Admin} (hm : a.mask = b.mask) (ho : a.owned = b.owned) : a.ClaimsWithin b := fun n hn => by
  rwa [Admin.claims_getLsbD, hm, ho, ← Admin.claims_getLsbD] at hn

/-- No context claims a span in `t` that it did not claim in `s`. -/
structure State.NoNewClaims (s t : State) : Prop where
  within : ∀ c, (t.adminOf c).ClaimsWithin (s.adminOf c)

theorem State.Exclusive.of_noNewClaims {s t : State} (hs : s.Exclusive) (h : s.NoNewClaims t) : t.Exclusive := by
  intro c d hcd
  refine and_eq_zero_iff_getLsbD.2 fun n hc => ?_
  have hfree := and_eq_zero_iff_getLsbD.1 (hs c d hcd) n (h.within c n hc)
  exact Bool.eq_false_iff.2 fun hd => Bool.eq_false_iff.1 hfree (h.within d n hd)

namespace State.NoNewClaims

variable {s t u : State}

theorem of_admin (h : t.admin = s.admin) : s.NoNewClaims t := ⟨fun c => by rw [State.adminOf, h]; exact .of_eq rfl rfl⟩

theorem trans (h : s.NoNewClaims t) (k : t.NoNewClaims u) : s.NoNewClaims u := ⟨fun c n hn => h.within c n (k.within c n hn)⟩

/-- Updates after which the administration registers are as they were add no claims. -/
theorem same (h : s.NoNewClaims t) (hu : u.admin = t.admin) : s.NoNewClaims u := h.trans (.of_admin hu)

/-- New administration registers of one context that claim nothing more. -/
theorem of_set {c : Fin 4} {x : Admin} (hu : u.admin = s.admin.set c x) (hx : x.ClaimsWithin (s.adminOf c)) : s.NoNewClaims u := by
  refine ⟨fun d => ?_⟩
  rw [State.adminOf, hu]
  by_cases hd : d = c
  · rw [hd, Four.get_set_self]
    exact hx
  · rw [Four.get_set_ne _ _ hd]
    exact .of_eq rfl rfl

theorem foldl {α : Type} {f : State → α → State} (h : ∀ (s : State) (a : α), s.NoNewClaims (f s a)) (l : List α) (s : State) :
    s.NoNewClaims (l.foldl f s) :=
  List.foldlRecOn (motive := fun t : State => s.NoNewClaims t) l _ (of_admin rfl) fun t ht a _ => ht.trans (h t a)

end State.NoNewClaims

theorem State.setAdmin_admin (s : State) (c : Fin 4) (x : Admin) : (s.setAdmin c x).admin = s.admin.set c x := by rfl

section
variable (s : State) (c : Fin 4)

/-! ### The administration registers that each command of a context leaves -/

theorem State.refuseCtl_admin : (s.refuseCtl c).admin = s.admin.set c { s.adminOf c with refused := true } := by rfl

theorem State.createComplete_admin (h : (s.adminOf c).state = .creating) : (s.createComplete c).admin =
    s.admin.set c { s.adminOf c with state := .live, owned := (s.adminOf c).mask, leaving := 0 } := by
  simp [State.createComplete, h, State.setAdmin_admin]

theorem State.teardown_admin (hf : (s.adminOf c).state ≠ .free) (ht : (s.adminOf c).state ≠ .tearingDown) : (s.teardown c).admin =
    s.admin.set c { s.adminOf c with state := .tearingDown } := by
  unfold State.teardown; dsimp only
  split
  · contradiction
  · contradiction
  · simp [State.setAdmin_admin]

theorem State.teardownComplete_admin (h : (s.adminOf c).state = .tearingDown) : (s.teardownComplete c).admin =
    s.admin.set c { s.adminOf c with state := .free, mask := 0, owned := 0, leaving := 0, drain := false } := by
  simp [State.teardownComplete, h, State.setAdmin_admin]

theorem State.applySpans_admin : (s.applySpans c).admin = s.admin.set c { s.adminOf c with
    owned := (s.adminOf c).owned ||| ((s.adminOf c).mask &&& ~~~(s.adminOf c).owned)
    leaving := (s.adminOf c).owned &&& ~~~(s.adminOf c).mask } := by
  simp [State.applySpans, State.setAdmin_admin]

/-! ### None of them claims a span anew -/

theorem State.refuseCtl_noNewClaims : s.NoNewClaims (s.refuseCtl c) := .of_set (s.refuseCtl_admin c) (.of_eq rfl rfl)

theorem State.create_noNewClaims : s.NoNewClaims (s.create c) := by
  unfold State.create; dsimp only
  split
  · exact .of_set (State.setAdmin_admin s c _) (.of_eq rfl rfl)
  · exact s.refuseCtl_noNewClaims c

theorem State.createComplete_noNewClaims : s.NoNewClaims (s.createComplete c) := by
  by_cases h : (s.adminOf c).state = .creating
  · refine .of_set (s.createComplete_admin c h) fun n hn => ?_
    simp at hn ⊢
    exact .inl hn
  · exact .of_admin (by simp [State.createComplete, h])

theorem State.teardown_noNewClaims : s.NoNewClaims (s.teardown c) := by
  by_cases h : (s.adminOf c).state = .free ∨ (s.adminOf c).state = .tearingDown
  · have : s.teardown c = s.refuseCtl c := by obtain h | h := h <;> simp [State.teardown, h]
    rw [this]
    exact s.refuseCtl_noNewClaims c
  · rw [not_or] at h
    exact .of_set (s.teardown_admin c h.1 h.2) (.of_eq rfl rfl)

theorem State.teardownComplete_noNewClaims : s.NoNewClaims (s.teardownComplete c) := by
  by_cases h : (s.adminOf c).state = .tearingDown
  · refine .of_set (s.teardownComplete_admin c h) fun n hn => ?_
    simp at hn
  · exact .of_admin (by simp [State.teardownComplete, h])

theorem State.contextReset_noNewClaims : s.NoNewClaims (s.contextReset c) := by
  unfold State.contextReset; dsimp only
  split
  · next h =>
    refine .of_set (c := c) (x := { s.adminOf c with state := .resetting }) ?_ (.of_eq rfl rfl)
    simp [h, State.setAdmin_admin]
  · next h =>
    refine .of_set (c := c) (x := { s.adminOf c with state := .resetting }) ?_ (.of_eq rfl rfl)
    simp [h, State.setAdmin_admin]
  · exact s.refuseCtl_noNewClaims c

theorem State.resetComplete_noNewClaims : s.NoNewClaims (s.resetComplete c) := by
  unfold State.resetComplete; dsimp only
  split
  · refine .of_set (c := c) (x := { s.adminOf c with state := .live, drain := false }) ?_ (.of_eq rfl rfl)
    simp [State.setAdmin_admin]
  · exact .of_admin rfl

theorem State.ctlCommand_noNewClaims (cmd : Nat) : s.NoNewClaims (s.ctlCommand c cmd) := by
  unfold State.ctlCommand
  split
  · exact s.create_noNewClaims c
  · exact s.teardown_noNewClaims c
  · exact s.contextReset_noNewClaims c
  · exact .of_admin rfl

/-- Spans that join were requested. -/
theorem State.applySpans_noNewClaims : s.NoNewClaims (s.applySpans c) := by
  refine .of_set (s.applySpans_admin c) fun n hn => ?_
  simp at hn ⊢
  tauto

/-- A released span was owned. -/
theorem State.releaseSpan_noNewClaims (n : Nat) : s.NoNewClaims (s.releaseSpan n) := by
  unfold State.releaseSpan; dsimp only
  split
  · exact .of_admin rfl
  · next d _ =>
    have haccept : s.NoNewClaims (s.acceptTrace d) := .of_admin (s.acceptTrace_admin d)
    split
    · refine haccept.trans (.of_set (c := d) (x := { (s.acceptTrace d).adminOf d with
        owned := putBit ((s.acceptTrace d).adminOf d).owned n false, leaving := putBit ((s.acceptTrace d).adminOf d).leaving n false })
        (by simp [State.setAdmin_admin]) fun k hk => ?_)
      simp [putBit] at hk ⊢
      tauto
    · exact haccept

theorem State.windowWrite_noNewClaims (w : Nat) (limit : Bool) (v : BitVec 64) : s.NoNewClaims (s.windowWrite c w limit v) := by
  unfold State.windowWrite
  cases limit <;> simp only [Bool.false_eq_true, reduceIte] <;> split
  · exact .of_admin rfl
  · exact .of_set (State.setAdmin_admin ..) (.of_eq rfl rfl)
  · exact .of_admin rfl
  · exact .of_set (State.setAdmin_admin ..) (.of_eq rfl rfl)

theorem State.ctxBoundary_noNewClaims (number : BitVec 48) : s.NoNewClaims (s.ctxBoundary c number) := by
  unfold State.ctxBoundary; dsimp only
  refine .same ?_ (State.foldl_admin (fun u n => u.swapSpan_admin n) _ _)
  split
  · exact .trans (.of_admin (State.setCtx_admin ..)) (State.applySpans_noNewClaims ..)
  · exact .of_admin (State.setCtx_admin ..)

theorem State.announce_noNewClaims (number : BitVec 48) : s.NoNewClaims (s.announce c number) := by
  have hboundary : s.NoNewClaims ((s.acceptTrace c).ctxBoundary c number) :=
    .trans (.of_admin (s.acceptTrace_admin c)) (State.ctxBoundary_noNewClaims ..)
  unfold State.announce; dsimp only
  (repeat' split)
  · exact hboundary.same (by simp)
  · exact hboundary.same (by simp)
  · exact hboundary.same (by simp)
  · exact hboundary.same (by simp)
  · exact .of_admin rfl

theorem State.putStroke_noNewClaims (w : Put) : s.NoNewClaims (s.putStroke c w) := by
  unfold State.putStroke
  refine .trans (.of_admin ?_) (State.announce_noNewClaims ..)
  split <;> rfl

theorem State.enterHalted_noNewClaims : s.NoNewClaims (s.enterHalted c) := by
  have haccept : s.NoNewClaims (s.acceptTrace c) := .of_admin (s.acceptTrace_admin c)
  unfold State.enterHalted; dsimp only
  split
  · exact haccept
  · split
    · exact haccept
    · refine .of_set (c := c) (x := { s.adminOf c with state := .halted }) ?_ (.of_eq rfl rfl)
      simp [State.setAdmin_admin, State.adminOf]

theorem State.returnCtx_noNewClaims : s.NoNewClaims (s.returnCtx c) := by
  unfold State.returnCtx; dsimp only
  split
  · exact .of_admin (State.setCtx_admin ..)
  · exact .trans (.of_admin (State.setCtx_admin ..)) (State.teardown_noNewClaims ..)

/-- What a warm reset does to one context: all but a FREE one are torn down. -/
def State.warmCtx (s : State) (c : Fin 4) : State :=
  if (s.adminOf c).state = .free then s
  else
    let s := s.setAdmin c { s.adminOf c with state := .tearingDown }
    (s.setCtx c (s.ctxOf c).stop).teardownComplete c

theorem State.warmReset_admin : s.warmReset.admin = (allCtx.foldl State.warmCtx
    (if s.start.running && !s.glob.coxFailed then s.endStep s.start.step.toNat 2 0 else s)).admin := by
  simp only [State.warmReset, State.choosePier_admin, State.setGlob_admin]
  rfl

theorem State.warmCtx_noNewClaims : s.NoNewClaims (s.warmCtx c) := by
  unfold State.warmCtx; dsimp only
  split
  · exact .of_admin rfl
  · refine .trans ?_ (State.teardownComplete_noNewClaims ..)
    refine .same (.of_set (State.setAdmin_admin ..) ?_) (State.setCtx_admin ..)
    exact .of_eq rfl rfl

theorem State.warmReset_noNewClaims : s.NoNewClaims s.warmReset := by
  refine .same ?_ s.warmReset_admin
  refine .trans (.of_admin ?_) (.foldl State.warmCtx_noNewClaims _ _)
  split <;> simp

/-! ### Messages (R541, R542) -/

theorem State.judge_noNewClaims {h : Handler} (hact : ∀ v b u, State.NoNewClaims u (h.act v b u)) (v : Message) (got : CoxGot) :
    s.NoNewClaims (s.judge h v got) := by
  unfold State.judge
  split
  · exact .of_admin rfl
  · exact .of_admin (State.answer_admin ..)
  · split
    · exact .of_admin (State.answer_admin ..)
    · split
      · exact .of_admin rfl
      · exact (hact ..).same (State.answer_admin ..)

theorem State.handle_noNewClaims {h : Handler} (hact : ∀ v b u, State.NoNewClaims u (h.act v b u)) : s.NoNewClaims (s.handle h) := by
  unfold State.handle; dsimp only
  split
  · exact .of_admin rfl
  · split
    · exact .of_admin rfl
    · split
      · exact .of_admin (State.answer_admin ..)
      · split
        · exact .of_admin rfl
        · split
          · exact .of_admin (State.answer_admin ..)
          · split
            · exact s.judge_noNewClaims hact ..
            · exact .trans (.of_admin (State.coxFetch_admin ..)) (State.judge_noNewClaims _ hact ..)

theorem State.warmHandle_noNewClaims : s.NoNewClaims s.warmHandle := by
  unfold State.warmHandle; dsimp only
  split
  · split
    · exact .of_admin rfl
    · refine .same (.trans (.of_admin ?_) (State.warmReset_noNewClaims _)) (State.answer_admin ..)
      rfl
  · exact s.handle_noNewClaims fun _ _ u => u.warmReset_noNewClaims

end

theorem capHandler_noNewClaims (v : Message) (b : List Byte) (s : State) : s.NoNewClaims (capHandler.act v b s) := by
  refine .same (.of_set (State.setAdmin_admin ..) ?_) ((State.serveVia_admin ..).trans ((State.writeCaps_admin _).trans (State.serveHist_admin _)))
  exact .of_eq rfl rfl

theorem drainHandler_noNewClaims (v : Message) (b : List Byte) (s : State) : s.NoNewClaims (drainHandler.act v b s) :=
  .of_set (State.setAdmin_admin ..) (.of_eq rfl rfl)

theorem returnHandler_noNewClaims (v : Message) (b : List Byte) (s : State) : s.NoNewClaims (returnHandler.act v b s) :=
  .trans (.of_admin (State.setGlob_admin ..)) (.foldl State.returnCtx_noNewClaims _ _)

/-! ### A request of spans (R434, R435) -/

section
variable (s : State) (c : Fin 4)

theorem State.otherSpans_getLsbD (n : Nat) : (s.otherSpans c).getLsbD n = true ↔ ∃ d, d ≠ c ∧ (s.adminOf d).claims.getLsbD n = true := by
  have key : ∀ (l : List (Fin 4)) (m : BitVec 16),
      (l.foldl (fun m k => if k = c then m else m ||| (s.adminOf k).mask ||| (s.adminOf k).owned) m).getLsbD n = true ↔
      m.getLsbD n = true ∨ ∃ d ∈ l, d ≠ c ∧ (s.adminOf d).claims.getLsbD n = true := by
    intro l
    induction l with
    | nil => simp
    | cons k l ih =>
      intro m
      rw [List.foldl_cons, ih]
      by_cases hk : k = c <;> simp [hk, or_assoc]
  have hall : ∀ d : Fin 4, d ∈ allCtx := by decide
  rw [State.otherSpans, key]
  simp [hall]

/-- A mask that no other context claims. -/
theorem State.and_otherSpans_eq_zero_iff (mask : BitVec 16) :
    mask &&& s.otherSpans c = 0 ↔ ∀ d, d ≠ c → mask &&& (s.adminOf d).claims = 0 := by
  simp only [and_eq_zero_iff_getLsbD, Bool.eq_false_iff, ne_eq, s.otherSpans_getLsbD c, not_exists, not_and]
  exact ⟨fun h d hd n hn => h n hn d hd, fun h n hn d hd => h d hd n hn⟩

/-- A request that no other context claims keeps the claims apart. -/
theorem State.Exclusive.setMask {s : State} (hs : s.Exclusive) {c : Fin 4} {mask : BitVec 16} (h : mask &&& s.otherSpans c = 0) :
    (s.setAdmin c { s.adminOf c with mask := mask }).Exclusive := by
  have hmask := (s.and_otherSpans_eq_zero_iff c mask).1 h
  have hown (d : Fin 4) (hd : d ≠ c) : ({ s.adminOf c with mask := mask } : Admin).claims &&& (s.adminOf d).claims = 0 := by
    have howned := and_eq_zero_iff_getLsbD.1 (hs c d hd.symm)
    refine and_eq_zero_iff_getLsbD.2 fun n hn => ?_
    rw [Admin.claims_getLsbD, Bool.or_eq_true] at hn
    obtain hn | hn := hn
    · exact and_eq_zero_iff_getLsbD.1 (hmask d hd) n hn
    · exact howned n (by rw [Admin.claims_getLsbD, hn, Bool.or_true])
  intro d e hde
  by_cases hd : d = c
  · subst hd
    rw [State.setAdmin_adminOf_self, State.setAdmin_adminOf_ne _ _ hde.symm]
    exact hown e hde.symm
  · rw [State.setAdmin_adminOf_ne _ _ hd]
    by_cases he : e = c
    · subst he
      rw [State.setAdmin_adminOf_self, BitVec.and_comm]
      exact hown d hd
    · rw [State.setAdmin_adminOf_ne _ _ he]
      exact hs d e hde

theorem State.spanMaskWrite_exclusive {s : State} (hs : s.Exclusive) (c : Fin 4) (mask : BitVec 16) : (s.spanMaskWrite c mask).Exclusive := by
  unfold State.spanMaskWrite; dsimp only
  split
  · exact hs.of_noNewClaims (s.refuseCtl_noNewClaims c)
  · next hbad =>
    have hset := hs.setMask (c := c) (mask := mask) (by simp at hbad; tauto)
    split
    · exact hset.of_noNewClaims (.trans (State.applySpans_noNewClaims _ c) (.foldl State.releaseSpan_noNewClaims _ _))
    · exact hset
    · exact hset
    · exact hset

/-! ### The register window -/

theorem State.putPriv_exclusive {s : State} (hs : s.Exclusive) (r : Reg) (w : Put) : (s.putPriv r w).Exclusive := by
  unfold State.putPriv; dsimp only
  split
  case h_3 c =>
    have hrefused : s.NoNewClaims (if w.one 11 then s.setAdmin c { s.adminOf c with refused := false } else s) := by
      split
      · exact .of_set (State.setAdmin_admin ..) (.of_eq rfl rfl)
      · exact .of_admin rfl
    split
    · exact hs.of_noNewClaims (hrefused.trans (State.ctlCommand_noNewClaims ..))
    · exact hs.of_noNewClaims hrefused
  case h_4 =>
    split
    · exact State.spanMaskWrite_exclusive hs _ _
    · exact hs
  all_goals refine hs.of_noNewClaims ?_
  case h_5 =>
    refine .same (.of_set (State.setAdmin_admin ..) ?_) ((State.serveVia_admin ..).trans (State.serveHist_admin _))
    exact .of_eq rfl rfl
  case h_6 =>
    refine .same (.of_set (State.setAdmin_admin ..) ?_) (State.writeCaps_admin _)
    exact .of_eq rfl rfl
  case h_7 => exact .of_set (State.setAdmin_admin ..) (.of_eq rfl rfl)
  case h_9 => exact State.windowWrite_noNewClaims ..
  case h_10 => exact State.windowWrite_noNewClaims ..
  all_goals refine .of_admin ?_
  case h_8 => (repeat' split) <;> simp
  case h_1 | h_2 => exact State.setGlob_admin ..
  case h_11 => rfl

theorem State.hostPut_exclusive {s : State} (hs : s.Exclusive) (r : Reg) (trusted : Bool) (offset : Nat) (wide : Bool) (v : BitVec 64) :
    (s.hostPut r trusted offset wide v).Exclusive := by
  unfold State.hostPut; dsimp only
  split
  · split
    · exact State.putPriv_exclusive hs r _
    · exact hs.of_noNewClaims (.of_admin rfl)
  · refine hs.of_noNewClaims ?_
    split
    · exact .of_admin (State.putRegion_admin ..)
    · exact .of_admin (State.putRegion_admin ..)
    · exact s.putStroke_noNewClaims ..
    all_goals refine .of_admin ?_
    · exact State.putPage_admin ..
    · exact State.putPage_admin ..
    · exact State.putPage_admin ..
    · exact State.putPage_admin ..
    · split
      · split
        · exact State.putCtx_admin ..
        · rfl
      · exact State.putGlobal_admin ..

theorem State.writeWindow_exclusive {s : State} (hs : s.Exclusive) (mgmt trusted : Bool) (offset : Nat) (wide : Bool) (v : BitVec 64) :
    (s.writeWindow mgmt trusted offset wide v).Exclusive := by
  have hbad : s.countBad.Exclusive := hs.of_noNewClaims (.of_admin s.countBad_admin)
  have hput : ∀ r, (if mgmt then s.putMgmt r (Put.of offset wide v) else s.hostPut r trusted offset wide v).Exclusive := by
    intro r
    split
    · exact hs.of_noNewClaims (.of_admin (State.putMgmt_admin ..))
    · exact State.hostPut_exclusive hs r trusted offset wide v
  unfold State.writeWindow; dsimp only
  generalize (if wide = true then 8 else 4) = size
  split
  · refine hs.of_noNewClaims (.of_admin ?_)
    split <;> simp
  · split
    · exact hbad
    · split
      · exact hbad
      · exact hput _

end

end Sys2Proof.Machine

/-! PROOFS of the statements of 16_contexts_and_isolation.md: no step gives one span to two contexts (O4) -/
namespace Sys2Proof.Machine

section
variable {s t : State}

theorem exec_noNewClaims {i : Instr} (h : exec i s = .next t) (hw : ∀ p tr o w v, i ≠ .registerWrite p tr o w v)
    (hm : ∀ c m, i ≠ .spanMaskWrite c m) (hr : i ≠ .coldReset) : s.NoNewClaims t := by
  cases i
  case registerWrite => exact (hw _ _ _ _ _ rfl).elim
  case spanMaskWrite => exact (hm _ _ rfl).elim
  case coldReset => exact (hr rfl).elim
  all_goals obtain rfl := Host.Outcome.next.inj h; clear h hw hm hr
  case create c => exact s.create_noNewClaims c
  case createComplete c => exact s.createComplete_noNewClaims c
  case teardown c => exact s.teardown_noNewClaims c
  case teardownComplete c => exact s.teardownComplete_noNewClaims c
  case contextReset c => exact s.contextReset_noNewClaims c
  case resetComplete c => exact s.resetComplete_noNewClaims c
  case spanRelease n => exact s.releaseSpan_noNewClaims n
  case windowWrite c w limit v => exact s.windowWrite_noNewClaims c w limit v
  case strokeAnnounce c n => exact s.announce_noNewClaims c n
  case contextHalted c => exact s.enterHalted_noNewClaims c
  case setCap => exact s.handle_noNewClaims capHandler_noNewClaims
  case drain => exact s.handle_noNewClaims drainHandler_noNewClaims
  case enterReturn => exact s.handle_noNewClaims returnHandler_noNewClaims
  case warmReset => exact s.warmHandle_noNewClaims
  case setPolicy => exact s.handle_noNewClaims fun _ _ u => .of_admin ((State.writeCaps_admin _).trans (State.setGlob_admin ..))
  case timeResync => exact s.handle_noNewClaims fun _ _ u => .of_admin rfl
  case commitSvn => exact s.handle_noNewClaims fun _ _ u => .of_admin (State.setRollback_admin ..)
  case svnRestore => exact s.handle_noNewClaims fun _ _ u => .of_admin (State.setRollback_admin ..)
  case unfence => exact s.handle_noNewClaims fun _ _ u => .of_admin (State.setGlob_admin ..)
  case ledgerClear => exact s.handle_noNewClaims fun _ _ u => .of_admin (State.ledger_admin ..)
  case patchList => exact s.handle_noNewClaims fun _ _ u => .of_admin rfl
  all_goals refine .of_admin ?_
  all_goals simp [apply_ite State.admin]

/-- After a cold reset no span is claimed. -/
theorem State.coldReset_exclusive (s : State) : s.coldReset.Exclusive := by
  intro c d _
  have hnone : ∀ c : Fin 4, (s.coldReset.adminOf c).claims = 0 := fun c =>
    (by decide : ∀ c : Fin 4, (Four.get (⟨{}, {}, {}, {}⟩ : Four Admin) c).claims = 0) c
  simp [hnone]

theorem exec_exclusive {i : Instr} (hs : s.Exclusive) (h : exec i s = .next t) : t.Exclusive := by
  by_cases hw : ∃ p tr o w v, i = .registerWrite p tr o w v
  · obtain ⟨p, tr, o, w, v, rfl⟩ := hw
    obtain rfl := Host.Outcome.next.inj h
    exact State.writeWindow_exclusive hs p tr o w v
  · by_cases hm : ∃ c m, i = .spanMaskWrite c m
    · obtain ⟨c, m, rfl⟩ := hm
      obtain rfl := Host.Outcome.next.inj h
      exact State.spanMaskWrite_exclusive hs c m
    · by_cases hr : i = .coldReset
      · subst hr
        obtain rfl := Host.Outcome.next.inj h
        exact s.coldReset_exclusive
      · exact hs.of_noNewClaims (exec_noNewClaims h (fun p tr o w v e => hw ⟨p, tr, o, w, v, e⟩) (fun c m e => hm ⟨c, m, e⟩) hr)

end

/-- Settles O4: of the commands only a request of spans claims any, and it is refused where another context claims one. -/
theorem everyStepKeepsSpansExclusive : Obligations.EveryStepKeepsSpansExclusive := by
  intro s t hs h
  unfold step at h
  split at h
  · obtain rfl := Host.Outcome.next.inj h
    exact hs.of_noNewClaims (.of_admin rfl)
  · refine exec_exclusive (hs.of_noNewClaims (.of_admin ?_)) h
    rfl

end Sys2Proof.Machine

/-! PROOFS of the statements of 16_contexts_and_isolation.md: a HALTED context's span request (O49). -/
namespace Sys2Proof.Machine

/-- Contexts 0 and 1 both own span 0, and its pier has sent a trace write of context 0, of one byte. Context 1 is HALTED and owns span 1 too. -/
def sharing : State :=
  let write : PierWrite :=
    { ctx := some 0, execute := true, index := 0, tile := traceTile, block := 0, sent := true, beat := 0, retried := false, seq := 1, bytes := [1] }
  ((State.reset.setAdmin 0 { state := .live, mask := 0b01, owned := 0b01 }).setAdmin 1 { state := .halted, mask := 0b11, owned := 0b11 }).setSpan 0
    { writes := [write] }

/-- Context 1 has no trace write on its way, and nothing is stored. -/
theorem sharing_before : sharing.ownWrites 1 traceTile = [] ∧ sharing.mem = [] := by decide

/-- The request that gives span 0 up is no bad one. -/
theorem sharing_request_good : ¬((0b10 : BitVec 16) = 0 ∨ (∃ d, d ≠ 1 ∧ (0b10 : BitVec 16) &&& (sharing.adminOf d).claims ≠ 0) ∨
    ((sharing.adminOf 1).state ≠ .free ∧ (0b10 : BitVec 16) &&& sharing.start.fencedSpans ≠ 0)) := by decide

/-- The release of span 0 asks its first owner, context 0, and so the trace write of context 0 is accepted. -/
theorem sharing_after : (sharing.spanMaskWrite 1 0b10).mem = [(0, 1)] := by decide

/-- Refutes O49: where two contexts own a span (no such state is exclusive, O4, but the statement does not ask for an exclusive one), the request
of a HALTED one that gives it up stores the other's trace (`sharing_after`), though it has none of its own on its way. -/
theorem not_spansChangeHandsWhenIdle : ¬ Obligations.SpansChangeHandsWhenIdle := by
  intro h
  obtain ⟨hmask, -, -⟩ := h
  obtain ⟨-, hgood, -, -⟩ := hmask 1 0b10 sharing
  obtain ⟨t, ht, -, hmem⟩ := hgood sharing_request_good
  obtain rfl := Host.Outcome.next.inj ht
  obtain ⟨hnone, hempty⟩ := sharing_before
  exact absurd (sharing_after.symm.trans ((hmem (.inr hnone)).trans hempty)) (by decide)

end Sys2Proof.Machine

/-! PROOFS of the statements of 16_contexts_and_isolation.md: a context's creation and its teardown (O47). -/
namespace Sys2Proof.Machine

/-! ## Zeroised crews and spans (R444) -/

theorem State.zeroCrews_cons (s : State) (j : Nat) (l : List Nat) :
    s.zeroCrews (j :: l) = (s.setCrew j (Crew.zero (s.crewOf j) (s.spanBeat (crewSpan j)))).zeroCrews l := rfl

theorem State.zeroCrews_crewOf_of_notMem {k : Nat} {l : List Nat} (h : k ∉ l) (s : State) : (s.zeroCrews l).crewOf k = s.crewOf k := by
  induction l generalizing s with
  | nil => rfl
  | cons j l ih =>
    rw [List.mem_cons, not_or] at h
    rw [State.zeroCrews_cons, ih h.2, State.setCrew_crewOf_ne _ _ h.1]

theorem State.zeroCrews_crewOf_of_mem {k : Nat} {l : List Nat} (h : k ∈ l) (s : State) :
    ∃ q beat, (s.zeroCrews l).crewOf k = Crew.zero q beat := by
  induction l generalizing s with
  | nil => cases h
  | cons j l ih =>
    rw [State.zeroCrews_cons]
    by_cases hl : k ∈ l
    · exact ih hl _
    · obtain rfl := (List.mem_cons.1 h).resolve_right hl
      exact ⟨_, _, by rw [State.zeroCrews_crewOf_of_notMem hl, State.setCrew_crewOf_self]⟩

@[simp] theorem State.zeroCrews_outer (s : State) (l : List Nat) : (s.zeroCrews l).outer = s.outer := by rfl
@[simp] theorem State.zeroCrews_spanOf (s : State) (l : List Nat) (n : Nat) : (s.zeroCrews l).spanOf n = s.spanOf n := by rfl
@[simp] theorem State.zeroCores_outer (s : State) (p : Nat) : (s.zeroCores p).outer = s.outer := by rfl
@[simp] theorem State.zeroCores_spanOf (s : State) (p n : Nat) : (s.zeroCores p).spanOf n = s.spanOf n := by rfl
@[simp] theorem State.zeroCores_crewOf (s : State) (p k : Nat) : (s.zeroCores p).crewOf k = s.crewOf k := by rfl
@[simp] theorem State.setSpan_outer (s : State) (p : Nat) (x : Span) : (s.setSpan p x).outer = s.outer := by rfl
@[simp] theorem State.setGlob_outer (s : State) (g : Global) : (s.setGlob g).outer = s.outer := by rfl

@[simp] theorem State.zeroSpan_outer (s : State) (p : Nat) : (s.zeroSpan p).outer = s.outer := by
  simp [State.zeroSpan]

theorem State.zeroSpan_spanOf_self (s : State) (p : Nat) : (s.zeroSpan p).spanOf p = { (s.spanOf p).zeroPerf with
    reads := (s.spanOf p).reads.filter (fun e => e.2.ctx = 7), writes := (s.spanOf p).writes.filter (fun w => w.ctx.isNone), zeroised := true } := by
  simp [State.zeroSpan]

theorem State.zeroSpan_spanOf_ne (s : State) {n p : Nat} (h : n ≠ p) : (s.zeroSpan p).spanOf n = s.spanOf n := by
  simp [State.zeroSpan, State.setSpan_spanOf_ne _ _ h]

theorem State.zeroSpan_crewOf (s : State) (p k : Nat) :
    (s.zeroSpan p).crewOf k = (s.zeroCrews ((List.range 16).map (16 * p + ·))).crewOf k := by
  simp only [State.zeroSpan, State.setSpan_crewOf, State.zeroCores_crewOf]

theorem mem_crews_iff {n p k : Nat} (hk : k < 16) : 16 * n + k ∈ (List.range 16).map (16 * p + ·) ↔ n = p := by
  rw [List.mem_map]
  constructor
  · rintro ⟨j, hj, h⟩
    rw [List.mem_range] at hj
    omega
  · rintro rfl
    exact ⟨k, List.mem_range.2 hk, rfl⟩

/-- `t` has the span `n` of `s`, and its crews. -/
structure State.SameSpan (s t : State) (n : Nat) : Prop where
  span : t.spanOf n = s.spanOf n
  crews : ∀ k, k < 16 → t.crewOf (16 * n + k) = s.crewOf (16 * n + k)

/-- Span `n` has been zeroised, and its owner or its lack of one has put it at `pace`: it holds no work of any context (a read of "context" 7 is
none's). -/
structure State.ZeroisedAt (s : State) (n : Nat) (pace : BitVec 3) : Prop where
  zeroised : (s.spanOf n).zeroised = true
  pace_eq : (s.spanOf n).pace = pace
  reads : ∀ e ∈ (s.spanOf n).reads, e.2.ctx = 7
  writes : ∀ w ∈ (s.spanOf n).writes, w.ctx = none
  crews : ∀ k, k < 16 → (s.crewOf (16 * n + k)).oc = [] ∧ (s.crewOf (16 * n + k)).banks = []

/-- A span that lost its owner: zeroised, at REST at point 0. -/
def State.FreedAt (s : State) (n : Nat) : Prop := s.ZeroisedAt n 5 ∧ (s.spanOf n).point = 0

section
variable {s t : State} {n p : Nat} {pace : BitVec 3}

theorem State.SameSpan.trans {u : State} (h : s.SameSpan t n) (k : t.SameSpan u n) : s.SameSpan u n :=
  ⟨k.span.trans h.span, fun j hj => (k.crews j hj).trans (h.crews j hj)⟩

theorem State.SameSpan.setSpan (s : State) {x : Span} (h : n ≠ p) : s.SameSpan (s.setSpan p x) n := ⟨s.setSpan_spanOf_ne x h, fun _ _ => rfl⟩

theorem State.SameSpan.setGlob (s : State) (g : Global) : s.SameSpan (s.setGlob g) n := ⟨rfl, fun _ _ => rfl⟩

theorem State.ZeroisedAt.of_same (h : s.ZeroisedAt n pace) (k : s.SameSpan t n) : t.ZeroisedAt n pace := by
  obtain ⟨hz, hp, hr, hw, hc⟩ := h
  exact ⟨by rwa [k.span], by rwa [k.span], by rwa [k.span], by rwa [k.span], fun j hj => by rw [k.crews j hj]; exact hc j hj⟩

theorem State.FreedAt.of_same (h : s.FreedAt n) (k : s.SameSpan t n) : t.FreedAt n :=
  ⟨h.1.of_same k, by rw [k.span]; exact h.2⟩

/-- New caps leave a span zeroised. -/
theorem State.ZeroisedAt.of_onlyCaps (h : s.ZeroisedAt n pace) (k : s.OnlyCaps t) : t.ZeroisedAt n pace := by
  obtain ⟨hz, hp, hr, hw, hc⟩ := h
  obtain ⟨ht, hspan⟩ := k
  refine ⟨?_, ?_, ?_, ?_, fun j hj => ?_⟩
  · rw [hspan]; exact hz
  · rw [hspan]; exact hp
  · rw [hspan]; exact hr
  · rw [hspan]; exact hw
  · rw [ht]; exact hc j hj

theorem State.FreedAt.of_onlyCaps (h : s.FreedAt n) (k : s.OnlyCaps t) : t.FreedAt n :=
  ⟨h.1.of_onlyCaps k, by rw [k.2]; exact h.2⟩

theorem State.zeroSpan_sameSpan (h : n ≠ p) : s.SameSpan (s.zeroSpan p) n := by
  refine ⟨s.zeroSpan_spanOf_ne h, fun k hk => ?_⟩
  rw [State.zeroSpan_crewOf]
  exact State.zeroCrews_crewOf_of_notMem (fun hm => h ((mem_crews_iff hk).1 hm)) s

/-- A zeroised span is put at another pace by an update that keeps its accesses. -/
theorem State.zeroSpan_setSpan_zeroisedAt {x : Span} (hr : x.reads = ((s.zeroSpan n).spanOf n).reads)
    (hw : x.writes = ((s.zeroSpan n).spanOf n).writes) (hz : x.zeroised = ((s.zeroSpan n).spanOf n).zeroised) :
    ((s.zeroSpan n).setSpan n x).ZeroisedAt n x.pace := by
  rw [State.zeroSpan_spanOf_self] at hr hw hz
  constructor
  case crews =>
    intro k hk
    obtain ⟨q, beat, hq⟩ := s.zeroCrews_crewOf_of_mem ((mem_crews_iff hk).2 (rfl : n = n))
    rw [State.setSpan_crewOf, State.zeroSpan_crewOf, hq]
    exact ⟨rfl, rfl⟩
  all_goals rw [State.setSpan_spanOf_self]
  case zeroised => exact hz
  case reads =>
    intro e he
    rw [hr] at he
    simpa using (List.mem_filter.1 he).2
  case writes =>
    intro w hmem
    rw [hw] at hmem
    simpa using (List.mem_filter.1 hmem).2

end

section
variable (s : State) (c : Fin 4) {n p : Nat}

theorem State.joinSpan_sameSpan (h : n ≠ p) : s.SameSpan (s.joinSpan c p) n := by
  exact (s.zeroSpan_sameSpan h).trans (.setSpan _ h)

theorem State.joinSpan_zeroisedAt : (s.joinSpan c n).ZeroisedAt n 1 := State.zeroSpan_setSpan_zeroisedAt rfl rfl rfl

theorem State.joinSpan_outer : (s.joinSpan c n).outer = s.outer := by
  simp [State.joinSpan]

theorem State.freeSpan_sameSpan (h : n ≠ p) : s.SameSpan (s.freeSpan p) n := by
  exact ((s.zeroSpan_sameSpan h).trans (.setSpan _ h)).trans (.setGlob _ _)

theorem State.freeSpan_freedAt : (s.freeSpan n).FreedAt n := by
  refine .of_same ⟨?_, congrArg Span.point (State.setSpan_spanOf_self ..)⟩ (.setGlob _ _)
  exact State.zeroSpan_setSpan_zeroisedAt rfl rfl rfl

theorem State.freeSpan_outer : (s.freeSpan n).outer = s.outer := by
  simp [State.freeSpan]

end

/-- An update of one span after another reaches each span of the list, and no later one undoes it. -/
theorem State.foldl_spans {f : State → Nat → State} {P : State → Nat → Prop} (hself : ∀ s n, P (f s n) n)
    (hother : ∀ (s : State) {n p : Nat}, n ≠ p → P s n → P (f s p) n) {l : List Nat} {n : Nat} (hn : n ∈ l) (s : State) :
    P (l.foldl f s) n := by
  obtain ⟨before, after, rfl⟩ := List.append_of_mem hn
  rw [List.foldl_append, List.foldl_cons]
  refine List.foldlRecOn (motive := fun t : State => P t n) after f (hself ..) fun t ht p _ => ?_
  by_cases h : n = p
  · exact h ▸ hself t n
  · exact hother t h ht

theorem mem_spansOf {mask : BitVec 16} {n : Nat} (hn : n < 16) (h : mask.getLsbD n = true) : n ∈ spansOf mask :=
  List.mem_filter.2 ⟨List.mem_range.2 hn, h⟩

/-! ## Creation (R432, R434) -/

section
variable {s : State} {c : Fin 4}

/-- CREATE where it is taken: FREE, a request of spans that no other context claims and none fenced, start READY. -/
theorem State.create_taken (hstate : (s.adminOf c).state = .free) (hmask : (s.adminOf c).mask ≠ 0)
    (hfree : ∀ d, d ≠ c → (s.adminOf c).mask &&& (s.adminOf d).claims = 0) (hfence : (s.adminOf c).mask &&& s.start.fencedSpans = 0)
    (hready : s.start.st = 2) : s.create c = (s.setAdmin c { s.adminOf c with state := .creating }).setCtx c {} := by
  have hother := (s.and_otherSpans_eq_zero_iff c _).2 hfree
  refine if_pos ?_
  simp only [Bool.and_eq_true, decide_eq_true_eq]
  exact ⟨⟨⟨⟨hstate, hmask⟩, hother⟩, hfence⟩, hready⟩

theorem State.create_refused (h : ¬((s.adminOf c).state = .free ∧ (s.adminOf c).mask ≠ 0 ∧
    (∀ d, d ≠ c → (s.adminOf c).mask &&& (s.adminOf d).claims = 0) ∧ (s.adminOf c).mask &&& s.start.fencedSpans = 0 ∧ s.start.st = 2)) :
    s.create c = s.refuseCtl c := by
  rw [← s.and_otherSpans_eq_zero_iff c] at h
  refine if_neg fun hgood => h ?_
  simpa [and_assoc] using hgood

theorem State.createComplete_eq (h : (s.adminOf c).state = .creating) : s.createComplete c =
    ((spansOf (s.adminOf c).mask).foldl (fun s p => s.joinSpan c p)
      (s.setAdmin c { s.adminOf c with state := .live, owned := (s.adminOf c).mask, leaving := 0 })).writeCaps := if_pos h

theorem State.createComplete_outer (h : (s.adminOf c).state = .creating) : (s.createComplete c).outer =
    (s.mem, s.admin.set c { s.adminOf c with state := .live, owned := (s.adminOf c).mask, leaving := 0 }, s.ctx) := by
  rw [State.createComplete_eq h, State.writeCaps_outer, State.foldl_outer fun t n => t.joinSpan_outer c]
  rfl

theorem State.createComplete_zeroisedAt (h : (s.adminOf c).state = .creating) {n : Nat} (hn : n < 16)
    (hask : (s.adminOf c).mask.getLsbD n = true) : (s.createComplete c).ZeroisedAt n 1 := by
  rw [State.createComplete_eq h]
  refine State.ZeroisedAt.of_onlyCaps ?_ (State.writeCaps_onlyCaps _)
  exact State.foldl_spans (P := fun t n => t.ZeroisedAt n 1) (fun t _ => t.joinSpan_zeroisedAt c)
    (fun t _ _ hne ht => ht.of_same (t.joinSpan_sameSpan c hne)) (mem_spansOf hn hask) _

/-! ## Teardown (R444) -/

/-- No core keeps a tile that it held for the context. -/
theorem State.dropHeld_held (s : State) (c : Fin 4) (k : Nat) :
    ((s.dropHeld c).coreOf k).held = (s.coreOf k).held.filter fun h => h.1 ≠ c.val := by
  unfold State.dropHeld; dsimp only
  refine List.foldlRecOn (motive := fun t : State => (t.coreOf k).held = _) _ _ ?_ fun t ht n _ => ((t.swapDue_frame n).2 k).trans ht
  obtain ⟨x, hx⟩ := State.dropWrites_rest _ _
  rw [hx]
  refine (congrArg (fun q : Option Core => (q.getD {}).held)
    (Table.find_map (fun q : Core => { q with held := q.held.filter (fun h => h.1 ≠ c.val), first := none }) k s.cores)).trans ?_
  simp only [State.coreOf, Table.get]
  cases s.cores.find k <;> rfl

theorem State.teardown_eq (hf : (s.adminOf c).state ≠ .free) (ht : (s.adminOf c).state ≠ .tearingDown) : s.teardown c =
    (((s.setAdmin c { s.adminOf c with state := .tearingDown }).setCtx c (s.ctxOf c).stop).dropHeld c).writeCaps := by
  unfold State.teardown; dsimp only
  split
  · contradiction
  · contradiction
  · rfl

theorem State.teardown_refused (h : (s.adminOf c).state = .free ∨ (s.adminOf c).state = .tearingDown) : s.teardown c = s.refuseCtl c := by
  obtain h | h := h <;> simp [State.teardown, h]

theorem State.teardown_held (hf : (s.adminOf c).state ≠ .free) (ht : (s.adminOf c).state ≠ .tearingDown) (k : Nat) :
    ((s.teardown c).coreOf k).held = (s.coreOf k).held.filter fun h => h.1 ≠ c.val := by
  rw [State.teardown_eq hf ht, (State.writeCaps_onlyCaps _).1]
  exact State.dropHeld_held ..

/-- `t` differs from `s` in nothing but the histogram slots and the global registers. -/
def State.OnlyHists (s t : State) : Prop := t = { s with hists := t.hists, glob := t.glob }

theorem State.OnlyHists.trans {s t u : State} (h : s.OnlyHists t) (k : t.OnlyHists u) : s.OnlyHists u := by
  rw [State.OnlyHists, k, h]

theorem State.OnlyHists.sameSpan {s t : State} (h : s.OnlyHists t) (n : Nat) : s.SameSpan t n :=
  ⟨by rw [h]; rfl, fun _ _ => by rw [h]; rfl⟩

theorem State.claimOne_onlyHists (s : State) (slot c : Nat) : s.OnlyHists (s.claimOne slot c).1 := by
  unfold State.claimOne
  (repeat' split) <;> rfl

theorem serveClaims_onlyHists (s : State) (stuck : List Nat) (l : List (Nat × Nat)) : s.OnlyHists (serveClaims s stuck l).1 := by
  induction l generalizing s stuck with
  | nil => rfl
  | cons q l ih =>
    have hone := s.claimOne_onlyHists q.1 q.2
    unfold serveClaims
    split
    · exact ih ..
    · split <;> rename_i hq <;> rw [hq] at hone <;> exact hone.trans (ih ..)

theorem State.histRelease_onlyHists (s : State) (slot : Nat) : s.OnlyHists (s.histRelease slot) :=
  .trans (t := s.setHist slot ((s.histOf slot).hold 7)) rfl (.trans (serveClaims_onlyHists ..) rfl)

/-- The zeroisation of a teardown complete: the spans are freed, the slots let go, and context and administration cleared. -/
theorem State.teardownComplete_eq (h : (s.adminOf c).state = .tearingDown) :
    ∃ u, ((spansOf (s.adminOf c).owned).foldl State.freeSpan s).OnlyHists u ∧
      s.teardownComplete c = ((u.setCtx c { strokeRefused := (u.ctxOf c).strokeRefused }).setAdmin c
        { s.adminOf c with state := .free, mask := 0, owned := 0, leaving := 0, drain := false }).writeCaps := by
  refine ⟨_, ?_, if_pos h⟩
  exact List.foldlRecOn (motive := State.OnlyHists _) _ _ rfl fun t ht n _ => ht.trans (t.histRelease_onlyHists n)

theorem State.teardownComplete_outer (h : (s.adminOf c).state = .tearingDown) : (s.teardownComplete c).outer =
    (s.mem, s.admin.set c { s.adminOf c with state := .free, mask := 0, owned := 0, leaving := 0, drain := false },
      s.ctx.set c { strokeRefused := (s.ctxOf c).strokeRefused }) := by
  obtain ⟨u, hu, ht⟩ := State.teardownComplete_eq h
  have hout : u.outer = s.outer := by
    rw [hu]
    exact State.foldl_outer (fun t n => t.freeSpan_outer) _ _
  obtain ⟨hm, ha, hc⟩ : _ ∧ _ ∧ _ := by simpa only [State.outer, Prod.mk.injEq] using hout
  rw [ht, State.writeCaps_outer]
  simp only [State.outer, State.setAdmin, State.setCtx, State.ctxOf, hm, ha, hc]

theorem State.teardownComplete_freedAt (h : (s.adminOf c).state = .tearingDown) {n : Nat} (hn : n < 16)
    (hown : (s.adminOf c).owned.getLsbD n = true) : (s.teardownComplete c).FreedAt n := by
  obtain ⟨u, hu, ht⟩ := State.teardownComplete_eq h
  have hfreed := State.foldl_spans (P := State.FreedAt) (fun t _ => t.freeSpan_freedAt)
    (fun t _ _ hne hp => hp.of_same (t.freeSpan_sameSpan hne)) (mem_spansOf hn hown) s
  rw [ht]
  refine State.FreedAt.of_onlyCaps ?_ (State.writeCaps_onlyCaps _)
  exact (hfreed.of_same (hu.sameSpan n)).of_same ⟨rfl, fun _ _ => rfl⟩

end

/-- Settles O47: each command's equation gives the registers, and the spans are zeroised one after the other (`State.foldl_spans`). -/
theorem contextsAreCreatedAndFreed : Obligations.ContextsAreCreatedAndFreed := by
  refine ⟨fun c s => ⟨?taken, fun h => congrArg Host.Outcome.next (State.create_refused h), ?created⟩,
    fun c s => ⟨?torn, fun h => congrArg Host.Outcome.next (State.teardown_refused h), ?freed⟩⟩
  case taken =>
    rintro ⟨hstate, hmask, hfree, hfence, hready⟩
    refine ⟨_, congrArg Host.Outcome.next (State.create_taken hstate hmask hfree hfence hready), rfl, rfl, by simp, by simp, fun d hd => ?_⟩
    exact ⟨State.setAdmin_adminOf_ne _ _ hd, State.setCtx_ctxOf_ne _ _ hd⟩
  case created =>
    intro h
    obtain ⟨hm, ha, hc⟩ : _ ∧ _ ∧ _ := by simpa only [State.outer, Prod.mk.injEq] using State.createComplete_outer h
    refine ⟨s.createComplete c, rfl, hm, hc, by simp [State.adminOf, ha], fun d hd => ?_, fun n hn hask => ?_⟩
    · simp only [State.adminOf, ha, Four.get_set_ne _ _ hd]
    · obtain ⟨hz, hp, hr, hw, hk⟩ := State.createComplete_zeroisedAt h hn hask
      exact ⟨hz, hp, hr, hw, hk⟩
  case torn =>
    intro hf ht
    obtain ⟨hm, ha, hc⟩ : _ ∧ _ ∧ _ := by
      simpa only [← State.teardown_eq hf ht, State.outer, Prod.mk.injEq] using s.stopped_outer c { s.adminOf c with state := .tearingDown }
    have hcc : (s.teardown c).ctxOf c = (s.ctxOf c).stop := by simp [State.ctxOf, hc]
    refine ⟨s.teardown c, rfl, hm, by simp [State.adminOf, ha], ?_⟩
    rw [hcc]
    refine ⟨rfl, rfl, rfl, rfl, fun k h hmem => ?_, fun d hd => ?_⟩
    · rw [State.teardown_held hf ht] at hmem
      simpa using (List.mem_filter.1 hmem).2
    · simp only [State.ctxOf, hc, Four.get_set_ne _ _ hd]
  case freed =>
    intro h
    obtain ⟨hm, ha, hc⟩ : _ ∧ _ ∧ _ := by simpa only [State.outer, Prod.mk.injEq] using State.teardownComplete_outer h
    refine ⟨s.teardownComplete c, rfl, hm, by simp [State.ctxOf, hc], by simp [State.adminOf, ha], fun d hd => ⟨?_, ?_⟩, fun n hn hown => ?_⟩
    · simp only [State.adminOf, ha, Four.get_set_ne _ _ hd]
    · simp only [State.ctxOf, hc, Four.get_set_ne _ _ hd]
    · obtain ⟨⟨hz, hp, -, -, hk⟩, hpoint⟩ := State.teardownComplete_freedAt h hn hown
      exact ⟨hz, hp, hpoint, fun k hlt => (hk k hlt).1⟩

end Sys2Proof.Machine

/-! PROOFS of the statements of 17_timeline_and_power.md: the regulator (O42). -/

namespace Sys2Proof.Machine

/-! ## Faults of the whole block or of a span (R61, R62, R476) -/

/-- A block record of a cause, its halts, and the alert that goes out with it. -/
theorem State.raiseAll_alert_spec (s : State) (p : Fin 4 → Bool) (q : Cause) {k : Nat} (hk : k < 9) (span : Option Nat) :
    ((s.raiseAll p q).alert k none span).mem = s.mem ∧ ((s.raiseAll p q).alert k none span).glob.alerts.getLsbD k = true ∧
      ((s.raiseAll p q).alert k none span).ring.seq = s.ring.seq + 1 ∧
      ∀ c, s.runs c = true → p c = true → ∃ h, (((s.raiseAll p q).alert k none span).ctxOf c).halt = some h ∧ h.code = q.code := by
  refine ⟨?_, ?_, ?_, fun c hr hp => ?_⟩
  · rw [State.alert_mem, State.raiseAll_mem]
  · rw [State.alert_alerts]
    exact putBit_getLsbD _ hk
  · rw [State.alert_ring, State.raiseAll_seq]
  · rw [State.ctxOf, State.alert_ctx]
    exact State.raiseAll_halts q hp hr

/-- A fault of span `n`'s rail or output: its regulator stops, alert bit 3 is raised, and each owner that runs halts after one block record. -/
structure State.RailFaults (s t : State) (n : Nat) : Prop where
  mem : t.mem = s.mem
  off : (t.spanOf n).regulatorOn = false
  alert : t.glob.alerts.getLsbD 3 = true
  seq : t.ring.seq = s.ring.seq + 1
  halts : ∀ c, s.runs c = true → (s.adminOf c).owned.getLsbD n = true → ∃ h, (t.ctxOf c).halt = some h ∧ h.code = 0x0A03

theorem State.railFault_spanOf (s : State) (n : Nat) : (s.railFault n).spanOf n = { s.spanOf n with regulatorOn := false } := by
  rw [State.railFault, State.spanOf, State.alert_spans, State.raiseAll_spans]
  exact State.setSpan_spanOf_self ..

theorem State.railFault_faults (s : State) (n : Nat) : s.RailFaults (s.railFault n) n := by
  obtain ⟨hmem, halert, hseq, hhalts⟩ := (s.setSpan n { s.spanOf n with regulatorOn := false }).raiseAll_alert_spec
    (fun c => bit (s.adminOf c).owned n) { code := 0x0A03, detail := hwDetail 13 n 0xFFFF 0 0 } (by decide : 3 < 9) (some n)
  exact ⟨hmem, by rw [State.railFault_spanOf], halert, hseq, hhalts⟩

/-- A change of the span itself before its fault is part of neither the shared cache nor what the fault finds. -/
theorem State.RailFaults.of_setSpan {s t : State} {n : Nat} {x : Span} (h : (s.setSpan n x).RailFaults t n) : s.RailFaults t n :=
  ⟨h.mem, h.off, h.alert, h.seq, h.halts⟩

/-! ## Measures of the regulator (R467) -/

/-- An undervoltage stretches the clock to the full (R467). -/
theorem Span.govern_stretch_of_undervolt {x : Span} (beat mode : Nat) (h : x.undervolt = true) : (x.govern beat mode).stretch = 8 :=
  congrArg (BitVec.ofNat 4) (if_pos h : x.wantStretch = 8)

/-- Span `n` with an output undervoltage. -/
def State.undervolted (s : State) (n mv : Nat) : Span :=
  ({ s.spanOf n with undervolt := true, uv := true, vout := BitVec.ofNat 10 mv } : Span).govern s.time.beat (s.mode n)

theorem State.underVoltage_eq (s : State) (n mv ns : Nat) : s.underVoltage n mv ns =
    if (mv : Int) < (s.spanOf n).setting - 40 ∧ ns > 50 then
      if ns ≥ 10000 then (s.setSpan n (s.undervolted n mv)).railFault n else s.setSpan n (s.undervolted n mv)
    else s := by
  simp only [State.underVoltage, Bool.and_eq_true, decide_eq_true_eq]
  rfl

theorem State.overVoltage_eq (s : State) (n mv ns : Nat) : s.overVoltage n mv ns =
    if ((mv : Int) > (s.spanOf n).setting + 60 ∨ mv > 930) ∧ ns ≥ 200 then
      (s.setSpan n { s.spanOf n with ov := true, vout := BitVec.ofNat 10 mv }).railFault n
    else s := by
  simp only [State.overVoltage, Bool.and_eq_true, Bool.or_eq_true, decide_eq_true_eq]

theorem State.railInput_eq (s : State) (n mv ns : Nat) : s.railInput n mv ns =
    if (mv < 1660 ∨ mv > 1950) ∧ ns > 1000 then (s.setSpan n { s.spanOf n with vin := BitVec.ofNat 11 mv }).railFault n
    else s.setSpan n { s.spanOf n with vin := BitVec.ofNat 11 mv } := by
  simp only [State.railInput, Bool.and_eq_true, Bool.or_eq_true, decide_eq_true_eq]

theorem State.setSpan_onlySpan (s : State) (n : Nat) (x : Span) : s.OnlySpan (s.setSpan n x) n := by
  rw [State.OnlySpan, State.setSpan_spanOf_self]

/-- One measure of the output current governs its span and keeps its count of beats. -/
theorem State.overCurrent_spec (s : State) (n da : Nat) :
    s.OnlySpan (s.overCurrent n da) n ∧ (s.overCurrent n da).spanBeat n = s.spanBeat n ∧
    ((s.overCurrent n da).spanOf n).currentStretch = (if da > 680 then min 8 ((s.spanOf n).currentStretch + 1)
      else if da < 640 then (s.spanOf n).currentStretch - 1 else (s.spanOf n).currentStretch) := by
  refine ⟨s.setSpan_onlySpan n _, ?_, ?_⟩
  · rw [State.spanBeat, State.overCurrent, State.setSpan_spanOf_self]
    exact (Span.govern_beatAt ..).trans (Span.beatAt_of_clock rfl _)
  · rw [State.overCurrent, State.setSpan_spanOf_self]
    rfl

/-- Settles O42: each measure by its equation; the faults are `State.railFault_faults`. -/
theorem regulatorProtects : Obligations.RegulatorProtects := by
  intro n mv ns da s x faults low high rail
  have hfaults : ∀ {t : State}, s.RailFaults t n.val → faults t := fun h => ⟨h.off, h.alert, h.seq, h.halts⟩
  have hfault : ∀ y : Span, s.RailFaults ((s.setSpan n.val y).railFault n.val) n.val := fun y => (State.railFault_faults _ _).of_setSpan
  have hspan : ∀ y : Span, ((s.setSpan n.val y).railFault n.val).spanOf n.val = { y with regulatorOn := false } := fun y => by
    rw [State.railFault_spanOf, State.setSpan_spanOf_self]
  have hunder : exec (.outputUndervoltage n mv ns) s = .next (s.underVoltage n.val mv ns) := rfl
  have hover : exec (.outputOvervoltage n mv ns) s = .next (s.overVoltage n.val mv ns) := rfl
  have hrail : exec (.railFault n mv ns) s = .next (s.railInput n.val mv ns) := rfl
  have hstretch : (s.undervolted n.val mv).stretch = 8 := Span.govern_stretch_of_undervolt _ _ rfl
  rw [hunder, hover, hrail, State.underVoltage_eq, State.overVoltage_eq, State.railInput_eq]
  refine ⟨fun h => ?uvNone, fun h hns => ?uvShort, fun h hns => ?uvLong, fun h => ?clearNone, fun h => ?clear, fun h => ?ovTrip,
    fun h => ?ovNone, fun h => ?railTrip, fun h => ?railNone, ?current⟩
  case uvNone => rw [if_neg h]
  case uvShort =>
    rw [if_pos h, if_neg (Nat.not_le.2 hns)]
    refine ⟨_, rfl, s.setSpan_onlySpan .., ?_⟩
    rw [State.setSpan_spanOf_self]
    exact ⟨rfl, hstretch⟩
  case uvLong =>
    rw [if_pos h, if_pos hns]
    refine ⟨_, rfl, (hfault _).mem, ?_, ?_, hfaults (hfault _)⟩
    · rw [hspan]; rfl
    · rw [hspan]; exact hstretch
  case clearNone => exact congrArg Host.Outcome.next (if_neg fun hd => absurd (of_decide_eq_true hd) (Int.not_le.2 h))
  case clear =>
    refine ⟨_, congrArg Host.Outcome.next (if_pos (decide_eq_true h)), s.setSpan_onlySpan .., ?_⟩
    rw [State.setSpan_spanOf_self]
    exact ⟨rfl, rfl⟩
  case ovTrip =>
    rw [if_pos h]
    exact ⟨_, rfl, (hfault _).mem, by rw [hspan], hfaults (hfault _)⟩
  case ovNone => rw [if_neg h]
  case railTrip =>
    rw [if_pos h]
    exact ⟨_, rfl, (hfault _).mem, hfaults (hfault _)⟩
  case railNone => rw [if_neg h]
  case current =>
    obtain ⟨honly, hbeat, hcurrent⟩ := s.overCurrent_spec n.val da
    refine ⟨_, rfl, honly, hbeat, fun h => ?_, fun hlo hhi => ?_, fun h => ?_⟩
    · rw [hcurrent, if_pos h]
    · rw [hcurrent, if_neg (by omega), if_neg (by omega)]
    · rw [hcurrent, if_neg (by omega), if_pos h]

end Sys2Proof.Machine

/-! PROOFS of the statements of 17_timeline_and_power.md: time samples, holdover and the lost clock (O37). -/

namespace Sys2Proof.Machine

/-! ## Samples of the timebase (R449 to R452) -/

/-- A step by the difference to a sample reaches the sample. -/
theorem add_ofInt_sub (a b : BitVec 64) : a + BitVec.ofInt 64 ((b.toNat : Int) - a.toNat) = b := by
  apply BitVec.eq_of_toNat_eq
  rw [BitVec.toNat_add, BitVec.toNat_ofInt]
  have := a.isLt
  have := b.isLt
  omega

section
variable {t : TimeBase} {d : Int}

/-- What a discarded sample of any kind changes (R450). -/
theorem TimeBase.discard_spec (t : TimeBase) : t.discard.now = t.now ∧ t.discard.beat = t.beat ∧ t.discard.discards = t.discards + 1 ∧
    t.discard.rejects = t.rejects ∧ t.discard.parity = t.parity := by
  unfold TimeBase.discard
  dsimp only
  split <;> exact ⟨rfl, rfl, rfl, rfl, rfl⟩

/-- The eighth discarded sample in a row begins a holdover (R450). -/
theorem TimeBase.discard_holdover (h : t.holdover = false) : t.discard.holdover = decide (t.discards + 1 ≥ 8) := by
  by_cases h8 : t.discards + 1 ≥ 8
  · rw [TimeBase.discard, if_pos (by simp [h, h8]), decide_eq_true h8]
  · rw [TimeBase.discard, if_neg (by simp [h8]), decide_eq_false h8]
    exact h

theorem TimeBase.accept_ahead (h : d ≥ 0) : t.accept d = ({ t with discards := 0, accepted := t.accepted + 1 } : TimeBase).stepUp d := if_pos h

/-- Local time ahead of the sample runs at half rate, or stays stopped (R449, R451). -/
theorem TimeBase.accept_behind (h : d < 0) : t.accept d =
    if t.stopped > 0 then { t with discards := 0, accepted := t.accepted + 1, stopped := 18 * d.natAbs }
    else { t with discards := 0, accepted := t.accepted + 1, lag := 18 * d.natAbs } := if_neg (Int.not_le.2 h)

/-- An accepted sample leaves the beat and whether there is a holdover. -/
theorem TimeBase.accept_same (t : TimeBase) (d : Int) : (t.accept d).beat = t.beat ∧ (t.accept d).holdover = t.holdover := by
  rcases Int.lt_or_le d 0 with h | h
  · rw [TimeBase.accept_behind h]
    split <;> exact ⟨rfl, rfl⟩
  · rw [TimeBase.accept_ahead h]
    exact ⟨rfl, rfl⟩

theorem TimeBase.judge_far (h : d.natAbs > 1000) : t.judge d = ({ t with rejects := satAdd t.rejects 1 } : TimeBase).discard := if_pos h

theorem TimeBase.judge_near (h : d.natAbs ≤ 1000) (hh : t.holdover = false) : t.judge d = t.accept d := by
  rw [TimeBase.judge, if_neg (Nat.not_lt.2 h), hh]
  rfl

/-- In holdover the eighth acceptable sample in a row is the first to be accepted (R450). -/
theorem TimeBase.judge_holdover (h : d.natAbs ≤ 1000) (hh : t.holdover = true) : t.judge d =
    if t.goodRun < 7 then { t with goodRun := t.goodRun + 1, discards := 0 }
    else ({ t with holdover := false, goodRun := 0 } : TimeBase).accept d := by
  rw [TimeBase.judge, if_neg (Nat.not_lt.2 h), if_pos hh]
  by_cases h7 : t.goodRun < 7
  · rw [if_pos h7, if_neg (by omega)]
  · rw [if_neg h7, if_pos (by omega)]

/-- A sample that is accepted whatever its distance steps local time to it, or stops local time until it is reached (R451, R452). -/
theorem TimeBase.force_spec (t : TimeBase) (sample : BitVec 64) :
    let d : Int := (sample.toNat : Int) - (t.now.toNat : Int)
    (d ≥ 0 → (t.force d).now = sample) ∧ (d < 0 → (t.force d).now = t.now ∧ (t.force d).stopped = 18 * d.natAbs) := by
  intro d
  refine ⟨fun h => ?_, fun h => ?_⟩
  · rw [TimeBase.force, if_pos h]
    exact add_ofInt_sub ..
  · rw [TimeBase.force, if_neg (Int.not_le.2 h)]
    exact ⟨rfl, rfl⟩

end

/-! ## TIME_SAMPLE (R56) -/

section
variable {s : State} {sample : BitVec 64}

theorem exec_timeSample_now (s : State) (sample : BitVec 64) (ok : Bool) :
    exec (.timeSample sample ok s.time.beat) s = .next (s.timeSample sample ok) := by
  show Host.Outcome.next ((s.advanceTo s.time.beat).timeSample sample ok) = _
  rw [State.advanceTo_now]

/-- A sample of bad parity is counted and discarded (R56). -/
theorem State.timeSample_bad (s : State) (sample : BitVec 64) :
    (s.timeSample sample false).time = ({ s.time with parity := satAdd s.time.parity 1 } : TimeBase).discard := rfl

/-- A sample of good parity is judged, once the timebase is seeded and where no resync waits for it. -/
theorem State.timeSample_judged (hs : s.time.seeded = true) (ha : s.time.resyncArmed = false) :
    (s.timeSample sample true).time = s.time.judge ((sample.toNat : Int) - (s.time.now.toNat : Int)) := by
  simp [State.timeSample, hs, ha]

/-- No sample moves the shared cache, nor, but for the one that an armed resync takes, a context. -/
theorem State.timeSample_mem_ctx (ok : Bool) (h : s.time.resyncArmed = false) :
    (s.timeSample sample ok).mem = s.mem ∧ (s.timeSample sample ok).ctx = s.ctx := by
  cases ok <;> cases hs : s.time.seeded <;> simp [State.timeSample, h, hs]

/-- The first sample, and the one that an armed resync takes (R451, R452). -/
theorem State.timeSample_forced (h : s.time.resyncArmed = true ∨ s.time.seeded = false) :
    let t := s.timeSample sample true
    let forced := s.time.force ((sample.toNat : Int) - (s.time.now.toNat : Int))
    t.time.now = forced.now ∧ t.time.stopped = forced.stopped ∧ t.time.seeded = true := by
  cases ha : s.time.resyncArmed
  · have hs : s.time.seeded = false := h.resolve_left (by simp [ha])
    simp [State.timeSample, ha, hs]
  · simp [State.timeSample, ha]

/-- An armed resync ends with its sample, and with it a holdover (R451). -/
theorem State.timeSample_resync (h : s.time.resyncArmed = true) :
    let t := s.timeSample sample true
    t.time.resyncArmed = false ∧ t.time.holdover = false ∧ t.time.lost = false := by
  simp [State.timeSample, h]

end

/-! ## TIMEBASE_LOST and REFCLK_LOST (R450, R62) -/

theorem exec_timebaseLost_now (s : State) : exec (.timebaseLost s.time.beat) s = .next s.timebaseLost := by
  show Host.Outcome.next (s.advanceTo s.time.beat).timebaseLost = _
  rw [State.advanceTo_now]

/-- The alert goes out once in a holdover, when it has lasted 10 ms (R450). -/
theorem State.timebaseLost_eq {s : State} (h : s.time.holdover = true) (ht : s.time.told = false) : s.timebaseLost =
    if s.time.beat ≥ s.time.holdSince + 18000000 then
      ({ s with time := { s.time with lost := true, told := true } } : State).alert 0 none none
    else s := by
  simp only [State.timebaseLost, h, ht, Bool.not_false, Bool.and_self, Bool.true_and, decide_eq_true_eq]
  rfl

theorem State.refclkLost_eq (s : State) {ns : Nat} (h : ns ≥ 1000) :
    ∃ q : Cause, q.code = 0x0A04 ∧ s.refclkLost ns = (s.raiseAll (fun _ => true) q).alert 4 none none := ⟨_, rfl, if_pos h⟩

/-- A reference clock that stands still halts every context that runs (R62). -/
theorem State.refclkLost_spec (s : State) {ns : Nat} (h : ns ≥ 1000) :
    (s.refclkLost ns).mem = s.mem ∧ (s.refclkLost ns).glob.alerts.getLsbD 4 = true ∧ (s.refclkLost ns).ring.seq = s.ring.seq + 1 ∧
      ∀ c, s.runs c = true → ∃ h, ((s.refclkLost ns).ctxOf c).halt = some h ∧ h.code = 0x0A04 := by
  obtain ⟨q, hq, he⟩ := s.refclkLost_eq h
  rw [he, ← hq]
  obtain ⟨hmem, halert, hseq, hhalts⟩ := s.raiseAll_alert_spec (fun _ => true) q (by decide : 4 < 9) none
  exact ⟨hmem, halert, hseq, fun c hc => hhalts c hc rfl⟩

/-- Settles O37: a sample is judged, counted toward the end of a holdover, or forced; each lost clock has its own alert. -/
theorem timeSamplesSteerAndHoldOver : Obligations.TimeSamplesSteerAndHoldOver := by
  refine ⟨fun sample ok s hs ha hh => ?judged, fun sample s => ⟨fun hs ha hh hd => ?held, fun h => ?forced, fun h => ?resync⟩,
    fun s hh ht => ⟨fun hb => ?early, fun hb => ?lost⟩, fun ns s => ⟨fun h => ?still, fun h => ?stopped⟩⟩
  case judged =>
    intro d
    obtain ⟨hmem, hctx⟩ := s.timeSample_mem_ctx (sample := sample) ok ha
    refine ⟨_, exec_timeSample_now .., hctx, hmem, ?_⟩
    cases ok with
    | false =>
      obtain ⟨hnow, hbeat, hdiscards, hrejects, hparity⟩ := ({ s.time with parity := satAdd s.time.parity 1 } : TimeBase).discard_spec
      rw [State.timeSample_bad]
      exact ⟨hbeat, nofun, nofun, nofun, fun _ => ⟨hparity, hrejects⟩, fun _ => ⟨hnow, hdiscards, TimeBase.discard_holdover hh⟩⟩
    | true =>
      rw [State.timeSample_judged hs ha]
      by_cases hd : d.natAbs ≤ 1000
      · have hfar : ¬d.natAbs > 1000 := Nat.not_lt.2 hd
        obtain ⟨hbeat, -⟩ := s.time.accept_same d
        rw [TimeBase.judge_near hd hh]
        refine ⟨hbeat, fun _ _ hup => ?_, fun _ _ hdown => ?_, fun _ h => absurd h hfar, nofun, fun h => absurd (h.resolve_left nofun) hfar⟩
        · rw [TimeBase.accept_ahead hup]
          exact ⟨add_ofInt_sub .., rfl, rfl, hh⟩
        · rw [TimeBase.accept_behind hdown]
          split
          · next hstop => exact ⟨rfl, rfl, hh, fun h => absurd h (Nat.ne_of_gt hstop), fun _ => ⟨rfl, rfl⟩⟩
          · next hstop => exact ⟨rfl, rfl, hh, fun h => ⟨rfl, h⟩, fun h => absurd h hstop⟩
      · have hfar : d.natAbs > 1000 := Nat.lt_of_not_le hd
        obtain ⟨hnow, hbeat, hdiscards, hrejects, hparity⟩ := ({ s.time with rejects := satAdd s.time.rejects 1 } : TimeBase).discard_spec
        rw [TimeBase.judge_far hfar]
        exact ⟨hbeat, fun _ h => absurd h hd, fun _ h => absurd h hd, fun _ _ => ⟨hrejects, hparity⟩, nofun,
          fun _ => ⟨hnow, hdiscards, TimeBase.discard_holdover hh⟩⟩
  case held =>
    refine ⟨_, exec_timeSample_now .., ?_⟩
    rw [State.timeSample_judged hs ha, TimeBase.judge_holdover hd hh]
    by_cases h7 : s.time.goodRun < 7
    · rw [if_pos h7, decide_eq_true h7]
      exact ⟨hh, fun _ => ⟨rfl, rfl⟩⟩
    · rw [if_neg h7, decide_eq_false h7]
      exact ⟨(TimeBase.accept_same ..).2, fun h => absurd h h7⟩
  case forced =>
    obtain ⟨hnow, hstopped, hseeded⟩ := State.timeSample_forced (sample := sample) h
    obtain ⟨hup, hdown⟩ := s.time.force_spec sample
    exact ⟨_, exec_timeSample_now .., hseeded, fun hd => hnow.trans (hup hd), fun hd => ⟨hnow.trans (hdown hd).1, hstopped.trans (hdown hd).2⟩⟩
  case resync => exact ⟨_, exec_timeSample_now .., State.timeSample_resync h⟩
  case early => rw [exec_timebaseLost_now, State.timebaseLost_eq hh ht, if_neg (Nat.not_le.2 hb)]
  case lost =>
    rw [exec_timebaseLost_now, State.timebaseLost_eq hh ht, if_pos hb]
    refine ⟨_, rfl, rfl, ?_, rfl, rfl⟩
    rw [State.alert_alerts]
    exact putBit_getLsbD _ (by decide)
  case still => exact congrArg Host.Outcome.next (if_neg (Nat.not_le.2 h))
  case stopped => exact ⟨_, rfl, s.refclkLost_spec h⟩

end Sys2Proof.Machine

/-! PROOFS of the statements of 17_timeline_and_power.md: announcements of strokes (O38). -/

namespace Sys2Proof.Machine

/-! ## What an announcement is about (R453, R454) -/

/-- A context's stroke: NUMBER, S, whether it has announced any, REFUSED, and the TIME register. -/
def Ctx.strokeRegs (x : Ctx) : BitVec 48 × BitVec 64 × Bool × Bool × BitVec 64 := (x.stroke, x.strokeS, x.announced, x.strokeRefused, x.strokeStart)

/-- The block stroke: its number, its start, the strokes since the last start of the block, and the beat of the last boundary. -/
def Global.strokeRegs (g : Global) : BitVec 48 × BitVec 64 × Nat × Option Nat := (g.blockStroke, g.blockStart, g.strokesSince, g.boundaryBeat)

/-- What announcements are judged by and write: the strokes of the contexts, time, and the block stroke. -/
def State.strokes (s : State) : (Fin 4 → BitVec 48 × BitVec 64 × Bool × Bool × BitVec 64) × TimeBase × BitVec 48 × BitVec 64 × Nat × Option Nat :=
  (fun d => (s.ctxOf d).strokeRegs, s.time, s.glob.strokeRegs)

/-- `t` has the strokes of `s`. -/
def State.SameStrokes (s t : State) : Prop := t.strokes = s.strokes

@[simp] theorem State.sameStrokes_iff {s t : State} : s.SameStrokes t ↔ t.strokes = s.strokes := ⟨id, id⟩

theorem State.SameStrokes.ctxOf {s t : State} (h : s.SameStrokes t) (d : Fin 4) : (t.ctxOf d).strokeRegs = (s.ctxOf d).strokeRegs :=
  congrFun (congrArg Prod.fst h) d

theorem State.SameStrokes.block {s t : State} (h : s.SameStrokes t) : t.time = s.time ∧ t.glob.strokeRegs = s.glob.strokeRegs :=
  Prod.mk.inj (congrArg Prod.snd h)

@[simp] theorem State.foldl_strokes {α : Type} {f : State → α → State} (h : ∀ (s : State) (a : α), s.SameStrokes (f s a)) (l : List α)
    (s : State) : (l.foldl f s).strokes = s.strokes :=
  List.foldlRecOn (motive := fun t : State => t.strokes = s.strokes) l _ rfl fun _ ht a _ => (h _ a).trans ht

/-! ### One rule for each part of the state -/

@[simp] theorem State.setSpan_strokes (s : State) (n : Nat) (x : Span) : (s.setSpan n x).strokes = s.strokes := rfl
@[simp] theorem State.setCore_strokes (s : State) (n : Nat) (x : Core) : (s.setCore n x).strokes = s.strokes := rfl
@[simp] theorem State.setAdmin_strokes (s : State) (c : Fin 4) (x : Admin) : (s.setAdmin c x).strokes = s.strokes := rfl

theorem State.setGlob_strokes (s : State) {g : Global} (h : g.strokeRegs = s.glob.strokeRegs) : (s.setGlob g).strokes = s.strokes := by
  rw [State.strokes, State.setGlob_glob, h]
  rfl

/-- Of a context's registers only its stroke registers count. -/
theorem State.setCtx_strokes_congr (s : State) (c : Fin 4) {x y : Ctx} (h : x.strokeRegs = y.strokeRegs) :
    (s.setCtx c x).strokes = (s.setCtx c y).strokes := by
  refine congrArg (·, s.time, s.glob.strokeRegs) (funext fun d => ?_)
  by_cases hd : d = c
  · rw [hd, State.setCtx_ctxOf_self, State.setCtx_ctxOf_self, h]
  · rw [State.setCtx_ctxOf_ne _ _ hd, State.setCtx_ctxOf_ne _ _ hd]

theorem State.setCtx_strokes (s : State) (c : Fin 4) {x : Ctx} (h : x.strokeRegs = (s.ctxOf c).strokeRegs) : (s.setCtx c x).strokes = s.strokes := by
  rw [State.setCtx_strokes_congr s c h, setCtx_same]

/-! ### Lane swaps, spans that join, and the trace -/

@[simp] theorem State.absorb_strokes (s : State) (n : Nat) (q : Cause) : (s.absorb n q).strokes = s.strokes := by
  simp [State.strokes, Global.strokeRegs, State.ctxOf]

@[simp] theorem State.journalAsk_strokes (s : State) (type : Nat) (payload : List Byte) : (s.journalAsk type payload).strokes = s.strokes := rfl

@[simp] theorem State.swapDue_strokes (s : State) (core : Nat) : (s.swapDue core).strokes = s.strokes := by
  simp [State.swapDue, State.journalRepair, apply_ite State.strokes]

@[simp] theorem State.swapLanes_strokes (s : State) (core : Nat) : (s.swapLanes core).strokes = s.strokes := by
  simp [State.swapLanes]

@[simp] theorem State.swapSpan_strokes (s : State) (n : Nat) : (s.swapSpan n).strokes = s.strokes := by
  simp [State.swapSpan]

@[simp] theorem State.zeroCrews_strokes (s : State) (l : List Nat) : (s.zeroCrews l).strokes = s.strokes := rfl

@[simp] theorem State.zeroCores_strokes (s : State) (n : Nat) : (s.zeroCores n).strokes = s.strokes := rfl

@[simp] theorem State.joinSpan_strokes (s : State) (c : Fin 4) (n : Nat) : (s.joinSpan c n).strokes = s.strokes := by
  simp [State.joinSpan, State.zeroSpan]

@[simp] theorem State.writeCaps_strokes (s : State) : s.writeCaps.strokes = s.strokes := by
  simp [State.writeCaps, apply_ite State.strokes]

@[simp] theorem State.applySpans_strokes (s : State) (c : Fin 4) : (s.applySpans c).strokes = s.strokes := by
  have hjoin : ∀ (u : State) (n : Nat), u.SameStrokes (u.joinSpan c n) := fun u n => u.joinSpan_strokes c n
  rw [State.applySpans, State.writeCaps_strokes, State.foldl_strokes hjoin, State.setCtx_strokes _ _ (by rfl), State.setAdmin_strokes]

theorem State.acceptOwn_strokes {s t : State} {n : Nat} {w : PierWrite} (h : s.acceptOwn n w = some t) : t.strokes = s.strokes := by
  unfold State.acceptOwn at h
  split at h
  · rw [← Option.some.inj h]
    rfl
  · cases h

/-- Trace writes that are accepted move the trace pointers of their context. -/
@[simp] theorem State.acceptTrace_strokes (s : State) (c : Fin 4) : (s.acceptTrace c).strokes = s.strokes := by
  refine List.foldlRecOn (motive := fun acc : State × Bool => acc.1.strokes = s.strokes) _ _ rfl fun acc hacc q _ => ?_
  dsimp only
  split
  · exact hacc
  · split
    · exact hacc
    · next h => exact (State.setCtx_strokes _ c (by rfl)).trans ((State.acceptOwn_strokes h).trans hacc)

@[simp] theorem State.sendBytes_strokes (s : State) (c : Fin 4) (execute : Bool) (index tile addr : Nat) (bytes : List Byte) :
    (s.sendBytes c execute index tile addr bytes).strokes = s.strokes := by
  unfold State.sendBytes
  split <;> rfl

@[simp] theorem State.flushTrace_strokes (s : State) (c : Fin 4) : (s.flushTrace c).strokes = s.strokes := by
  rw [State.flushTrace, State.foldl_strokes fun u b => State.sendBytes_strokes .., State.setCtx_strokes _ _ (by rfl)]

/-! ### Actions of a block boundary -/

@[simp] theorem State.planEnvelopes_strokes (s : State) : s.planEnvelopes.strokes = s.strokes := by
  simp [State.planEnvelopes, apply_ite State.strokes]

@[simp] theorem State.journalProfiles_strokes (s : State) : s.journalProfiles.strokes = s.strokes := by
  simp [State.journalProfiles, apply_ite State.strokes]

@[simp] theorem State.clearFence_strokes (s : State) (n core : Nat) : (s.clearFence n core).strokes = s.strokes := by
  unfold State.clearFence
  dsimp only
  split <;> rfl

@[simp] theorem State.snapTelemetry_strokes (s : State) (start : BitVec 64) : (s.snapTelemetry start).strokes = s.strokes := rfl

@[simp] theorem State.spanBoundary_strokes (s : State) (n : Nat) : (s.spanBoundary n).strokes = s.strokes := rfl

@[simp] theorem State.coxStep_strokes (s : State) : s.coxStep.strokes = s.strokes := rfl

/-- A boundary up to its number: what is done for the stroke that ends (R456, actions 1 to 3). -/
def State.endStroke (s : State) (start : BitVec 64) : State :=
  let s := { s with hists := s.hists.map (fun (e : Nat × Hist) => (e.1, (e.2.rewind s.time.beat).advise s.glob.blockStroke)) }
  let s := if s.glob.anyStroke && s.glob.telemEn then s.snapTelemetry start else s
  let s := { s with hists := s.hists.map (fun (e : Nat × Hist) => (e.1, e.2.autoClear.replay s.time.beat)) }
  (List.range 16).foldl State.spanBoundary s

/-- The registers of the new stroke. -/
def State.numberStroke (s : State) (number : BitVec 48) (start : BitVec 64) : State :=
  s.setGlob { s.glob with
    blockStroke := number, blockStart := start, boundaryBeat := some s.time.beat, anyStroke := true, strokesSince := s.glob.strokesSince + 1
    strokeHoldover := s.time.holdover, policy := s.glob.policyNext.getD s.glob.policy, policyNext := none
    portCrc := [], portResends := [] }

theorem State.numberStroke_ctxOf (s : State) (number : BitVec 48) (start : BitVec 64) (d : Fin 4) :
    (s.numberStroke number start).ctxOf d = s.ctxOf d := rfl

theorem State.numberStroke_strokeRegs (s : State) (number : BitVec 48) (start : BitVec 64) :
    (s.numberStroke number start).glob.strokeRegs = (number, start, s.glob.strokesSince + 1, some s.time.beat) := rfl

/-- What is done for the new stroke, and the background work (R456, actions 4 and 5). -/
def State.beginStroke (s : State) : State :=
  let s := s.planEnvelopes
  let s := { s with journal := { s.journal with compacting := s.journal.compacting || decide (s.journal.fill > 0x60000) } }
  let s := s.journalProfiles
  let s := s.glob.unfences.foldl (fun s p => s.clearFence p.1 p.2) s
  let s := s.setGlob { s.glob with unfences := [] }
  let s := allCtx.foldl (fun s c => s.flushTrace c) s
  (((List.range 16).filter (fun n => (s.owner n).isNone)).foldl State.swapSpan s).coxStep

theorem State.blockBoundary_eq (s : State) (number : BitVec 48) (start : BitVec 64) :
    s.blockBoundary number start = ((s.endStroke start).numberStroke number start).beginStroke := rfl

theorem State.endStroke_strokes (s : State) (start : BitVec 64) : (s.endStroke start).strokes = s.strokes := by
  have hists : ∀ (u : State) h, ({ u with hists := h } : State).strokes = u.strokes := fun _ _ => rfl
  simp [State.endStroke, hists, apply_ite State.strokes]

theorem State.beginStroke_strokes (s : State) : s.beginStroke.strokes = s.strokes := by
  have hjournal : ∀ (u : State) j, ({ u with journal := j } : State).strokes = u.strokes := fun _ _ => rfl
  rw [State.beginStroke, State.coxStep_strokes, State.foldl_strokes State.swapSpan_strokes, State.foldl_strokes State.flushTrace_strokes,
    State.setGlob_strokes _ (by rfl), State.foldl_strokes fun u p => State.clearFence_strokes .., State.journalProfiles_strokes, hjournal,
    State.planEnvelopes_strokes]

/-! ## STROKE_ANNOUNCE (R453 to R455) -/

section
variable {s : State} {c : Fin 4} {number : BitVec 48}

/-- Is the number one that the context may announce (R453)? -/
theorem State.announceOk_iff : s.announceOk c number = true ↔
    ((s.adminOf c).state ≠ .free ∧ (s.adminOf c).state ≠ .creating ∧ (s.adminOf c).state ≠ .tearingDown) ∧
    ((s.ctxOf c).announced = false ∨
      ((s.ctxOf c).stroke.toNat < number.toNat ∧ (s.ctxOf c).strokeS.toNat ≤ (s.ctxOf c).strokeStart.toNat)) ∧
    (s.ctxOf c).strokeStart.toNat ≤ s.now + 1000000 := by
  unfold State.announceOk
  cases (s.adminOf c).state <;> simp

/-- The context's boundary writes its stroke, and nothing of the block's (R455). -/
theorem State.ctxBoundary_strokes (s : State) (c : Fin 4) (number : BitVec 48) : (s.ctxBoundary c number).strokes =
    (s.setCtx c { s.ctxOf c with stroke := number, strokeS := (s.ctxOf c).strokeStart, announced := true }).strokes := by
  have happly : ∀ (u : State) (p : Bool), (if p then u.applySpans c else u).strokes = u.strokes := fun u p => by
    rw [apply_ite State.strokes, State.applySpans_strokes, ite_self]
  rw [State.ctxBoundary, State.foldl_strokes State.swapSpan_strokes, happly]
  exact State.setCtx_strokes_congr s c rfl

/-- And after the trace writes that wait for it. -/
theorem State.acceptTrace_ctxBoundary (s : State) (c : Fin 4) (number : BitVec 48) :
    let u := (s.acceptTrace c).ctxBoundary c number
    (u.ctxOf c).strokeRegs = (number, (s.ctxOf c).strokeStart, true, (s.ctxOf c).strokeRefused, (s.ctxOf c).strokeStart) ∧
      u.time = s.time ∧ u.glob.strokeRegs = s.glob.strokeRegs := by
  intro u
  have htrace : s.SameStrokes (s.acceptTrace c) := s.acceptTrace_strokes c
  have hown : State.SameStrokes _ u := (s.acceptTrace c).ctxBoundary_strokes c number
  obtain ⟨htime, hglob⟩ := htrace.block
  obtain ⟨hutime, huglob⟩ := hown.block
  have hregs := htrace.ctxOf c
  simp only [Ctx.strokeRegs, Prod.mk.injEq] at hregs
  obtain ⟨-, -, -, hrefused, hstart⟩ := hregs
  refine ⟨?_, hutime.trans htime, huglob.trans hglob⟩
  rw [hown.ctxOf c, State.setCtx_ctxOf_self, Ctx.strokeRegs, hrefused, hstart]

/-- The block stroke follows to a greater number: by a boundary, or, in the beat of one, by a new number of its stroke (R454). -/
def State.blockFollows (s : State) (number : BitVec 48) (start : BitVec 64) : State :=
  if number.toNat > s.glob.blockStroke.toNat then
    if s.glob.boundaryBeat = some s.time.beat then (s.renumber number start).planEnvelopes else s.blockBoundary number start
  else
    if s.glob.boundaryBeat = some s.time.beat then (s.setGlob { s.glob with anyStroke := true }).planEnvelopes
    else s.setGlob { s.glob with anyStroke := true }

theorem State.announce_taken (h : s.announceOk c number = true) :
    s.announce c number = ((s.acceptTrace c).ctxBoundary c number).blockFollows number (s.ctxOf c).strokeStart := by
  unfold State.announce State.blockFollows
  simp [h]

/-- The context strokes stay, and the block stroke is the greatest number, counted once in a beat. -/
theorem State.blockFollows_strokes (s : State) (number : BitVec 48) (start : BitVec 64) :
    (∀ d, ((s.blockFollows number start).ctxOf d).strokeRegs = (s.ctxOf d).strokeRegs) ∧
    (s.blockFollows number start).glob.strokeRegs =
      if number.toNat > s.glob.blockStroke.toNat then
        (number, start, if s.glob.boundaryBeat = some s.time.beat then s.glob.strokesSince else s.glob.strokesSince + 1, some s.time.beat)
      else s.glob.strokeRegs := by
  have hplan : ∀ u : State, u.SameStrokes u.planEnvelopes := State.planEnvelopes_strokes
  rw [State.blockFollows]
  by_cases hn : number.toNat > s.glob.blockStroke.toNat
  · rw [if_pos hn, if_pos hn]
    by_cases hb : s.glob.boundaryBeat = some s.time.beat
    · rw [if_pos hb, if_pos hb, ← hb]
      obtain ⟨-, hglob⟩ := (hplan (s.renumber number start)).block
      exact ⟨(hplan (s.renumber number start)).ctxOf, hglob⟩
    · have hend : s.SameStrokes (s.endStroke start) := s.endStroke_strokes start
      have hbegin : State.SameStrokes _ ((s.endStroke start).numberStroke number start).beginStroke := State.beginStroke_strokes _
      obtain ⟨-, hglob⟩ := hbegin.block
      obtain ⟨htime, hended⟩ := hend.block
      simp only [Global.strokeRegs, Prod.mk.injEq] at hended
      obtain ⟨-, -, hsince, -⟩ := hended
      rw [if_neg hb, if_neg hb, State.blockBoundary_eq, hglob, State.numberStroke_strokeRegs, htime, hsince]
      refine ⟨fun d => ?_, rfl⟩
      rw [hbegin.ctxOf, State.numberStroke_ctxOf, hend.ctxOf]
  · have hany : s.SameStrokes (s.setGlob { s.glob with anyStroke := true }) := s.setGlob_strokes (by rfl)
    have hthen : s.SameStrokes (if s.glob.boundaryBeat = some s.time.beat then (s.setGlob { s.glob with anyStroke := true }).planEnvelopes
        else s.setGlob { s.glob with anyStroke := true }) := by
      split
      · exact (hplan _).trans hany
      · exact hany
    rw [if_neg hn, if_neg hn]
    exact ⟨hthen.ctxOf, hthen.block.2⟩

end

/-- Settles O38: a good announcement is the context's boundary, after which the block stroke follows; `State.SameStrokes` says what the other
actions of the boundaries leave alone. -/
theorem announcementsAreTakenOrRefused : Obligations.AnnouncementsAreTakenOrRefused := by
  intro c number s x open_ later good
  refine ⟨fun hgood => ?_, fun hbad => congrArg Host.Outcome.next (if_neg fun h => hbad (State.announceOk_iff.1 h))⟩
  refine ⟨_, congrArg Host.Outcome.next (State.announce_taken (State.announceOk_iff.2 hgood)), ?_⟩
  obtain ⟨hown, htime, hblock⟩ := s.acceptTrace_ctxBoundary c number
  obtain ⟨hctx, hfollows⟩ := ((s.acceptTrace c).ctxBoundary c number).blockFollows_strokes number x.strokeStart
  have hregs := (hctx c).trans hown
  rw [hblock, htime] at hfollows
  simp only [Ctx.strokeRegs, Prod.mk.injEq] at hregs
  simp only [Global.strokeRegs, Prod.mk.injEq] at hblock
  obtain ⟨hstroke, hs, hannounced, hrefused, -⟩ := hregs
  obtain ⟨hnumber, -, hsince, hbeat⟩ := hblock
  refine ⟨hstroke, hs, hannounced, hrefused, ?_⟩
  rw [hnumber, hsince, hbeat] at hfollows
  by_cases hn : number.toNat > s.glob.blockStroke.toNat
  · rw [if_pos hn] at hfollows
    simp only [Global.strokeRegs, Prod.mk.injEq] at hfollows
    obtain ⟨hblockStroke, hblockStart, hcount, -⟩ := hfollows
    refine ⟨?_, fun _ => hblockStart, fun _ hb => ?_, fun _ hb => ?_⟩
    · rw [hblockStroke, Nat.max_eq_right (Nat.le_of_lt hn)]
    · rw [hcount, if_neg hb]
    · rw [hcount, if_pos hb]
  · rw [if_neg hn] at hfollows
    simp only [Global.strokeRegs, Prod.mk.injEq] at hfollows
    obtain ⟨hblockStroke, -⟩ := hfollows
    refine ⟨?_, fun h => absurd h hn, fun h => absurd h hn, fun h => absurd h hn⟩
    rw [hblockStroke, Nat.max_eq_left (Nat.le_of_not_lt hn)]

end Sys2Proof.Machine

/-! PROOFS of the statements of 17_timeline_and_power.md: envelopes, floor entries, points and surges (O40). -/

namespace Sys2Proof.Machine

/-! ## Floor entries (R463) -/

/-- Of two floor entries the governor keeps the one of the later offset. -/
def Span.laterFloor (x : Span) (best : Option Nat) (i : Nat) : Option Nat :=
  match best with
  | none => some i
  | some j => if (x.part.floors.getD j (0, 0)).1 ≤ (x.part.floors.getD i (0, 0)).1 then some i else some j

/-- The floor entries whose offset from the phase marker has passed. -/
def Span.passedFloors (x : Span) (beat : Nat) : List Nat :=
  (List.range x.part.floors.length).filter fun i => decide (x.marker + usBeats * (x.part.floors.getD i (0, 0)).1 ≤ beat)

theorem Span.latestFloor_eq (x : Span) (beat : Nat) : x.latestFloor beat = (x.passedFloors beat).foldl x.laterFloor none := rfl

section
variable {x : Span} {beat i : Nat}

theorem Span.mem_passedFloors : i ∈ x.passedFloors beat ↔
    i < x.part.floors.length ∧ x.marker + 1800 * (x.part.floors.getD i (0, 0)).1 ≤ beat := by
  rw [Span.passedFloors, List.mem_filter, List.mem_range, decide_eq_true_eq]
  rfl

theorem Span.laterFloor_choice (x : Span) (best : Option Nat) (i : Nat) : x.laterFloor best i = best ∨ x.laterFloor best i = some i := by
  cases best with
  | none => exact .inr rfl
  | some j =>
    rw [Span.laterFloor]
    split
    · exact .inr rfl
    · exact .inl rfl

theorem Span.laterFloor_isSome (x : Span) (best : Option Nat) (i : Nat) : (x.laterFloor best i).isSome := by
  cases best with
  | none => rfl
  | some j =>
    rw [Span.laterFloor]
    split <;> rfl

/-- The entry in force is one that has passed. -/
theorem Span.latestFloor_mem (h : x.latestFloor beat = some i) : i ∈ x.passedFloors beat :=
  foldl_choice_mem _ x.laterFloor_choice _ i (x.latestFloor_eq beat ▸ h)

/-- Where none is in force, none has passed. -/
theorem Span.passedFloors_of_none (h : x.latestFloor beat = none) : x.passedFloors beat = [] := by
  rw [Span.latestFloor_eq] at h
  rcases List.eq_nil_or_concat (x.passedFloors beat) with hnil | ⟨l, a, hl⟩
  · exact hnil
  · rw [hl, List.concat_eq_append, List.foldl_append] at h
    have hsome : (x.laterFloor (l.foldl x.laterFloor none) a).isSome := x.laterFloor_isSome ..
    rw [show x.laterFloor (l.foldl x.laterFloor none) a = none from h] at hsome
    cases hsome

/-- An entry that has passed is in force where it is the one of the latest offset. -/
theorem Span.latestFloor_of_latest (hi : i ∈ x.passedFloors beat)
    (h : ∀ j ∈ x.passedFloors beat, j ≠ i → (x.part.floors.getD j (0, 0)).1 < (x.part.floors.getD i (0, 0)).1) : x.latestFloor beat = some i := by
  obtain ⟨before, after, hl⟩ := List.append_of_mem hi
  rw [Span.latestFloor_eq, hl, List.foldl_append, List.foldl_cons]
  rw [hl] at h
  have htaken : x.laterFloor (before.foldl x.laterFloor none) i = some i := by
    cases hb : before.foldl x.laterFloor none with
    | none => rfl
    | some j =>
      have hj : j ∈ before := foldl_choice_mem _ x.laterFloor_choice _ j hb
      refine if_pos ?_
      by_cases hji : j = i
      · rw [hji]
      · exact Nat.le_of_lt (h j (List.mem_append_left _ hj) hji)
  rw [htaken]
  refine List.foldlRecOn (motive := (· = some i)) after _ rfl fun best hbest j hj => ?_
  rw [hbest]
  by_cases hji : j = i
  · rw [hji]
    exact if_pos (Nat.le_refl _)
  · exact if_neg (Nat.not_le.2 (h j (List.mem_append_right _ (List.mem_cons_of_mem _ hj)) hji))

end

/-! ## ENVELOPE_DELIVER (R462) -/

/-- A span whose envelope on its way has come into force. -/
def Span.delivered (x : Span) (e : List EnvPart) (beat mode : Nat) : Span :=
  let y := ({ x with envelope := e, nextEnvelope := none } : Span).takeUp beat
  { y with pace := if y.pace = 4 then 4 else BitVec.ofNat 3 mode }

theorem State.deliver_none {s : State} {n : Nat} (h : (s.spanOf n).nextEnvelope = none) : s.deliver n = s := by
  simp [State.deliver, h]

theorem State.deliver_some {s : State} {n : Nat} {e : List EnvPart} (h : (s.spanOf n).nextEnvelope = some e) :
    s.deliver n = s.setSpan n ((s.spanOf n).delivered e s.time.beat (s.mode n)) := by
  rw [State.deliver, h]
  rfl

section
variable (x : Span) (e : List EnvPart) (beat mode : Nat)

theorem Span.delivered_floors :
    (x.delivered e beat mode).part.floors = ({ x with envelope := e, nextEnvelope := none } : Span).part.floors :=
  Span.takeUp_floors { x with envelope := e, nextEnvelope := none } beat

/-- The floor entry in force is one of the new part's that has passed, where one has. -/
theorem Span.delivered_floor :
    let passed (i : Nat) : Prop := x.marker + 1800 * ((x.delivered e beat mode).part.floors.getD i (0, 0)).1 ≤ beat
    (∀ i, (x.delivered e beat mode).floor = some i → i < (x.delivered e beat mode).part.floors.length ∧ passed i) ∧
      ((x.delivered e beat mode).floor = none → ∀ i, i < (x.delivered e beat mode).part.floors.length → ¬passed i) := by
  rw [Span.delivered_floors]
  refine ⟨fun i h => Span.mem_passedFloors.1 (Span.latestFloor_mem h), fun h i hi hp => ?_⟩
  have hmem := Span.mem_passedFloors.2 ⟨hi, hp⟩
  rw [Span.passedFloors_of_none h] at hmem
  cases hmem

/-- LO and HI are those of the part of the present phase. -/
theorem Span.delivered_limits {q : EnvPart} (h : e[x.phase.toNat]? = some q) (hlo : q.lo < 16) (hhi : q.hi < 16) :
    (x.delivered e beat mode).lo.toNat = q.lo ∧ (x.delivered e beat mode).hi.toNat = q.hi := by
  have hpart : ({ x with envelope := e, nextEnvelope := none } : Span).part = q := by
    rw [Span.part, List.getD_eq_getElem?_getD, h]
    rfl
  have hl : (x.delivered e beat mode).lo = BitVec.ofNat 4 q.lo := by rw [← hpart]; rfl
  have hh : (x.delivered e beat mode).hi = BitVec.ofNat 4 q.hi := by rw [← hpart]; rfl
  rw [hl, hh, BitVec.toNat_ofNat, BitVec.toNat_ofNat]
  exact ⟨Nat.mod_eq_of_lt hlo, Nat.mod_eq_of_lt hhi⟩

end

/-! ## PACE_POINT_MOVE (R460) -/

/-- The next part of a move of a span to the target point, whose count of beats stands. -/
def Span.move (x : Span) : Span :=
  let p := if x.pace = 5 then 0 else x.target
  let works : Bool := x.regulatorOn && !x.undervolt
  if p < x.point.toNat then { x with point := BitVec.ofNat 4 p }
  else if x.vout.toNat < (x.settingOf p).toNat then (if works then { x with vout := x.settingOf p } else x)
  else if p > x.point.toNat then { x with point := BitVec.ofNat 4 p }
  else if works then { x with vout := x.settingOf p } else x

theorem State.movePoint_eq (s : State) (n : Nat) : s.movePoint n = s.setSpan n ((s.spanOf n).rebase s.time.beat).move := rfl

theorem Span.move_count (x : Span) : x.move.beats = x.beats ∧ x.move.frac = x.frac ∧ x.move.since = x.since := by
  unfold Span.move
  dsimp only
  repeat' split
  all_goals exact ⟨rfl, rfl, rfl⟩

/-- A count of beats that is fixed at a beat gives the same there, whatever the rate has become. -/
theorem Span.beatAt_of_rebase {x y : Span} {beat : Nat} (hb : y.beats = (x.rebase beat).beats) (hf : y.frac = (x.rebase beat).frac)
    (hs : y.since = (x.rebase beat).since) : y.beatAt beat = x.beatAt beat := by
  have hu : 0 < beatUnit := by decide
  rw [Span.beatAt, hb, hf, hs]
  show _ + (_ % beatUnit + (beat - beat) * _) / beatUnit = _
  rw [Nat.sub_self, Nat.zero_mul, Nat.add_zero, Nat.div_eq_of_lt (Nat.mod_lt _ hu)]
  rfl

/-- Upward the voltage goes first, downward the frequency; the voltage needs a regulator that works (R460). -/
theorem Span.move_spec (x : Span) :
    let p := if x.pace = 5 then 0 else x.target
    let works := x.regulatorOn = true ∧ x.undervolt = false
    let low := x.vout.toNat < (x.settingOf p).toNat
    (p < x.point.toNat → x.move.point = BitVec.ofNat 4 p ∧ x.move.vout = x.vout) ∧
    (x.point.toNat ≤ p → low → works → x.move.vout = x.settingOf p ∧ x.move.point = x.point) ∧
    (x.point.toNat ≤ p → low → ¬works → x.move.vout = x.vout ∧ x.move.point = x.point) ∧
    (x.point.toNat < p → ¬low → x.move.point = BitVec.ofNat 4 p ∧ x.move.vout = x.vout) ∧
    (x.point.toNat = p → ¬low → works → x.move.vout = x.settingOf p ∧ x.move.point = x.point) := by
  intro p works low
  have hworks : (x.regulatorOn && !x.undervolt) = true ↔ works := by simp [works]
  have hmove : x.move = if p < x.point.toNat then { x with point := BitVec.ofNat 4 p }
      else if low then (if works then { x with vout := x.settingOf p } else x)
      else if p > x.point.toNat then { x with point := BitVec.ofNat 4 p }
      else if works then { x with vout := x.settingOf p } else x := by
    simp only [← hworks]
    rfl
  rw [hmove]
  refine ⟨fun h => ?_, fun h hl hw => ?_, fun h hl hw => ?_, fun h hl => ?_, fun h hl hw => ?_⟩
  · rw [if_pos h]
    exact ⟨rfl, rfl⟩
  · rw [if_neg (Nat.not_lt.2 h), if_pos hl, if_pos hw]
    exact ⟨rfl, rfl⟩
  · rw [if_neg (Nat.not_lt.2 h), if_pos hl, if_neg hw]
    exact ⟨rfl, rfl⟩
  · rw [if_neg (Nat.not_lt.2 (Nat.le_of_lt h)), if_neg hl, if_pos h]
    exact ⟨rfl, rfl⟩
  · rw [if_neg (Nat.not_lt.2 (Nat.le_of_eq h)), if_neg hl, if_neg (Nat.not_lt.2 (Nat.le_of_eq h.symm)), if_pos hw]
    exact ⟨rfl, rfl⟩

/-! ## The surge governor (R469) -/

section
variable {s : State} {n : Nat}

theorem State.surgeRequest_idle (h : ¬(s.surgeIdle n = true ∧ (s.spanOf n).surgeWait = false ∧ (s.spanOf n).granted = false)) :
    s.surgeRequest n = s := by
  refine if_pos ?_
  by_contra hc
  refine h ?_
  simpa [and_assoc] using hc

/-- A request joins the queue behind those of earlier beats and of lower spans. -/
theorem State.surgeRequest_asks (h : s.surgeIdle n = true ∧ (s.spanOf n).surgeWait = false ∧ (s.spanOf n).granted = false) :
    s.surgeRequest n = (s.setSpan n { s.spanOf n with surgeWait := true }).setGlob { s.glob with
      surgeQueue := s.glob.surgeQueue.filter (fun e => e.2 < s.time.beat || e.1 < n) ++ [(n, s.time.beat)] ++
        s.glob.surgeQueue.filter (fun e => !(e.2 < s.time.beat || e.1 < n)) } := by
  obtain ⟨hidle, hwait, hgranted⟩ := h
  refine if_neg ?_
  simp [hidle, hwait, hgranted]

end

/-- An element put between the two parts of a list. -/
theorem filter_insert_spec {α : Type} (p : α → Bool) (a : α) (l : List α) :
    a ∈ l.filter p ++ [a] ++ l.filter (fun e => !p e) ∧ (l.filter p ++ [a] ++ l.filter (fun e => !p e)).length = l.length + 1 ∧
      ∀ e ∈ l, e ∈ l.filter p ++ [a] ++ l.filter (fun e => !p e) := by
  refine ⟨by simp, ?_, fun e he => ?_⟩
  · have hlen := List.length_eq_length_filter_add (l := l) p
    simp only [List.length_append, List.length_singleton]
    omega
  · cases hp : p e <;> simp [he, hp]

/-- The grants of the last 64 beats. -/
def State.recentGrants (s : State) : List Nat := s.glob.grants.filter (fun b => s.time.beat < b + 64)

section
variable (s : State) (p : Nat)

/-- A grant of this beat is a recent one. -/
theorem State.filter_recent_now : [s.time.beat].filter (fun b => s.time.beat < b + 64) = [s.time.beat] :=
  List.filter_cons_of_pos (decide_eq_true (by omega))

theorem State.grantSpan_grants : (s.grantSpan p).glob.grants = s.recentGrants ++ [s.time.beat] := by
  show (s.glob.grants ++ [s.time.beat]).filter (fun b => s.time.beat < b + 64) = _
  rw [List.filter_append, State.filter_recent_now]
  rfl

theorem State.grantSpan_recent : (s.grantSpan p).recentGrants = s.recentGrants ++ [s.time.beat] := by
  show (s.grantSpan p).glob.grants.filter (fun b => s.time.beat < b + 64) = _
  rw [State.grantSpan_grants, List.filter_append, State.filter_recent_now, State.recentGrants, List.filter_filter]
  simp only [Bool.and_self]

theorem State.grantSpan_self : ((s.grantSpan p).spanOf p).granted = true ∧ ((s.grantSpan p).spanOf p).surgeWait = false := by
  have h : (s.grantSpan p).spanOf p = { s.spanOf p with surgeWait := false, granted := true } := State.setSpan_spanOf_self ..
  rw [h]
  exact ⟨rfl, rfl⟩

theorem State.grantSpan_other {n : Nat} (h : n ≠ p) : (s.grantSpan p).spanOf n = s.spanOf n := State.setSpan_spanOf_ne _ _ h

/-- What grants leave alone: the shared cache, the contexts, the queue and whether grants are staggered. -/
theorem State.grantSpans_same (l : List Nat) : (l.foldl State.grantSpan s).outer = s.outer ∧
    (l.foldl State.grantSpan s).glob.surgeQueue = s.glob.surgeQueue :=
  List.foldlRecOn (motive := fun t : State => t.outer = s.outer ∧ t.glob.surgeQueue = s.glob.surgeQueue) l _ ⟨rfl, rfl⟩ fun _ ht _ _ => ht

/-- Each span of a row of grants has its grant. -/
theorem State.grantSpans_granted {l : List Nat} {n : Nat} (h : n ∈ l) :
    ((l.foldl State.grantSpan s).spanOf n).granted = true ∧ ((l.foldl State.grantSpan s).spanOf n).surgeWait = false :=
  State.foldl_spans (P := fun t n => (t.spanOf n).granted = true ∧ (t.spanOf n).surgeWait = false) State.grantSpan_self
    (fun t _ _ hne hp => by rw [State.grantSpan_other _ _ hne]; exact hp) h s

/-- And as many grants fall in this beat. -/
theorem State.grantSpans_grants (l : List Nat) :
    ((p :: l).foldl State.grantSpan s).glob.grants.length = s.recentGrants.length + l.length + 1 := by
  induction l generalizing s p with
  | nil => exact (congrArg List.length (s.grantSpan_grants p)).trans List.length_append
  | cons q l ih =>
    rw [List.foldl_cons, ih, State.grantSpan_recent, List.length_append, List.length_singleton, List.length_cons]
    omega

end

section
variable {s : State} {p q : Nat} {rest : List (Nat × Nat)}

/-- At most four grants in the last 64 beats serve the whole queue. -/
theorem State.serveSurge_all (hq : s.glob.surgeQueue = (p, q) :: rest) (h : s.glob.stagger = false ∧ s.recentGrants.length + rest.length + 1 ≤ 4) :
    s.serveSurge = (p :: rest.map Prod.fst).foldl State.grantSpan (s.setGlob { s.glob with surgeQueue := [] }) := by
  have hall : (!s.glob.stagger && decide (s.recentGrants.length + ((p, q) :: rest).length ≤ 4)) = true := by
    simpa [h.1, Nat.add_assoc] using h.2
  simp only [State.serveSurge, hq]
  exact if_pos hall

/-- Else one span is served, 32 beats after the last grant. -/
theorem State.serveSurge_one (hq : s.glob.surgeQueue = (p, q) :: rest)
    (h : ¬(s.glob.stagger = false ∧ s.recentGrants.length + rest.length + 1 ≤ 4)) :
    s.serveSurge = if (s.glob.grants.getLast?.elim 0 (· + 32)) ≤ s.time.beat then
        (s.setGlob { s.glob with surgeQueue := rest, stagger := !rest.isEmpty }).grantSpan p
      else s.setGlob { s.glob with stagger := true } := by
  have hall : ¬(!s.glob.stagger && decide (s.recentGrants.length + ((p, q) :: rest).length ≤ 4)) = true := by
    simpa [Nat.add_assoc] using h
  simp only [State.serveSurge, hq]
  refine (if_neg hall).trans ?_
  cases s.glob.grants.getLast? <;> rfl

end

theorem exec_surgeGrant_now (s : State) : exec (.surgeGrant s.time.beat) s = .next s.serveSurge := by
  show Host.Outcome.next (s.advanceTo s.time.beat).serveSurge = _
  rw [State.advanceTo_now]

/-- Settles O40: each row writes its span by one equation; the queue is served at once (`State.grantSpans_granted`) or span by span. -/
theorem pointsMoveAndSurgesStagger : Obligations.PointsMoveAndSurgesStagger := by
  refine ⟨fun n s => ⟨fun h => ?none, fun e h => ?delivered, fun i hi hp hlatest => ?floor, ?move⟩, fun n s => ⟨fun h => ?asks, fun h => ?idle⟩,
    fun s p q rest hq => ⟨fun h => ?all, fun h hb => ?early, fun h hb => ?one⟩⟩
  case none => exact congrArg Host.Outcome.next (State.deliver_none h)
  case delivered =>
    refine ⟨_, congrArg Host.Outcome.next (State.deliver_some h), s.setSpan_onlySpan .., ?_⟩
    rw [State.setSpan_spanOf_self]
    exact ⟨rfl, rfl, Span.delivered_floor .., fun q hq hlo hhi => Span.delivered_limits _ _ _ _ hq hlo hhi⟩
  case floor =>
    have hfloor : (s.spanOf n.val).latestFloor s.time.beat = some i := by
      refine Span.latestFloor_of_latest (Span.mem_passedFloors.2 ⟨hi, hp⟩) fun j hj hne => ?_
      obtain ⟨hlt, hpassed⟩ := Span.mem_passedFloors.1 hj
      exact (hlatest j hne hlt).resolve_left (Nat.not_lt.2 hpassed)
    show Host.Outcome.next ((s.advanceTo s.time.beat).floorEntry n.val) = _
    rw [State.advanceTo_now, State.floorEntry, hfloor]
  case move =>
    obtain ⟨hb, hf, hs⟩ := ((s.spanOf n.val).rebase s.time.beat).move_count
    refine ⟨_, congrArg Host.Outcome.next (s.movePoint_eq n.val), s.setSpan_onlySpan .., ?_, ?_⟩
    · rw [State.spanBeat, State.setSpan_spanOf_self]
      exact Span.beatAt_of_rebase hb hf hs
    · rw [State.setSpan_spanOf_self]
      exact ((s.spanOf n.val).rebase s.time.beat).move_spec
  case asks =>
    obtain ⟨hmem, hlen, hkept⟩ := filter_insert_spec (fun e : Nat × Nat => e.2 < s.time.beat || e.1 < n.val) (n.val, s.time.beat) s.glob.surgeQueue
    refine ⟨_, congrArg Host.Outcome.next (State.surgeRequest_asks h), rfl, rfl, ?_, hmem, hlen, hkept⟩
    rw [State.setGlob_spanOf, State.setSpan_spanOf_self]
  case idle => exact congrArg Host.Outcome.next (State.surgeRequest_idle h)
  case all =>
    refine ⟨_, (exec_surgeGrant_now s).trans (congrArg _ (State.serveSurge_all hq h)), ?_⟩
    obtain ⟨houter, hqueue⟩ := (s.setGlob { s.glob with surgeQueue := [] }).grantSpans_same (p :: rest.map Prod.fst)
    obtain ⟨hmem, -, hctx⟩ : _ ∧ _ ∧ _ := by simpa only [State.outer, Prod.mk.injEq] using houter
    refine ⟨hmem, hctx, hqueue, fun e he => State.grantSpans_granted _ (List.mem_map_of_mem (f := Prod.fst) he), ?_⟩
    rw [State.grantSpans_grants, List.length_map]
    rfl
  case early =>
    obtain ⟨b, hlast, hb⟩ := hb
    rw [exec_surgeGrant_now, State.serveSurge_one hq h, hlast, Option.elim_some, if_neg (Nat.not_le.2 hb)]
  case one =>
    have hdue : s.glob.grants.getLast?.elim 0 (· + 32) ≤ s.time.beat := by
      cases hlast : s.glob.grants.getLast? with
      | none => exact Nat.zero_le _
      | some b => exact hb b hlast
    rw [exec_surgeGrant_now, State.serveSurge_one hq h, if_pos hdue]
    exact ⟨_, rfl, rfl, rfl, rfl, (State.grantSpan_self ..).1, fun k hk => State.grantSpan_other _ _ hk, rfl⟩

end Sys2Proof.Machine

/-! PROOFS of the statements of 18_faults_and_recovery.md -/

namespace Sys2Proof.Machine

/-! ## O5: UNREAD counts the records between RD and WR

`State.RingCounts` is carried through the machine one function at a time. For a function that leaves the ring alone the lemma is an
equivalence; for one that may write a record it is an implication, and the record comes from `absorb`, `raiseAll` or a push of the ring. -/

/-- UNREAD counts the records between RD and WR (R483). -/
def State.RingCounts (s : State) : Prop := s.ring.Consistent

namespace State

variable {s : State}

@[simp] theorem consistent_iff : s.ring.Consistent ↔ s.RingCounts := Iff.rfl

@[simp] theorem ringCounts_mk (time : TimeBase) (glob : Global) (admin : Four Admin) (ctx : Four Ctx) (spans : Table Span) (crews : Table Crew)
    (cores : Table Core) (hists : Table Hist) (ring : FaultRing) (mbox : Mailbox) (start : Start) (journal : Journal) (lib : Library)
    (tally : Table Nat) (mem : Memory) (free : Nat) (pending : List Instr) :
    (State.mk time glob admin ctx spans crews cores hists ring mbox start journal lib tally mem free pending).RingCounts ↔ ring.Consistent := Iff.rfl

theorem ringCounts_of_ring {t : State} (e : t.ring = s.ring) : t.RingCounts ↔ s.RingCounts := by rw [RingCounts, e, RingCounts]

/-- A fold of updates that leave the counts alone leaves them alone. -/
@[simp] theorem foldl_ringCounts {α : Type} {f : State → α → State} (hf : ∀ (s : State) (a : α), (f s a).RingCounts ↔ s.RingCounts) (l : List α)
    (s : State) : (l.foldl f s).RingCounts ↔ s.RingCounts :=
  List.foldlRecOn (motive := fun t : State => t.RingCounts ↔ s.RingCounts) l _ Iff.rfl fun _ ht a _ => (hf _ a).trans ht

theorem RingCounts.foldl {α : Type} {f : State → α → State} (h : s.RingCounts) (hf : ∀ (s : State) (a : α), s.RingCounts → (f s a).RingCounts)
    (l : List α) : (l.foldl f s).RingCounts :=
  List.foldlRecOn (motive := fun t : State => t.RingCounts) l _ h fun _ ht a _ => hf _ a ht

@[simp] theorem setCtx_ringCounts (c : Fin 4) (x : Ctx) : (s.setCtx c x).RingCounts ↔ s.RingCounts := Iff.rfl
@[simp] theorem setAdmin_ringCounts (c : Fin 4) (x : Admin) : (s.setAdmin c x).RingCounts ↔ s.RingCounts := Iff.rfl
@[simp] theorem setSpan_ringCounts (n : Nat) (x : Span) : (s.setSpan n x).RingCounts ↔ s.RingCounts := Iff.rfl
@[simp] theorem setCrew_ringCounts (n : Nat) (x : Crew) : (s.setCrew n x).RingCounts ↔ s.RingCounts := Iff.rfl
@[simp] theorem setCore_ringCounts (n : Nat) (x : Core) : (s.setCore n x).RingCounts ↔ s.RingCounts := Iff.rfl
@[simp] theorem setHist_ringCounts (n : Nat) (x : Hist) : (s.setHist n x).RingCounts ↔ s.RingCounts := Iff.rfl
@[simp] theorem setMem_ringCounts (m : Memory) : (s.setMem m).RingCounts ↔ s.RingCounts := Iff.rfl
@[simp] theorem setGlob_ringCounts (g : Global) : (s.setGlob g).RingCounts ↔ s.RingCounts := Iff.rfl
@[simp] theorem setRun_ringCounts (c : Fin 4) (e : Bool) (i : Nat) (m : MacroRun) : (s.setRun c e i m).RingCounts ↔ s.RingCounts := Iff.rfl
@[simp] theorem takeFree_ringCounts : s.takeFree.2.RingCounts ↔ s.RingCounts := Iff.rfl
@[simp] theorem alert_ringCounts (n : Nat) (step span : Option Nat) : (s.alert n step span).RingCounts ↔ s.RingCounts := Iff.rfl
@[simp] theorem advanceTo_ringCounts (b : Nat) : (s.advanceTo b).RingCounts ↔ s.RingCounts := ringCounts_of_ring (s.advanceTo_ring b)
@[simp] theorem raise_ringCounts (c : Fin 4) (q : Cause) : (s.raise c q).RingCounts ↔ s.RingCounts := ringCounts_of_ring (s.raise_ring c q)
@[simp] theorem raiseBare_ringCounts (c : Fin 4) (q : Cause) : (s.raiseBare c q).RingCounts ↔ s.RingCounts := ringCounts_of_ring
    (s.raiseBare_ring c q)
@[simp] theorem absorb_ringCounts (h : s.RingCounts) (n : Nat) (q : Cause) : (s.absorb n q).RingCounts := (Keeps.absorb s n q).ring h
@[simp] theorem raiseAll_ringCounts (h : s.RingCounts) (p : Fin 4 → Bool) (q : Cause) : (s.raiseAll p q).RingCounts := (Keeps.raiseAll s p q).ring h

end State

/-! ### The journal -/

@[simp] theorem State.journalAsk_ringCounts (s : State) (type : Nat) (payload : List Byte) :
    (s.journalAsk type payload).RingCounts ↔ s.RingCounts := by simp [State.journalAsk]

/-! ### Shared operations -/

@[simp] theorem State.busyNow_ringCounts (s : State) (span : Nat) : (s.busyNow span).RingCounts ↔ s.RingCounts := by simp [State.busyNow]
@[simp] theorem State.wasBusy_ringCounts (s : State) (c : Fin 4) : (s.wasBusy c).RingCounts ↔ s.RingCounts := by simp [State.wasBusy]
@[simp] theorem State.setsBit_ringCounts (s : State) (n : Nat) : (s.setsBit n).RingCounts ↔ s.RingCounts := by simp [State.setsBit]
@[simp] theorem State.countBad_ringCounts (s : State) : s.countBad.RingCounts ↔ s.RingCounts := by simp [State.countBad]
@[simp] theorem State.raiseAt_ringCounts (s : State) (c : Fin 4) (q : Cause) (beat : Nat) : (s.raiseAt c q beat).RingCounts ↔ s.RingCounts := by
  unfold State.raiseAt; dsimp only; (repeat' split) <;> simp
@[simp] theorem State.coxStep_ringCounts (s : State) : s.coxStep.RingCounts ↔ s.RingCounts := by simp [State.coxStep]
@[simp] theorem State.acceptWrites_ringCounts (s : State) (span : Nat) (mine : PierWrite → Bool) :
    (s.acceptWrites span mine).RingCounts ↔ s.RingCounts := by simp [State.acceptWrites]
@[simp] theorem State.dropWrites_ringCounts (s : State) (gone : PierWrite → Bool) :
    (s.dropWrites gone).RingCounts ↔ s.RingCounts := by simp [State.dropWrites, apply_ite State.RingCounts]
@[simp] theorem State.sendBytes_ringCounts (s : State) (c : Fin 4) (execute : Bool) (index tile addr : Nat) (bytes : List Byte) :
    (s.sendBytes c execute index tile addr bytes).RingCounts ↔ s.RingCounts := by
  unfold State.sendBytes; split <;> simp
theorem State.acceptOwn_ringCounts {s t : State} {n : Nat} {w : PierWrite} (h : s.acceptOwn n w = some t) : t.RingCounts ↔ s.RingCounts := by
  unfold State.acceptOwn at h
  split at h
  · rw [← Option.some.inj h]; exact Iff.rfl
  · cases h

/-! ### Frames and edges -/

@[simp] theorem State.sendFrame_ringCounts (s : State) (port : Nat) (f : BitVec 256) :
    (s.sendFrame port f).RingCounts ↔ s.RingCounts := by simp [State.sendFrame]
@[simp] theorem State.sendControl_ringCounts (s : State) (c : Fin 4) (ch kind round row edge : Nat) (word0 : Word) (port : Nat) :
    (s.sendControl c ch kind round row edge word0 port).RingCounts ↔ s.RingCounts := by simp [State.sendControl]
@[simp] theorem State.sendAbort_ringCounts (s : State) (c : Fin 4) (ch round code : Nat) (not_ : Option Nat) :
    (s.sendAbort c ch round code not_).RingCounts ↔ s.RingCounts := by simp [State.sendAbort]
@[simp] theorem State.abortRounds_ringCounts (s : State) (c : Fin 4) (code : Nat) (not_ : Option (Nat × Nat)) :
    (s.abortRounds c code not_).RingCounts ↔ s.RingCounts := by simp [State.abortRounds]

/-! ### Completion records and the tag trace -/

@[simp] theorem State.flushTrace_ringCounts (s : State) (c : Fin 4) : (s.flushTrace c).RingCounts ↔ s.RingCounts := by simp [State.flushTrace]
@[simp] theorem State.acceptTrace_ringCounts (s : State) (c : Fin 4) : (s.acceptTrace c).RingCounts ↔ s.RingCounts := by
  refine List.foldlRecOn (motive := fun acc : State × Bool => acc.1.RingCounts ↔ s.RingCounts) _ _ Iff.rfl fun acc hacc q _ => ?_
  dsimp only
  split
  · exact hacc
  · split
    · exact hacc
    · next h => exact (State.acceptOwn_ringCounts h).trans hacc
@[simp] theorem State.trace_ringCounts (s : State) (c : Fin 4) (m : MacroRun) (halted : Bool) :
    (s.trace c m halted).RingCounts ↔ s.RingCounts := by simp [State.trace, apply_ite State.RingCounts]
@[simp] theorem State.sendRecord_ringCounts (s : State) (c : Fin 4) (execute : Bool) (m : MacroRun) (id : Nat) (trapped : Bool) :
    (s.sendRecord c execute m id trapped).RingCounts ↔ s.RingCounts := by simp [State.sendRecord]

/-! ### Lane swaps and fences -/

@[simp] theorem State.journalRepair_ringCounts (s : State) (span : Nat) :
    (s.journalRepair span).RingCounts ↔ s.RingCounts := by simp [State.journalRepair]
@[simp] theorem State.loadRepair_ringCounts (s : State) (span : Nat) (payload : List Byte) :
    (s.loadRepair span payload).RingCounts ↔ s.RingCounts := by simp [State.loadRepair]
@[simp] theorem State.noteCorrected_ringCounts {s : State} (h : s.RingCounts) (span ctx unit core syndrome address : Nat) :
    (s.noteCorrected span ctx unit core syndrome address).RingCounts := by simp [State.noteCorrected, h, apply_ite State.RingCounts]
@[simp] theorem State.corrected_ringCounts {s : State} (h : s.RingCounts) (span ctx unit core address : Nat) :
    (s.corrected span ctx unit core address).RingCounts :=
  State.noteCorrected_ringCounts (s := s.takeFree.2) h ..
@[simp] theorem State.swapDue_ringCounts {s : State} (h : s.RingCounts) (core : Nat) : (s.swapDue core).RingCounts := by
  unfold State.swapDue; dsimp only
  split
  · exact h
  · refine (State.journalRepair_ringCounts ..).2 (.foldl ?_ (fun _ _ hu => State.absorb_ringCounts hu ..) _)
    exact h
@[simp] theorem State.swapLanes_ringCounts {s : State} (h : s.RingCounts) (core : Nat) : (s.swapLanes core).RingCounts :=
  State.swapDue_ringCounts (s := s.setCore core _) h core
@[simp] theorem State.swapSpan_ringCounts {s : State} (h : s.RingCounts) (span : Nat) : (s.swapSpan span).RingCounts :=
  h.foldl (fun _ core hu => State.swapLanes_ringCounts hu core) _
@[simp] theorem State.markFence_ringCounts {s : State} (h : s.RingCounts) (core : Nat) : (s.markFence core).RingCounts := by simp [State.markFence, h]
@[simp] theorem State.clearFence_ringCounts (s : State) (span core : Nat) :
    (s.clearFence span core).RingCounts ↔ s.RingCounts := by simp [State.clearFence, apply_ite State.RingCounts]

/-! ### Contexts and spans -/

@[simp] theorem State.claimOne_ringCounts (s : State) (slot c : Nat) : (s.claimOne slot c).1.RingCounts ↔ s.RingCounts := by
  unfold State.claimOne; dsimp only; (repeat' split) <;> simp
@[simp] theorem serveClaims_ringCounts (s : State) (stuck : List Nat) (l : List (Nat × Nat)) :
    (serveClaims s stuck l).1.RingCounts ↔ s.RingCounts := by
  induction l generalizing s stuck with
  | nil => exact Iff.rfl
  | cons q l ih =>
    have hone := s.claimOne_ringCounts q.1 q.2
    unfold serveClaims
    split
    · exact ih ..
    · split <;> rename_i hq <;> rw [hq] at hone <;> exact (ih ..).trans hone
@[simp] theorem State.serveHist_ringCounts (s : State) : s.serveHist.RingCounts ↔ s.RingCounts := by simp [State.serveHist]
@[simp] theorem State.histClaim_ringCounts (s : State) (slot c : Nat) : (s.histClaim slot c).RingCounts ↔ s.RingCounts := by simp [State.histClaim]
@[simp] theorem State.histRelease_ringCounts (s : State) (slot : Nat) : (s.histRelease slot).RingCounts ↔ s.RingCounts := by simp [State.histRelease]
@[simp] theorem State.histClear_ringCounts (s : State) (slot : Nat) : (s.histClear slot).RingCounts ↔ s.RingCounts := by simp [State.histClear]
@[simp] theorem State.histAdvice_ringCounts (s : State) (slot : Nat) (e : BitVec 8) (valid : Bool) :
    (s.histAdvice slot e valid).RingCounts ↔ s.RingCounts := by simp [State.histAdvice]
@[simp] theorem State.zeroCrews_ringCounts (s : State) (l : List Nat) : (s.zeroCrews l).RingCounts ↔ s.RingCounts := by simp [State.zeroCrews]
@[simp] theorem State.zeroCores_ringCounts (s : State) (span : Nat) : (s.zeroCores span).RingCounts ↔ s.RingCounts := by simp [State.zeroCores]
@[simp] theorem State.zeroSpan_ringCounts (s : State) (span : Nat) : (s.zeroSpan span).RingCounts ↔ s.RingCounts := by simp [State.zeroSpan]
@[simp] theorem State.joinSpan_ringCounts (s : State) (c : Fin 4) (span : Nat) :
    (s.joinSpan c span).RingCounts ↔ s.RingCounts := by simp [State.joinSpan]
@[simp] theorem State.freeSpan_ringCounts (s : State) (span : Nat) : (s.freeSpan span).RingCounts ↔ s.RingCounts := by simp [State.freeSpan]
@[simp] theorem State.writeCaps_ringCounts (s : State) :
    s.writeCaps.RingCounts ↔ s.RingCounts := by simp [State.writeCaps, apply_ite State.RingCounts]
@[simp] theorem State.refuseCtl_ringCounts (s : State) (c : Fin 4) : (s.refuseCtl c).RingCounts ↔ s.RingCounts := by simp [State.refuseCtl]
@[simp] theorem State.create_ringCounts (s : State) (c : Fin 4) : (s.create c).RingCounts ↔ s.RingCounts := by
  unfold State.create; dsimp only; split <;> simp
@[simp] theorem State.createComplete_ringCounts (s : State) (c : Fin 4) : (s.createComplete c).RingCounts ↔ s.RingCounts := by
  unfold State.createComplete; dsimp only; split <;> simp
@[simp] theorem State.foldl_swapDue_ringCounts {s : State} (h : s.RingCounts) (l : List Nat) : (l.foldl State.swapDue s).RingCounts :=
  h.foldl (fun _ core hu => State.swapDue_ringCounts hu core) l
@[simp] theorem State.dropHeld_ringCounts {s : State} (h : s.RingCounts) (c : Fin 4) : (s.dropHeld c).RingCounts := by
  simp [State.dropHeld, h]
@[simp] theorem State.teardown_ringCounts {s : State} (h : s.RingCounts) (c : Fin 4) : (s.teardown c).RingCounts := by
  unfold State.teardown; dsimp only; split <;> simp [h]
@[simp] theorem State.teardownComplete_ringCounts (s : State) (c : Fin 4) : (s.teardownComplete c).RingCounts ↔ s.RingCounts := by
  unfold State.teardownComplete; dsimp only; split <;> simp
@[simp] theorem State.contextReset_ringCounts {s : State} (h : s.RingCounts) (c : Fin 4) : (s.contextReset c).RingCounts := by
  unfold State.contextReset; dsimp only; (repeat' split) <;> simp [h]
@[simp] theorem State.resetComplete_ringCounts (s : State) (c : Fin 4) : (s.resetComplete c).RingCounts ↔ s.RingCounts := by
  unfold State.resetComplete; dsimp only; split <;> simp
@[simp] theorem State.applySpans_ringCounts (s : State) (c : Fin 4) : (s.applySpans c).RingCounts ↔ s.RingCounts := by simp [State.applySpans]
@[simp] theorem State.releaseSpan_ringCounts (s : State) (span : Nat) : (s.releaseSpan span).RingCounts ↔ s.RingCounts := by
  unfold State.releaseSpan; dsimp only; (repeat' split) <;> simp
@[simp] theorem State.spanMaskWrite_ringCounts (s : State) (c : Fin 4) (mask : BitVec 16) : (s.spanMaskWrite c mask).RingCounts ↔ s.RingCounts := by
  unfold State.spanMaskWrite; dsimp only; (repeat' split) <;> simp
@[simp] theorem State.ctlCommand_ringCounts {s : State} (h : s.RingCounts) (c : Fin 4) (cmd : Nat) : (s.ctlCommand c cmd).RingCounts := by
  unfold State.ctlCommand; split <;> simp [h]
@[simp] theorem State.refusePriv_ringCounts (s : State) : s.refusePriv.RingCounts ↔ s.RingCounts := by simp [State.refusePriv]
@[simp] theorem State.windowWrite_ringCounts (s : State) (c : Fin 4) (w : Nat) (limit : Bool) (v : BitVec 64) :
    (s.windowWrite c w limit v).RingCounts ↔ s.RingCounts := by simp [State.windowWrite, apply_ite State.RingCounts]

/-! ### Command lists, the split, routines -/

@[simp] theorem State.doorbell_ringCounts (s : State) (c : Fin 4) (n : BitVec 24) :
    (s.doorbell c n).RingCounts ↔ s.RingCounts := by simp [State.doorbell, apply_ite State.RingCounts]
@[simp] theorem State.works_ringCounts (s : State) (span macro_ which attempt : Nat) :
    (s.works span macro_ which attempt).RingCounts ↔ s.RingCounts := by simp [State.works]
@[simp] theorem State.perf_ringCounts (s : State) (span event n : Nat) : (s.perf span event n).RingCounts ↔ s.RingCounts := by simp [State.perf]
@[simp] theorem State.listFetch_ringCounts (s : State) (c : Fin 4) : (s.listFetch c).RingCounts ↔ s.RingCounts := by
  unfold State.listFetch; dsimp only; (repeat' split) <;> simp
@[simp] theorem State.fetchFails_ringCounts {s : State} (h : s.RingCounts) (c : Fin 4) : (s.fetchFails c).RingCounts := by
  unfold State.fetchFails; dsimp only; (repeat' split) <;> simp [h]
@[simp] theorem State.coxSend_ringCounts (s : State) (r : CoxRead) : (s.coxSend r).RingCounts ↔ s.RingCounts := by simp [State.coxSend]
@[simp] theorem State.coxFetch_ringCounts (s : State) (addr len : Nat) : (s.coxFetch addr len).1.RingCounts ↔ s.RingCounts := by
  unfold State.coxFetch; dsimp only; (repeat' split) <;> simp
@[simp] theorem State.coxTakes_ringCounts (s : State) (gen : Nat) (rd : PierRead) (good : Bool) :
    (s.coxTakes gen rd good).RingCounts ↔ s.RingCounts := by
  unfold State.coxTakes; dsimp only; (repeat' split) <;> simp
@[simp] theorem State.libraryRead_ringCounts {s : State} (h : s.RingCounts) (c : Fin 4) (f : Frame) (depth offset : Nat) (errors : Fin 4) :
    (s.libraryRead c f depth offset errors).1.RingCounts := by
  unfold State.libraryRead; split <;> simp [h]
@[simp] theorem State.readRoutine_ringCounts {s : State} (h : s.RingCounts) (c : Fin 4) (errors : Fin 4) : (s.readRoutine c errors).1.RingCounts := by
  unfold State.readRoutine; split <;> simp [h]
@[simp] theorem State.splitBundle_ringCounts {s : State} (h : s.RingCounts) (c : Fin 4) (errors : Fin 4) : (s.splitBundle c errors).RingCounts := by
  have hread := State.readRoutine_ringCounts h c errors
  unfold State.splitBundle; dsimp only
  split
  · exact h
  · split
    · exact h
    · split <;> rename_i hr <;> rw [hr] at hread
      · exact hread
      · split <;> exact hread
@[simp] theorem State.callFetch_ringCounts {s : State} (h : s.RingCounts) (c : Fin 4) (x : Ctx) (e : Entry) (errors : Fin 4) :
    (s.callFetch c x e errors).RingCounts := by
  unfold State.callFetch; split <;> simp [h]
@[simp] theorem State.callStep_ringCounts {s : State} (h : s.RingCounts) (c : Fin 4) (errors : Fin 4) : (s.callStep c errors).RingCounts := by
  unfold State.callStep; dsimp only; (repeat' split) <;> simp [h]
@[simp] theorem State.routineReturn_ringCounts (s : State) (c : Fin 4) : (s.routineReturn c).RingCounts ↔ s.RingCounts := by
  unfold State.routineReturn; dsimp only; (repeat' split) <;> simp

/-! ### Pacing and power -/

@[simp] theorem State.setPhase_ringCounts (s : State) (c : Fin 4) (p : Nat) : (s.setPhase c p).RingCounts ↔ s.RingCounts := by simp [State.setPhase]
@[simp] theorem State.deliver_ringCounts (s : State) (span : Nat) : (s.deliver span).RingCounts ↔ s.RingCounts := by
  unfold State.deliver; dsimp only; split <;> simp
@[simp] theorem State.floorEntry_ringCounts (s : State) (span : Nat) : (s.floorEntry span).RingCounts ↔ s.RingCounts := by
  unfold State.floorEntry; dsimp only; split <;> simp
@[simp] theorem State.movePoint_ringCounts (s : State) (span : Nat) : (s.movePoint span).RingCounts ↔ s.RingCounts := by simp [State.movePoint]
@[simp] theorem State.loads_ringCounts (s : State) (span upTo : Nat) : (s.loads span upTo).RingCounts ↔ s.RingCounts := by simp [State.loads]
@[simp] theorem State.grantSpan_ringCounts (s : State) (span : Nat) : (s.grantSpan span).RingCounts ↔ s.RingCounts := by simp [State.grantSpan]
@[simp] theorem State.serveSurge_ringCounts (s : State) : s.serveSurge.RingCounts ↔ s.RingCounts := by
  unfold State.serveSurge; dsimp only; (repeat' split) <;> simp
@[simp] theorem State.surgeRequest_ringCounts (s : State) (span : Nat) :
    (s.surgeRequest span).RingCounts ↔ s.RingCounts := by simp [State.surgeRequest, apply_ite State.RingCounts]
@[simp] theorem State.thermalSample_ringCounts {s : State} (h : s.RingCounts) (span sensor : Nat) (r : Int) :
    (s.thermalSample span sensor r).RingCounts := by
  unfold State.thermalSample; dsimp only; (repeat' split) <;> simp [h]
@[simp] theorem State.powerCap_ringCounts (s : State) (span mw : Nat) : (s.powerCap span mw).RingCounts ↔ s.RingCounts := by
  unfold State.powerCap; dsimp only; split <;> simp
@[simp] theorem State.blockPeak_ringCounts (s : State) (mw : Nat) :
    (s.blockPeak mw).RingCounts ↔ s.RingCounts := by simp [State.blockPeak, apply_ite State.RingCounts]
@[simp] theorem State.railFault_ringCounts {s : State} (h : s.RingCounts) (span : Nat) : (s.railFault span).RingCounts := by simp [State.railFault, h]
@[simp] theorem State.railInput_ringCounts {s : State} (h : s.RingCounts) (span mv ns : Nat) :
    (s.railInput span mv ns).RingCounts := by simp [State.railInput, h, apply_ite State.RingCounts]
@[simp] theorem State.underVoltage_ringCounts {s : State} (h : s.RingCounts) (span mv ns : Nat) :
    (s.underVoltage span mv ns).RingCounts := by simp [State.underVoltage, h, apply_ite State.RingCounts]
@[simp] theorem State.underVoltageClear_ringCounts (s : State) (span mv : Nat) :
    (s.underVoltageClear span mv).RingCounts ↔ s.RingCounts := by simp [State.underVoltageClear, apply_ite State.RingCounts]
@[simp] theorem State.overVoltage_ringCounts {s : State} (h : s.RingCounts) (span mv ns : Nat) :
    (s.overVoltage span mv ns).RingCounts := by simp [State.overVoltage, h, apply_ite State.RingCounts]
@[simp] theorem State.overCurrent_ringCounts (s : State) (span da : Nat) :
    (s.overCurrent span da).RingCounts ↔ s.RingCounts := by simp [State.overCurrent]
@[simp] theorem State.refclkLost_ringCounts {s : State} (h : s.RingCounts) (ns : Nat) :
    (s.refclkLost ns).RingCounts := by simp [State.refclkLost, h, apply_ite State.RingCounts]
@[simp] theorem State.paceWrite_ringCounts (s : State) (c : Fin 4) (req : BitVec 3) (deadline : BitVec 24) :
    (s.paceWrite c req deadline).RingCounts ↔ s.RingCounts := by simp [State.paceWrite, apply_ite State.RingCounts]

/-! ### Time and strokes -/

@[simp] theorem State.timeSample_ringCounts (s : State) (sample : BitVec 64) (parityOk : Bool) :
    (s.timeSample sample parityOk).RingCounts ↔ s.RingCounts := by simp [State.timeSample, apply_ite State.RingCounts]
@[simp] theorem State.timebaseLost_ringCounts (s : State) :
    s.timebaseLost.RingCounts ↔ s.RingCounts := by simp [State.timebaseLost, apply_ite State.RingCounts]
@[simp] theorem State.spanBoundary_ringCounts (s : State) (n : Nat) : (s.spanBoundary n).RingCounts ↔ s.RingCounts := by simp [State.spanBoundary]
@[simp] theorem State.journalProfiles_ringCounts (s : State) :
    s.journalProfiles.RingCounts ↔ s.RingCounts := by simp [State.journalProfiles, apply_ite State.RingCounts]
@[simp] theorem State.sendTelemetry_ringCounts (s : State) (t : TelemSnap) :
    (s.sendTelemetry t).RingCounts ↔ s.RingCounts := by simp [State.sendTelemetry]
@[simp] theorem State.snapTelemetry_ringCounts (s : State) (tEnd : BitVec 64) :
    (s.snapTelemetry tEnd).RingCounts ↔ s.RingCounts := by simp [State.snapTelemetry]
@[simp] theorem State.planEnvelopes_ringCounts (s : State) :
    s.planEnvelopes.RingCounts ↔ s.RingCounts := by simp [State.planEnvelopes, apply_ite State.RingCounts]
@[simp] theorem State.blockBoundary_ringCounts {s : State} (h : s.RingCounts) (number : BitVec 48) (start : BitVec 64) :
    (s.blockBoundary number start).RingCounts := by
  refine (State.coxStep_ringCounts _).2 (.foldl ?_ (fun _ span hu => State.swapSpan_ringCounts hu span) _)
  simp [h, apply_ite State.RingCounts]
@[simp] theorem State.ctxBoundary_ringCounts {s : State} (h : s.RingCounts) (c : Fin 4) (number : BitVec 48) :
    (s.ctxBoundary c number).RingCounts := by
  refine .foldl ?_ (fun _ span hu => State.swapSpan_ringCounts hu span) _
  simp [h, apply_ite State.RingCounts]
@[simp] theorem State.renumber_ringCounts (s : State) (number : BitVec 48) (start : BitVec 64) :
    (s.renumber number start).RingCounts ↔ s.RingCounts := by simp [State.renumber]
@[simp] theorem State.announce_ringCounts {s : State} (h : s.RingCounts) (c : Fin 4) (number : BitVec 48) :
    (s.announce c number).RingCounts := by simp [State.announce, h, apply_ite State.RingCounts]
@[simp] theorem State.writeTelemetry_ringCounts (s : State) : s.writeTelemetry.RingCounts ↔ s.RingCounts := by
  unfold State.writeTelemetry; dsimp only; (repeat' split) <;> simp

/-! ### Issue and sync flags -/

@[simp] theorem State.sendShort_ringCounts (s : State) (c : Fin 4) (e : Entry) (gap : Nat) :
    (s.sendShort c e gap).RingCounts ↔ s.RingCounts := by simp [State.sendShort]
@[simp] theorem State.issueHead_ringCounts (s : State) (c : Fin 4) (execute : Bool) (e : Entry) :
    (s.issueHead c execute e).RingCounts ↔ s.RingCounts := by simp [State.issueHead, apply_ite State.RingCounts]
@[simp] theorem State.issue_ringCounts (s : State) (c : Fin 4) (execute : Bool) : (s.issue c execute).RingCounts ↔ s.RingCounts := by
  unfold State.issue; dsimp only; (repeat' split) <;> simp
@[simp] theorem State.refetch_ringCounts {s : State} (h : s.RingCounts) (c : Fin 4) (execute : Bool) : (s.refetch c execute).RingCounts := by
  unfold State.refetch; dsimp only; split <;> simp [h]
@[simp] theorem State.readEntry_ringCounts {s : State} (h : s.RingCounts) (c : Fin 4) (execute : Bool) (errors : Fin 3) :
    (s.readEntry c execute errors).RingCounts := by
  unfold State.readEntry; split <;> simp [h]
@[simp] theorem State.releaseTimed_ringCounts (s : State) (c : Fin 4) (execute : Bool) : (s.releaseTimed c execute).RingCounts ↔ s.RingCounts := by
  unfold State.releaseTimed; dsimp only; (repeat' split) <;> simp
@[simp] theorem State.scalar_ringCounts (s : State) (c : Fin 4) (d : Due) (f : Ctx → Ctx) :
    (s.scalar c d f).RingCounts ↔ s.RingCounts := by simp [State.scalar, apply_ite State.RingCounts]
@[simp] theorem State.syncSet_ringCounts (s : State) (c : Fin 4) (access execute : Bool) (flag : Nat) (epoch : BitVec 16) :
    (s.syncSet c access execute flag epoch).RingCounts ↔ s.RingCounts := by simp [State.syncSet, apply_ite State.RingCounts]
@[simp] theorem State.setFlagWrite_ringCounts (s : State) (c : Fin 4) : (s.setFlagWrite c).RingCounts ↔ s.RingCounts := by
  unfold State.setFlagWrite; dsimp only; (repeat' split) <;> simp
@[simp] theorem State.syncWait_ringCounts (s : State) (c : Fin 4) (execute : Bool) : (s.syncWait c execute).RingCounts ↔ s.RingCounts := by
  unfold State.syncWait; dsimp only; (repeat' split) <;> simp
@[simp] theorem State.waitSatisfied_ringCounts (s : State) (c : Fin 4) (execute : Bool) : (s.waitSatisfied c execute).RingCounts ↔ s.RingCounts := by
  unfold State.waitSatisfied; dsimp only; (repeat' split) <;> simp
@[simp] theorem State.syncFence_ringCounts (s : State) (c : Fin 4) (execute : Bool) : (s.syncFence c execute).RingCounts ↔ s.RingCounts := by
  unfold State.syncFence; dsimp only; (repeat' split) <;> simp
@[simp] theorem State.fenceRelease_ringCounts (s : State) (c : Fin 4) (execute : Bool) : (s.fenceRelease c execute).RingCounts ↔ s.RingCounts := by
  unfold State.fenceRelease; dsimp only; (repeat' split) <;> simp
@[simp] theorem State.flagHostWrite_ringCounts (s : State) (c : Fin 4) (flag : Nat) (epoch : BitVec 16) :
    (s.flagHostWrite c flag epoch).RingCounts ↔ s.RingCounts := by simp [State.flagHostWrite, apply_ite State.RingCounts]
@[simp] theorem State.waitTimeout_ringCounts (s : State) (c : Fin 4) (execute : Bool) : (s.waitTimeout c execute).RingCounts ↔ s.RingCounts := by
  unfold State.waitTimeout; dsimp only; (repeat' split) <;> simp
@[simp] theorem State.crossWait_ringCounts (s : State) (c : Fin 4) : (s.crossWait c).RingCounts ↔ s.RingCounts := by
  unfold State.crossWait; dsimp only; (repeat' split) <;> simp

/-! ### The journal of the cox -/

@[simp] theorem State.journalRaw_ringCounts (s : State) (off : Nat) (bytes : List Byte) :
    (s.journalRaw off bytes).RingCounts ↔ s.RingCounts := by simp [State.journalRaw, apply_ite State.RingCounts]
@[simp] theorem State.journalStep_ringCounts (s : State) (f : Journal → Journal) :
    (s.journalStep f).RingCounts ↔ s.RingCounts := by simp [State.journalStep, apply_ite State.RingCounts]

/-! ### The start -/

@[simp] theorem State.startRecord_ringCounts (s : State) (type : Nat) (payload : List Byte) :
    (s.startRecord type payload).RingCounts ↔ s.RingCounts := by simp [State.startRecord, apply_ite State.RingCounts]
@[simp] theorem State.ledger_ringCounts (s : State) (e : BitVec 128) : (s.ledger e).RingCounts ↔ s.RingCounts := by simp [State.ledger]
@[simp] theorem State.release_ringCounts (s : State) : s.release.RingCounts ↔ s.RingCounts := by simp [State.release, apply_ite State.RingCounts]
@[simp] theorem State.beginStep_ringCounts (s : State) (n : Nat) : (s.beginStep n).RingCounts ↔ s.RingCounts := by simp [State.beginStep]
@[simp] theorem State.endStep_ringCounts (s : State) (n outcome fenced : Nat) :
    (s.endStep n outcome fenced).RingCounts ↔ s.RingCounts := by simp [State.endStep]
@[simp] theorem State.failStep_ringCounts (s : State) (n fenced : Nat) :
    (s.failStep n fenced).RingCounts ↔ s.RingCounts := by simp [State.failStep, apply_ite State.RingCounts]
@[simp] theorem State.scan_ringCounts (s : State) : s.scan.RingCounts ↔ s.RingCounts := by
  unfold State.scan; dsimp only; split <;> simp
@[simp] theorem State.takeImage_ringCounts (s : State) (img : Option (List Byte)) : (s.takeImage img).RingCounts ↔ s.RingCounts := by
  unfold State.takeImage; dsimp only; split <;> simp
@[simp] theorem State.loadPatches_ringCounts (s : State) (l : List (Nat × Nat)) : (s.loadPatches l).1.RingCounts ↔ s.RingCounts := by
  induction l generalizing s with
  | nil => exact Iff.rfl
  | cons p l ih =>
    have hfetch := s.coxFetch_ringCounts p.1 p.2
    unfold State.loadPatches
    split <;> rename_i h <;> rw [h] at hfetch
    · exact hfetch
    · exact (ih _).trans ((State.takeImage_ringCounts ..).trans hfetch)
    · exact (ih _).trans ((State.takeImage_ringCounts ..).trans hfetch)
@[simp] theorem State.fenceSpan_ringCounts (s : State) (p : Nat) : (s.fenceSpan p).RingCounts ↔ s.RingCounts := by simp [State.fenceSpan]
@[simp] theorem State.fenceSpans_ringCounts (s : State) (mask : BitVec 16) : (s.fenceSpans mask).RingCounts ↔ s.RingCounts := by
  refine State.foldl_ringCounts (fun u p => ?_) _ s
  dsimp only
  split <;> split <;> simp
@[simp] theorem State.choosePier_ringCounts (s : State) : s.choosePier.RingCounts ↔ s.RingCounts := by simp [State.choosePier]
@[simp] theorem State.keepFences_ringCounts (s : State) (mask : BitVec 16) :
    (s.keepFences mask).RingCounts ↔ s.RingCounts := by simp [State.keepFences, apply_ite State.RingCounts]
@[simp] theorem State.applyMap_ringCounts (s : State) : s.applyMap.RingCounts ↔ s.RingCounts := by simp [State.applyMap, apply_ite State.RingCounts]
@[simp] theorem State.emptyMap_ringCounts (s : State) : s.emptyMap.RingCounts ↔ s.RingCounts := by simp [State.emptyMap]
@[simp] theorem State.loadTables_ringCounts (s : State) : s.loadTables.RingCounts ↔ s.RingCounts := by
  unfold State.loadTables; dsimp only; split <;> simp
@[simp] theorem State.setRollback_ringCounts (s : State) (n : Nat) (restorable : Bool) :
    (s.setRollback n restorable).RingCounts ↔ s.RingCounts := by simp [State.setRollback]
@[simp] theorem State.formatJournal_ringCounts (s : State) :
    s.formatJournal.RingCounts ↔ s.RingCounts := by simp [State.formatJournal, apply_ite State.RingCounts]
@[simp] theorem State.testCores_ringCounts {s : State} (h : s.RingCounts) (faulty : List Nat) : (s.testCores faulty).1.RingCounts := by
  unfold State.testCores; dsimp only
  split
  · exact h
  · exact h.foldl (fun _ core hu => State.markFence_ringCounts hu core) _
@[simp] theorem State.testLanes_ringCounts {s : State} (h : s.RingCounts) (faulty : List Nat) : (s.testLanes faulty).1.RingCounts := by
  have hcores := fun l => State.testCores_ringCounts h l
  unfold State.testLanes; dsimp only
  split
  · next e =>
    have ht := hcores (faulty ++ ((badLanes faulty).map Prod.fst).eraseDups.filter
      fun k => (s.coreOf k).swapped.length + (s.newLanes faulty k).length > 2)
    rw [e] at ht
    exact State.RingCounts.foldl ht (fun u k hu => State.swapDue_ringCounts (s := u.setCore k _) hu k) _
  · exact hcores _
@[simp] theorem State.markPort_ringCounts {s : State} (h : s.RingCounts) (port : Nat) : (s.markPort port).RingCounts := by simp [State.markPort, h]
@[simp] theorem State.act_ringCounts {s : State} (h : s.RingCounts) (n : Nat) (failing : Bool) (badSpans : BitVec 16) (faulty : List Nat) :
    (s.act n failing badSpans faulty).1.RingCounts := by
  unfold State.act; dsimp only
  split
  · split <;> simp [h]
  · split
    case h_1 | h_2 | h_3 =>
      split
      · exact h
      · split <;> simp [h, apply_ite State.RingCounts]
    case h_4 => split <;> simp [h, apply_ite Prod.fst, apply_ite State.RingCounts]
    case h_10 =>
      split
      · exact h
      · split
        · next l _ =>
          have hload := s.loadPatches_ringCounts (l.drop s.start.patchAt)
          split <;> rename_i e <;> rw [e] at hload <;> exact hload.2 h
        · split <;> simp [h]
    case h_12 =>
      split
      · exact h
      · simp only [apply_ite Prod.fst, ite_self]
        exact h.foldl (fun _ port hu => State.markPort_ringCounts hu port) _
    all_goals simp [h, apply_ite Prod.fst, apply_ite State.RingCounts]
@[simp] theorem State.runSteps_ringCounts {s : State} (h : s.RingCounts) (upTo : Nat) (failing : BitVec 14) (badSpans : BitVec 16)
    (faulty : List Nat) (fuel : Nat) : (s.runSteps upTo failing badSpans faulty fuel).RingCounts := by
  induction fuel generalizing s with
  | zero => exact h
  | succ fuel ih =>
    have hbegin : (if s.start.running then s else s.beginStep s.start.step.toNat).RingCounts := by split <;> simp [h]
    unfold State.runSteps; dsimp only
    generalize (if s.start.running then s else s.beginStep s.start.step.toNat) = u at hbegin
    split
    · exact h
    · split
      · exact hbegin
      · split
        · exact (State.failStep_ringCounts ..).2 hbegin
        · have hact := State.act_ringCounts hbegin s.start.step.toNat (bit failing s.start.step.toNat) badSpans faulty
          split <;> rename_i e <;> rw [e] at hact
          · exact hact
          · exact (State.failStep_ringCounts ..).2 hact
          · have hend := fun fenced => (State.endStep_ringCounts _ s.start.step.toNat 0 fenced).2 hact
            split
            · exact hend _
            · exact ih (hend _)
@[simp] theorem State.startAttempt_ringCounts {s : State} (h : s.RingCounts) (upTo : Nat) (failing : BitVec 14) (badSpans : BitVec 16)
    (faulty : List Nat) : (s.startAttempt upTo failing badSpans faulty).RingCounts := by
  unfold State.startAttempt; dsimp only; (repeat' split) <;> simp [h]
@[simp] theorem State.stepTimeout_ringCounts (s : State) :
    s.stepTimeout.RingCounts ↔ s.RingCounts := by simp [State.stepTimeout, apply_ite State.RingCounts]
@[simp] theorem State.retry_ringCounts (s : State) : s.retry.RingCounts ↔ s.RingCounts := by simp [State.retry, apply_ite State.RingCounts]
@[simp] theorem State.warmReset_ringCounts (s : State) :
    s.warmReset.RingCounts ↔ s.RingCounts := by simp [State.warmReset, apply_ite State.RingCounts]
@[simp] theorem State.startStep_ringCounts (s : State) :
    s.startStep.RingCounts ↔ s.RingCounts := by simp [State.startStep, apply_ite State.RingCounts]

/-! ### Messages of management -/

@[simp] theorem State.answer_ringCounts (s : State) (v : Message) (status : Nat) :
    (s.answer v status).RingCounts ↔ s.RingCounts := by simp [State.answer]
section
variable {m : Handler} (hact : ∀ (v : Message) (b : List Byte) (u : State), u.RingCounts → (m.act v b u).RingCounts)
include hact

theorem State.judge_ringCounts {s : State} (h : s.RingCounts) (v : Message) (got : CoxGot) : (s.judge m v got).RingCounts := by
  unfold State.judge
  split
  · exact h
  · simp [h]
  · split
    · simp [h]
    · split
      · exact h
      · exact (State.answer_ringCounts ..).2 (hact _ _ _ h)

theorem State.handle_ringCounts {s : State} (h : s.RingCounts) : (s.handle m).RingCounts := by
  unfold State.handle
  split
  · exact h
  · split
    · exact h
    · split
      · simp [h]
      · split
        · exact h
        · split
          · simp [h]
          · split
            · exact State.judge_ringCounts hact h ..
            · exact State.judge_ringCounts hact ((State.coxFetch_ringCounts ..).2 h) ..

end
@[simp] theorem State.returnCtx_ringCounts {s : State} (h : s.RingCounts) (c : Fin 4) :
    (s.returnCtx c).RingCounts := by simp [State.returnCtx, h, apply_ite State.RingCounts]
@[simp] theorem State.warmHandle_ringCounts {s : State} (h : s.RingCounts) : s.warmHandle.RingCounts := by
  unfold State.warmHandle; dsimp only
  split
  · split
    · exact h
    · exact (State.answer_ringCounts ..).2 ((State.warmReset_ringCounts { s with mbox := _ }).2 h)
  · exact State.handle_ringCounts (m := warmHandler) (fun _ _ u hu => (State.warmReset_ringCounts u).2 hu) h

/-! ### Registers that wait for an idle context -/

@[simp] theorem State.bayWrite_ringCounts (s : State) (c : Fin 4) (n : Nat) (v : BitVec 30) :
    (s.bayWrite c n v).RingCounts ↔ s.RingCounts := by simp [State.bayWrite, apply_ite State.RingCounts]
@[simp] theorem State.cplWrite_ringCounts (s : State) (c : Fin 4) (mode : Bool) :
    (s.cplWrite c mode).RingCounts ↔ s.RingCounts := by simp [State.cplWrite, apply_ite State.RingCounts]
@[simp] theorem State.serveVia_ringCounts (s : State) (c : Fin 4) : (s.serveVia c).RingCounts ↔ s.RingCounts := by simp [State.serveVia]
@[simp] theorem State.viaWrite_ringCounts (s : State) (c : Fin 4) (ch k : Nat) (v : BitVec 64) :
    (s.viaWrite c ch k v).RingCounts ↔ s.RingCounts := by simp [State.viaWrite, apply_ite State.RingCounts]
@[simp] theorem State.serveIdle_ringCounts (s : State) (c : Fin 4) : (s.serveIdle c).RingCounts ↔ s.RingCounts := by simp [State.serveIdle]
@[simp] theorem State.bayApply_ringCounts (s : State) (c : Fin 4) :
    (s.bayApply c).RingCounts ↔ s.RingCounts := by simp [State.bayApply, apply_ite State.RingCounts]
@[simp] theorem State.doneBaseWrite_ringCounts (s : State) (c : Fin 4) (v : BitVec 64) :
    (s.doneBaseWrite c v).RingCounts ↔ s.RingCounts := by simp [State.doneBaseWrite, apply_ite State.RingCounts]
@[simp] theorem State.doneCtlWrite_ringCounts (s : State) (c : Fin 4) (v : BitVec 64) :
    (s.doneCtlWrite c v).RingCounts ↔ s.RingCounts := by simp [State.doneCtlWrite, apply_ite State.RingCounts]
@[simp] theorem State.traceBaseWrite_ringCounts (s : State) (c : Fin 4) (v : BitVec 64) :
    (s.traceBaseWrite c v).RingCounts ↔ s.RingCounts := by simp [State.traceBaseWrite, apply_ite State.RingCounts]
@[simp] theorem State.ringBaseWrite_ringCounts (s : State) (c : Fin 4) (which : Fin 3) (v : BitVec 64) :
    (s.ringBaseWrite c which v).RingCounts ↔ s.RingCounts := by
  unfold State.ringBaseWrite; (repeat' split) <;> simp
@[simp] theorem State.rngWrite_ringCounts (s : State) (c : Fin 4) (hi : Bool) (v : BitVec 64) :
    (s.rngWrite c hi v).RingCounts ↔ s.RingCounts := by simp [State.rngWrite, apply_ite State.RingCounts]
@[simp] theorem State.perfSelWrite_ringCounts (s : State) (span n : Nat) (event : BitVec 6) :
    (s.perfSelWrite span n event).RingCounts ↔ s.RingCounts := by simp [State.perfSelWrite]
@[simp] theorem State.perfClear_ringCounts (s : State) (span : Nat) : (s.perfClear span).RingCounts ↔ s.RingCounts := by simp [State.perfClear]
@[simp] theorem State.perfFreeze_ringCounts (s : State) (span : Nat) (on : Bool) :
    (s.perfFreeze span on).RingCounts ↔ s.RingCounts := by simp [State.perfFreeze]
@[simp] theorem State.discardFlag_ringCounts (s : State) (c : Fin 4) (cause : BitVec 2) :
    (s.discardFlag c cause).RingCounts ↔ s.RingCounts := by simp [State.discardFlag]
@[simp] theorem State.arrivalFlag_ringCounts (s : State) (c : Fin 4) (index : BitVec 12) (seq : BitVec 16) (parityOk : Bool) :
    (s.arrivalFlag c index seq parityOk).RingCounts ↔ s.RingCounts := by simp [State.arrivalFlag, apply_ite State.RingCounts]

/-! ### Operands -/

@[simp] theorem State.raiseFail_ringCounts (s : State) (c : Fin 4) (m : MacroRun) (f : Fail) :
    (s.raiseFail c m f).RingCounts ↔ s.RingCounts := by simp [State.raiseFail]
@[simp] theorem State.readBlock_ringCounts (s : State) (c : Fin 4) (execute : Bool) (i id : Nat) (m : MacroRun) (r : BlockRead) :
    (s.readBlock c execute i id m r).RingCounts ↔ s.RingCounts := by simp [State.readBlock]
@[simp] theorem State.storeRead_ringCounts {s : State} (h : s.RingCounts) (c : Fin 4) (m : MacroRun) (errors : Fin 3) (handle : Nat) :
    (s.storeRead c m errors handle).1.RingCounts := by
  unfold State.storeRead; dsimp only; (repeat' split) <;> simp [h]
@[simp] theorem State.snapshotNext_ringCounts {s : State} (h : s.RingCounts) (c : Fin 4) (execute : Bool) (errors : Fin 3) (handle : Nat) :
    (s.snapshotNext c execute errors handle).RingCounts := by
  unfold State.snapshotNext; dsimp only
  split
  · exact h
  · split
    · exact h
    · next i m _ _ =>
      split
      · simp [h]
      · have hread := State.storeRead_ringCounts h c
          (m.snapshot ((s.ctxOf c).descsAt s.time.beat) ((m.blockRead.map BlockRead.seen).getD s.mem)) errors handle
        split <;> rename_i e <;> rw [e] at hread
        · exact hread
        · (repeat' split) <;> simpa using hread

/-! ### The viaduct -/

@[simp] theorem State.sendRow_ringCounts (s : State) (c : Fin 4) (ch round row port : Nat) (edges : List Nat) (msgs : List (List Word)) (part : Nat) :
    (s.sendRow c ch round row port edges msgs part).1.RingCounts ↔ s.RingCounts :=
  List.foldlRecOn (motive := fun acc : State × List (BitVec 256) => acc.1.RingCounts ↔ s.RingCounts) _ _ Iff.rfl fun _ hacc _ _ =>
    (State.foldl_ringCounts (fun _ _ => State.sendFrame_ringCounts ..) _ _).trans hacc
@[simp] theorem State.noteRow_ringCounts (s : State) (c : Fin 4) (ch round row : Nat) (f : ViaRow → ViaRow) :
    (s.noteRow c ch round row f).RingCounts ↔ s.RingCounts := by simp [State.noteRow]
@[simp] theorem State.viaDeliver_ringCounts (s : State) (c : Fin 4) (ch round row : Nat) (msgs : List (List Word)) :
    (s.viaDeliver c ch round row msgs).RingCounts ↔ s.RingCounts := by simp [State.viaDeliver, apply_ite State.RingCounts]
@[simp] theorem State.viaUp_ringCounts (s : State) (c : Fin 4) (ch round row : Nat) (msgs : List (List Word)) (part : Nat) :
    (s.viaUp c ch round row msgs part).RingCounts ↔ s.RingCounts := by simp [State.viaUp]
@[simp] theorem State.viaAdvance_ringCounts (s : State) (c : Fin 4) (ch round row : Nat) :
    (s.viaAdvance c ch round row).RingCounts ↔ s.RingCounts := by
  unfold State.viaAdvance; dsimp only; (repeat' split) <;> simp
@[simp] theorem State.viaOwn_ringCounts (s : State) (c : Fin 4) (ch round row : Nat) (own : List (List Word)) :
    (s.viaOwn c ch round row own).RingCounts ↔ s.RingCounts := by simp [State.viaOwn, apply_ite State.RingCounts]
@[simp] theorem State.failPort_ringCounts {s : State} (h : s.RingCounts) (port : Nat) : (s.failPort port).RingCounts := by
  have hmark := State.markPort_ringCounts h port
  unfold State.failPort; dsimp only
  split
  · exact h
  · split
    · refine hmark.foldl (fun u c hu => ?_) _
      split <;> simp [hu]
    · exact hmark
@[simp] theorem State.countPort_ringCounts {s : State} (h : s.RingCounts) (port : Nat) (resend : Bool) :
    (s.countPort port resend).RingCounts := by simp [State.countPort, h, apply_ite State.RingCounts]
@[simp] theorem State.viaTake_ringCounts (s : State) (c : Fin 4) (ch : Nat) (f : FrameInfo) : (s.viaTake c ch f).RingCounts ↔ s.RingCounts := by
  unfold State.viaTake; dsimp only; (repeat' split) <;> simp
@[simp] theorem State.viaDiscard_ringCounts (s : State) (c : Fin 4) (ch why : Nat) :
    (s.viaDiscard c ch why).RingCounts ↔ s.RingCounts := by simp [State.viaDiscard]
theorem State.viaReceive_ringCounts {use : State → FrameInfo → State} (huse : ∀ u f, u.RingCounts → (use u f).RingCounts) {s : State}
    (h : s.RingCounts) (c : Fin 4) (ch port : Nat) (v : BitVec 256) : (s.viaReceive c ch port v use).RingCounts := by
  unfold State.viaReceive; dsimp only
  (repeat' split) <;> simp [huse, h]
@[simp] theorem State.openRound_ringCounts (s : State) (c : Fin 4) (ch round : Nat) :
    (s.openRound c ch round).RingCounts ↔ s.RingCounts := by simp [State.openRound]
@[simp] theorem State.closeRound_ringCounts (s : State) (c : Fin 4) (ch round : Nat) :
    (s.closeRound c ch round).RingCounts ↔ s.RingCounts := by simp [State.closeRound]
@[simp] theorem State.viaData_ringCounts {s : State} (h : s.RingCounts) (c : Fin 4) (ch port : Nat) (v : BitVec 256) (down : Bool) :
    (s.viaData c ch port v down).RingCounts := by
  unfold State.viaData; dsimp only
  split
  · exact h
  · exact State.viaReceive_ringCounts (fun _ _ hu => (State.viaTake_ringCounts ..).2 hu) h ..
@[simp] theorem State.pairEdge_ringCounts (s : State) (c : Fin 4) (ch round edge : Nat) :
    (s.pairEdge c ch round edge).RingCounts ↔ s.RingCounts := by simp [State.pairEdge]
@[simp] theorem State.viaResend_ringCounts {s : State} (h : s.RingCounts) (c : Fin 4) (ch port : Nat) (v : BitVec 256) :
    (s.viaResend c ch port v).RingCounts := by
  unfold State.viaResend
  split
  · exact h
  · exact State.viaReceive_ringCounts (fun u f hu => by dsimp only; (repeat' split) <;> simp [hu]) h ..
@[simp] theorem State.viaHold_ringCounts {s : State} (h : s.RingCounts) (c : Fin 4) (ch port : Nat) (v : BitVec 256) :
    (s.viaHold c ch port v).RingCounts := by
  unfold State.viaHold
  split
  · exact h
  · exact State.viaReceive_ringCounts (fun u f hu => by split <;> simp [hu]) h ..
@[simp] theorem State.dropForwards_ringCounts (s : State) (c : Fin 4) (ch round : Nat) :
    (s.dropForwards c ch round).RingCounts ↔ s.RingCounts := by simp [State.dropForwards]
@[simp] theorem State.viaAbort_ringCounts {s : State} (h : s.RingCounts) (c : Fin 4) (ch port : Nat) (v : BitVec 256) :
    (s.viaAbort c ch port v).RingCounts := by
  unfold State.viaAbort
  split
  · exact h
  · exact State.viaReceive_ringCounts (fun u f hu => by simp [hu]) h ..
@[simp] theorem State.countLate_ringCounts (s : State) (c : Fin 4) (ch : Nat) (resend : Bool) :
    (s.countLate c ch resend).RingCounts ↔ s.RingCounts := by simp [State.countLate]
@[simp] theorem State.passRung_ringCounts (s : State) (c : Fin 4) (ch round row edge start rung : Nat) :
    (s.passRung c ch round row edge start rung).RingCounts ↔ s.RingCounts := by simp [State.passRung]
@[simp] theorem State.askAgain_ringCounts {s : State} (h : s.RingCounts) (c : Fin 4) (ch round row edge : Nat) :
    (s.askAgain c ch round row edge).RingCounts := by simp [State.askAgain, h]
@[simp] theorem State.rung_ringCounts {s : State} (h : s.RingCounts) (c : Fin 4) (ch round row edge : Nat) (wait : Option (Nat × Nat))
    (budget rung : Nat) :
    (s.rung c ch round row edge wait budget rung).RingCounts := by
  unfold State.rung; dsimp only; (repeat' split) <;> simp [h]
@[simp] theorem State.upRung_ringCounts {s : State} (h : s.RingCounts) (c : Fin 4) (ch round row child rung : Nat) :
    (s.upRung c ch round row child rung).RingCounts := by simp [State.upRung, h]
@[simp] theorem State.downRungStep_ringCounts {s : State} (h : s.RingCounts) (c : Fin 4) (ch round row rung : Nat) :
    (s.downRungStep c ch round row rung).RingCounts := by simp [State.downRungStep, h]

/-! ### The plan -/

@[simp] theorem State.planned_ringCounts (s : State) (c : Fin 4) (execute : Bool) (i : Nat) (m : MacroRun) (d : Draft) (p : Plan) :
    (s.planned c execute i m d p).RingCounts ↔ s.RingCounts := by simp [State.planned, apply_ite State.RingCounts]
@[simp] theorem State.planNext_ringCounts (s : State) (c : Fin 4) (execute : Bool) : (s.planNext c execute).RingCounts ↔ s.RingCounts := by
  unfold State.planNext; dsimp only; (repeat' split) <;> simp

/-! ### Short operations, lines and rows -/

@[simp] theorem State.countShort_ringCounts (s : State) (crew i : Nat) : (s.countShort crew i).RingCounts ↔ s.RingCounts := by
  unfold State.countShort; dsimp only; (repeat' split) <;> simp
@[simp] theorem State.endShort_ringCounts (s : State) (c : Fin 4) (index beat : Nat) :
    (s.endShort c index beat).RingCounts ↔ s.RingCounts := by simp [State.endShort]
@[simp] theorem State.readBeat_ringCounts (s : State) (crew i b : Nat) : (s.readBeat crew i b).RingCounts ↔ s.RingCounts := by
  unfold State.readBeat; dsimp only; (repeat' split) <;> simp
@[simp] theorem State.readsDue_ringCounts (s : State) (crew upto : Nat) : (s.readsDue crew upto).RingCounts ↔ s.RingCounts := by
  refine State.foldl_ringCounts (fun u i => ?_) _ s
  split <;> simp
@[simp] theorem State.readsNow_ringCounts (s : State) (c : Fin 4) : (s.readsNow c).RingCounts ↔ s.RingCounts := by simp [State.readsNow]
@[simp] theorem State.landOne_ringCounts (s : State) (crew upto : Nat) : (s.landOne crew upto).RingCounts ↔ s.RingCounts := by
  unfold State.landOne; dsimp only; (repeat' split) <;> simp
@[simp] theorem State.settleLines_ringCounts (s : State) (c : Fin 4) (more : Nat) :
    (s.settleLines c more).RingCounts ↔ s.RingCounts := by simp [State.settleLines, apply_ite State.RingCounts]

/-! ### The descriptor snapshot -/

@[simp] theorem State.closeRow_ringCounts (s : State) (c : Fin 4) (row : Nat) : (s.closeRow c row).RingCounts ↔ s.RingCounts := by
  unfold State.closeRow; dsimp only; (repeat' split) <;> simp
@[simp] theorem State.upSend_ringCounts (s : State) (c : Fin 4) (ch row : Nat) : (s.upSend c ch row).RingCounts ↔ s.RingCounts := by
  unfold State.upSend; dsimp only; (repeat' split) <;> simp
@[simp] theorem State.sendStores_ringCounts (s : State) (c : Fin 4) (execute : Bool) (m : MacroRun) (p : Plan) (t : Nat) (r : TileRun)
    (l : List Store) :
    (s.sendStores c execute m p t r l).RingCounts ↔ s.RingCounts := by
  unfold State.sendStores; dsimp only; (repeat' split) <;> simp
@[simp] theorem State.sendWrites_ringCounts (s : State) (c : Fin 4) (execute : Bool) (p : Plan) (m m' : MacroRun) :
    (s.sendWrites c execute p m m').RingCounts ↔ s.RingCounts := by
  refine State.foldl_ringCounts (fun u e => ?_) _ s
  (repeat' split) <;> simp
@[simp] theorem State.runKind_ringCounts (s : State) (c : Fin 4) (execute : Bool) (is : MacroRun → Bool) (f : Ev → TileOut) :
    (s.runKind c execute is f).RingCounts ↔ s.RingCounts := by
  unfold State.runKind; dsimp only; (repeat' split) <;> simp
@[simp] theorem State.checkSt_ringCounts (s : State) (c : Fin 4) (m : MacroRun) (p : Plan) (t : Nat) :
    (s.checkSt c m p t).RingCounts ↔ s.RingCounts := by
  unfold State.checkSt; dsimp only; (repeat' split) <;> simp

/-! ### Deals, reads and steals -/

@[simp] theorem State.sendCmds_ringCounts (s : State) (c : Fin 4) (crew : Nat) : (s.sendCmds c crew).RingCounts ↔ s.RingCounts := by
  refine State.foldl_ringCounts (fun u _ => ?_) _ s
  dsimp only
  (repeat' split) <;> simp
@[simp] theorem State.openPark_ringCounts (s : State) (c : Fin 4) (m : MacroRun) (p : Plan) (d : Draft) (t crew : Nat) :
    (s.openPark c m p d t crew).RingCounts ↔ s.RingCounts := by simp [State.openPark, apply_ite State.RingCounts]
@[simp] theorem State.openBanks_ringCounts (s : State) (c : Fin 4) (m : MacroRun) (p : Plan) (t crew : Nat) :
    (s.openBanks c m p t crew).RingCounts ↔ s.RingCounts := by simp [State.openBanks]
@[simp] theorem State.place_ringCounts (s : State) (c : Fin 4) (execute : Bool) (i : Nat) (m : MacroRun) (p : Plan) (d : Draft) (t core :
    Nat) (rings : List (Nat × RingTile)) :
    (s.place c execute i m p d t core rings).RingCounts ↔ s.RingCounts := by simp [State.place, apply_ite State.RingCounts]
theorem State.dealTile_ringCounts (s : State) (c : Fin 4) (execute : Bool) (i span : Nat) (m : MacroRun) (p : Plan) (t : Nat)
    (rings : List (Nat × RingTile)) (ring : Option Nat) : (s.dealTile c execute i span m p t rings ring).state.RingCounts ↔ s.RingCounts := by
  unfold State.dealTile; dsimp only
  (repeat' split) <;> simp [Dealt.state]
theorem State.dealOne_ringCounts (s : State) (span : Nat) : (s.dealOne span).state.RingCounts ↔ s.RingCounts := by
  unfold State.dealOne; dsimp only
  split
  · exact Iff.rfl
  · split
    · exact Iff.rfl
    · refine List.foldlRecOn (motive := fun d : Dealt => d.state.RingCounts ↔ s.RingCounts) _ _ Iff.rfl fun acc hacc o _ => ?_
      split
      · exact hacc
      · split
        · exact hacc
        · split
          · exact hacc
          · exact hacc
          · exact (State.raise_ringCounts ..).trans hacc
          · exact (State.dealTile_ringCounts ..).trans hacc
@[simp] theorem State.dealBeat_ringCounts (s : State) (span : Nat) : (s.dealBeat span).RingCounts ↔ s.RingCounts := by
  have hfirst := s.dealOne_ringCounts span
  unfold State.dealBeat
  split <;> rename_i e <;> rw [e] at hfirst
  · exact hfirst
  · next u =>
    have hsecond := u.dealOne_ringCounts span
    split <;> rename_i e <;> rw [e] at hsecond
    · exact hsecond.trans hfirst
    · exact hsecond.trans hfirst
@[simp] theorem State.readInputs_ringCounts (s : State) (core : Nat) : (s.readInputs core).RingCounts ↔ s.RingCounts := by
  unfold State.readInputs; dsimp only; (repeat' split) <;> simp
@[simp] theorem State.leaveCore_ringCounts {s : State} (h : s.RingCounts) (core : Nat) (held : Nat × Bool × Nat × Nat) :
    (s.leaveCore core held).RingCounts := by
  simp [State.leaveCore, h]
@[simp] theorem State.handBack_ringCounts {s : State} (h : s.RingCounts) (c : Fin 4) (execute : Bool) (i : Nat) (m : MacroRun) (t : Nat)
    (counts : Bool) :
    (s.handBack c execute i m t counts).RingCounts := by simp [State.handBack, h, apply_ite State.RingCounts]
@[simp] theorem State.failTile_ringCounts {s : State} (h : s.RingCounts) (c : Fin 4) (execute : Bool) (i : Nat) (m : MacroRun) (p : Plan)
    (t lane unit syndrome address : Nat) :
    (s.failTile c execute i m p t lane unit syndrome address).RingCounts := by
  unfold State.failTile; dsimp only; (repeat' split) <;> simp [h]
@[simp] theorem State.blockFails_ringCounts {s : State} (h : s.RingCounts) (c : Fin 4) (execute : Bool) (i : Nat) (m : MacroRun)
    (span tag : Nat) (rd : PierRead) :
    (s.blockFails c execute i m span tag rd).RingCounts := by simp [State.blockFails, h, apply_ite State.RingCounts]
@[simp] theorem State.readFails_ringCounts {s : State} (h : s.RingCounts) (span tag : Nat) (rd : PierRead) :
    (s.readFails span tag rd).RingCounts := by
  unfold State.readFails; dsimp only; (repeat' split) <;> simp [h]
@[simp] theorem State.readResponse_ringCounts {s : State} (h : s.RingCounts) (span tag : Nat) (poison : Bool) :
    (s.readResponse span tag poison).RingCounts := by
  unfold State.readResponse; dsimp only; (repeat' split) <;> simp [h]
@[simp] theorem State.readTimeout_ringCounts {s : State} (h : s.RingCounts) (span tag : Nat) : (s.readTimeout span tag).RingCounts := by
  unfold State.readTimeout; (repeat' split) <;> simp [h]
@[simp] theorem State.steal_ringCounts (s : State) (core : Nat) : (s.steal core).RingCounts ↔ s.RingCounts := by
  unfold State.steal; dsimp only; (repeat' split) <;> simp

/-! ### Execution, carries and commits -/

@[simp] theorem State.failCorrection_ringCounts {s : State} (h : s.RingCounts) (c : Fin 4) (i : Nat) (m : MacroRun) (p : Plan)
    (low core lane unit syndrome address : Nat) :
    (s.failCorrection c i m p low core lane unit syndrome address).RingCounts := by simp [State.failCorrection, h, apply_ite State.RingCounts]
@[simp] theorem State.fenceCore_ringCounts {s : State} (h : s.RingCounts) (core : Nat) : (s.fenceCore core).RingCounts := by
  unfold State.fenceCore; dsimp only
  refine .foldl ?_ (fun u held hu => ?_) _
  · split <;> simp [h]
  · (repeat' split) <;> simp [hu]
@[simp] theorem State.attribute_ringCounts {s : State} (h : s.RingCounts) (core lane : Nat) :
    (s.attribute core lane).RingCounts := by simp [State.attribute, h, apply_ite State.RingCounts]
@[simp] theorem State.checkTile_ringCounts {failed : State → Nat → Nat → Nat → Nat → State}
    (hfailed : ∀ u lane unit syn at_, u.RingCounts → (failed u lane unit syn at_).RingCounts) {s : State} (h : s.RingCounts) (c : Fin 4)
    (m : MacroRun) (p : Plan) (t core check lane first : Nat) (bank queue : Bool) :
    (s.checkTile c m p t core check lane first bank queue failed).state.RingCounts := by
  have hdrawn (u : State) : (if check = 0 then (0#32, u) else u.takeFree).2.RingCounts ↔ u.RingCounts := by split <;> exact Iff.rfl
  have hfails (u : State) (hu : u.RingCounts) (lane unit syn at_ lane' : Nat) : ((failed u lane unit syn at_).attribute core lane').RingCounts :=
    State.attribute_ringCounts (hfailed _ _ _ _ _ hu) ..
  unfold State.checkTile; dsimp only
  split <;> simp [h, hfails, hdrawn, apply_ite State.RingCounts, apply_ite Checked.state]
@[simp] theorem State.carryIn_ringCounts (s : State) (c : Fin 4) (m : MacroRun) (p : Plan) (t : Nat) :
    (s.carryIn c m p t).2.RingCounts ↔ s.RingCounts := by
  unfold State.carryIn
  (repeat' split) <;> exact Iff.rfl
@[simp] theorem State.passCarry_ringCounts (s : State) (c : Fin 4) (i : Nat) (m : MacroRun) (p : Plan) (t : Nat) :
    (s.passCarry c i m p t).RingCounts ↔ s.RingCounts := by
  unfold State.passCarry; dsimp only; (repeat' split) <;> simp
@[simp] theorem State.linkParity_ringCounts {s : State} (h : s.RingCounts) (c : Fin 4) (m : MacroRun) (p : Plan) (t core n : Nat) :
    (s.linkParity c m p t core n).RingCounts := by simp [State.linkParity, h, apply_ite State.RingCounts]
@[simp] theorem State.carrySend_ringCounts {s : State} (h : s.RingCounts) (core : Nat) (errors : Fin 3) : (s.carrySend core errors).RingCounts := by
  unfold State.carrySend; dsimp only; (repeat' split) <;> simp [h]
@[simp] theorem State.haloArrives_ringCounts (s : State) (c : Fin 4) (execute : Bool) (i : Nat) (m : MacroRun) (n span : Nat) (reload : Bool) :
    (s.haloArrives c execute i m n span reload).RingCounts ↔ s.RingCounts := by simp [State.haloArrives, apply_ite State.RingCounts]
@[simp] theorem State.haloSend_ringCounts {s : State} (h : s.RingCounts) (core : Nat) (errors : Fin 3) : (s.haloSend core errors).RingCounts := by
  unfold State.haloSend; dsimp only; (repeat' split) <;> simp [h]
@[simp] theorem State.haloTimeout_ringCounts (s : State) (core : Nat) : (s.haloTimeout core).RingCounts ↔ s.RingCounts := by
  unfold State.haloTimeout; split <;> simp
@[simp] theorem State.freeBanks_ringCounts (s : State) (c : Fin 4) (m : MacroRun) (crew : Nat) (done : Nat → Bool) :
    (s.freeBanks c m crew done).RingCounts ↔ s.RingCounts := by simp [State.freeBanks]
@[simp] theorem State.turnGate_ringCounts (s : State) (c : Fin 4) (m : MacroRun) (p : Plan) (crew key : Nat) :
    (s.turnGate c m p crew key).RingCounts ↔ s.RingCounts := by simp [State.turnGate, apply_ite State.RingCounts]
@[simp] theorem State.releaseBanks_ringCounts (s : State) (c : Fin 4) (m : MacroRun) (p : Plan) (t : Nat) :
    (s.releaseBanks c m p t).RingCounts ↔ s.RingCounts := by
  unfold State.releaseBanks; dsimp only; (repeat' split) <;> simp
@[simp] theorem State.parkTile_ringCounts {s : State} (h : s.RingCounts) (c : Fin 4) (execute : Bool) (i : Nat) (m : MacroRun) (p : Plan)
    (t core : Nat) :
    (s.parkTile c execute i m p t core).RingCounts := by simp [State.parkTile, h, apply_ite State.RingCounts]
@[simp] theorem State.sortTile_ringCounts {s : State} (h : s.RingCounts) (c : Fin 4) (execute : Bool) (i : Nat) (m : MacroRun) (t core : Nat) :
    (s.sortTile c execute i m t core).RingCounts := by simp [State.sortTile, h]
theorem State.stageCorrection_ringCounts {s t : State} (h : s.RingCounts) {core check lane : Nat} (e : s.stageCorrection core check lane = some t) :
    t.RingCounts := by
  unfold State.stageCorrection at e; dsimp only at e
  split at e
  · cases e
  · split at e
    · cases e
    · split at e
      · cases e
      · next c _ _ i m p low _ _ =>
        have hcheck := State.checkTile_ringCounts
          (fun u lane unit syn at_ (hu :
          u.RingCounts) => State.failCorrection_ringCounts hu c i m p low core lane unit syn at_) h c m p low core check
          lane (m.attn.get low {}).failedCore true false
        split at e <;> rename_i hc <;> rw [hc] at hcheck <;> obtain rfl := Option.some.inj e <;> exact hcheck
@[simp] theorem State.executeTile_ringCounts {s : State} (h : s.RingCounts) (core check lane : Nat) : (s.executeTile core check lane).RingCounts := by
  unfold State.executeTile; dsimp only
  split
  · next e =>
    split at e
    · cases e
    · exact State.stageCorrection_ringCounts h e
  · split
    · exact h
    · split
      · exact h
      · next c e i m p t r _ _ =>
        have hcarry : (if m.isVec 0x05 then (s.setCore core { s.coreOf core with first := none }).carryIn c m p t
          else (none, s.setCore core { s.coreOf core with first := none })).2.RingCounts := by split <;> simp [h]
        generalize (if m.isVec 0x05 then (s.setCore core { s.coreOf core with first := none }).carryIn c m p t
          else (none, s.setCore core { s.coreOf core with first := none })) = q at hcarry ⊢
        split
        · exact hcarry
        · split
          all_goals
            next u hc =>
              have hu : u.RingCounts := (congrArg (fun k : Checked => k.state.RingCounts) hc).mp (State.checkTile_ringCounts
                (fun _ _ _ _ _ ht => State.failTile_ringCounts ht ..) (by simp [hcarry, apply_ite State.RingCounts]) ..)
              simp [hu, apply_ite State.RingCounts]
@[simp] theorem State.countHist_ringCounts (s : State) (c : Fin 4) (l : List HistAdd) :
    (s.countHist c l).RingCounts ↔ s.RingCounts := by simp [State.countHist]
@[simp] theorem State.applyStore_ringCounts (s : State) (crew : Nat) (st : Store) : (s.applyStore crew st).RingCounts ↔ s.RingCounts := by
  unfold State.applyStore; split <;> simp
@[simp] theorem State.stampLines_ringCounts (s : State) (l : List Store) : (s.stampLines l).RingCounts ↔ s.RingCounts := by
  refine State.foldl_ringCounts (fun u st => ?_) _ s
  split <;> exact Iff.rfl
@[simp] theorem State.endLoad_ringCounts (s : State) (c : Fin 4) (execute : Bool) (i : Nat) (m : MacroRun) (p : Plan) :
    (s.endLoad c execute i m p).RingCounts ↔ s.RingCounts := by simp [State.endLoad, apply_ite State.RingCounts]
@[simp] theorem State.finishTile_ringCounts {s : State} (h : s.RingCounts) (c : Fin 4) (execute : Bool) (i : Nat) (m : MacroRun) (p :
    Plan) (t core : Nat) (o : TileOut) (dropped : Bool) :
    (s.finishTile c execute i m p t core o dropped).RingCounts := by simp [State.finishTile, h, apply_ite State.RingCounts]
@[simp] theorem State.applyTile_ringCounts (s : State) (c : Fin 4) (m : MacroRun) (p : Plan) (t core : Nat) (o : TileOut) :
    (s.applyTile c m p t core o).RingCounts ↔ s.RingCounts := by simp [State.applyTile, apply_ite State.RingCounts]
@[simp] theorem State.acceptTap_ringCounts (s : State) (core : Nat) : (s.acceptTap core).RingCounts ↔ s.RingCounts := by
  unfold State.acceptTap; dsimp only; (repeat' split) <;> simp
@[simp] theorem State.commitTile_ringCounts {s : State} (h : s.RingCounts) (core : Nat) : (s.commitTile core).RingCounts := by
  have hend (u : State) (hu : u.RingCounts) (c : Fin 4) (e : Bool) (i : Nat) (m : MacroRun) (p : Plan) (t : Nat) (o : TileOut) :
      ((u.applyTile c m p t core o).finishTile c e i m p t core o false).RingCounts :=
    State.finishTile_ringCounts ((State.applyTile_ringCounts ..).2 hu) ..
  unfold State.commitTile; dsimp only
  (repeat' split) <;> simp [h, hend]
@[simp] theorem State.ownTimeout_ringCounts (s : State) (span : Nat) (c : Fin 4) (w : PierWrite) :
    (s.ownTimeout span c w).RingCounts ↔ s.RingCounts := by
  unfold State.ownTimeout; dsimp only; (repeat' split) <;> simp
@[simp] theorem State.writeTimeout_ringCounts {s : State} (h : s.RingCounts) (span index : Nat) : (s.writeTimeout span index).RingCounts := by
  unfold State.writeTimeout; dsimp only; (repeat' split) <;> simp [h]
@[simp] theorem State.retire_ringCounts (s : State) (c : Fin 4) (execute : Bool) (m : MacroRun) (trapped : Bool) :
    (s.retire c execute m trapped).RingCounts ↔ s.RingCounts := by
  unfold State.retire; dsimp only; (repeat' split) <;> simp
@[simp] theorem State.completeMacro_ringCounts {s : State} (h : s.RingCounts) (c : Fin 4) (execute : Bool) :
    (s.completeMacro c execute).RingCounts := by
  have htrace := (s.acceptTrace_ringCounts c).2 h
  unfold State.completeMacro; dsimp only
  split
  · exact htrace
  · split
    · exact htrace
    · split
      · split <;> simp [h]
      · split
        · exact htrace
        · split
          · exact htrace
          · next e => exact (State.retire_ringCounts ..).2 ((State.acceptOwn_ringCounts e).2 htrace)

/-! ### The matrix-engine port -/

@[simp] theorem State.productDone_ringCounts (s : State) (c : Fin 4) (crew : Nat) (b : Bank) :
    (s.productDone c crew b).RingCounts ↔ s.RingCounts := by
  unfold State.productDone; dsimp only; (repeat' split) <;> simp
@[simp] theorem State.bankProtocol_ringCounts (s : State) (c : Fin 4) (crew bank rig : Nat) :
    (s.bankProtocol c crew bank rig).RingCounts ↔ s.RingCounts := by simp [State.bankProtocol]
@[simp] theorem State.afterProduct_ringCounts (s : State) (c : Fin 4) (crew : Nat) (b : Bank) :
    (s.afterProduct c crew b).RingCounts ↔ s.RingCounts := by simp [State.afterProduct]
@[simp] theorem State.ftqEntry_ringCounts (s : State) (crew bank : Nat) (seq : BitVec 8) (parityOk invalid : Bool) :
    (s.ftqEntry crew bank seq parityOk invalid).RingCounts ↔ s.RingCounts := by
  unfold State.ftqEntry; dsimp only; (repeat' split) <;> simp
@[simp] theorem State.finishSignal_ringCounts (s : State) (crew bank : Nat) (invalid : Bool) :
    (s.finishSignal crew bank invalid).RingCounts ↔ s.RingCounts := by
  unfold State.finishSignal; dsimp only; (repeat' split) <;> simp
@[simp] theorem State.toCrew_ringCounts (s : State) (c : Fin 4) (crew bank : Nat) (b : Bank) :
    (s.toCrew c crew bank b).RingCounts ↔ s.RingCounts := by
  unfold State.toCrew; dsimp only; (repeat' split) <;> simp
@[simp] theorem State.meWaits_ringCounts (s : State) (c : Fin 4) (crew bank : Nat) :
    (s.meWaits c crew bank).RingCounts ↔ s.RingCounts := by simp [State.meWaits]
@[simp] theorem State.meRelease_ringCounts (s : State) (c : Fin 4) (crew bank : Nat) : (s.meRelease c crew bank).RingCounts ↔ s.RingCounts := by
  unfold State.meRelease; dsimp only; (repeat' split) <;> simp
@[simp] theorem State.claimGrant_ringCounts (s : State) (crew bank : Nat) (meRequests crewClaims meReleases : Bool) :
    (s.claimGrant crew bank meRequests crewClaims meReleases).RingCounts ↔ s.RingCounts := by
  unfold State.claimGrant; dsimp only; (repeat' split) <;> simp
@[simp] theorem State.portTimeout_ringCounts (s : State) (crew channel : Nat) : (s.portTimeout crew channel).RingCounts ↔ s.RingCounts := by
  unfold State.portTimeout; (repeat' split) <;> simp
@[simp] theorem State.correctChain_ringCounts {s : State} (h : s.RingCounts) (c : Fin 4) (i : Nat) (m : MacroRun) (p : Plan) (low core : Nat) :
    (s.correctChain c i m p low core).RingCounts := by simp [State.correctChain, h]
@[simp] theorem State.corrections_ringCounts {s : State} (h : s.RingCounts) (c : Fin 4) (rig : Nat) : (s.corrections c rig).RingCounts := by
  unfold State.corrections; dsimp only
  split
  · exact h
  · refine h.foldl (fun u d hu => ?_) _
    (repeat' split) <;> simp [hu]

/-! ### VSHORT -/

@[simp] theorem State.startShort_ringCounts (s : State) (crew : Nat) : (s.startShort crew).RingCounts ↔ s.RingCounts := by
  unfold State.startShort; dsimp only; (repeat' split) <;> simp
@[simp] theorem State.runShort_ringCounts (s : State) (crew code : Nat) : (s.runShort crew code).RingCounts ↔ s.RingCounts := by
  unfold State.runShort; dsimp only; split <;> simp
@[simp] theorem State.landLine_ringCounts (s : State) (crew : Nat) : (s.landLine crew).RingCounts ↔ s.RingCounts := by
  unfold State.landLine; dsimp only; (repeat' split) <;> simp

/-! ### Halts, scrubbing and lockstep -/

@[simp] theorem State.finishLoad_ringCounts (s : State) (c : Fin 4) (m : MacroRun) : (s.finishLoad c m).RingCounts ↔ s.RingCounts := by
  unfold State.finishLoad; dsimp only; (repeat' split) <;> simp
@[simp] theorem State.settleHalt_ringCounts {s : State} (h : s.RingCounts) (c : Fin 4) : (s.settleHalt c).RingCounts := by
  have hload : ((s.ctxOf c).access.inflight.foldl (fun u m => u.finishLoad c m) s).RingCounts := h.foldl (fun u m hu => by simp [hu]) _
  unfold State.settleHalt
  split
  · exact h
  · split
    · exact h
    · simp [hload]
@[simp] theorem State.enterHalted_ringCounts {s : State} (h : s.RingCounts) (c : Fin 4) : (s.enterHalted c).RingCounts := by
  have htrace := (s.acceptTrace_ringCounts c).2 h
  unfold State.enterHalted; dsimp only
  split
  · exact htrace
  · next hl _ =>
    split
    · exact htrace
    · simpa using FaultRing.push_consistent _ hl.record htrace
@[simp] theorem State.drainHalt_ringCounts (s : State) (c : Fin 4) :
    (s.drainHalt c).RingCounts ↔ s.RingCounts := by simp [State.drainHalt, apply_ite State.RingCounts]
@[simp] theorem State.noteScrub_ringCounts (s : State) (crew line : Nat) :
    (s.noteScrub crew line).RingCounts ↔ s.RingCounts := by simp [State.noteScrub]
@[simp] theorem State.scrub_ringCounts {s : State} (h : s.RingCounts) (crew line errors syndrome : Nat) :
    (s.scrub crew line errors syndrome).RingCounts := by
  unfold State.scrub; dsimp only; (repeat' split) <;> simp [h]
@[simp] theorem State.coxMismatchStep_ringCounts {s : State} (h : s.RingCounts) :
    s.coxMismatchStep.RingCounts := by simp [State.coxMismatchStep, h, apply_ite State.RingCounts]
@[simp] theorem State.walkerMismatch_ringCounts {s : State} (h : s.RingCounts) (span : Nat) : (s.walkerMismatch span).RingCounts := by
  unfold State.walkerMismatch; dsimp only; (repeat' split) <;> simp [h]

/-! ### The register window -/

@[simp] theorem State.descWrite_ringCounts (s : State) (o n : Nat) (v : BitVec 64) :
    (s.descWrite o n v).RingCounts ↔ s.RingCounts := by simp [State.descWrite, apply_ite State.RingCounts]
@[simp] theorem State.descSel_ringCounts (s : State) (c : BitVec 2) (half : Bool) :
    (s.descSel c half).RingCounts ↔ s.RingCounts := by simp [State.descSel]
@[simp] theorem State.putPriv_ringCounts {s : State} (h : s.RingCounts) (r : Reg) (w : Put) : (s.putPriv r w).RingCounts := by
  unfold State.putPriv; dsimp only; (repeat' split) <;> simp [h]
/-- A write of RD keeps UNREAD the count of the records between RD and WR (R483). -/
theorem FaultRing.setRd_consistent {f : FaultRing} (h : f.Consistent) (rd : BitVec 8) : (f.setRd rd).Consistent := by
  obtain ⟨hu, hw⟩ := h
  by_cases hn : (rd - f.rd).toNat ≤ f.unread.toNat
  · obtain ⟨hrd, hunread⟩ := FaultRing.setRd_within hn
    have hwr := (f.setRd_keeps rd).1
    have hsub : (rd - f.rd).toNat = (256 - f.rd.toNat + rd.toNat) % 256 := BitVec.toNat_sub ..
    have := f.rd.isLt
    have := rd.isLt
    rw [FaultRing.Consistent, hrd, hunread, hwr, ← hw]
    omega
  · rw [FaultRing.setRd_beyond (by omega)]
    exact ⟨Nat.zero_le _, Nat.mod_eq_of_lt f.wr.isLt⟩
@[simp] theorem State.putGlobal_ringCounts {s : State} (h : s.RingCounts) (r : Reg) (w : Put) : (s.putGlobal r w).RingCounts := by
  unfold State.putGlobal; dsimp only
  split
  case h_5 =>
    split
    · exact FaultRing.setRd_consistent h _
    · exact h
  all_goals simp [h, apply_ite State.RingCounts]
@[simp] theorem State.putCtx_ringCounts (s : State) (c : Fin 4) (r : Reg) (w : Put) : (s.putCtx c r w).RingCounts ↔ s.RingCounts := by
  unfold State.putCtx; dsimp only; (repeat' split) <;> simp
@[simp] theorem State.putStroke_ringCounts {s : State} (h : s.RingCounts) (c : Fin 4) (w : Put) :
    (s.putStroke c w).RingCounts := by simp [State.putStroke, h, apply_ite State.RingCounts]
@[simp] theorem State.putPage_ringCounts (s : State) (r : Reg) (w : Put) : (s.putPage r w).RingCounts ↔ s.RingCounts := by
  unfold State.putPage; dsimp only; (repeat' split) <;> simp
@[simp] theorem State.putMgmt_ringCounts (s : State) (r : Reg) (w : Put) : (s.putMgmt r w).RingCounts ↔ s.RingCounts := by
  unfold State.putMgmt; dsimp only; (repeat' split) <;> simp
@[simp] theorem State.putRegion_ringCounts (s : State) (r : Reg) (wide : Bool) (v : BitVec 64) :
    (s.putRegion r wide v).RingCounts ↔ s.RingCounts := by
  unfold State.putRegion; split <;> simp
@[simp] theorem State.hostPut_ringCounts {s : State} (h : s.RingCounts) (r : Reg) (trusted : Bool) (offset : Nat) (wide : Bool) (v : BitVec 64) :
    (s.hostPut r trusted offset wide v).RingCounts := by
  unfold State.hostPut; dsimp only; (repeat' split) <;> simp [h]
@[simp] theorem State.writeWindow_ringCounts {s : State} (h : s.RingCounts) (mgmt trusted : Bool) (offset : Nat) (wide : Bool) (v : BitVec 64) :
    (s.writeWindow mgmt trusted offset wide v).RingCounts := by
  unfold State.writeWindow; dsimp only; (repeat' split) <;> simp [h]
@[simp] theorem State.badAccess_ringCounts (s : State) (mgmt write : Bool) (offset size : Nat) :
    (s.badAccess mgmt write offset size).RingCounts ↔ s.RingCounts := by simp [State.badAccess, apply_ite State.RingCounts]

/-! ### Handlers of messages -/

section
variable {s : State} (h : s.RingCounts) (v : Message) (b : List Byte)
include h
theorem capHandler_ringCounts : (capHandler.act v b s).RingCounts := by simpa [capHandler] using h
theorem drainHandler_ringCounts : (drainHandler.act v b s).RingCounts := h
theorem policyHandler_ringCounts : (policyHandler.act v b s).RingCounts := by simpa [policyHandler] using h
theorem resyncHandler_ringCounts : (resyncHandler.act v b s).RingCounts := h
theorem commitHandler_ringCounts : (commitHandler.act v b s).RingCounts := by simpa [commitHandler] using h
theorem restoreHandler_ringCounts : (restoreHandler.act v b s).RingCounts := by simpa [restoreHandler] using h
theorem unfenceHandler_ringCounts : (unfenceHandler.act v b s).RingCounts := h
theorem clearHandler_ringCounts : (clearHandler.act v b s).RingCounts := by simpa [clearHandler] using h
theorem patchHandler_ringCounts : (patchHandler.act v b s).RingCounts := h
theorem returnHandler_ringCounts : (returnHandler.act v b s).RingCounts := by
  have hset := (State.setGlob_ringCounts { s.glob with lifecycle := 2, access := testAccess 2 }).2 h
  exact hset.foldl (fun _ c ht => State.returnCtx_ringCounts ht c) allCtx
end

/-! ### The step -/

/-- Every command keeps UNREAD the count of the records between RD and WR. -/
theorem exec_ringCounts {s t : State} {i : Instr} (h : s.RingCounts) (e : exec i s = .next t) : t.RingCounts := by
  cases i
  all_goals obtain rfl := Host.Outcome.next.inj e; clear e
  case setCap => exact State.handle_ringCounts (fun v b u hu => capHandler_ringCounts hu v b) h
  case enterReturn => exact State.handle_ringCounts (fun v b u hu => returnHandler_ringCounts hu v b) h
  case drain => exact State.handle_ringCounts (fun v b u hu => drainHandler_ringCounts hu v b) h
  case setPolicy => exact State.handle_ringCounts (fun v b u hu => policyHandler_ringCounts hu v b) h
  case timeResync => exact State.handle_ringCounts (fun v b u hu => resyncHandler_ringCounts hu v b) h
  case commitSvn => exact State.handle_ringCounts (fun v b u hu => commitHandler_ringCounts hu v b) h
  case svnRestore => exact State.handle_ringCounts (fun v b u hu => restoreHandler_ringCounts hu v b) h
  case unfence => exact State.handle_ringCounts (fun v b u hu => unfenceHandler_ringCounts hu v b) h
  case ledgerClear => exact State.handle_ringCounts (fun v b u hu => clearHandler_ringCounts hu v b) h
  case patchList => exact State.handle_ringCounts (fun v b u hu => patchHandler_ringCounts hu v b) h
  case faultRingRdWrite rd => exact FaultRing.setRd_consistent h rd
  case coldReset => exact ⟨Nat.zero_le _, rfl⟩
  all_goals simp [h, apply_ite State.RingCounts]

/-- Settles O5: a command executes by `exec_ringCounts`, and an idle beat leaves the ring alone. -/
theorem everyStepKeepsFaultRingConsistent : Obligations.EveryStepKeepsFaultRingConsistent := by
  intro s t hs h
  unfold step at h
  split at h
  · obtain rfl := Host.Outcome.next.inj h
    exact hs
  · next rest _ => exact exec_ringCounts (s := { s with pending := rest }) hs h

/-! ## Fields of packed records (R6, R7) -/

/-- Fields that follow one another without overlap. -/
def LaidOut (l : List (Nat × Nat × Nat)) : Prop := l.Pairwise fun e f => e.1 + e.2.1 ≤ f.1

theorem pack_concat (l : List (Nat × Nat × Nat)) (e : Nat × Nat × Nat) : pack (l ++ [e]) = pack l + e.2.2 % 256 ^ e.2.1 * 256 ^ e.1 := by
  rw [pack, List.foldl_append]; rfl

theorem pack_lt {l : List (Nat × Nat × Nat)} (hl : LaidOut l) {n : Nat} (h : ∀ e ∈ l, e.1 + e.2.1 ≤ n) : pack l < 256 ^ n := by
  induction l using List.reverseRecOn generalizing n with
  | nil => exact Nat.pow_pos (by decide)
  | append_singleton l e ih =>
    obtain ⟨hinit, -, hbelow⟩ := List.pairwise_append.1 hl
    have hl' : pack l < 256 ^ e.1 := ih hinit fun d hd => hbelow d hd e List.mem_cons_self
    have htop : (e.2.2 % 256 ^ e.2.1 + 1) * 256 ^ e.1 ≤ 256 ^ n := by
      calc (e.2.2 % 256 ^ e.2.1 + 1) * 256 ^ e.1 ≤ 256 ^ e.2.1 * 256 ^ e.1 :=
            Nat.mul_le_mul_right _ (Nat.succ_le_of_lt (Nat.mod_lt _ (Nat.pow_pos (by decide))))
        _ = 256 ^ (e.1 + e.2.1) := by rw [← Nat.pow_add, Nat.add_comm]
        _ ≤ 256 ^ n := Nat.pow_le_pow_right (by decide) (h e (List.mem_append_right _ List.mem_cons_self))
    rw [pack_concat]
    rw [Nat.add_mul, Nat.one_mul] at htop
    omega

/-- A field of a record that overlaps no other reads back. -/
theorem pack_field {l : List (Nat × Nat × Nat)} (hl : LaidOut l) {o n v : Nat} (h : (o, n, v) ∈ l) :
    pack l / 256 ^ o % 256 ^ n = v % 256 ^ n := by
  obtain ⟨a, b, rfl⟩ := List.append_of_mem h
  obtain ⟨ha, hb, hbelow⟩ := List.pairwise_append.1 hl
  obtain ⟨hafter, -⟩ := List.pairwise_cons.1 hb
  have hlow : pack a < 256 ^ o := pack_lt ha fun e he => hbelow e he _ List.mem_cons_self
  obtain ⟨k, hk⟩ := pack_append_above (n := o + n) (a ++ [(o, n, v)]) b fun g hg => hafter g hg
  rw [List.append_assoc, List.singleton_append, pack_concat] at hk
  have hsum : pack (a ++ (o, n, v) :: b) = pack a + 256 ^ o * (v % 256 ^ n + 256 ^ n * k) := by
    rw [hk, Nat.pow_add]; ring
  rw [hsum, Nat.add_mul_div_left _ _ (Nat.pow_pos (by decide)), Nat.div_eq_of_lt hlow, Nat.zero_add, Nat.add_mul_mod_self_left, Nat.mod_mod]

/-- A field of whole bytes of a packed record. -/
theorem field_pack {w : Nat} {l : List (Nat × Nat × Nat)} (hl : LaidOut l) {o n v : Nat} (h : (o, n, v) ∈ l) (hw : 8 * (o + n) ≤ w) :
    field (BitVec.ofNat w (pack l)) (8 * o) (8 * n) = v % 2 ^ (8 * n) := by
  have hpow (k : Nat) : 2 ^ (8 * k) = 256 ^ k := by rw [Nat.pow_mul]
  have hsplit : 2 ^ w = 256 ^ o * 2 ^ (w - 8 * o) := by rw [← hpow, ← Nat.pow_add]; congr 1; omega
  have hdvd : 256 ^ n ∣ 2 ^ (w - 8 * o) := by rw [← hpow]; exact Nat.pow_dvd_pow 2 (by omega)
  rw [field, BitVec.toNat_ofNat, hpow, hpow, hsplit, Nat.mod_mul_right_div_self, Nat.mod_mod_of_dvd _ hdvd, pack_field hl h]

/-- A part of a field. -/
theorem field_within {w : Nat} (v : BitVec w) {lo n j k : Nat} (h : j + k ≤ n) : field v (lo + j) k = field v lo n / 2 ^ j % 2 ^ k := by
  have hsplit : 2 ^ n = 2 ^ j * 2 ^ (n - j) := by rw [← Nat.pow_add]; congr 1; omega
  rw [field, field, hsplit, Nat.mod_mul_right_div_self, Nat.mod_mod_of_dvd _ (Nat.pow_dvd_pow 2 (by omega)), Nat.pow_add, Nat.div_div_eq_div_mul]

theorem getLsbD_eq_field {w : Nat} (v : BitVec w) (i : Nat) : v.getLsbD i = decide (field v i 1 = 1) := by
  rw [BitVec.getLsbD, Nat.testBit_eq_decide_div_mod_eq, field, Nat.pow_one]

theorem field_congr {w : Nat} {v u : BitVec w} {lo n : Nat} (h : ∀ i < n, v.getLsbD (lo + i) = u.getLsbD (lo + i)) : field v lo n = field u lo n := by
  have hbits : v.extractLsb' lo n = u.extractLsb' lo n := BitVec.eq_of_getLsbD_eq fun i hi => by
    rw [BitVec.getLsbD_extractLsb', BitVec.getLsbD_extractLsb', h i hi]
  have hfield (x : BitVec w) : field x lo n = (x.extractLsb' lo n).toNat := by
    rw [BitVec.extractLsb'_toNat, Nat.shiftRight_eq_div_pow]; rfl
  rw [hfield, hfield, hbits]

/-! ## SEQ of a fault record (R480) -/

theorem withSeq_getLsbD (r : BitVec 512) (seq : BitVec 32) (i : Nat) :
    (withSeq r seq).getLsbD i = if 352 ≤ i ∧ i < 384 then seq.getLsbD (i - 352) else r.getLsbD i := by
  have hplace : 256 ^ 44 = 2 ^ (8 * 44) := by rw [Nat.pow_mul]
  have hmask : 0xFFFFFFFF = 2 ^ 32 - 1 := rfl
  rw [withSeq, hplace, hmask, BitVec.getLsbD_or, BitVec.getLsbD_and, BitVec.getLsbD_not, BitVec.getLsbD_ofNat, BitVec.getLsbD_ofNat,
    Nat.testBit_mul_two_pow, Nat.testBit_mul_two_pow, Nat.testBit_two_pow_sub_one]
  by_cases hi : i < 512
  · by_cases hlo : 352 ≤ i
    · by_cases hhi : i < 384
      · simp [hi, hlo, hhi, show i - 352 < 32 by omega]
        rfl
      · have : seq.toNat.testBit (i - 352) = false := BitVec.getLsbD_of_ge seq (i - 352) (by omega)
        simp [hi, hlo, hhi, this, show ¬ i - 352 < 32 by omega]
    · simp [hi, hlo]
  · simp [hi, show ¬ i < 384 by omega, BitVec.getLsbD_of_ge r i (by omega)]

/-- SEQ leaves the other fields of a record alone. -/
theorem field_withSeq (r : BitVec 512) (seq : BitVec 32) {lo n : Nat} (h : lo + n ≤ 352 ∨ 384 ≤ lo) : field (withSeq r seq) lo n = field r lo n :=
  field_congr fun i hi => by rw [withSeq_getLsbD, if_neg (by omega)]

theorem field_withSeq_seq (r : BitVec 512) (seq : BitVec 32) : field (withSeq r seq) 352 32 = seq.toNat := by
  have hbits : (withSeq r seq).extractLsb' 352 32 = seq := BitVec.eq_of_getLsbD_eq fun i hi => by
    rw [BitVec.getLsbD_extractLsb', withSeq_getLsbD, if_pos (by omega)]; simp [hi]
  rw [field, ← Nat.shiftRight_eq_div_pow, ← BitVec.extractLsb'_toNat, hbits]

/-! ## O45: a fault record -/

/-- The fields of a fault record with the bytes between them (R480); byte 2 holds the context, BLOCK and HALT beside the slot. -/
def State.recordFields (s : State) (ctx : Nat) (halt : Bool) (q : Cause) (now : Nat) : List (Nat × Nat × Nat) :=
  [(0, 2, q.code), (2, 1, q.slot + 8 * ctx + 64 * b2n s.glob.block + 128 * b2n halt), (3, 1, 0), (4, 4, q.tag.toNat), (8, 8, q.addr.toNat),
   (16, 8, if ctx < 4 then (s.ctxOf (ctxNo ctx)).stroke.toNat else s.glob.blockStroke.toNat), (24, 8, now), (32, 8, q.coord),
   (40, 2, q.core), (42, 1, q.lane), (43, 1, 0), (44, 4, 0), (48, 16, q.detail)]

theorem State.recordFields_laidOut (s : State) (ctx : Nat) (halt : Bool) (q : Cause) (now : Nat) : LaidOut (s.recordFields ctx halt q now) := by
  simp [LaidOut, State.recordFields]

theorem State.recordAt_eq (s : State) (ctx : Nat) (halt : Bool) (q : Cause) (now : Nat) :
    s.recordAt ctx halt q now = BitVec.ofNat 512 (pack (s.recordFields ctx halt q now)) := by
  have hskip (e₁ e₂ e₄ e₅ e₆ e₇ e₈ e₉ e₁₀ e₁₃ : Nat × Nat × Nat) :
      pack [e₁, e₂, e₄, e₅, e₆, e₇, e₈, e₉, e₁₀, e₁₃] =
        pack [e₁, e₂, (3, 1, 0), e₄, e₅, e₆, e₇, e₈, e₉, e₁₀, (43, 1, 0), (44, 4, 0), e₁₃] := by
    simp only [pack, List.foldl_cons, Nat.zero_mod, Nat.zero_mul, Nat.add_zero]
  rw [State.recordAt, hskip]
  rfl

/-- A field of a fault record, by its place in bytes. -/
theorem State.field_recordAt (s : State) (ctx : Nat) (halt : Bool) (q : Cause) (now : Nat) {o n v : Nat}
    (h : (o, n, v) ∈ s.recordFields ctx halt q now) (hfit : o + n ≤ 64) (hv : v < 2 ^ (8 * n)) :
    field (s.recordAt ctx halt q now) (8 * o) (8 * n) = v := by
  rw [s.recordAt_eq, field_pack (s.recordFields_laidOut ctx halt q now) h (by omega), Nat.mod_eq_of_lt hv]

theorem State.field_record_code (s : State) (ctx : Nat) (halt : Bool) (q : Cause) (h : q.code < 65536) : field (s.record ctx halt q) 0 16 = q.code :=
  s.field_recordAt ctx halt q s.now (o := 0) (n := 2) (by simp [State.recordFields]) (by decide) h

theorem b2n_le (b : Bool) : b2n b ≤ 1 := by cases b <;> decide

/-- Byte 2 of a fault record. -/
theorem State.field_record_byte2 (s : State) (ctx : Nat) (halt : Bool) (q : Cause) (hctx : ctx < 8) (hslot : q.slot < 8) :
    field (s.record ctx halt q) 16 8 = q.slot + 8 * ctx + 64 * b2n s.glob.block + 128 * b2n halt :=
  s.field_recordAt ctx halt q s.now (o := 2) (n := 1) (by simp [State.recordFields]) (by decide)
    (by have := b2n_le s.glob.block; have := b2n_le halt; omega)

/-- A part of byte 2 of a fault record. -/
theorem State.field_record_part (s : State) (ctx : Nat) (halt : Bool) (q : Cause) (hctx : ctx < 8) (hslot : q.slot < 8) {j k : Nat}
    (h : j + k ≤ 8) : field (s.record ctx halt q) (16 + j) k = (q.slot + 8 * ctx + 64 * b2n s.glob.block + 128 * b2n halt) / 2 ^ j % 2 ^ k := by
  rw [field_within _ h, s.field_record_byte2 ctx halt q hctx hslot]

section
variable (s : State) (ctx : Nat) (halt : Bool) (q : Cause) (hctx : ctx < 8) (hslot : q.slot < 8)
include hctx hslot

theorem State.field_record_slot : field (s.record ctx halt q) 16 3 = q.slot :=
  (s.field_record_part ctx halt q hctx hslot (j := 0) (k := 3) (by decide)).trans (by omega)

theorem State.field_record_ctx : field (s.record ctx halt q) 19 3 = ctx :=
  (s.field_record_part ctx halt q hctx hslot (j := 3) (k := 3) (by decide)).trans (by omega)

theorem State.record_block : (s.record ctx halt q).getLsbD 22 = s.glob.block := by
  have hbit : field (s.record ctx halt q) 22 1 = b2n s.glob.block :=
    (s.field_record_part ctx halt q hctx hslot (j := 6) (k := 1) (by decide)).trans (by have := b2n_le s.glob.block; omega)
  rw [getLsbD_eq_field, hbit]; cases s.glob.block <;> rfl

theorem State.record_halt : (s.record ctx halt q).getLsbD 23 = halt := by
  have hbit : field (s.record ctx halt q) 23 1 = b2n halt :=
    (s.field_record_part ctx halt q hctx hslot (j := 7) (k := 1) (by decide)).trans (by
      have := b2n_le s.glob.block; have := b2n_le halt; omega)
  rw [getLsbD_eq_field, hbit]; cases halt <;> rfl

end

/-- Settles O45: each field is one of the fields that were packed, and SEQ overlaps none of them. -/
theorem faultRecordsHoldTheirFields : Obligations.FaultRecordsHoldTheirFields := by
  intro s ctx halt q seq hctx hcode hslot hcoord hcore hlane hdetail r
  have hplaced {o n v : Nat} (h : (o, n, v) ∈ s.recordFields ctx halt q s.now) (hfit : o + n ≤ 44 ∨ 48 ≤ o ∧ o + n ≤ 64)
      (hv : v < 2 ^ (8 * n)) : field r (8 * o) (8 * n) = v :=
    (field_withSeq _ seq (by omega)).trans (s.field_recordAt ctx halt q s.now h (by omega) hv)
  have hoff {i : Nat} (h : i < 352) : r.getLsbD i = (s.record ctx halt q).getLsbD i := (withSeq_getLsbD _ seq i).trans (if_neg (by omega))
  have hstroke : (if ctx < 4 then (s.ctxOf (ctxNo ctx)).stroke.toNat else s.glob.blockStroke.toNat) < 2 ^ 64 := by
    split
    · exact (s.ctxOf (ctxNo ctx)).stroke.isLt.trans (by decide)
    · exact s.glob.blockStroke.isLt.trans (by decide)
  refine ⟨hplaced (o := 0) (n := 2) ?_ (by decide) hcode, (field_withSeq _ seq (by decide)).trans (s.field_record_slot ctx halt q hctx hslot),
    (field_withSeq _ seq (by decide)).trans (s.field_record_ctx ctx halt q hctx hslot),
    (hoff (by decide)).trans (s.record_block ctx halt q hctx hslot), (hoff (by decide)).trans (s.record_halt ctx halt q hctx hslot),
    hplaced (o := 3) (n := 1) ?_ (by decide) (by decide),
    hplaced (o := 43) (n := 1) ?_ (by decide) (by decide), hplaced (o := 4) (n := 4) ?_ (by decide) q.tag.isLt,
    hplaced (o := 8) (n := 8) ?_ (by decide) q.addr.isLt, hplaced (o := 24) (n := 8) ?_ (by decide) s.time.now.isLt,
    hplaced (o := 32) (n := 8) ?_ (by decide) hcoord, hplaced (o := 40) (n := 2) ?_ (by decide) hcore,
    hplaced (o := 42) (n := 1) ?_ (by decide) hlane, field_withSeq_seq _ seq, hplaced (o := 48) (n := 16) ?_ (by decide) hdetail,
    hplaced (o := 16) (n := 8) ?_ (by decide) hstroke⟩
  all_goals simp [State.recordFields, State.now]

/-! ## Errors counted and recorded (R484, R487) -/

/-- The record that a push adds stands at WR, with SEQ. -/
theorem FaultRing.push_get (f : FaultRing) (r : BitVec 512) : (f.push r).records.get f.wr.toNat 0 = withSeq r f.seq := by
  unfold FaultRing.push
  split <;> exact Table.get_set_self ..

/-- The code of the record that a cause leaves at WR. -/
theorem State.absorb_code (s : State) (n : Nat) (q : Cause) (h : q.code < 65536) :
    field ((s.absorb n q).ring.records.get s.ring.wr.toNat 0) 0 16 = q.code := by
  rw [State.absorb_ring, FaultRing.push_get, field_withSeq _ _ (by decide), s.field_record_code n false q h]

theorem State.absorb_seq (s : State) (n : Nat) (q : Cause) : (s.absorb n q).ring.seq = s.ring.seq + 1 := by
  rw [State.absorb_ring, FaultRing.push_seq]

@[simp] theorem State.absorb_spanOf (s : State) (n : Nat) (q : Cause) (k : Nat) : (s.absorb n q).spanOf k = s.spanOf k := by
  rw [State.spanOf, State.absorb_spans, State.spanOf]

section
variable (s : State) (span ctx unit core syndrome address : Nat)

@[simp] theorem State.noteCorrected_ctx : (s.noteCorrected span ctx unit core syndrome address).ctx = s.ctx := by
  unfold State.noteCorrected; dsimp only; split <;> simp

@[simp] theorem State.noteCorrected_mem : (s.noteCorrected span ctx unit core syndrome address).mem = s.mem := by
  unfold State.noteCorrected; dsimp only; split <;> simp

@[simp] theorem State.noteCorrected_time : (s.noteCorrected span ctx unit core syndrome address).time = s.time := by
  unfold State.noteCorrected; dsimp only; split <;> simp

@[simp] theorem State.noteCorrected_crews : (s.noteCorrected span ctx unit core syndrome address).crews = s.crews := by
  unfold State.noteCorrected; dsimp only; split <;> simp

theorem State.noteCorrected_spanOf : (s.noteCorrected span ctx unit core syndrome address).spanOf span =
    { s.spanOf span with corrected := satAdd (s.spanOf span).corrected 1, correctedNoted := true } := by
  unfold State.noteCorrected; dsimp only; split <;> simp

/-- One record in a stroke. -/
theorem State.noteCorrected_seq : (s.noteCorrected span ctx unit core syndrome address).ring.seq =
    if (s.spanOf span).correctedNoted then s.ring.seq else s.ring.seq + 1 := by
  unfold State.noteCorrected; dsimp only; split
  · rfl
  · exact State.absorb_seq ..

end

/-! ## O43: scrubbing and lockstep -/

/-- A double-bit error, counted. -/
def State.countUncorr (s : State) (span : Nat) : State :=
  s.setSpan span { s.spanOf span with uncorr := satAdd (s.spanOf span).uncorr 1 }

section
variable {s : State} {crew : Nat} (line syndrome : Nat)

theorem State.scrub_of_not_mayScrub (errors : Nat) (h : s.mayScrub crew = false) : s.scrub crew line errors syndrome = s := by
  rw [State.scrub, if_pos (by simp [h])]

theorem State.scrub_clean (h : s.mayScrub crew = true) : s.scrub crew line 0 syndrome = s.noteScrub crew line := by
  rw [State.scrub, if_neg (by simp [h])]
  rfl

theorem State.scrub_single (h : s.mayScrub crew = true) : ∃ ctx, s.scrub crew line 1 syndrome =
    (s.noteScrub crew line).noteCorrected (crewSpan crew) ctx 3 (8 * crew + line % 8) syndrome line := by
  rw [State.scrub, if_neg (by simp [h])]
  exact ⟨_, rfl⟩

/-- The cause of a double-bit error that a scrub finds in a bay. -/
def scrubCause (crew line syndrome : Nat) : Cause :=
  { code := 0x0A05, core := 8 * crew + line % 8, detail := hwDetail 3 (crewSpan crew) 0xFFFF syndrome line }

theorem State.scrub_double (h : s.mayScrub crew = true) :
    let u := (s.noteScrub crew line).countUncorr (crewSpan crew)
    s.scrub crew line 2 syndrome = match s.owner (crewSpan crew) with
      | some c => if (s.ctxOf c).inBay line then u.raiseBare c (scrubCause crew line syndrome) else u
      | none => u := by
  rw [State.scrub, if_neg (by simp [h])]
  rfl

end

section
variable (s : State) (crew : Fin 256) (line : Fin 2048) (syn : BitVec 32)

theorem State.scrubLine_single (h : s.mayScrub crew.val = true) :
    ∃ t, exec (.scrubLine crew line 1 syn) s = .next t ∧ t.ctx = s.ctx ∧ t.mem = s.mem ∧
      t.crews = (s.noteScrub crew.val line.val).crews ∧
      (t.spanOf (crew.val / 16)).corrected = satAdd (s.spanOf (crew.val / 16)).corrected 1 ∧
      (t.spanOf (crew.val / 16)).correctedNoted = true ∧
      t.ring.seq = (if (s.spanOf (crew.val / 16)).correctedNoted then s.ring.seq else s.ring.seq + 1) := by
  obtain ⟨ctx, he⟩ := State.scrub_single line.val syn.toNat h
  refine ⟨_, congrArg Host.Outcome.next he, State.noteCorrected_ctx .., State.noteCorrected_mem .., State.noteCorrected_crews .., ?_, ?_,
    State.noteCorrected_seq ..⟩
  · exact congrArg Span.corrected (State.noteCorrected_spanOf ..)
  · exact congrArg Span.correctedNoted (State.noteCorrected_spanOf ..)

theorem State.scrubLine_double (h : s.mayScrub crew.val = true) :
    ∃ t, exec (.scrubLine crew line 2 syn) s = .next t ∧ t.mem = s.mem ∧
      (t.spanOf (crew.val / 16)).uncorr = satAdd (s.spanOf (crew.val / 16)).uncorr 1 ∧
      (∀ c, s.owner (crew.val / 16) = some c → s.runs c = true → (s.ctxOf c).inBay line.val = true →
        ∃ h, (t.ctxOf c).halt = some h ∧ h.code = 0x0A05) ∧
      (∀ c, s.owner (crew.val / 16) = some c → (s.ctxOf c).inBay line.val = false → t.ctx = s.ctx) := by
  have he := State.scrub_double line.val syn.toNat h
  dsimp only at he
  generalize hu : (s.noteScrub crew.val line.val).countUncorr (crewSpan crew.val) = u at he
  have hmem : u.mem = s.mem := by rw [← hu]; rfl
  have hctx : u.ctx = s.ctx := by rw [← hu]; rfl
  have hruns (c : Fin 4) : u.runs c = s.runs c := by rw [← hu]; rfl
  have huncorr : (u.spanOf (crew.val / 16)).uncorr = satAdd (s.spanOf (crew.val / 16)).uncorr 1 := by
    rw [← hu]; exact congrArg Span.uncorr (State.setSpan_spanOf_self ..)
  refine ⟨_, congrArg Host.Outcome.next he, ?_, ?_, fun c hc hr hb => ?_, fun c hc hb => ?_⟩
  · split
    · split <;> simp [hmem]
    · exact hmem
  · split
    · split
      · rw [State.spanOf, State.raiseBare_spans]; exact huncorr
      · exact huncorr
    · exact huncorr
  · obtain hhalts : u.Halts _ c _ := u.raiseBare_halts (scrubCause crew.val line.val syn.toNat) ((hruns c).trans hr)
    rw [show s.owner (crewSpan crew.val) = some c from hc]
    dsimp only
    rw [if_pos hb, hhalts, State.setCtx_ctxOf_self]
    exact ⟨_, rfl, rfl⟩
  · rw [show s.owner (crewSpan crew.val) = some c from hc]
    dsimp only
    rw [if_neg (by simp [hb])]
    exact hctx

end

/-! ### Lockstep of the cox (R29, R494) -/

/-- The record of a lockstep mismatch of the cox. -/
def coxCause : Cause := { code := 0x0A87, detail := hwDetail 11 0 0xFFFF 0 0 }

/-- The mismatches of the step that has just mismatched once more. -/
def State.coxMismatches (s : State) : Nat := if s.time.beat < s.glob.coxUntil then s.glob.coxMismatch + 1 else 1

/-- A mismatch counted in its step. -/
def State.countMismatch (s : State) : State :=
  s.setGlob { s.glob with coxMismatch := s.coxMismatches, coxUntil := s.time.beat + coxStepBeats }

section
variable {s : State}

theorem State.coxMismatchStep_failed (h : s.glob.coxFailed = true) : s.coxMismatchStep = s := if_pos h

theorem State.coxMismatchStep_repeats (h : s.glob.coxFailed = false) (hn : s.coxMismatches < 3) :
    s.coxMismatchStep = s.countMismatch.absorb 7 coxCause := by
  rw [State.coxMismatchStep, if_neg (by simp [h])]
  exact if_pos hn

theorem State.coxMismatchStep_fails (h : s.glob.coxFailed = false) (hn : ¬ s.coxMismatches < 3) :
    let u := s.countMismatch.raiseAll (fun _ => true) { coxCause with code := 0x0A07 }
    s.coxMismatchStep = (u.setGlob { u.glob with coxFailed := true }).alert 7 none none := by
  rw [State.coxMismatchStep, if_neg (by simp [h])]
  exact if_neg hn

theorem State.coxLockstepMismatch_repeats (hf : s.glob.coxFailed = false) (hn : s.time.beat ≥ s.glob.coxUntil ∨ s.glob.coxMismatch ≤ 1) :
    ∃ t, exec .coxLockstepMismatch s = .next t ∧ t.mem = s.mem ∧ t.ring.seq = s.ring.seq + 1 ∧ t.ctx = s.ctx ∧ t.glob.coxFailed = false ∧
      t.glob.coxMismatch = (if s.time.beat < s.glob.coxUntil then s.glob.coxMismatch + 1 else 1) ∧
      t.glob.coxUntil = s.time.beat + 9000 ∧ field (t.ring.records.get s.ring.wr.toNat 0) 0 16 = 0x0A87 := by
  have hcount : s.coxMismatches < 3 := by unfold State.coxMismatches; split <;> omega
  refine ⟨_, congrArg Host.Outcome.next (State.coxMismatchStep_repeats hf hcount), State.absorb_mem .., State.absorb_seq .., State.absorb_ctx ..,
    ?_, ?_, ?_, State.absorb_code s.countMismatch 7 coxCause (by decide)⟩
  all_goals rw [State.absorb_glob]
  · exact hf
  · rfl
  · rfl

theorem State.coxLockstepMismatch_fails (hf : s.glob.coxFailed = false) (hb : s.time.beat < s.glob.coxUntil) (hn : s.glob.coxMismatch ≥ 2) :
    ∃ t, exec .coxLockstepMismatch s = .next t ∧ t.mem = s.mem ∧ t.ring.seq = s.ring.seq + 1 ∧ t.glob.coxFailed = true ∧
      t.glob.alerts.getLsbD 7 = true ∧ ∀ c, s.runs c = true → ∃ h, (t.ctxOf c).halt = some h ∧ h.code = 0x0A07 := by
  have hcount : ¬ s.coxMismatches < 3 := by rw [State.coxMismatches, if_pos hb]; omega
  have he := State.coxMismatchStep_fails hf hcount
  dsimp only at he
  have hmem := State.raiseAll_mem s.countMismatch (fun _ => true) { coxCause with code := 0x0A07 }
  have hseq := State.raiseAll_seq s.countMismatch (fun _ => true) { coxCause with code := 0x0A07 }
  have hhalts (c : Fin 4) (hr : s.runs c = true) :=
    State.raiseAll_halts (s := s.countMismatch) (p := fun _ => true) (c := c) { coxCause with code := 0x0A07 } rfl hr
  generalize s.countMismatch.raiseAll (fun _ => true) { coxCause with code := 0x0A07 } = u at he hmem hseq hhalts
  refine ⟨_, congrArg Host.Outcome.next he, ?_, ?_, rfl, ?_, fun d hr => ?_⟩
  · rw [State.alert_mem, State.setGlob_mem, hmem, State.countMismatch, State.setGlob_mem]
  · rw [State.alert_ring, State.setGlob_ring, hseq, State.countMismatch, State.setGlob_ring]
  · rw [State.alert_alerts, putBit_getLsbD _ (by decide)]
  · rw [State.ctxOf, State.alert_ctx, State.setGlob_ctx]
    exact hhalts d hr

end

/-! ### Lockstep of the walkers (R495) -/

/-- The mismatches of the beat that has just mismatched once more. -/
def State.walkerMismatches (s : State) (span : Nat) : Nat :=
  if s.spanBeat span ≤ (s.spanOf span).walkerBeat + 16 && (s.spanOf span).walkerRetries ≠ 0 then (s.spanOf span).walkerRetries + 1 else 1

/-- A walker's mismatches in one beat, set at its span. -/
def State.setRetries (s : State) (span n : Nat) : State :=
  s.setSpan span { s.spanOf span with walkerRetries := n, walkerBeat := s.spanBeat span }

/-- The record of a lockstep mismatch of a walker. -/
def walkerCause (span : Nat) : Cause := { code := 0x0A88, detail := hwDetail 10 span 0xFFFF 0 0 }

section
variable {s : State} {span : Nat} {c : Fin 4}

theorem State.walkerMismatch_eq (s : State) (span : Nat) :
    let n := s.walkerMismatches span
    let u := s.setRetries span (if n ≥ 3 then 0 else n)
    s.walkerMismatch span = match s.owner span with
      | none => u.absorb 7 (walkerCause span)
      | some c => if n < 3 then u.absorb c.val (walkerCause span) else u.raiseBare c { walkerCause span with code := 0x0A07 } := rfl

theorem State.walkerMismatch_repeats (h : s.owner span = some c) (hn : s.walkerMismatches span < 3) :
    s.walkerMismatch span = (s.setRetries span (s.walkerMismatches span)).absorb c.val (walkerCause span) := by
  rw [State.walkerMismatch_eq, h]
  dsimp only
  rw [if_pos hn, if_neg (by omega)]

theorem State.walkerMismatch_halts (h : s.owner span = some c) (hn : 3 ≤ s.walkerMismatches span) :
    s.walkerMismatch span = (s.setRetries span 0).raiseBare c { walkerCause span with code := 0x0A07 } := by
  rw [State.walkerMismatch_eq, h]
  dsimp only
  rw [if_neg (by omega), if_pos hn]

theorem State.setRetries_retries (s : State) (span n : Nat) : ((s.setRetries span n).spanOf span).walkerRetries = n :=
  congrArg Span.walkerRetries (State.setSpan_spanOf_self ..)

end

/-- Settles O43: each row is its function's equation in the case at hand, and what a count, a record or a halt leaves alone. -/
theorem scrubbingAndLockstep : Obligations.ScrubbingAndLockstep := by
  refine ⟨fun crew line errors syn s h => congrArg Host.Outcome.next (State.scrub_of_not_mayScrub _ _ _ h), fun crew line syn s h =>
    ⟨congrArg Host.Outcome.next (State.scrub_clean _ _ h), s.scrubLine_single crew line syn h, s.scrubLine_double crew line syn h⟩,
    fun s h => congrArg Host.Outcome.next (State.coxMismatchStep_failed h), fun s => State.coxLockstepMismatch_repeats,
    fun s => State.coxLockstepMismatch_fails, fun n s c ho hr => ⟨fun hn => ?_, fun ⟨hb, hz⟩ hn => ?_⟩⟩
  · have hcount : s.walkerMismatches n.val =
        if (s.spanOf n.val).walkerRetries = 1 ∧ s.spanBeat n.val ≤ (s.spanOf n.val).walkerBeat + 16 then 2 else 1 := by
      simp only [State.walkerMismatches, Bool.and_eq_true, decide_eq_true_eq]
      split <;> split <;> omega
    refine ⟨_, congrArg Host.Outcome.next (State.walkerMismatch_repeats ho (by rw [hcount]; split <;> decide)), State.absorb_mem ..,
      State.absorb_ctx .., State.absorb_seq .., ?_⟩
    rw [State.absorb_spanOf, State.setRetries_retries, hcount]
  · have hcount : 3 ≤ s.walkerMismatches n.val := by
      simp only [State.walkerMismatches, Bool.and_eq_true, decide_eq_true_eq]
      rw [if_pos ⟨hb, hz⟩]
      omega
    have hhalts := (s.setRetries n.val 0).raiseBare_halts { walkerCause n.val with code := 0x0A07 } (c := c) hr
    refine ⟨_, congrArg Host.Outcome.next (State.walkerMismatch_halts ho hcount), State.raiseBare_mem .., ?_, ?_, ?_⟩
    · rw [State.spanOf, State.raiseBare_spans]; exact State.setRetries_retries ..
    · rw [State.raiseBare_ring]; rfl
    · rw [hhalts, State.setCtx_ctxOf_self]
      exact ⟨_, rfl, rfl⟩

/-! ## O46: a halt settles and is reported -/

/-! ### What settling leaves alone -/

theorem Ctx.changeDescs_halt (x : Ctx) (beat : Nat) (l : Table (BitVec 1024)) : (x.changeDescs beat l).halt = x.halt := by
  unfold Ctx.changeDescs
  split <;> rfl

theorem Ctx.loadDescs_halt (x : Ctx) (beat : Nat) (l : List Store) : (x.loadDescs beat l).halt = x.halt := Ctx.changeDescs_halt ..

/-- `t` keeps what the settling of context `c` decides nothing of: the shared cache, the administration, the fault ring, cores and crews, the
other contexts, and of `c` itself its streams and its halt. -/
structure State.Spares (s t : State) (c : Fin 4) : Prop where
  mem : t.mem = s.mem
  admin : t.admin = s.admin
  ring : t.ring = s.ring
  cores : t.cores = s.cores
  crews : t.crews = s.crews
  others : ∀ d, d ≠ c → t.ctxOf d = s.ctxOf d
  stream : ∀ e, (t.ctxOf c).stream e = (s.ctxOf c).stream e
  halt : (t.ctxOf c).halt = (s.ctxOf c).halt

namespace State.Spares

variable {s t u : State} {c : Fin 4}

theorem refl (s : State) (c : Fin 4) : s.Spares s c := ⟨rfl, rfl, rfl, rfl, rfl, fun _ _ => rfl, fun _ => rfl, rfl⟩

theorem trans (h : s.Spares t c) (k : t.Spares u c) : s.Spares u c :=
  ⟨k.mem.trans h.mem, k.admin.trans h.admin, k.ring.trans h.ring, k.cores.trans h.cores, k.crews.trans h.crews,
    fun d hd => (k.others d hd).trans (h.others d hd), fun e => (k.stream e).trans (h.stream e), k.halt.trans h.halt⟩

theorem foldl {α : Type} {f : State → α → State} (h : ∀ (s : State) a, s.Spares (f s a) c) (l : List α) (s : State) : s.Spares (l.foldl f s) c :=
  List.foldlRecOn (motive := fun t => s.Spares t c) l f (refl s c) fun t ht a _ => ht.trans (h t a)

theorem setCtx {x : Ctx} (hs : ∀ e, x.stream e = (s.ctxOf c).stream e) (hh : x.halt = (s.ctxOf c).halt) : s.Spares (s.setCtx c x) c :=
  ⟨rfl, rfl, rfl, rfl, rfl, fun _ hd => s.setCtx_ctxOf_ne x hd, fun e => by rw [State.setCtx_ctxOf_self, hs], by rw [State.setCtx_ctxOf_self, hh]⟩

theorem setSpan (s : State) (c : Fin 4) (n : Nat) (x : Span) : s.Spares
    (s.setSpan n x) c := ⟨rfl, rfl, rfl, rfl, rfl, fun _ _ => rfl, fun _ => rfl, rfl⟩

theorem setGlob (s : State) (c : Fin 4) (g : Global) : s.Spares (s.setGlob g) c := ⟨rfl, rfl, rfl, rfl, rfl, fun _ _ => rfl, fun _ => rfl, rfl⟩

theorem finishLoad (s : State) (c : Fin 4) (m : MacroRun) : s.Spares (s.finishLoad c m) c := by
  unfold State.finishLoad; dsimp only
  split
  · exact refl s c
  · split
    · exact refl s c
    · exact setCtx (fun e => Ctx.loadDescs_stream ..) (Ctx.loadDescs_halt ..)

theorem wasBusy (s : State) (c d : Fin 4) : s.Spares (s.wasBusy d) c := foldl (fun t n => setSpan t c n _) _ s

theorem dropWrites (s : State) (c : Fin 4) (gone : PierWrite → Bool) : s.Spares (s.dropWrites gone) c :=
  foldl (fun t n => by dsimp only; split; exacts [setSpan t c n _, refl t c]) _ s

theorem sendBytes (s : State) (c : Fin 4) (execute : Bool) (index tile addr : Nat) (bytes : List Byte) :
    s.Spares (s.sendBytes c execute index tile addr bytes) c := by
  unfold State.sendBytes
  split
  · exact refl s c
  · exact setSpan ..

theorem flushTrace (s : State) (c : Fin 4) : s.Spares (s.flushTrace c) c :=
  (setCtx (x := { s.ctxOf c with gathered := [] }) (fun e => by cases e <;> rfl) rfl).trans (foldl (fun t _ => sendBytes t ..) _ _)

theorem trace (s : State) (c : Fin 4) (m : MacroRun) (halted : Bool) : s.Spares (s.trace c m halted) c := by
  have hgather (g) : s.Spares (s.setCtx c { s.ctxOf c with gathered := g }) c := setCtx (fun e => by cases e <;> rfl) rfl
  unfold State.trace; dsimp only
  split
  · split
    · exact (hgather _).trans (flushTrace ..)
    · exact hgather _
  · exact refl s c

theorem sendControl (s : State) (c : Fin 4) (ch kind round row edge : Nat) (w : Word) (port : Nat) :
    s.Spares (s.sendControl c ch kind round row edge w port) c :=
  (setCtx (x := (s.ctxOf c).setChannel ch _) (fun e => by cases e <;> rfl) rfl).trans (foldl (fun t _ => setGlob t c _) _ _)

theorem abortRounds (s : State) (c : Fin 4) (code : Nat) (but : Option (Nat × Nat)) : s.Spares (s.abortRounds c code but) c :=
  foldl (fun t _ => foldl (fun t _ => foldl (fun t _ => sendControl t ..) _ t) _ t) _ s

end State.Spares

/-! ### What a settled macro and a settled crew hold -/

/-- A tile at a halt: what has been committed or dropped, or has been sent, stays; any other is dropped. -/
def TileRun.settle (r : TileRun) (sent : Bool) : TileRun :=
  match r.status with
  | .committed | .dropped => r
  | _ => if sent then r else { r with status := .dropped, out := none }

theorem MacroRun.settle_tiles (m : MacroRun) (sent : Nat → Bool) (k : Nat) :
    (m.settle sent).tiles.find k = (m.tiles.find k).map fun r => r.settle (sent k) := by
  rw [← Table.find_map_key (fun j r => TileRun.settle r (sent j))]
  refine congrArg (Table.find k) (List.map_congr_left fun e _ => ?_)
  unfold TileRun.settle
  cases e.2.status <;> dsimp only <;> split <;> rfl

theorem State.hasSent_out {s : State} {c : Fin 4} {e : Bool} {m : MacroRun} {t : Nat} (h : s.hasSent c e m t = true) :
    (m.tileAt t).out.isSome = true := by
  unfold State.hasSent at h
  dsimp only at h
  split at h
  · cases h
  · next ho => rw [ho]; rfl

/-- The tiles of a settled macro have sent their outputs, or are committed or dropped. -/
theorem MacroRun.settle_tile {s : State} {c : Fin 4} {e : Bool} {m : MacroRun} {k : Nat} {r : TileRun}
    (h : (m.settle (s.hasSent c e m)).tiles.find k = some r) : r.out.isSome = true ∨ r.status = .committed ∨ r.status = .dropped := by
  rw [MacroRun.settle_tiles, Option.map_eq_some_iff] at h
  obtain ⟨u, hu, rfl⟩ := h
  unfold TileRun.settle
  split
  · next hs => exact .inr (.inl hs)
  · next hs => exact .inr (.inr hs)
  · split
    · next hs =>
      have hat : m.tileAt k = u := by rw [MacroRun.tileAt, Table.get, hu]; rfl
      exact .inl (hat ▸ State.hasSent_out hs)
    · exact .inr (.inr rfl)

/-- Crews settled one after another. -/
def settleCrews (c : Fin 4) (l : List Nat) (t : Table Crew) : Table Crew :=
  l.foldl (fun t k => Table.set k ((Table.get t k ({} : Crew)).settle c) t) t

theorem settleCrews_get {c : Fin 4} {k : Nat} {l : List Nat} {t : Table Crew} (h : k ∈ l ∨ ∃ y : Crew, t.get k {} = y.settle c) :
    ∃ y : Crew, (settleCrews c l t).get k {} = y.settle c := by
  induction l generalizing t with
  | nil => exact h.resolve_left (by simp)
  | cons j l ih =>
    refine ih ?_
    by_cases hk : k = j
    · subst hk
      exact .inr ⟨_, Table.get_set_self ..⟩
    · rw [Table.get_set_ne _ _ _ hk]
      exact h.imp_left fun hm => (List.mem_cons.1 hm).resolve_left hk

/-- Nothing of the context waits on a settled crew. -/
theorem Crew.settle_spec (y : Crew) (c : Fin 4) : (y.settle c).parked = 0 ∧ (y.settle c).cmds = [] ∧
    (∀ e ∈ (y.settle c).banks, e.2.ctx ≠ c.val) ∧ ∀ w ∈ (y.settle c).waiting, w.ctx ≠ c.val :=
  ⟨rfl, rfl, fun _ he => of_decide_eq_true (List.mem_filter.1 he).2, fun _ hw => of_decide_eq_true (List.mem_filter.1 hw).2⟩

/-! ### The steps of CONTEXT_HALT (R475) -/

/-- The loads of descriptors that a halt completes. -/
def State.loadsFinished (s : State) (c : Fin 4) : State := (s.ctxOf c).access.inflight.foldl (fun u m => u.finishLoad c m) s

/-- The cores with what a halt leaves on them. -/
def State.settledCores (s : State) (c : Fin 4) : Table Core := s.cores.map fun e => (e.1, s.settleCore c e.2)

/-- A write that commits at a halt: of the trace, or of a tile that has sent its outputs. -/
def State.commits (s : State) (c : Fin 4) (w : PierWrite) : Bool :=
  w.tile = traceTile || match s.heldTile (c.val, w.execute, w.index, w.tile) with
    | some (_, _, m, _, _) => s.hasSent c w.execute m w.tile
    | none => false

/-- Cores and piers freed of what does not commit. -/
def State.freed (s : State) (c : Fin 4) : State :=
  ({ s.wasBusy c with cores := s.settledCores c } : State).dropWrites fun w => w.ctx = some c.val && !s.commits c w

/-- Lane swaps that waited for a freed core are applied. -/
def State.swapped (s : State) (c : Fin 4) : State :=
  (((s.settledCores c).filter fun e => e.2.dueSwaps ≠ []).map Prod.fst).foldl State.swapDue (s.freed c)

/-- A context at its halt. -/
def Ctx.settleHalt (x : Ctx) (h : Halting) (sent : Bool → MacroRun → Nat → Bool) : Ctx :=
  { x with access := x.access.settle (sent false), exec := x.exec.settle (sent true), halt := some { h with settled := true } }

/-- Cores, piers, crews and the context itself, settled. -/
def State.settled (s : State) (c : Fin 4) (h : Halting) : State :=
  ({ s.swapped c with crews := settleCrews c (crewsOf ((s.swapped c).adminOf c).owned) (s.swapped c).crews } : State).setCtx c
    (((s.swapped c).ctxOf c).settleHalt h (s.hasSent c))

section
variable {s : State} {c : Fin 4} {h : Halting}

theorem State.settleHalt_eq (hh : (s.ctxOf c).halt = some h) (hl : (s.adminOf c).state = .live) (hs : h.settled = false) :
    ∃ runs : List MacroRun, s.settleHalt c =
      ((runs.foldl (fun u m => u.trace c m true) ((s.loadsFinished c).settled c h)).flushTrace c).abortRounds c h.code none := by
  rw [State.settleHalt, hh]
  dsimp only
  rw [if_neg (by simp [hl, hs])]
  exact ⟨_, rfl⟩

end

section
variable (s : State) (c : Fin 4) (h : Halting)

theorem State.loadsFinished_spares : s.Spares (s.loadsFinished c) c := State.Spares.foldl (fun u m => .finishLoad u c m) _ s

theorem State.swapped_outer : (s.swapped c).outer = s.outer := by
  rw [State.swapped, State.foldl_outer State.swapDue_outer, State.freed, State.dropWrites_outer]
  exact s.wasBusy_outer c

theorem State.swapped_mem : (s.swapped c).mem = s.mem := congrArg (fun o => o.1) (s.swapped_outer c)
theorem State.swapped_admin : (s.swapped c).admin = s.admin := congrArg (fun o => o.2.1) (s.swapped_outer c)
theorem State.swapped_ctxOf (d : Fin 4) : (s.swapped c).ctxOf d = s.ctxOf d := by
  have hctx : (s.swapped c).ctx = s.ctx := congrArg (fun o => o.2.2) (s.swapped_outer c)
  rw [State.ctxOf, hctx, State.ctxOf]

theorem State.freed_ring : (s.freed c).ring = s.ring := (State.Spares.dropWrites _ c _).ring.trans (State.Spares.wasBusy s c c).ring

/-- Where no lane swap waits, settling writes no record. -/
theorem State.swapped_ring (hd : ∀ e ∈ s.cores, e.2.dueSwaps = []) : (s.swapped c).ring = s.ring := by
  have hnone : (s.settledCores c).filter (fun e => e.2.dueSwaps ≠ []) = [] := by
    refine List.filter_eq_nil_iff.2 fun e he => ?_
    obtain ⟨k, hk, rfl⟩ := List.mem_map.1 he
    have hk' : (s.settleCore c k.2).dueSwaps = [] := hd k hk
    simp [hk']
  rw [State.swapped, hnone, List.map_nil, List.foldl_nil]
  exact s.freed_ring c

theorem State.settled_stream (e : Bool) : ((s.settled c h).ctxOf c).stream e = ((s.ctxOf c).stream e).settle (s.hasSent c e) := by
  rw [State.settled, State.setCtx_ctxOf_self, State.swapped_ctxOf]
  cases e <;> rfl

end

/-- What a halt that is settled leaves of its context (R475). -/
theorem State.contextHalt_settles {s : State} {c : Fin 4} {h : Halting} (hh : (s.ctxOf c).halt = some h) (hl : (s.adminOf c).state = .live)
    (hs : h.settled = false) :
    ∃ t, exec (.contextHalt c) s = .next t ∧ t.mem = s.mem ∧ t.admin = s.admin ∧ ((∀ e ∈ s.cores, e.2.dueSwaps = []) → t.ring = s.ring) ∧
      (t.ctxOf c).halt = some { h with settled := true } ∧ (∀ d, d ≠ c → t.ctxOf d = s.ctxOf d) ∧
      (∀ x i m, s.runAt c x i = some m → ∃ m', t.runAt c x i = some m' ∧ m'.replay = [] ∧
        ∀ k r, m'.tiles.find k = some r → r.out.isSome = true ∨ r.status = .committed ∨ r.status = .dropped) ∧
      (∀ k, k / 16 < 16 → (s.adminOf c).owned.getLsbD (k / 16) = true → (t.crewOf k).parked = 0 ∧
        (t.crewOf k).cmds = [] ∧ (∀ e ∈ (t.crewOf k).banks, e.2.ctx ≠ c.val) ∧ ∀ w ∈ (t.crewOf k).waiting, w.ctx ≠ c.val) := by
  obtain ⟨runs, he⟩ := State.settleHalt_eq hh hl hs
  have hload := s.loadsFinished_spares c
  generalize s.loadsFinished c = u at he hload
  have hsend : (u.settled c h).Spares (((runs.foldl (fun u m => u.trace c m true) (u.settled c h)).flushTrace c).abortRounds c h.code none) c :=
    (State.Spares.foldl (fun t m => .trace t c m true) runs _).trans ((State.Spares.flushTrace _ c).trans (.abortRounds _ c h.code none))
  refine ⟨_, congrArg Host.Outcome.next he, hsend.mem.trans ((u.swapped_mem c).trans hload.mem), hsend.admin.trans
  ((u.swapped_admin c).trans hload.admin),
    fun hd => hsend.ring.trans ((u.swapped_ring c
    (by rwa [hload.cores])).trans hload.ring), ?_, fun d hd => ?_, fun x i m hm => ?_, fun k hk ho => ?_⟩
  · rw [hsend.halt, State.settled, State.setCtx_ctxOf_self]
    rfl
  · rw [hsend.others d hd, State.settled, State.setCtx_ctxOf_ne _ _ hd, ← hload.others d hd]
    exact u.swapped_ctxOf c d
  · refine ⟨m.settle (u.hasSent c x m), ?_, rfl, fun k r hr => MacroRun.settle_tile hr⟩
    rw [State.runAt, hsend.stream, State.settled_stream, hload.stream]
    rw [State.runAt] at hm
    rw [Stream.settle, List.getElem?_map, hm]
    rfl
  · have hmask : ((u.swapped c).adminOf c).owned = (s.adminOf c).owned := by
      rw [State.adminOf, u.swapped_admin, hload.admin, State.adminOf]
    obtain ⟨y, hy⟩ := settleCrews_get (c := c) (t := (u.swapped c).crews) (.inl (mem_crewsOf hk ho))
    rw [← hmask] at hy
    rw [State.crewOf, hsend.crews, State.settled, State.setCtx_crews, hy]
    exact y.settle_spec c

/-! ### CONTEXT_HALTED (R477) -/

/-- A context that has halted, with its record. -/
def Ctx.enterHalted (x : Ctx) (h : Halting) (r : BitVec 512) : Ctx :=
  { x with halt := none, haltCode := BitVec.ofNat 16 h.code, haltRec := r
           access := { x.access with inflight := [] }, exec := { x.exec with inflight := [] }
           channels := x.channels.map fun e => (e.1, { e.2 with live := [], rows := [] }) }

/-- The record of a halt written, its context at rest. -/
def State.reported (s : State) (c : Fin 4) (h : Halting) : State :=
  let u := (s.ringWrite h.record).setCtx c ((s.ctxOf c).enterHalted h (withSeq h.record s.ring.seq))
  { u with crews := u.crews.map fun e => (e.1, { e.2 with started := e.2.started.filter fun r => r.ctx ≠ c.val }) }

/-- HALTED, in which the channel writes that waited for idle channels are served. -/
def State.toHalted (s : State) (c : Fin 4) : State := ((s.setAdmin c { s.adminOf c with state := .halted }).writeCaps).serveVia c

theorem State.enterHalted_eq {s : State} {c : Fin 4} {h : Halting} (hh : (s.ctxOf c).halt = some h) (hl : (s.adminOf c).state = .live)
    (hs : h.settled = true) (hall : s.settledAll c = true) :
    let u := (s.reported c h).toHalted c
    s.enterHalted c = (u.setGlob { u.glob with halted := putBit u.glob.halted c.val true }).setsBit (8 + c.val) := by
  have hsent : s.ownWrites c traceTile = [] := by
    simp only [State.settledAll, Bool.and_eq_true, List.isEmpty_iff] at hall
    exact hall.2
  rw [State.enterHalted, State.acceptTrace_of_nil hsent]
  dsimp only
  rw [hh]
  dsimp only
  rw [if_neg (by simp [hs, hl, hall])]
  simp only [State.ringWrite_ctxOf]
  rfl

section
variable (s : State) (c : Fin 4)

theorem State.toHalted_rest : (s.toHalted c).mem = s.mem ∧ (s.toHalted c).ring = s.ring ∧ (s.toHalted c).glob = s.glob := by
  have hcaps := ((s.setAdmin c { s.adminOf c with state := .halted }).writeCaps_onlyCaps).1
  rw [State.toHalted, State.serveVia, hcaps]
  exact ⟨rfl, rfl, rfl⟩

theorem State.toHalted_state : ((s.toHalted c).adminOf c).state = .halted := by
  rw [State.adminOf, State.toHalted, State.serveVia_admin, State.writeCaps_admin, ← State.adminOf, State.setAdmin_adminOf_self]

theorem State.toHalted_serves : (s.ctxOf c).Serves ((s.toHalted c).ctxOf c) := by
  have hcaps := ((s.setAdmin c { s.adminOf c with state := .halted }).writeCaps_onlyCaps).1
  rw [State.toHalted, State.serveVia, State.setCtx_ctxOf_self, hcaps]
  exact .settleAllVia ..

end

theorem State.contextHalted_reports {s : State} {c : Fin 4} {h : Halting} (hh : (s.ctxOf c).halt = some h) (hl : (s.adminOf c).state = .live)
    (hs : h.settled = true) (hall : s.settledAll c = true) :
    ∃ t, exec (.contextHalted c) s = .next t ∧ t.mem = s.mem ∧ (t.adminOf c).state = .halted ∧ (t.ctxOf c).halt = none ∧
      (t.ctxOf c).haltCode = BitVec.ofNat 16 h.code ∧ (t.ctxOf c).haltRec = withSeq h.record s.ring.seq ∧
      t.ring.records.get s.ring.wr.toNat 0 = withSeq h.record s.ring.seq ∧ t.ring.seq = s.ring.seq + 1 ∧ t.glob.faultIrq = true ∧
      t.glob.halted.getLsbD c.val = true ∧ (t.ctxOf c).access.inflight = [] ∧ (t.ctxOf c).exec.inflight = [] := by
  have he := State.enterHalted_eq hh hl hs hall
  have hring : (s.reported c h).ring = s.ring.push h.record := s.ringWrite_ring h.record
  have hmem : (s.reported c h).mem = s.mem := s.ringWrite_mem h.record
  have hirq : (s.reported c h).glob.faultIrq = true := by
    rw [show (s.reported c h).glob = (s.ringWrite h.record).glob from rfl, State.ringWrite_glob]
  have hctx : (s.reported c h).ctxOf c = (s.ctxOf c).enterHalted h (withSeq h.record s.ring.seq) := State.setCtx_ctxOf_self ..
  generalize s.reported c h = u at he hring hmem hirq hctx
  obtain ⟨humem, huring, huglob⟩ := u.toHalted_rest c
  have hstate := u.toHalted_state c
  obtain ⟨tbl, l, mode, p, hx⟩ := u.toHalted_serves c
  rw [hctx] at hx
  dsimp only at he
  generalize u.toHalted c = v at he humem huring huglob hstate hx
  exact ⟨_, congrArg Host.Outcome.next he, humem.trans hmem, hstate, congrArg Ctx.halt hx, congrArg Ctx.haltCode hx, congrArg Ctx.haltRec hx,
    (congrArg (fun f : FaultRing => f.records.get s.ring.wr.toNat 0) (huring.trans hring)).trans (FaultRing.push_get ..),
    (congrArg FaultRing.seq (huring.trans hring)).trans (FaultRing.push_seq ..), (congrArg Global.faultIrq huglob).trans hirq,
    putBit_getLsbD _ (by omega), congrArg (fun x : Ctx => x.access.inflight) hx, congrArg (fun x : Ctx => x.exec.inflight) hx⟩

/-- Settles O46: the three steps of a halt, by `State.contextHalt_settles`, `State.contextHalted_reports` and `State.raiseBare_halts`. -/
theorem haltsSettleAndAreReported : Obligations.HaltsSettleAndAreReported := by
  refine fun c s => ⟨fun h hh hl hs => State.contextHalt_settles hh hl hs, fun h hh hl hs hall => State.contextHalted_reports hh hl hs hall,
    fun hr hd ha hx => ?_⟩
  have hquiet : (s.inBeat c && (s.adminOf c).drain && (s.ctxOf c).quiet) = true := by
    simp [State.runs_inBeat hr, hd, Ctx.quiet, ha, hx]
  exact ⟨_, _, congrArg Host.Outcome.next (if_pos hquiet), s.raiseBare_halts { code := 0x0902 } hr, rfl⟩

/-! ## O44: storage errors of bundles -/

/-! ### The read of a queue entry (R487, R488) -/

section
variable {s : State} {c : Fin 4} {x : Bool} {e : Entry} {es : List Entry} {n : Nat}

/-- The bundle that a second read of an entry finds (R488). -/
def State.readAgain (s : State) (e : Entry) : Bundle := if bit e.addr 63 then e.bits else bundleAt s.mem e.addr.toNat

/-- An entry whose bundle has been read again. -/
def State.reread (s : State) (x : Ctx) (e : Entry) : Entry :=
  if bit e.addr 63 then e else
    { e with bits := s.readAgain e, tag := (s.readAgain e).tag, isCall := (s.readAgain e).isCall
             bad := if s.readAgain e = e.bits then e.bad else checkBundle x (s.readAgain e) e.depth }

theorem State.readEntry_single (hq : ((s.ctxOf c).stream x).queue = e :: es) (hn : s.lowestSpan c = some n) :
    s.readEntry c x 1 = s.corrected n c.val 6 0xFFFF e.addr.toNat := by
  simp only [State.readEntry, hq, hn]

theorem State.readEntry_double (hq : ((s.ctxOf c).stream x).queue = e :: es) (hn : s.lowestSpan c = some n) :
    ∃ q : Cause, q.code = 0x0A8A ∧ s.readEntry c x 2 = ((s.countUncorr n).setCtx c ((s.ctxOf c).setStream x
      { (s.ctxOf c).stream x with queue := s.reread (s.ctxOf c) e :: es })).absorb c.val q := by
  refine ⟨{ code := 0x0A8A, tag := e.tag, addr := e.addr, detail := hwDetail 6 n 0xFFFF 0 e.addr.toNat }, rfl, ?_⟩
  simp only [State.readEntry, State.refetch, hq, hn]
  rfl

theorem State.readEntry_none (s : State) (c : Fin 4) (x : Bool) : s.readEntry c x 0 = s := rfl

/-- A bundle issues as its entry has been read. -/
theorem State.bundleIssue_of_read {errors : Fin 3} {u : State} (h : s.readEntry c x errors = u) :
    exec (.bundleIssue c x errors) s = exec (.bundleIssue c x 0) u := by
  have hexec (v : State) (k : Fin 3) : exec (.bundleIssue c x k) v = .next ((v.readEntry c x k).issue c x) := rfl
  rw [hexec, hexec, State.readEntry_none, h]

/-- A corrected error of an entry leaves the bundle to issue as ever. -/
theorem State.bundleIssue_single (hq : ((s.ctxOf c).stream x).queue = e :: es) (hn : s.lowestSpan c = some n) :
    ∃ u, exec (.bundleIssue c x 1) s = exec (.bundleIssue c x 0) u ∧
      (u.mem = s.mem ∧ u.admin = s.admin ∧ u.time = s.time ∧ ∀ d, d ≠ c → u.ctxOf d = s.ctxOf d) ∧ u.ctx = s.ctx ∧
      (u.spanOf n).corrected = satAdd (s.spanOf n).corrected 1 ∧
      u.ring.seq = (if (s.spanOf n).correctedNoted then s.ring.seq else s.ring.seq + 1) := by
  have hctx : (s.corrected n c.val 6 0xFFFF e.addr.toNat).ctx = s.ctx := State.noteCorrected_ctx ..
  refine ⟨s.corrected n c.val 6 0xFFFF e.addr.toNat, State.bundleIssue_of_read (State.readEntry_single hq hn),
    ⟨State.noteCorrected_mem .., State.noteCorrected_admin .., State.noteCorrected_time .., fun d _ => ?_⟩, hctx, ?_, State.noteCorrected_seq ..⟩
  · rw [State.ctxOf, hctx, State.ctxOf]
  · exact congrArg Span.corrected (State.noteCorrected_spanOf ..)

theorem State.reread_of_routine (y : Ctx) (h : e.addr.getLsbD 63 = true) : s.reread y e = e := if_pos h

theorem State.reread_of_list (y : Ctx) (h : e.addr.getLsbD 63 = false) :
    (s.reread y e).bits = bundleAt s.mem e.addr.toNat ∧ (s.reread y e).tag = Bundle.tag (bundleAt s.mem e.addr.toNat) ∧
      (s.reread y e).addr = e.addr ∧ (s.reread y e).index = e.index ∧
      (bundleAt s.mem e.addr.toNat = e.bits → (s.reread y e).bad = e.bad) := by
  have hne : ¬ bit e.addr 63 = true := fun hb => Bool.false_ne_true (h.symm.trans hb)
  have hagain : s.readAgain e = bundleAt s.mem e.addr.toNat := by rw [State.readAgain, if_neg hne]
  rw [State.reread, if_neg hne, hagain]
  exact ⟨rfl, rfl, rfl, rfl, fun hs => by dsimp only; rw [if_pos hs]⟩

/-- A double-bit error of an entry has its bundle read again before it issues. -/
theorem State.bundleIssue_double (hq : ((s.ctxOf c).stream x).queue = e :: es) (hn : s.lowestSpan c = some n) :
    ∃ u e2, exec (.bundleIssue c x 2) s = exec (.bundleIssue c x 0) u ∧
      (u.mem = s.mem ∧ u.admin = s.admin ∧ u.time = s.time ∧ ∀ d, d ≠ c → u.ctxOf d = s.ctxOf d) ∧
      u.ctxOf c = (s.ctxOf c).setStream x { (s.ctxOf c).stream x with queue := e2 :: es } ∧
      (u.spanOf n).uncorr = satAdd (s.spanOf n).uncorr 1 ∧ u.ring.seq = s.ring.seq + 1 ∧
      field (u.ring.records.get s.ring.wr.toNat 0) 0 16 = 0x0A8A ∧
      (e.addr.getLsbD 63 = true → e2 = e) ∧ (e.addr.getLsbD 63 = false → e2.bits = bundleAt s.mem e.addr.toNat ∧
        e2.tag = Bundle.tag (bundleAt s.mem e.addr.toNat) ∧ e2.addr = e.addr ∧ e2.index = e.index ∧
        (bundleAt s.mem e.addr.toNat = e.bits → e2.bad = e.bad)) := by
  obtain ⟨q, hcode, he⟩ := State.readEntry_double hq hn
  generalize hv : (s.countUncorr n).setCtx c ((s.ctxOf c).setStream x
    { (s.ctxOf c).stream x with queue := s.reread (s.ctxOf c) e :: es }) = v at he
  have hring : v.ring = s.ring := by rw [← hv]; rfl
  refine ⟨v.absorb c.val q, s.reread (s.ctxOf c) e, State.bundleIssue_of_read he, ⟨?_, ?_, ?_, fun d hd => ?_⟩,
    ?_, ?_, ?_, ?_, State.reread_of_routine _, State.reread_of_list _⟩
  · rw [State.absorb_mem, ← hv]; rfl
  · rw [State.absorb_admin, ← hv]; rfl
  · rw [State.absorb_time, ← hv]; rfl
  · rw [State.absorb_ctxOf, ← hv]; exact State.setCtx_ctxOf_ne _ _ hd
  · rw [State.absorb_ctxOf, ← hv, State.setCtx_ctxOf_self]
  · rw [State.absorb_spanOf, ← hv]; exact congrArg Span.uncorr (State.setSpan_spanOf_self ..)
  · rw [State.absorb_seq, hring]
  · rw [← hring, State.absorb_code _ _ _ (by rw [hcode]; decide), hcode]

end

/-! ### The library read of a routine's bundle (R526) -/

/-- What a row that reads a routine's bundle leaves, where it leaves `t` when the read meets nothing: a corrected error adds its record, a
double-bit error met once adds nothing, and one met twice halts the context. -/
structure State.LibraryReads (s : State) (c : Fin 4) (read : Fin 4 → Instr) (t : State) : Prop where
  single : ∃ u, exec (read 1) s = .next u ∧ u.ctx = t.ctx ∧ u.mem = t.mem ∧ u.ring.seq = s.ring.seq + 1 ∧
    field (u.ring.records.get s.ring.wr.toNat 0) 0 16 = 0x0A81
  once : exec (read 2) s = .next t
  twice : ∃ u h, exec (read 3) s = .next u ∧ (u.ctxOf c).halt = some h ∧ h.code = 0x0B03 ∧ field h.record 16 3 = 7 ∧ h.beat = s.time.beat ∧
    u.mem = s.mem ∧ u.ring = s.ring ∧ ∀ d, d ≠ c → u.ctxOf d = s.ctxOf d

section
variable (s : State) (c : Fin 4) (f : Frame) (depth offset : Nat)

theorem State.libraryRead_single : ∃ q : Cause, q.code = 0x0A81 ∧
    s.libraryRead c f depth offset 1 = (s.takeFree.2.takeFree.2.absorb c.val q, false) := ⟨_, rfl, rfl⟩

theorem State.libraryRead_once : s.libraryRead c f depth offset 2 = (s, false) := rfl

theorem State.libraryRead_twice : ∃ q : Cause, (q.code = 0x0B03 ∧ q.slot = 7) ∧
    s.libraryRead c f depth offset 3 = (s.raise c q, true) := ⟨_, ⟨rfl, rfl⟩, rfl⟩

end

section
variable {s : State} {c : Fin 4}

/-- The record of a library read that was corrected. -/
theorem State.corrected_record {q : Cause} (h : q.code = 0x0A81) :
    (s.takeFree.2.takeFree.2.absorb c.val q).ring.seq = s.ring.seq + 1 ∧
      field ((s.takeFree.2.takeFree.2.absorb c.val q).ring.records.get s.ring.wr.toNat 0) 0 16 = 0x0A81 :=
  ⟨State.absorb_seq .., (State.absorb_code s.takeFree.2.takeFree.2 c.val q (by rw [h]; decide)).trans h⟩

/-- A library read that met an error twice halts a context that runs. -/
theorem State.raise_library {q : Cause} (hcode : q.code = 0x0B03) (hslot : q.slot = 7) (hr : s.runs c = true) :
    ∃ h, ((s.raise c q).ctxOf c).halt = some h ∧ h.code = 0x0B03 ∧ field h.record 16 3 = 7 ∧ h.beat = s.time.beat := by
  have hhalts := s.raise_halts q hr
  rw [hhalts, State.setCtx_ctxOf_self]
  exact ⟨_, rfl, hcode, (s.field_record_slot c.val true q (by omega) (by omega)).trans hslot, rfl⟩

theorem Ctx.enqueue_frames (x : Ctx) (e : Entry) : (x.enqueue e).frames = x.frames := by rw [Ctx.enqueue_eq]

theorem Ctx.enqueue_halt (x : Ctx) (e : Entry) : (x.enqueue e).halt = x.halt := by rw [Ctx.enqueue_eq]

/-- A context whose CALL has pushed its frame. -/
def Ctx.called (x : Ctx) (f : Frame) (e : Entry) : Ctx :=
  let b : Bundle := e.bits
  ({ x with callDue := none, frames := f :: x.frames } : Ctx).enqueue
    { e with acts := e.acts ++ [.save (b.scalarArgs.take b.ns)] ++ (if f.pos ≥ f.length then [.restore] else []) }

theorem Ctx.called_halt (x : Ctx) (f : Frame) (e : Entry) : (x.called f e).halt = x.halt := Ctx.enqueue_halt ..

theorem State.callFetch_of_good {x : Ctx} {e : Entry} (errors : Fin 4) (h : s.callBad x e = none) :
    s.callFetch c x e errors = ((s.setCtx c (x.called (s.callFrame x e) e)).libraryRead c (s.callFrame x e) (x.activeFrames + 1)
      ((s.callFrame x e).offset + 64 * (s.callFrame x e).pos) errors).1 := by
  rw [State.callFetch, h]
  rfl

/-- The fetch side of a CALL that passes its checks: the read comes last. -/
theorem State.call_eq {t : State} (hr : s.runs c = true) (hc : (s.ctxOf c).callDue ≠ none) (ht : exec (.call c 0) s = .next t)
    (hf : (t.ctxOf c).frames.length = (s.ctxOf c).frames.length + 1) :
    ∃ y f depth offset, y.halt = (s.ctxOf c).halt ∧ t = s.setCtx c y ∧
      ∀ errors, exec (.call c errors) s = .next ((s.setCtx c y).libraryRead c f depth offset errors).1 := by
  obtain ⟨e, he⟩ := Option.ne_none_iff_exists'.1 hc
  have hstep (errors : Fin 4) : exec (.call c errors) s = .next (s.callFetch c (s.ctxOf c) e errors) := by
    refine congrArg Host.Outcome.next ?_
    rw [State.callStep, State.runs_inBeat hr]
    dsimp only
    rw [he]
    rfl
  obtain rfl := Host.Outcome.next.inj ((hstep 0).symm.trans ht)
  cases hbad : s.callBad (s.ctxOf c) e with
  | some bad =>
    rw [State.callFetch, hbad] at hf
    dsimp only at hf
    rw [State.setCtx_ctxOf_self, Ctx.enqueue_frames] at hf
    exact absurd hf (by simp)
  | none =>
    have hgood (errors : Fin 4) := State.callFetch_of_good (c := c) errors hbad
    exact ⟨(s.ctxOf c).called (s.callFrame (s.ctxOf c) e) e, _, _, _, Ctx.called_halt .., hgood 0,
      fun errors => (hstep errors).trans (congrArg Host.Outcome.next (hgood errors))⟩

theorem State.call_libraryReads {t : State} (hr : s.runs c = true) (hc : (s.ctxOf c).callDue ≠ none) (ht : exec (.call c 0) s = .next t)
    (hf : (t.ctxOf c).frames.length = (s.ctxOf c).frames.length + 1) : s.LibraryReads c (.call c ·) t := by
  obtain ⟨y, f, depth, offset, hhalt, rfl, hread⟩ := State.call_eq hr hc ht hf
  have hruns : (s.setCtx c y).runs c = true := by
    rw [State.runs, State.setCtx_ctxOf_self, hhalt]
    exact hr
  obtain ⟨q, hq, h1⟩ := (s.setCtx c y).libraryRead_single c f depth offset
  obtain ⟨r, ⟨hcode, hslot⟩, h3⟩ := (s.setCtx c y).libraryRead_twice c f depth offset
  obtain ⟨hseq, hrec⟩ := State.corrected_record (s := s.setCtx c y) (c := c) hq
  obtain ⟨h, hh, hcode', hslot', hbeat⟩ := State.raise_library hcode hslot hruns
  refine ⟨⟨_, (hread 1).trans (congrArg (fun p : State × Bool => Host.Outcome.next p.1) h1), State.absorb_ctx .., State.absorb_mem .., hseq, hrec⟩,
    hread 2, _, h, (hread 3).trans (congrArg (fun p : State × Bool => Host.Outcome.next p.1) h3), hh, hcode', hslot', hbeat,
    State.raise_mem .., State.raise_ring .., fun d hd => ?_⟩
  rw [State.raise_ctxOf_ne _ _ hd, State.setCtx_ctxOf_ne _ _ hd]

/-- A context that has split a bundle. -/
def Ctx.takeBundle (x : Ctx) (e : Entry) : Ctx := if e.isCall && e.bad.isNone then { x with callDue := some e } else x.enqueue e

theorem State.splitBundle_of_next {e : Entry} {y : Ctx}
    (hguard : ¬ (!s.inBeat c || (s.ctxOf c).callDue.isSome || (s.ctxOf c).access.queue.length ≥ 512 || (s.ctxOf c).exec.queue.length ≥ 512) = true)
    (h : s.nextBundle c = some (e, y)) (errors : Fin 4) :
    s.splitBundle c errors = if (s.readRoutine c errors).2 then (s.readRoutine c errors).1
      else (s.readRoutine c errors).1.setCtx c (y.takeBundle e) := by
  rw [State.splitBundle, if_neg hguard, h]
  dsimp only
  split
  · next hread => rw [hread]; rfl
  · next hread => rw [hread, Ctx.takeBundle]; split <;> rfl

/-- The split of a routine's bundle: the read comes first. -/
theorem State.split_eq {t : State} (hf : (s.ctxOf c).frames ≠ []) (ht : exec (.bundleSplit ⟨c, 0⟩) s = .next t)
    (hs : (t.ctxOf c).split = (s.ctxOf c).split + 1) :
    ∃ y f depth offset, t = s.setCtx c y ∧ ∀ errors, exec (.bundleSplit ⟨c, errors⟩) s = .next
      (if (s.libraryRead c f depth offset errors).2 then (s.libraryRead c f depth offset errors).1
        else (s.libraryRead c f depth offset errors).1.setCtx c y) := by
  obtain ⟨f, fs, hframes⟩ := List.exists_cons_of_ne_nil hf
  obtain rfl := Host.Outcome.next.inj ht
  have hread (errors : Fin 4) : s.readRoutine c errors = s.libraryRead c f (s.ctxOf c).activeFrames (f.offset + 64 * f.pos) errors := by
    rw [State.readRoutine, hframes]
  rw [State.splitBundle] at hs
  dsimp only at hs
  split at hs
  · omega
  · next hguard =>
    cases hb : s.nextBundle c with
    | none => rw [hb] at hs; dsimp only at hs; omega
    | some p =>
      obtain ⟨e, z⟩ := p
      have hsplit := State.splitBundle_of_next hguard hb
      simp only [hread] at hsplit
      exact ⟨_, f, _, _, hsplit 0, fun errors => congrArg Host.Outcome.next (hsplit errors)⟩

theorem State.split_libraryReads {t : State} (hr : s.runs c = true) (hf : (s.ctxOf c).frames ≠ []) (ht : exec (.bundleSplit ⟨c, 0⟩) s = .next t)
    (hs : (t.ctxOf c).split = (s.ctxOf c).split + 1) : s.LibraryReads c (fun e => .bundleSplit ⟨c, e⟩) t := by
  obtain ⟨y, f, depth, offset, rfl, hread⟩ := State.split_eq hf ht hs
  obtain ⟨q, hq, h1⟩ := s.libraryRead_single c f depth offset
  obtain ⟨r, ⟨hcode, hslot⟩, h3⟩ := s.libraryRead_twice c f depth offset
  obtain ⟨hseq, hrec⟩ := State.corrected_record (s := s) (c := c) hq
  obtain ⟨h, hh, hcode', hslot', hbeat⟩ := State.raise_library hcode hslot hr
  have hread1 := hread 1
  have hread2 := hread 2
  have hread3 := hread 3
  simp only [h1, Bool.false_eq_true, if_false] at hread1
  simp only [State.libraryRead_once, Bool.false_eq_true, if_false] at hread2
  simp only [h3, if_true] at hread3
  have hctx := State.absorb_ctx s.takeFree.2.takeFree.2 c.val q
  have hmem : (s.takeFree.2.takeFree.2.absorb c.val q).mem = s.mem := by rw [State.absorb_mem, State.takeFree_mem, State.takeFree_mem]
  generalize s.takeFree.2.takeFree.2.absorb c.val q = a at hread1 hseq hrec hctx hmem
  refine ⟨⟨_, hread1, congrArg (fun w : Four Ctx => w.set c y) hctx, ?_, ?_, ?_⟩, hread2, _, h, hread3, hh, hcode', hslot', hbeat,
    State.raise_mem .., State.raise_ring .., fun d hd => State.raise_ctxOf_ne _ _ hd⟩
  · rw [State.setCtx_mem, State.setCtx_mem, hmem]
  · rw [State.setCtx_ring, hseq]
  · rw [State.setCtx_ring, hrec]

end

/-- Settles O44: a queue entry by `State.bundleIssue_single` and `State.bundleIssue_double`, a routine's bundle by its library read. -/
theorem storageErrorsOfBundlesAreRecordedOrHalt : Obligations.StorageErrorsOfBundlesAreRecordedOrHalt := by
  refine ⟨fun c x s e es n hq hn => ⟨State.bundleIssue_single hq hn, State.bundleIssue_double hq hn⟩, fun c s t read hr hread => ?_⟩
  have hreads : s.LibraryReads c read t := by
    obtain ⟨rfl, hc, ht, hf⟩ | ⟨rfl, hf, ht, hs⟩ := hread
    · exact State.call_libraryReads hr hc ht hf
    · exact State.split_libraryReads hr hf ht hs
  exact ⟨hreads.single, hreads.once, hreads.twice⟩

end Sys2Proof.Machine
